-- ==== Sys2Proof/Word.lean ====
section
/-! DEFINITION. The words of the machine: bytes, 32-bit and 64-bit registers, code addresses (R4, R15, R18). -/

namespace Sys2Proof

/-- A byte of memory. -/
abbrev Byte := BitVec 8

/-- A general register `w` (R15). -/
abbrev W32 := BitVec 32

/-- A pair `x`, an address, a 64-bit special register (R16). -/
abbrev W64 := BitVec 64

/-- A code address: 57 bits of virtual address (R18). -/
abbrev Addr := BitVec 57

/-- A lane mask: bit `l` for lane `l` (R9). -/
abbrev Lanes := BitVec 32

/-- A code address as a 64-bit value. -/
abbrev Addr.w64 (a : Addr) : W64 := a.setWidth 64

/-- The low 57 bits of a 64-bit value with bits 1:0 cleared: a code address (R18). -/
def addrOf (x : W64) : Addr := (x &&& ~~~3#64).setWidth 57

end Sys2Proof
end

