-- ==== Sys2Proof/Config.lean ====
section
/-! DEFINITION. What the spec leaves open, as constants with no body: nothing can evaluate them, so whatever is proved
holds whatever they are. The numbers of the machine that the spec fixes stand here too. -/

namespace Sys2Proof.Config

/-- A value that nothing constrains, a new one for each count (log 5). -/
opaque freeValue : Nat → BitVec 64

/-- The result bits that the special-function unit would give, by function (0 `FRCP`, 1 `FRSQ`, 3 `FEX2`, 4 `FLG2`, 5 `FSIN`,
6 `FCOS`), float type and operand bits; the model takes them only within the bound of R131 (log 6). -/
opaque special : Nat → Nat → Nat → Nat

/-- Byte i of the public key of a key index, against which firmware images are checked (R433, log 7). -/
opaque firmwareKey : Nat → Nat → Byte

/-- The revision in ID (R423, log 7). -/
opaque revision : BitVec 8

/-- Byte i of the device's identity key, generated in fuses (R434, log 7). -/
opaque identityKey : Nat → Byte

/-- The fused minimum version of a firmware kind, and whether a key index is revoked in fuses (R433, log 7). -/
opaque minVersion : Nat → Nat
/-- A key index is revoked. -/
opaque keyRevoked : Nat → Bool

/-- The bytes of a die's spill area, which Foxglove owns (R390, log 65). -/
opaque spillBytes : Nat

/-- Cores of the package: 4 dies of 18 clusters of 4 cores (R301). -/
abbrev cores : Nat := 288

/-- Bytes of a line (R144). -/
abbrev line : Nat := 128

/-- Bytes of a fetch block (R295). -/
abbrev fetchBlock : Nat := 192

end Sys2Proof.Config
end

