-- ==== Sys2Proof/Machine/Float.lean ====
section
/-! DEFINITION. The float formats (R72, R73) and their arithmetic: a value is read exactly, an operation is computed
exactly, and the result is rounded once (R74 to R79). -/

namespace Sys2Proof.Machine

/-- A float format (R72). -/
structure Fmt where
  ebits : Nat
  fbits : Nat
  bias : Nat
  /-- E4M3 has no infinity (R73). -/
  e4m3 : Bool
deriving DecidableEq, Repr

/-- The format of a float TY code (R54, R72). -/
def fmtOf (ty : Nat) : Fmt :=
  match ty with
  | 0 => ⟨4, 3, 7, true⟩
  | 1 => ⟨5, 2, 15, false⟩
  | 2 => ⟨5, 10, 15, false⟩
  | 3 => ⟨8, 7, 127, false⟩
  | 4 => ⟨8, 23, 127, false⟩
  | _ => ⟨11, 52, 1023, false⟩

/-- Bits of a value of the format. -/
def Fmt.width (f : Fmt) : Nat := 1 + f.ebits + f.fbits

/-- The sign bit's weight. -/
def Fmt.signBit (f : Fmt) : Nat := 2 ^ (f.ebits + f.fbits)

/-- The pattern of +infinity (of NaN in E4M3). -/
def Fmt.infBits (f : Fmt) : Nat := (2 ^ f.ebits - 1) * 2 ^ f.fbits

/-- The pattern of the largest finite value (R72, R73). -/
def Fmt.maxBits (f : Fmt) : Nat := if f.e4m3 then 0x7E else f.infBits - 1

/-- The canonical NaN (R74). -/
def Fmt.nanBits (f : Fmt) : Nat := if f.e4m3 then 0x7F else f.infBits + 2 ^ (f.fbits - 1)

/-- An exact value: NaN, an infinity, or (−1)^neg × m × 2^e. -/
inductive FVal where
  | nan
  | inf (neg : Bool)
  | fin (neg : Bool) (m : Nat) (e : Int)
deriving DecidableEq, Repr

/-- The sign of a value. -/
def FVal.neg : FVal → Bool
  | .nan => false
  | .inf n => n
  | .fin n _ _ => n

/-- The value with its sign inverted. -/
def FVal.negate : FVal → FVal
  | .nan => .nan
  | .inf n => .inf (!n)
  | .fin n m e => .fin (!n) m e

/-- The value of a pattern (R72, R73). -/
def Fmt.value (f : Fmt) (x : Nat) : FVal :=
  let s := decide (x / f.signBit % 2 = 1)
  let mag := x % f.signBit
  let e := mag / 2 ^ f.fbits
  let fr := mag % 2 ^ f.fbits
  if f.e4m3 then
    if mag = 0x7F then .nan
    else if e = 0 then .fin s fr (1 - 7 - 3)
    else .fin s (fr + 8) ((e : Int) - 7 - 3)
  else if e = 2 ^ f.ebits - 1 then (if fr = 0 then .inf s else .nan)
  else if e = 0 then .fin s fr (1 - (f.bias : Int) - f.fbits)
  else .fin s (fr + 2 ^ f.fbits) ((e : Int) - f.bias - f.fbits)

/-- The step of rounding: does the magnitude go up, given the parity of the kept part, twice the remainder and the
divisor (R76; 0 RN, 1 RZ, 2 RU, 3 RD). -/
def roundUp (rm : Nat) (neg : Bool) (odd : Bool) (rem div : Nat) : Bool :=
  match rm with
  | 0 => div < 2 * rem || (div = 2 * rem && odd)
  | 1 => false
  | 2 => rem != 0 && !neg
  | _ => rem != 0 && neg

/-- The magnitude pattern of m × 2^e rounded to the format's grid, with no upper limit (R75, R76). -/
def Fmt.magnitude (f : Fmt) (rm : Nat) (neg : Bool) (m : Nat) (e : Int) : Nat :=
  let qmin : Int := 1 - (f.bias : Int) - f.fbits
  -- a magnitude below a quarter of the least step rounds as a quarter of it does
  let tiny : Bool := (Nat.log2 m : Int) + e + 2 < qmin
  let m := if tiny then 1 else m
  let e := if tiny then qmin - 2 else e
  let q : Int := max ((Nat.log2 m : Int) + e - f.fbits) qmin
  let n :=
    if q ≤ e then m * 2 ^ (e - q).toNat
    else
      let d := 2 ^ (q - e).toNat
      m / d + (if roundUp rm neg (decide (m / d % 2 = 1)) (m % d) d then 1 else 0)
  (q - qmin).toNat * 2 ^ f.fbits + n

/-- A sign and a magnitude pattern. -/
def Fmt.pattern (f : Fmt) (neg : Bool) (mag : Nat) : Nat := (if neg then f.signBit else 0) + mag

/-- A value that overflowed (R76 to R78). -/
def Fmt.overflow (f : Fmt) (rm : Nat) (sat neg : Bool) : Nat :=
  if sat then f.pattern neg f.maxBits
  else if f.e4m3 then f.nanBits
  else
    let toMax := match rm with
      | 0 => false
      | 1 => true
      | 2 => neg
      | _ => !neg
    f.pattern neg (if toMax then f.maxBits else f.infBits)

/-- Rounds an exact value to the format (R74 to R79). -/
def Fmt.round (f : Fmt) (rm : Nat) (sat : Bool) : FVal → Nat
  | .nan => f.nanBits
  | .inf neg => if sat then f.pattern neg f.maxBits else if f.e4m3 then f.nanBits else f.pattern neg f.infBits
  | .fin neg m e =>
    if m = 0 then f.pattern neg 0
    else
      let mag := f.magnitude rm neg m e
      if f.maxBits < mag then f.overflow rm sat neg else f.pattern neg mag

/-- m × 2^e as an integer multiple of 2^lo, lo ≤ e. -/
def scaled (neg : Bool) (m : Nat) (e lo : Int) : Int :=
  let x : Int := (m * 2 ^ (e - lo).toNat : Nat)
  if neg then -x else x

/-- The exact sum of two values (R79 for a zero sum). -/
def FVal.add (rm : Nat) : FVal → FVal → FVal
  | .nan, _ => .nan
  | _, .nan => .nan
  | .inf a, .inf b => if a = b then .inf a else .nan
  | .inf a, .fin _ _ _ => .inf a
  | .fin _ _ _, .inf b => .inf b
  | .fin na ma ea, .fin nb mb eb =>
    let lo := min ea eb
    let s := scaled na ma ea lo + scaled nb mb eb lo
    if s = 0 then .fin (if ma = 0 && mb = 0 && na == nb then na else rm == 3) 0 lo
    else .fin (decide (s < 0)) s.natAbs lo

/-- The exact product of two values (R79 for the sign). -/
def FVal.mul : FVal → FVal → FVal
  | .nan, _ => .nan
  | _, .nan => .nan
  | .inf a, .inf b => .inf (a != b)
  | .inf a, .fin nb mb _ => if mb = 0 then .nan else .inf (a != nb)
  | .fin na ma _, .inf b => if ma = 0 then .nan else .inf (na != b)
  | .fin na ma ea, .fin nb mb eb => .fin (na != nb) (ma * mb) (ea + eb)

/-- The exact sum of a list of values; NaN, and infinities of both signs, give NaN (R84). -/
def FVal.sum (rm : Nat) : List FVal → FVal
  | [] => .fin false 0 0
  | [x] => x
  | x :: r => FVal.add rm x (FVal.sum rm r)

/-- Ordering of two values that are not NaN: is a < b. +0 and −0 are equal (R116). -/
def FVal.lt : FVal → FVal → Bool
  | .nan, _ => false
  | _, .nan => false
  | .inf a, .inf b => a && !b
  | .inf a, .fin _ _ _ => a
  | .fin _ _ _, .inf b => !b
  | .fin na ma ea, .fin nb mb eb => decide (scaled na ma ea (min ea eb) < scaled nb mb eb (min ea eb))

/-- The value is NaN. -/
def FVal.isNan : FVal → Bool
  | .nan => true
  | _ => false

/-- The value is ±0. -/
def FVal.isZero : FVal → Bool
  | .fin _ m _ => m == 0
  | _ => false

/-- The value is finite. -/
def FVal.isFinite : FVal → Bool
  | .fin _ _ _ => true
  | _ => false

/-- A source modifier: clears the sign under ABS, then inverts it under NEG (R122). -/
def Fmt.modify (f : Fmt) (abs neg : Bool) (x : Nat) : Nat :=
  let mag := x % f.signBit
  let s := decide (x / f.signBit % 2 = 1)
  f.pattern ((s && !abs) != neg) mag

/-- An integer as an exact value. -/
def FVal.ofInt (x : Int) : FVal := .fin (decide (x < 0)) x.natAbs 0

/-- `FADD`, `FSUB`, `FMUL`, `FFMA` on patterns after modifiers (R125). -/
def Fmt.fadd (f : Fmt) (rm : Nat) (sat : Bool) (a b : Nat) : Nat := f.round rm sat ((f.value a).add rm (f.value b))
/-- Difference (R125). -/
def Fmt.fsub (f : Fmt) (rm : Nat) (sat : Bool) (a b : Nat) : Nat := f.round rm sat ((f.value a).add rm (f.value b).negate)
/-- Product (R125). -/
def Fmt.fmul (f : Fmt) (rm : Nat) (sat : Bool) (a b : Nat) : Nat := f.round rm sat ((f.value a).mul (f.value b))
/-- Fused multiply-add, rounded once (R82, R125). -/
def Fmt.ffma (f : Fmt) (rm : Nat) (sat : Bool) (a b c : Nat) : Nat :=
  f.round rm sat (((f.value a).mul (f.value b)).add rm (f.value c))

/-- `FMIN`: one of the patterns, −0 below +0 (R126). -/
def Fmt.fmin (f : Fmt) (a b : Nat) : Nat :=
  let x := f.value a
  let y := f.value b
  if x.isNan && y.isNan then f.nanBits
  else if x.isNan then b
  else if y.isNan then a
  else if x.lt y then a
  else if y.lt x then b
  else if x.neg then a else b

/-- `FMAX`: +0 above −0 (R126). -/
def Fmt.fmax (f : Fmt) (a b : Nat) : Nat :=
  let x := f.value a
  let y := f.value b
  if x.isNan && y.isNan then f.nanBits
  else if x.isNan then b
  else if y.isNan then a
  else if x.lt y then b
  else if y.lt x then a
  else if x.neg then b else a

/-- The nine classes of `FCLS` (R127). -/
def Fmt.fcls (f : Fmt) (x : Nat) : Nat :=
  match f.value x with
  | .nan => 2 ^ 8
  | .inf n => if n then 1 else 2 ^ 7
  | .fin n m _ =>
    if m = 0 then (if n then 2 ^ 3 else 2 ^ 4)
    else if x % f.signBit < 2 ^ f.fbits then (if n then 2 ^ 2 else 2 ^ 5)
    else (if n then 2 ^ 1 else 2 ^ 6)

/-- `FSCL`: a × 2^n (R128). -/
def Fmt.fscl (f : Fmt) (rm : Nat) (sat : Bool) (a : Nat) (n : Int) : Nat :=
  match f.value a with
  | .fin s m e => f.round rm sat (.fin s m (e + n))
  | v => f.round rm sat v

/-- The integer that a value rounds to (R82, R128); none for NaN and infinities. -/
def FVal.toInt (rm : Nat) : FVal → Option Int
  | .fin s m e =>
    let n :=
      if 0 ≤ e then m * 2 ^ e.toNat
      else
        let d := 2 ^ (-e).toNat
        m / d + (if roundUp rm s (decide (m / d % 2 = 1)) (m % d) d then 1 else 0)
    some (if s then -(n : Int) else n)
  | _ => none

/-- `FRND`: the integral value; a zero keeps the sign of a (R128). -/
def Fmt.frnd (f : Fmt) (rm : Nat) (a : Nat) : Nat :=
  match f.value a with
  | .fin s m e =>
    match (FVal.fin s m e).toInt rm with
    | some n => f.round 1 false (.fin s n.natAbs 0)
    | none => a
  | .inf _ => a
  | .nan => f.nanBits

/-- The conditions of `FCMP` (R116). -/
def fcond (cond : Nat) (a b : FVal) : Bool :=
  let un := a.isNan || b.isNan
  let lt := a.lt b
  let gt := b.lt a
  match cond with
  | 0 => !un && !lt && !gt
  | 1 => lt
  | 2 => !un && !gt
  | 3 => un
  | 4 => un || lt || gt
  | 5 => gt
  | 6 => !un && !lt
  | _ => !un

/-! ### Square root, reciprocal and the other special functions (R130 to R132) -/

/-- Integer square root: the bits of the root from bit `k` down, `r` found so far. -/
def isqrtFrom (n : Nat) : Nat → Nat → Nat
  | 0, r => if (r + 1) * (r + 1) ≤ n then r + 1 else r
  | k + 1, r =>
    let r' := r + 2 ^ (k + 1)
    isqrtFrom n k (if r' * r' ≤ n then r' else r)

/-- ⌊√n⌋. -/
def isqrt (n : Nat) : Nat := isqrtFrom n (Nat.log2 n / 2 + 1) 0

/-- √(m × 2^e) with enough bits for a correct rounding, inexactness kept in the last bit. -/
def sqrtVal (m : Nat) (e : Int) : FVal :=
  let k : Nat := 128 + (if (e + 128) % 2 = 0 then 0 else 1)
  let x := m * 2 ^ k
  let s := isqrt x
  .fin false (2 * s + (if s * s = x then 0 else 1)) ((e - k) / 2 - 1)

/-- 1 / (m × 2^e), inexactness kept in the last bit. -/
def rcpVal (neg : Bool) (m : Nat) (e : Int) : FVal :=
  let k : Nat := Nat.log2 m + 128
  .fin neg (2 * (2 ^ k / m) + (if 2 ^ k % m = 0 then 0 else 1)) (-e - k - 1)

/-- 1 / √(m × 2^e), inexactness kept in the last bit. -/
def rsqVal (m : Nat) (e : Int) : FVal :=
  let odd : Nat := if e % 2 = 0 then 0 else 1
  let m' := m * 2 ^ odd
  let h : Nat := Nat.log2 m' + 128
  let x := 2 ^ (2 * h) / m'
  let s := isqrt x
  .fin false (2 * s + (if s * s * m' = 2 ^ (2 * h) then 0 else 1)) (-(e - odd) / 2 - h - 1)

/-- ⌊ln 2 × 2^256⌋. -/
def ln2 : Nat := 0xb17217f7d1cf79abc9e3b39803f2f6af40f343267298b62d8a0d175b8baafa2b

/-- The terms x^k / k! of the exponential from the k-th, `t`, on, in fixed point with 256 fraction bits. -/
def expTerms (x : Nat) : Nat → Nat → Nat → Nat → Nat
  | 0, _, _, acc => acc
  | n + 1, k, t, acc =>
    let t' := t * x / 2 ^ 256 / (k + 1)
    expTerms x n (k + 1) t' (acc + t')

/-- 2^(m × 2^e), to about 240 bits: every bit of an FP32 operand counts. -/
def exp2Val (neg : Bool) (m : Nat) (e : Int) : FVal :=
  let a : Int := if 0 ≤ e + 256 then scaled neg (m * 2 ^ (e + 256).toNat) 0 0 else scaled neg (m / 2 ^ (-(e + 256)).toNat) 0 0
  let n := a / 2 ^ 256
  let x := (a % 2 ^ 256).toNat * ln2 / 2 ^ 256
  .fin false (expTerms x 64 0 (2 ^ 256) (2 ^ 256)) (n - 256)

/-- Digits of log2 of x in [1, 2), x in fixed point with 320 bits. -/
def log2Bits : Nat → Nat → Nat → Nat
  | 0, _, acc => acc
  | k + 1, x, acc =>
    let y := x * x / 2 ^ 320
    if 2 ^ 321 ≤ y then log2Bits k (y / 2) (2 * acc + 1) else log2Bits k y (2 * acc)

/-- log2 (m × 2^e), to 128 bits. -/
def log2Val (m : Nat) (e : Int) : FVal :=
  let l := Nat.log2 m
  let fr := log2Bits 128 (m * 2 ^ 320 / 2 ^ l) 0
  let x : Int := ((l : Int) + e) * 2 ^ 128 + fr
  .fin (decide (x < 0)) x.natAbs (-128)

/-- ⌊2π × 2^704⌋. -/
def twoPi : Nat :=
  0x6487ed5110b4611a62633145c06e0e68948127044533e63a0105df531d89cd9128a5043cc71a026ef7ca8cd9e69d218d98158536f92f8a1ba7f09ab6b6a8e122f242dabb312f3f637a262174d31bf6b585ffae5b7a035bf6f

/-- The Taylor terms of sine or cosine in fixed point with 512 fraction bits: `t` is the last term, `k` its degree. -/
def taylor (x2 : Int) : Nat → Nat → Int → Int → Int
  | 0, _, _, acc => acc
  | n + 1, k, t, acc =>
    let t' := -(t * x2 / 2 ^ 512) / ((k + 1) * (k + 2))
    taylor x2 n (k + 2) t' (acc + t')

/-- sin or cos of m × 2^e, to about 500 bits, with the argument reduced exactly (R131). -/
def trigVal (cos neg : Bool) (m : Nat) (e : Int) : FVal :=
  let x := m * 2 ^ (e + 704).toNat % twoPi
  let r : Int := (x / 2 ^ 192 : Nat)
  let x2 := r * r / 2 ^ 512
  let v := if cos then taylor x2 90 0 (2 ^ 512) (2 ^ 512) else taylor x2 90 1 r r
  let v := if neg && !cos then -v else v
  .fin (decide (v < 0)) v.natAbs (-512)

/-- |a − b| ≤ 2^k, for finite values. -/
def within (a b : FVal) (k : Int) : Bool :=
  match a.add 0 b.negate with
  | .fin _ m e => !(FVal.fin false 1 k).lt (.fin false m e)
  | _ => false

/-- The exponent of an ulp at a finite nonzero value (R131). DESIGN CHOICE (log 6): at a power of two, where the steps below and above differ, the
larger step above is the ulp. -/
def Fmt.ulp (f : Fmt) : FVal → Int
  | .fin _ m e => max ((Nat.log2 m : Int) + e - f.fbits) (1 - (f.bias : Int) - f.fbits)
  | _ => 0

/-- |a − b| < 2^(k + 1): below 2 ulp when k is the ulp's exponent. -/
def closer (a b : FVal) (k : Int) : Bool :=
  match a.add 0 b.negate with
  | .fin _ m e => (FVal.fin false m e).lt (.fin false 1 (k + 1))
  | _ => false

/-- A value is not zero, or has the sign of the exact result (R79). -/
def FVal.signOk (y c : FVal) : Bool :=
  match c with
  | .fin n 0 _ => n == y.neg
  | _ => true

/-- The bits that the special-function unit gives, if the bound of R131 and the sign of a zero (R79) allow them, else the nearest value. Whatever
`Config.special` is, the bound holds; and every value within the bound is a possible one (log 6). -/
def choose (ok : FVal → Bool) (f : Fmt) (cand : Nat) (near : FVal) : Nat :=
  let c := cand % 2 ^ f.width
  if (f.value c).isFinite && near.signOk (f.value c) && ok (f.value c) then c else f.round 0 false near

/-- A result with an absolute bound: below the smallest normal it is the exact value rounded to the subnormal grid (R75), else within 2^−22 (R131). -/
def bounded22 (f : Fmt) (cand : Nat) (y : FVal) : Nat :=
  match y with
  | .fin n m e => if (FVal.fin false m e).lt (.fin false 1 (1 - (f.bias : Int))) then f.round 0 false (.fin n m e)
    else choose (fun c => within c (.fin n m e) (-22)) f cand (.fin n m e)
  | y => f.round 0 false y

/-- The exact result lies beyond the largest finite value. -/
def Fmt.beyond (f : Fmt) : FVal → Bool
  | .fin _ m e => (f.value f.maxBits).lt (.fin false m e)
  | _ => true

/-- A result bounded by R131, the special cases of R132 apart. -/
def bounded (f : Fmt) (ok : FVal → FVal → Bool) (cand : Nat) (y : FVal) : Nat :=
  if f.beyond y then f.pattern y.neg f.infBits else choose (ok y) f cand y

/-- c is y itself, or one of the two values that enclose it (R131). -/
def Fmt.faithful (f : Fmt) (y c : FVal) : Bool :=
  let dn := f.value (f.round 3 false y)
  let up := f.value (f.round 2 false y)
  (!c.lt dn && !dn.lt c) || (!c.lt up && !up.lt c)

/-- The special functions on a pattern after modifiers: 0 `FRCP`, 1 `FRSQ`, 2 `FSQRT`, 3 `FEX2`, 4 `FLG2`, 5 `FSIN`, 6 `FCOS`
(R130 to R132). DESIGN CHOICE (log 6): a result of `FEX2` near zero is not negative, as no power of two is, though the bound of 2 ulp alone would
admit −2^−149. -/
def Fmt.special (f : Fmt) (ty fn rm a : Nat) : Nat :=
  let cand := Config.special fn ty a
  match fn, f.value a with
  | _, .nan => f.nanBits
  | 0, .inf n => f.pattern n 0
  | 0, .fin n m e => if m = 0 then f.pattern n f.infBits else bounded f f.faithful cand (rcpVal n m e)
  | 1, .inf n => if n then f.nanBits else 0
  | 1, .fin n m e =>
    if m = 0 then f.pattern n f.infBits
    else if n then f.nanBits
    else bounded f (fun y c => closer c y (f.ulp y)) cand (rsqVal m e)
  | 2, .inf n => if n then f.nanBits else f.infBits
  | 2, .fin n m e =>
    if m = 0 then f.pattern n 0 else if n then f.nanBits else f.round rm false (sqrtVal m e)
  | 3, .inf n => if n then 0 else f.infBits
  | 3, .fin n m e =>
    if m = 0 then f.round 0 false (.fin false 1 0)
    else if 0 ≤ (Nat.log2 m : Int) + e - 10 then
      (if n then bounded f (fun y c => !c.neg && closer c y (f.ulp y)) cand (.fin false 1 (-1024)) else f.infBits)
    else
      let y := exp2Val n m e
      match (FVal.fin n m e).toInt 1 with
      | some k =>
        if !(FVal.ofInt k).lt (.fin n m e) && !(FVal.fin n m e).lt (FVal.ofInt k) && -149 ≤ k && k ≤ 127 then
          f.round 0 false (.fin false 1 k)
        else bounded f (fun y c => !c.neg && closer c y (f.ulp y)) cand y
      | none => f.nanBits
  | 4, .inf n => if n then f.nanBits else f.infBits
  | 4, .fin n m e =>
    if m = 0 then f.pattern true f.infBits
    else if n then f.nanBits
    else if m = 2 ^ Nat.log2 m then f.round 0 false (FVal.ofInt ((Nat.log2 m : Int) + e))
    else
      let y := log2Val m e
      let near1 := !(FVal.fin false m e).lt (.fin false 1 (-1)) && !(FVal.fin false 2 0).lt (.fin false m e)
      choose (fun c => if near1 then within c y (-22) else closer c y (f.ulp y)) f cand y
  | 5, .inf _ => f.nanBits
  | 5, .fin n m e => if m = 0 then f.pattern n 0 else bounded22 f cand (trigVal false n m e)
  | 6, .inf _ => f.nanBits
  | 6, .fin n m e =>
    if m = 0 then f.round 0 false (.fin false 1 0)
    else bounded22 f cand (trigVal true n m e)
  | _, _ => f.nanBits

end Sys2Proof.Machine
end

