-- ==== Sys2Proof/Syntax.lean ====
section
/-! DEFINITION. The syntax: operands, hints and the one inductive `Instr`, a constructor for every row of
spec/opcode_table.json: the 184 points of R63, then the 119 events of the machine (file 95). -/

namespace Sys2Proof

/-- What the fields G and H of a word say (R46 to R49): the guard, GAP, the post, the wait and the safe point. -/
structure Ctl where
  /-- G[3]: the guard is negated. -/
  neg : Bool
  /-- G[2:0]: the predicate of the guard. -/
  pred : BitVec 3
  /-- GAP: issue positions left empty after the instruction. -/
  gap : BitVec 3
  /-- PK when PE = 1. -/
  post : Option (BitVec 4)
  /-- WK and WT when WE = 1. -/
  wait : Option (BitVec 4 × BitVec 6)
  /-- SP: safe point. -/
  sp : Bool
deriving DecidableEq, Repr

/-- An operand by its specifier (R51). -/
inductive Opnd where
  /-- `w0` to `w255`; in a 64-bit slot the pair that starts there. -/
  | w (r : BitVec 8)
  /-- `p0` to `p7`. -/
  | p (r : BitVec 3)
  /-- `m0` to `m11`. -/
  | m (r : BitVec 4)
  /-- `n0` to `n15`. -/
  | n (r : BitVec 4)
  /-- `k0` to `k15`. -/
  | k (r : BitVec 4)
  /-- `acc0` to `acc7`. -/
  | acc (r : BitVec 3)
  /-- `lc0` to `lc3`. -/
  | lc (r : BitVec 2)
  /-- A special register, specifier 0x140 + r. -/
  | sr (r : BitVec 6)
  /-- An inline constant, value r - 32. -/
  | imm (r : BitVec 6)
deriving DecidableEq, Repr

/-- A source operand with its stale-read bit S (R31, R51). -/
structure Src where
  o : Opnd
  stale : Bool
deriving DecidableEq, Repr

/-- The shared float modifiers of R121: rounding, saturation, magnitudes and negations of the sources. -/
structure FMod where
  rm : BitVec 2
  sat : Bool
  absb : Bool
  absa : Bool
  negc : Bool
  negb : Bool
  nega : Bool
deriving DecidableEq, Repr

/-- An item a debugger reads or writes (R355, R362). -/
inductive Item where
  | reg (lane r : Nat)
  | pred (lane i : Nat)
  | pc (lane : Nat)
  | stkptr (lane : Nat)
  | ret (lane i : Nat)
  | rsd (lane : Nat)
  | rsn (lane : Nat)
  | ld (lane : Nat)
  | loopStart (lane i : Nat)
  | loopEnd (lane i : Nat)
  | loopCount (lane i : Nat)
  | maskLanes (i : Nat)
  | maskMeet (i : Nat)
  | token (i : Nat)
  | nreg (i : Nat)
  | pending (i : Nat)
  | counter
  | rc
  | fav
  | age (lane : Nat)
  | alloc
  | role
  | unacked
  | handler
  | fault
  | cause
  | tile (t : Nat)
  | prog (t : Nat)
  | acc (t row col : Nat)
  /-- The queued count of a tile. -/
  | queued (t : Nat)
  | scratch (ofs : Nat)
  | state (lane : Nat)
  | syncLanes (lane : Nat)
  | mode
  | frameCounter
  | frameRc
  | frameFav
  | frameAge (lane : Nat)
  | handlerLanes
  | detail (i k : Nat)
  | pipe (frame : Bool) (i : Nat)
  | pipePost (frame : Bool) (i : Nat)
  | pipeVal (frame : Bool) (i lane : Nat)
  /-- 64-bit word k of the block header. -/
  | header (k : Nat)
  /-- 64-bit word k of the block's i-th copy state. -/
  | copyState (i k : Nat)
  /-- 64-bit word k of entry i of a tile's queue. -/
  | queueEntry (t i k : Nat)
deriving DecidableEq, Repr

/-- The instructions and events of spec/opcode_table.json. -/
inductive Instr where
  /-- `BRA` 0x040 (R92). Relative branch with a 30-bit displacement; unwinds the loop stack and may hop in TRAVEL mode. -/
  | bra (h : Ctl) (disp : BitVec 30) (live : BitVec 11)
  /-- `CALL` 0x043 (R95). Pushes the return address and transfers by a 30-bit displacement. -/
  | call (h : Ctl) (disp : BitVec 30) (live : BitVec 11)
  /-- `BRL` 0x041 (R92). Relative branch with a 60-bit displacement; unwinds the loop stack. -/
  | brl (h : Ctl) (disp : BitVec 60)
  /-- `CALLL` 0x044 (R95). Pushes the return address and transfers by a 60-bit displacement. -/
  | calll (h : Ctl) (disp : BitVec 60)
  /-- `BRX` 0x042 (R92). Branch to a per-lane target address held in a register pair. -/
  | brx (h : Ctl) (a : Src) (live : BitVec 11)
  /-- `CALLX` 0x045 (R95). Pushes the return address and transfers to a per-lane register target. -/
  | callx (h : Ctl) (a : Src) (live : BitVec 11)
  /-- `RET` 0x046 (R95). Checks k8-k15, pops the return stack and transfers to the popped address. -/
  | ret (h : Ctl) (live : BitVec 11)
  /-- `EXIT` 0x047 (R101). Makes each active lane DONE and removes it from every mask. -/
  | exit (h : Ctl)
  /-- `LOOP` 0x048 (R97). Pushes a loop level with count, start and end, or skips the body when the count is zero. -/
  | loop (h : Ctl) (a : Src) (len : BitVec 20)
  /-- `LBRK` 0x049 (R100). Pops up to n loop levels of each active lane. -/
  | lbrk (h : Ctl) (n : BitVec 3)
  /-- `DLY` 0x04A (R102). Occupies n cycles and advances the issue-position counter by n. -/
  | dly (h : Ctl) (n : BitVec 6)
  /-- `NOP` 0x04B (R102). Has no effect beyond its hints. -/
  | nop (h : Ctl)
  /-- `YIELD` 0x04C (R103). Marks a safe point when pre-emption is requested, else hands the issue to the longest-waiting path group. -/
  | yield (h : Ctl)
  /-- `IPREF` 0x04D (R104). Requests fetch blocks into the core's L1I or the die's L2I. -/
  | ipref (h : Ctl) (a : Src) (ofs : BitVec 16) (nb : BitVec 8) (lvl : BitVec 2)
  /-- `TRAP` 0x04E (R105). Raises a software trap to the user handler after issue. -/
  | trap (h : Ctl) (code : BitVec 16)
  /-- `ERET` 0x04F (R349). Ends handler mode, loads RESUME and restores counter, result pipe and rotation state from the trap frame. -/
  | eret (h : Ctl)
  /-- `BKPT` 0x050 (R105). Raises a breakpoint that parks the wave for the debugger through Foxglove. -/
  | bkpt (h : Ctl) (code : BitVec 16)
  /-- `SYSC` 0x051 (R425). Raises a system call that passes w0-w10 of each active lane to Foxglove. -/
  | sysc (h : Ctl) (code : BitVec 16)
  /-- `IADD` 0x080 (R108). Integer add, register form, with optional saturation. -/
  | iadd (h : Ctl) (d : Opnd) (a : Src) (b : Src) (ty : BitVec 3) (sat : Bool)
  /-- `ISUB` 0x081 (R108). Integer subtract, register form. -/
  | isub (h : Ctl) (d : Opnd) (a : Src) (b : Src) (ty : BitVec 3) (sat : Bool)
  /-- `IMUL` 0x082 (R108). Integer multiply keeping the low bits, register form. -/
  | imul (h : Ctl) (d : Opnd) (a : Src) (b : Src) (ty : BitVec 3)
  /-- `IMULH` 0x083 (R108). Integer multiply keeping the high 32 bits, register form. -/
  | imulh (h : Ctl) (d : Opnd) (a : Src) (b : Src) (ty : BitVec 3)
  /-- `IMAD` 0x084 (R108). Integer multiply-add. -/
  | imad (h : Ctl) (d : Opnd) (a : Src) (b : Src) (c : Src) (ty : BitVec 3)
  /-- `IMADW` 0x085 (R108). Widening 32x32 plus 64-bit multiply-add. -/
  | imadw (h : Ctl) (d : Opnd) (a : Src) (b : Src) (c : Src) (ty : BitVec 3)
  /-- `IMIN` 0x086 (R108). Integer minimum, register form. -/
  | imin (h : Ctl) (d : Opnd) (a : Src) (b : Src) (ty : BitVec 3)
  /-- `IMAX` 0x087 (R108). Integer maximum, register form. -/
  | imax (h : Ctl) (d : Opnd) (a : Src) (b : Src) (ty : BitVec 3)
  /-- `IABS` 0x088 (R108). Integer absolute value. -/
  | iabs (h : Ctl) (d : Opnd) (a : Src) (ty : BitVec 3) (sat : Bool)
  /-- `AND` 0x089 (R108). Bitwise AND, register form. -/
  | and (h : Ctl) (d : Opnd) (a : Src) (b : Src) (ty : BitVec 3)
  /-- `OR` 0x08A (R108). Bitwise OR, register form. -/
  | or (h : Ctl) (d : Opnd) (a : Src) (b : Src) (ty : BitVec 3)
  /-- `XOR` 0x08B (R108). Bitwise XOR, register form. -/
  | xor (h : Ctl) (d : Opnd) (a : Src) (b : Src) (ty : BitVec 3)
  /-- `ANDN` 0x08C (R108). Bitwise AND with complement, register form. -/
  | andn (h : Ctl) (d : Opnd) (a : Src) (b : Src) (ty : BitVec 3)
  /-- `ORN` 0x08D (R108). Bitwise OR with complement, register form. -/
  | orn (h : Ctl) (d : Opnd) (a : Src) (b : Src) (ty : BitVec 3)
  /-- `SHL` 0x08E (R108). Shift left, register form. -/
  | shl (h : Ctl) (d : Opnd) (a : Src) (b : Src) (ty : BitVec 3)
  /-- `SHR` 0x08F (R108). Logical shift right, register form. -/
  | shr (h : Ctl) (d : Opnd) (a : Src) (b : Src) (ty : BitVec 3)
  /-- `SAR` 0x090 (R108). Arithmetic shift right, register form. -/
  | sar (h : Ctl) (d : Opnd) (a : Src) (b : Src) (ty : BitVec 3)
  /-- `ROT` 0x091 (R108). Rotate left, register form. -/
  | rot (h : Ctl) (d : Opnd) (a : Src) (b : Src) (ty : BitVec 3)
  /-- `FSH` 0x092 (R108). Funnel shift of two 32-bit words. -/
  | fsh (h : Ctl) (d : Opnd) (a : Src) (b : Src) (c : Src) (ty : BitVec 3) (dir : Bool)
  /-- `BFX` 0x093 (R108). Bit-field extract. -/
  | bfx (h : Ctl) (d : Opnd) (a : Src) (ty : BitVec 3) (pos : BitVec 6) (len : BitVec 7)
  /-- `BFI` 0x094 (R110). Bit-field insert. -/
  | bfi (h : Ctl) (d : Opnd) (a : Src) (b : Src) (ty : BitVec 3) (pos : BitVec 6) (len : BitVec 7)
  /-- `POPC` 0x095 (R108). Population count. -/
  | popc (h : Ctl) (d : Opnd) (a : Src) (ty : BitVec 3)
  /-- `CLZ` 0x096 (R108). Count leading zeros. -/
  | clz (h : Ctl) (d : Opnd) (a : Src) (ty : BitVec 3)
  /-- `BREV` 0x097 (R108). Bit reverse. -/
  | brev (h : Ctl) (d : Opnd) (a : Src) (ty : BitVec 3)
  /-- `PRMB` 0x098 (R108). Byte permute from two source words. -/
  | prmb (h : Ctl) (d : Opnd) (a : Src) (b : Src) (c : Src) (ty : BitVec 3)
  /-- `SEL` 0x099 (R108). Selects one of two sources by a predicate. -/
  | sel (h : Ctl) (d : Opnd) (a : Src) (b : Src) (c : Src) (ty : BitVec 3)
  /-- `MOV` 0x09A (R112). Moves a value between register classes. -/
  | mov (h : Ctl) (d : Opnd) (a : Src) (ty : BitVec 3)
  /-- `LEA` 0x09B (R108). Computes a 64-bit address from base plus scaled index. -/
  | lea (h : Ctl) (d : Opnd) (a : Src) (b : Src) (ty : BitVec 3) (sh : BitVec 3)
  /-- `IADD64` 0x09C (R108). 64-bit integer add. -/
  | iadd64 (h : Ctl) (d : Opnd) (a : Src) (b : Src) (ty : BitVec 3) (sat : Bool)
  /-- `ISUB64` 0x09D (R108). 64-bit integer subtract. -/
  | isub64 (h : Ctl) (d : Opnd) (a : Src) (b : Src) (ty : BitVec 3) (sat : Bool)
  /-- `ICVT` 0x09E (R113). Integer type conversion with optional saturation. -/
  | icvt (h : Ctl) (d : Opnd) (a : Src) (ty : BitVec 3) (sat : Bool) (sty : BitVec 3)
  /-- `IADD_LIT` 0x0C0 (R114). Integer add with a 32-bit literal. -/
  | iaddLit (h : Ctl) (d : Opnd) (a : Src) (imm : BitVec 32) (ty : BitVec 3) (sat : Bool)
  /-- `ISUB_LIT` 0x0C1 (R114). Integer subtract with a 32-bit literal. -/
  | isubLit (h : Ctl) (d : Opnd) (a : Src) (imm : BitVec 32) (ty : BitVec 3) (sat : Bool)
  /-- `IMUL_LIT` 0x0C2 (R114). Integer multiply with a 32-bit literal. -/
  | imulLit (h : Ctl) (d : Opnd) (a : Src) (imm : BitVec 32) (ty : BitVec 3)
  /-- `IMULH_LIT` 0x0C3 (R114). High integer multiply with a 32-bit literal. -/
  | imulhLit (h : Ctl) (d : Opnd) (a : Src) (imm : BitVec 32) (ty : BitVec 3)
  /-- `IMIN_LIT` 0x0C6 (R114). Integer minimum with a 32-bit literal. -/
  | iminLit (h : Ctl) (d : Opnd) (a : Src) (imm : BitVec 32) (ty : BitVec 3)
  /-- `IMAX_LIT` 0x0C7 (R114). Integer maximum with a 32-bit literal. -/
  | imaxLit (h : Ctl) (d : Opnd) (a : Src) (imm : BitVec 32) (ty : BitVec 3)
  /-- `AND_LIT` 0x0C9 (R114). Bitwise AND with a 32-bit literal. -/
  | andLit (h : Ctl) (d : Opnd) (a : Src) (imm : BitVec 32) (ty : BitVec 3)
  /-- `OR_LIT` 0x0CA (R114). Bitwise OR with a 32-bit literal. -/
  | orLit (h : Ctl) (d : Opnd) (a : Src) (imm : BitVec 32) (ty : BitVec 3)
  /-- `XOR_LIT` 0x0CB (R114). Bitwise XOR with a 32-bit literal. -/
  | xorLit (h : Ctl) (d : Opnd) (a : Src) (imm : BitVec 32) (ty : BitVec 3)
  /-- `ANDN_LIT` 0x0CC (R114). AND with complement of a 32-bit literal. -/
  | andnLit (h : Ctl) (d : Opnd) (a : Src) (imm : BitVec 32) (ty : BitVec 3)
  /-- `ORN_LIT` 0x0CD (R114). OR with complement of a 32-bit literal. -/
  | ornLit (h : Ctl) (d : Opnd) (a : Src) (imm : BitVec 32) (ty : BitVec 3)
  /-- `SHL_LIT` 0x0CE (R114). Shift left by a literal count. -/
  | shlLit (h : Ctl) (d : Opnd) (a : Src) (imm : BitVec 32) (ty : BitVec 3)
  /-- `SHR_LIT` 0x0CF (R114). Logical shift right by a literal count. -/
  | shrLit (h : Ctl) (d : Opnd) (a : Src) (imm : BitVec 32) (ty : BitVec 3)
  /-- `SAR_LIT` 0x0D0 (R114). Arithmetic shift right by a literal count. -/
  | sarLit (h : Ctl) (d : Opnd) (a : Src) (imm : BitVec 32) (ty : BitVec 3)
  /-- `ROT_LIT` 0x0D1 (R114). Rotate left by a literal count. -/
  | rotLit (h : Ctl) (d : Opnd) (a : Src) (imm : BitVec 32) (ty : BitVec 3)
  /-- `MOVI` 0x0E0 (R115). Moves a 32-bit literal, extended for 64-bit types. -/
  | movi (h : Ctl) (d : Opnd) (imm : BitVec 32) (ty : BitVec 3)
  /-- `MOVH` 0x0E1 (R115). Builds a 64-bit value from a literal high half and a register low half. -/
  | movh (h : Ctl) (d : Opnd) (a : Src) (imm : BitVec 32) (ty : BitVec 3)
  /-- `ICMP` 0x100 (R117). Integer compare writing a predicate, optionally combined with another. -/
  | icmp (h : Ctl) (d : Opnd) (a : Src) (b : Src) (c : Option Src) (ty : BitVec 3) (cond : BitVec 3) (comb : BitVec 2)
  /-- `PLOP` 0x101 (R118). Three-input predicate lookup-table operation. -/
  | plop (h : Ctl) (d : Opnd) (a : Src) (b : Src) (c : Src) (lut : BitVec 8)
  /-- `PMOV` 0x102 (R119). Packs, unpacks or tests predicates against a w register. -/
  | pmov (h : Ctl) (d : Option Opnd) (a : Option Src) (mask : BitVec 7) (mode : BitVec 2)
  /-- `FADD` 0x140 (R125). FP16, BF16 or FP32 add, rounded once. -/
  | fadd (h : Ctl) (d : Opnd) (a : Src) (b : Src) (ty : BitVec 3) (f : FMod)
  /-- `FADD_F64` 0x1C0 (R125). FP64 add. -/
  | faddF64 (h : Ctl) (d : Opnd) (a : Src) (b : Src) (ty : BitVec 3) (f : FMod)
  /-- `FSUB` 0x141 (R125). FP16, BF16 or FP32 subtract. -/
  | fsub (h : Ctl) (d : Opnd) (a : Src) (b : Src) (ty : BitVec 3) (f : FMod)
  /-- `FSUB_F64` 0x1C1 (R125). FP64 subtract. -/
  | fsubF64 (h : Ctl) (d : Opnd) (a : Src) (b : Src) (ty : BitVec 3) (f : FMod)
  /-- `FMUL` 0x142 (R125). FP16, BF16 or FP32 multiply. -/
  | fmul (h : Ctl) (d : Opnd) (a : Src) (b : Src) (ty : BitVec 3) (f : FMod)
  /-- `FMUL_F64` 0x1C2 (R125). FP64 multiply. -/
  | fmulF64 (h : Ctl) (d : Opnd) (a : Src) (b : Src) (ty : BitVec 3) (f : FMod)
  /-- `FFMA` 0x143 (R125). FP16, BF16 or FP32 fused multiply-add. -/
  | ffma (h : Ctl) (d : Opnd) (a : Src) (b : Src) (c : Src) (ty : BitVec 3) (f : FMod)
  /-- `FFMA_F64` 0x1C3 (R125). FP64 fused multiply-add. -/
  | ffmaF64 (h : Ctl) (d : Opnd) (a : Src) (b : Src) (c : Src) (ty : BitVec 3) (f : FMod)
  /-- `FMIN` 0x144 (R126). FP16, BF16 or FP32 minimum. -/
  | fmin (h : Ctl) (d : Opnd) (a : Src) (b : Src) (ty : BitVec 3) (f : FMod)
  /-- `FMIN_F64` 0x1C4 (R126). FP64 minimum. -/
  | fminF64 (h : Ctl) (d : Opnd) (a : Src) (b : Src) (ty : BitVec 3) (f : FMod)
  /-- `FMAX` 0x145 (R126). FP16, BF16 or FP32 maximum. -/
  | fmax (h : Ctl) (d : Opnd) (a : Src) (b : Src) (ty : BitVec 3) (f : FMod)
  /-- `FMAX_F64` 0x1C5 (R126). FP64 maximum. -/
  | fmaxF64 (h : Ctl) (d : Opnd) (a : Src) (b : Src) (ty : BitVec 3) (f : FMod)
  /-- `FCMP` 0x146 (R117). FP16, BF16 or FP32 compare writing a predicate. -/
  | fcmp (h : Ctl) (d : Opnd) (a : Src) (b : Src) (c : Option Src) (ty : BitVec 3) (cond : BitVec 3) (comb : BitVec 2)
  /-- `FCLS` 0x147 (R127). Classifies an FP16, BF16 or FP32 value. -/
  | fcls (h : Ctl) (d : Opnd) (a : Src) (ty : BitVec 3) (mask : BitVec 9)
  /-- `FCMP_F64` 0x1C6 (R117). FP64 compare writing a predicate. -/
  | fcmpF64 (h : Ctl) (d : Opnd) (a : Src) (b : Src) (c : Option Src) (ty : BitVec 3) (cond : BitVec 3) (comb : BitVec 2)
  /-- `FCLS_F64` 0x1C7 (R127). Classifies an FP64 value. -/
  | fclsF64 (h : Ctl) (d : Opnd) (a : Src) (ty : BitVec 3) (mask : BitVec 9)
  /-- `FSCL` 0x148 (R128). Scales an FP16, BF16 or FP32 value by a power of two. -/
  | fscl (h : Ctl) (d : Opnd) (a : Src) (b : Src) (ty : BitVec 3) (f : FMod)
  /-- `FSCL_F64` 0x1C8 (R128). Scales an FP64 value by a power of two. -/
  | fsclF64 (h : Ctl) (d : Opnd) (a : Src) (b : Src) (ty : BitVec 3) (f : FMod)
  /-- `FRND` 0x149 (R128). Rounds an FP16, BF16 or FP32 value to an integral value. -/
  | frnd (h : Ctl) (d : Opnd) (a : Src) (ty : BitVec 3) (f : FMod)
  /-- `FRND_F64` 0x1C9 (R128). Rounds an FP64 value to an integral value. -/
  | frndF64 (h : Ctl) (d : Opnd) (a : Src) (ty : BitVec 3) (f : FMod)
  /-- `FADD_LIT` 0x180 (R129). FP32 add with a 32-bit literal. -/
  | faddLit (h : Ctl) (d : Opnd) (a : Src) (imm : BitVec 32) (ty : BitVec 3) (f : FMod)
  /-- `FSUB_LIT` 0x181 (R129). FP32 subtract with a 32-bit literal. -/
  | fsubLit (h : Ctl) (d : Opnd) (a : Src) (imm : BitVec 32) (ty : BitVec 3) (f : FMod)
  /-- `FMUL_LIT` 0x182 (R129). FP32 multiply with a 32-bit literal. -/
  | fmulLit (h : Ctl) (d : Opnd) (a : Src) (imm : BitVec 32) (ty : BitVec 3) (f : FMod)
  /-- `FMIN_LIT` 0x184 (R129). FP32 minimum with a 32-bit literal. -/
  | fminLit (h : Ctl) (d : Opnd) (a : Src) (imm : BitVec 32) (ty : BitVec 3) (f : FMod)
  /-- `FMAX_LIT` 0x185 (R129). FP32 maximum with a 32-bit literal. -/
  | fmaxLit (h : Ctl) (d : Opnd) (a : Src) (imm : BitVec 32) (ty : BitVec 3) (f : FMod)
  /-- `FCMP_LIT` 0x186 (R117). FP32 compare with a 32-bit literal. -/
  | fcmpLit (h : Ctl) (d : Opnd) (a : Src) (imm : BitVec 32) (ty : BitVec 3) (cond : BitVec 2)
  /-- `FRCP` 0x200 (R130). Long-latency reciprocal. -/
  | frcp (h : Ctl) (d : Opnd) (a : Src) (ty : BitVec 3) (f : FMod)
  /-- `FRSQ` 0x201 (R130). Long-latency reciprocal square root. -/
  | frsq (h : Ctl) (d : Opnd) (a : Src) (ty : BitVec 3) (f : FMod)
  /-- `FSQRT` 0x202 (R130). Long-latency correctly rounded square root. -/
  | fsqrt (h : Ctl) (d : Opnd) (a : Src) (ty : BitVec 3) (f : FMod)
  /-- `FEX2` 0x203 (R130). Long-latency base-2 exponential. -/
  | fex2 (h : Ctl) (d : Opnd) (a : Src) (ty : BitVec 3) (f : FMod)
  /-- `FLG2` 0x204 (R130). Long-latency base-2 logarithm. -/
  | flg2 (h : Ctl) (d : Opnd) (a : Src) (ty : BitVec 3) (f : FMod)
  /-- `FSIN` 0x205 (R130). Long-latency sine. -/
  | fsin (h : Ctl) (d : Opnd) (a : Src) (ty : BitVec 3) (f : FMod)
  /-- `FCOS` 0x206 (R130). Long-latency cosine. -/
  | fcos (h : Ctl) (d : Opnd) (a : Src) (ty : BitVec 3) (f : FMod)
  /-- `HFMA2` 0x240 (R134). Packed two-element FP16 or BF16 fused multiply-add. -/
  | hfma2 (h : Ctl) (d : Opnd) (a : Src) (b : Src) (c : Src) (ty : BitVec 3) (f : FMod)
  /-- `HADD2` 0x241 (R134). Packed two-element add. -/
  | hadd2 (h : Ctl) (d : Opnd) (a : Src) (b : Src) (ty : BitVec 3) (f : FMod)
  /-- `HMUL2` 0x242 (R134). Packed two-element multiply. -/
  | hmul2 (h : Ctl) (d : Opnd) (a : Src) (b : Src) (ty : BitVec 3) (f : FMod)
  /-- `QDOT4` 0x243 (R135). Four-way FP8 dot product accumulated into FP32. -/
  | qdot4 (h : Ctl) (d : Opnd) (a : Src) (b : Src) (c : Src) (ty : BitVec 3) (rm : BitVec 2) (sat : Bool) (bty : Bool)
  /-- `IDOT4` 0x244 (R136). Four-way 8-bit integer dot product into 32 bits. -/
  | idot4 (h : Ctl) (d : Opnd) (a : Src) (b : Src) (c : Src) (ty : BitVec 3) (sat : Bool) (bsgn : Bool)
  /-- `FCVT` 0x245 (R137). Float-to-float format conversion. -/
  | fcvt (h : Ctl) (d : Opnd) (a : Src) (ty : BitVec 3) (rm : BitVec 2) (sat : Bool) (sty : BitVec 3)
  /-- `F2I` 0x246 (R138). Float-to-integer conversion with clamping. -/
  | f2i (h : Ctl) (d : Opnd) (a : Src) (ty : BitVec 3) (rm : BitVec 2) (sty : BitVec 3)
  /-- `I2F` 0x247 (R139). Integer-to-float conversion. -/
  | i2f (h : Ctl) (d : Opnd) (a : Src) (ty : BitVec 3) (rm : BitVec 2) (sat : Bool) (sty : BitVec 3)
  /-- `PACK8` 0x248 (R140). Converts two FP32 values to FP8 and merges them into half a word. -/
  | pack8 (h : Ctl) (d : Opnd) (a : Src) (b : Src) (c : Src) (ty : BitVec 3) (rm : BitVec 2) (sat : Bool) (half : Bool)
  /-- `UNPK8` 0x249 (R141). Widens two FP8 values exactly. -/
  | unpk8 (h : Ctl) (d : Opnd) (a : Src) (ty : BitVec 3) (ety : Bool) (half : Bool)
  /-- `SHFL` 0x280 (R180). Moves values between lanes within segments. -/
  | shfl (h : Ctl) (d : Opnd) (a : Src) (b : Src) (ty : BitVec 3) (seg : BitVec 3) (mode : BitVec 2)
  /-- `VOTE` 0x281 (R181). Combines a predicate across active lanes. -/
  | vote (h : Ctl) (d : Opnd) (a : Src) (cnt : Bool) (neg : Bool) (mode : BitVec 2)
  /-- `MATCH` 0x282 (R182). Writes the mask of lanes holding equal values. -/
  | matchLanes (h : Ctl) (d : Opnd) (a : Src) (ty : BitVec 3)
  /-- `REDUX` 0x283 (R183). Reduces a value over active lanes. -/
  | redux (h : Ctl) (d : Opnd) (a : Src) (ty : BitVec 3) (rop : BitVec 3)
  /-- `WFENCE` 0x284 (R184). Orders memory accesses across the lanes of the wave. -/
  | wfence (h : Ctl)
  /-- `MJOIN` 0x2C0 (R187). Adds active lanes to a mask and sets its meet address. -/
  | mjoin (h : Ctl) (d : Opnd) (disp : BitVec 20)
  /-- `MLEAVE` 0x2C1 (R188). Removes active lanes from a set of masks. -/
  | mleave (h : Ctl) (set : BitVec 12)
  /-- `MWAIT` 0x2C2 (R189). Holds member lanes until the mask is released. -/
  | mwait (h : Ctl) (a : Src)
  /-- `MMOV` 0x2C3 (R190). Copies, reads or sets a whole mask. -/
  | mmov (h : Ctl) (d : Opnd) (a : Src) (b : Option Src) (mode : BitVec 2)
  /-- `MSYNC` 0x2C4 (R191). Barrier among lanes named by a lane mask. -/
  | msync (h : Ctl) (a : Src)
  /-- `SPAWN` 0x300 (R201). Builds and sends a thread record per active lane. -/
  | spawn (h : Ctl) (a : Src) (b : Option Src) (wsrc : Option Src) (wid : Bool) (tgt : BitVec 2) (nw : BitVec 4) (prio : BitVec 2) (idem : Bool)
  /-- `CONT` 0x301 (R203). Sends a continuation record and ends each active lane. -/
  | cont (h : Ctl) (a : Src) (b : Option Src) (wsrc : Option Src) (wid : Bool) (tgt : BitVec 2) (nw : BitVec 4) (prio : BitVec 2) (idem : Bool)
  /-- `SPLIT` 0x302 (R204). Divides lanes at a branch and sends the smaller part away as records. -/
  | split (h : Ctl) (a : Src) (disp : BitVec 20) (live : BitVec 11)
  /-- `RGIVE` 0x303 (R206). Gives registers above n back to the block pool. -/
  | rgive (h : Ctl) (nb : BitVec 6)
  /-- `RCLAIM` 0x304 (R207). Claims registers from the block pool, waiting if needed. -/
  | rclaim (h : Ctl) (nb : BitVec 6)
  /-- `SEGQ` 0x305 (R208). Reports on the segment map for a code address. -/
  | segq (h : Ctl) (d : Opnd) (a : Src)
  /-- `LAUNCH` 0x306 (R209). Enqueues a launch record into a launch queue. -/
  | launch (h : Ctl) (d : Opnd) (a : Src) (ofs : BitVec 16) (lq : BitVec 4)
  /-- `WAITK` 0x340 (R194). Holds the wave until a token count is at most n. -/
  | waitk (h : Ctl) (a : Src) (n : BitVec 6)
  /-- `TKRD` 0x341 (R195). Reads the error bits and nonzero flags of all tokens. -/
  | tkrd (h : Ctl) (d : Opnd)
  /-- `TKSAV` 0x342 (R196). Stores the state of all 16 tokens to memory. -/
  | tksav (h : Ctl) (a : Src) (ofs : BitVec 16)
  /-- `TKRST` 0x343 (R197). Clears or sets token error bits. -/
  | tkrst (h : Ctl) (opn : Bool) (set : BitVec 16)
  /-- `LD` 0x400 (R147). Long-latency load of an element group. -/
  | ld (h : Ctl) (d : Opnd) (a : Src) (ofs : BitVec 16) (scope : BitVec 3) (order : BitVec 3) (ty : BitVec 3) (vec : BitVec 2) (ch : BitVec 2)
  /-- `ST` 0x401 (R148). Stores a data group to memory. -/
  | st (h : Ctl) (a : Src) (b : Src) (ofs : BitVec 16) (scope : BitVec 3) (order : BitVec 3) (ty : BitVec 3) (vec : BitVec 2) (ch : BitVec 2)
  /-- `STN` 0x402 (R156). Stores one element and parks its line under a reader set. -/
  | stn (h : Ctl) (a : Src) (b : Src) (ofs : BitVec 16) (scope : BitVec 3) (order : BitVec 3) (ty : BitVec 3) (nsel : BitVec 4)
  /-- `STN_REPORT` 0x403 (R156). Stores, parks and writes a level report to a register. -/
  | stnReport (h : Ctl) (d : Opnd) (a : Src) (b : Src) (ofs : BitVec 16) (scope : BitVec 3) (order : BitVec 3) (ty : BitVec 3) (nsel : BitVec 4)
  /-- `PREF` 0x404 (R151). Prefetches a line into a cache level. -/
  | pref (h : Ctl) (a : Src) (ofs : BitVec 16) (lvl : BitVec 2)
  /-- `LDF` 0x405 (R150). Reads a line's latest value without allocating and without locate fault. -/
  | ldf (h : Ctl) (d : Opnd) (a : Src) (ofs : BitVec 16) (ty : BitVec 3) (vec : BitVec 2)
  /-- `DCWB` 0x406 (R159). Writes back dirty data at levels below a scope. -/
  | dcwb (h : Ctl) (a : Src) (ofs : BitVec 16) (scope : BitVec 3)
  /-- `DCINV` 0x407 (R159). Discards clean copies at levels below a scope. -/
  | dcinv (h : Ctl) (a : Src) (ofs : BitVec 16) (scope : BitVec 3)
  /-- `DCFL` 0x408 (R159). Writes back and discards copies at levels below a scope. -/
  | dcfl (h : Ctl) (a : Src) (ofs : BitVec 16) (scope : BitVec 3)
  /-- `ICINV` 0x409 (R160). Invalidates a fetch block at a scope. -/
  | icinv (h : Ctl) (a : Src) (ofs : BitVec 16) (scope : BitVec 3)
  /-- `IFENCE` 0x40A (R160). Holds the wave until writes and invalidations complete, then refetches. -/
  | ifence (h : Ctl)
  /-- `FENCE` 0x40B (R161). Holds the wave until its acquire, release or seq_cst conditions are met. -/
  | fence (h : Ctl) (scope : BitVec 3) (order : BitVec 3)
  /-- `RSMK` 0x440 (R155). Builds a reader-set value. -/
  | rsmk (h : Ctl) (d : Opnd) (a : Src) (b : Src) (keep : BitVec 2) (lvl : BitVec 3)
  /-- `RSREV` 0x441 (R157). Revises the reader set of a line. -/
  | rsrev (h : Ctl) (a : Src) (b : Src) (ofs : BitVec 16) (mode : BitVec 2)
  /-- `RSQRY` 0x442 (R158). Reads a line's effective reader set. -/
  | rsqry (h : Ctl) (d : Opnd) (a : Src) (ofs : BitVec 16)
  /-- `ATOM` 0x480 (R163). Returning atomic read-modify-write. -/
  | atom (h : Ctl) (d : Opnd) (a : Src) (b : Src) (ofs : BitVec 16) (scope : BitVec 3) (order : BitVec 3) (ty : BitVec 3) (aop : BitVec 4)
  /-- `ACAS` 0x481 (R163). Atomic compare-and-swap returning the old value. -/
  | acas (h : Ctl) (d : Opnd) (a : Src) (b : Src) (ofs : BitVec 16) (scope : BitVec 3) (order : BitVec 3) (ty : BitVec 3)
  /-- `RED` 0x482 (R163). Non-returning atomic reduction. -/
  | red (h : Ctl) (a : Src) (b : Src) (ofs : BitVec 16) (scope : BitVec 3) (order : BitVec 3) (ty : BitVec 3) (aop : BitVec 4)
  /-- `ENQ` 0x4C0 (R168). Enqueues a slot into a queue, optionally blocking. -/
  | enq (h : Ctl) (d : Opnd) (a : Src) (b : Src) (ofs : BitVec 16) (scope : BitVec 3) (order : BitVec 3) (sz : BitVec 2) (blk : Bool)
  /-- `DEQ` 0x4C1 (R168). Dequeues a slot from a queue, optionally blocking. -/
  | deq (h : Ctl) (d : Opnd) (a : Src) (ofs : BitVec 16) (scope : BitVec 3) (order : BitVec 3) (sz : BitVec 2) (blk : Bool)
  /-- `QINIT` 0x4C2 (R167). Initialises a queue header and fails waiting requests. -/
  | qinit (h : Ctl) (a : Src) (b : Src) (ofs : BitVec 16) (sz : BitVec 2)
  /-- `QSTAT` 0x4C3 (R169). Reads a queue's occupancy and free room. -/
  | qstat (h : Ctl) (d : Opnd) (a : Src) (ofs : BitVec 16)
  /-- `GJOIN` 0x500 (R171). Makes the block a member of its sharing group. -/
  | gjoin (h : Ctl)
  /-- `GLEAVE` 0x501 (R171). Removes the block from its sharing group. -/
  | gleave (h : Ctl)
  /-- `GMAP` 0x502 (R172). Maps a window slot to a member's scratchpad. -/
  | gmap (h : Ctl) (a : Src) (slot : BitVec 6)
  /-- `CPY` 0x600 (R215). Starts a strided copy described by a copy record. -/
  | cpy (h : Ctl) (a : Src) (ofs : BitVec 16)
  /-- `GATH` 0x601 (R216). Starts an indexed gather copy. -/
  | gath (h : Ctl) (a : Src) (ofs : BitVec 16)
  /-- `SCAT` 0x602 (R216). Starts an indexed scatter copy. -/
  | scat (h : Ctl) (a : Src) (ofs : BitVec 16)
  /-- `MCAST` 0x603 (R217). Starts a copy to several sharing-group members. -/
  | mcast (h : Ctl) (a : Src) (ofs : BitVec 16)
  /-- `CPYQ` 0x604 (R220). Reports the most recent copy that named a record. -/
  | cpyq (h : Ctl) (d : Opnd) (a : Src) (ofs : BitVec 16)
  /-- `BINIT` 0x640 (R223). Arms a byte-count barrier object. -/
  | binit (h : Ctl) (a : Src) (b : Src) (ofs : BitVec 16)
  /-- `BARR` 0x641 (R223). Counts bytes down on a barrier object as a release. -/
  | barr (h : Ctl) (a : Src) (b : Src) (ofs : BitVec 16)
  /-- `BWAIT` 0x642 (R223). Waits for a barrier phase to advance. -/
  | bwait (h : Ctl) (d : Opnd) (a : Src) (b : Src) (ofs : BitVec 16)
  /-- `BTST` 0x643 (R223). Reads a barrier object's pending count and phase. -/
  | btst (h : Ctl) (d : Opnd) (a : Src) (ofs : BitVec 16)
  /-- `TDECL` 0x644 (R226). Declares or frees a tile-table entry. -/
  | tdecl (h : Ctl) (a : Src) (b : Src) (rdy : Bool) (tile : BitVec 6)
  /-- `TSTAT` 0x645 (R226). Reads a tile-table entry. -/
  | tstat (h : Ctl) (d : Opnd) (tile : BitVec 6)
  /-- `TREL` 0x646 (R226). Releases a READY tile to DRAINING then EMPTY. -/
  | trel (h : Ctl) (tile : BitVec 6)
  /-- `MMA` 0x680 (R231). Matrix multiply-accumulate into an accumulator tile. -/
  | mma (h : Ctl) (d : Opnd) (a : Src) (b : Src) (c : Src) (ty : BitVec 3) (be5 : Bool) (kq : BitVec 10) (za : Bool)
  /-- `MMAP` 0x681 (R233). Writes unscaled FP8 partial sums of one K-block into a tile. -/
  | mmap (h : Ctl) (d : Opnd) (a : Src) (b : Src) (c : Src) (ty : BitVec 3) (be5 : Bool) (kq : BitVec 10) (za : Bool)
  /-- `ACCSC` 0x682 (R234). Applies block scales to a partial tile into an accumulator. -/
  | accsc (h : Ctl) (d : Opnd) (a : Src) (b : Src) (c : Src)
  /-- `ACCZ` 0x683 (R235). Zeroes an accumulator tile. -/
  | accz (h : Ctl) (d : Opnd)
  /-- `ACCRD` 0x684 (R235). Reads one accumulator row into registers. -/
  | accrd (h : Ctl) (d : Opnd) (a : Src) (b : Src)
  /-- `ACCWR` 0x685 (R235). Writes one accumulator row from registers. -/
  | accwr (h : Ctl) (d : Opnd) (a : Src) (b : Src)
  /-- `ACCLD` 0x686 (R235). Loads a tile from memory. -/
  | accld (h : Ctl) (d : Opnd) (a : Src) (str : BitVec 16)
  /-- `ACCST` 0x687 (R235). Stores a tile to memory. -/
  | accst (h : Ctl) (a : Src) (b : Src) (str : BitVec 16)
  /-- `COLL` 0x700 (R238). Contributes a chunk to the bound collective. -/
  | coll (h : Ctl) (d : Opnd) (a : Src) (b : Src) (ofs : BitVec 16)
  /-- `VIEWQ` 0x701 (R239). Reads the current view tag and count or a member mask. -/
  | viewq (h : Ctl) (d : Opnd) (b : Src) (sl : Bool)
  /-- `AMSEND` 0x702 (R240). Sends an active-message thread record to another device. -/
  | amsend (h : Ctl) (a : Src) (b : Option Src) (c : Src) (nw : BitVec 4)
  /-- `ARRQ` 0x703 (R241). Pops an identifier from the arrived-tile queue. -/
  | arrq (h : Ctl) (d : Opnd) (blk : Bool)
  /-- `MFS` 0x780 (R242). Reads a special register. -/
  | mfs (h : Ctl) (d : Opnd) (a : Src)
  /-- `MTS` 0x781 (R242). Writes a special register. -/
  | mts (h : Ctl) (d : Opnd) (a : Src)
  /-- Event ILLEGAL_WORD (R61): the path group to issue has reached an illegal word. -/
  | illegalWord
  /-- Event OPERATION_RETIRE (R28): the oldest operation of wave w on token tok retires. -/
  | operationRetire (w : Nat) (tok : Option (BitVec 4))
  /-- Event ASYNC_MEMORY_ERROR_TRAP (R346): cause 27 at the next issue boundary of wave w. -/
  | asyncMemoryErrorTrap (w : Nat)
  /-- Event MEMBERSHIP_CHANGE_TRAP (R407): cause 28 at the next issue boundary of wave w. -/
  | membershipChangeTrap (w : Nat)
  /-- Event WAVE_END (R10): wave w, all DONE and drained, ends. -/
  | waveEnd (w : Nat)
  /-- Event RCLAIM_GRANT (R207): the claim of wave w is served. -/
  | rclaimGrant (w : Nat)
  /-- Event WRITE_ACKNOWLEDGE (R274): a write of wave w is acknowledged. -/
  | writeAcknowledge (w : Nat)
  /-- Event AUTO_CONTRIBUTION (R412): an ended block contributes under AUTOF. -/
  | autoContribution (blk : Nat)
  /-- Event GLEAVE_TAKES_EFFECT (R171): mappings to the leaving block are revoked. -/
  | gleaveTakesEffect (blk : Nat)
  /-- Event COOPERATIVE_LEAVE (R353): wave w, stopped at safe points, leaves as SAVE records. -/
  | cooperativeLeave (w : Nat)
  /-- Event HOP_ARRIVAL (R387): the threads of wave w load their stack words. -/
  | hopArrival (w : Nat)
  /-- Event COPY_ACTIVATE (R368): the oldest waiting copy slot of the core becomes active. -/
  | copyActivate (core : Nat)
  /-- Event SEGMENT_LANDED (R369): the next segment of a copy lands. -/
  | segmentLanded (cp : Nat)
  /-- Event MCAST_DELIVERY (R217): the member of window slot ws accepts or refuses a delivery. -/
  | mcastDelivery (cp : Nat) (ws : Nat)
  /-- Event COPY_COMPLETE (R219): a copy completes and retires. -/
  | copyComplete (cp : Nat)
  /-- Event CHAINED_COMMAND_START (R373): a chained command starts. -/
  | chainedCommandStart (core : Nat) (tile : Nat)
  /-- Event MATRIX_OP_START (R374): the matrix unit starts its oldest ready operation. -/
  | matrixOpStart (core : Nat)
  /-- Event ROW_COMMIT (R376): the next row of the operation on a tile commits. -/
  | rowCommit (core : Nat) (tile : Nat)
  /-- Event MATRIX_LOAD_ERROR (R378): an operand or destination line fails the operation on a tile. -/
  | matrixLoadError (core : Nat) (tile : Nat) (kind : BitVec 8)
  /-- Event VECTOR_CLOCK_RECEIVE (R276): the n-th held message between dies is applied. -/
  | vectorClockReceive (n : Nat)
  /-- Event POSY_RECORD_ARRIVAL (R390): the i-th record in transit reaches its core. -/
  | posyRecordArrival (n : Nat)
  /-- Event FORM_TIMEOUT (R336): a forming wave of the core is released partial. -/
  | formTimeout (core : Nat) (n : Nat)
  /-- Event TASK_TYPE_READ (R440): the Posy reads the task-type entry of a forming wave. -/
  | taskTypeRead (core : Nat) (n : Nat) (resolved : Bool)
  /-- Event BLOCK_HANDOUT (R328): the distributor of the die gives its next block to an OFFER entry. -/
  | blockHandout (core : Nat) (entry : Nat)
  /-- Event INQ_DEQUEUE (R330): a slot of INQ is dequeued for the block handed to an entry. -/
  | inqDequeue (core : Nat) (entry : Nat)
  /-- Event BLOCK_BIND (R334): a block or formed wave is bound into an OFFER entry. -/
  | blockBind (core : Nat) (entry : Nat)
  /-- Event OUTQ_ENQUEUE (R330): the OUTQ slot of an ended block is enqueued. -/
  | outqEnqueue (blk : Nat)
  /-- Event POWER_WAKE (R430): an enqueue wakes the device. -/
  | powerWake
  /-- Event COLL_STAGE (R409): a waiting contribution is staged into IN. -/
  | collStage (bid : Nat) (chunk : Nat)
  /-- Event REDUCE_BLOCK_END (R411): the reduce block of a chunk has ended. -/
  | reduceBlockEnd (bid : Nat) (chunk : Nat)
  /-- Event LAUNCH_END (R327): the launch in slot ends. -/
  | launchEnd (slot : Nat)
  /-- Event BLOCK_LEAVE_PUSH (R366): the scope-local copies of a leaving block are pushed. -/
  | blockLeavePush (blk : Nat)
  /-- Event BEACON (R276): the die sends its clock entry to every other die. -/
  | beacon (die : Nat)
  /-- Event OVERFLOW_RING_DRAIN (R390): the Posy takes a record from its overflow ring. -/
  | overflowRingDrain (core : Nat) (slot : Nat)
  /-- Event STEAL (R329): the distributor steals a block of another die for an OFFER entry. -/
  | steal (core : Nat) (entry : Nat)
  /-- Event HEARTBEAT_SEND (R403): heartbeats leave for the view neighbours. -/
  | heartbeatSend (bid : Nat)
  /-- Event OCCUPANCY_REPORT (R388): a core reports its occupancy for a launch. -/
  | occupancyReport (core : Nat) (slot : Nat)
  /-- Event HOST_WRITE_CONFIRM (R284): the host confirms a write of wave w. -/
  | hostWriteConfirm (w : Nat)
  /-- Event FIXED_LATENCY_WRITEBACK (R32): results of wave w due at its counter are written. -/
  | fixedLatencyWriteback (w : Nat)
  /-- Event FAULT_RESOLVE (R346): Foxglove resolves the F to H fault of wave w, or delivers it. -/
  | faultResolve (w : Nat) (ok : Bool)
  /-- Event PARKED_WAVE_RESUME (R351): Foxglove resumes wave w. -/
  | parkedWaveResume (w : Nat)
  /-- Event PARKED_WAVE_DELIVER (R351): Foxglove delivers the fault of wave w to its handler. -/
  | parkedWaveDeliver (w : Nat)
  /-- Event PARKED_WAVE_KILL (R351): Foxglove kills wave w. -/
  | parkedWaveKill (w : Nat)
  /-- Event LAUNCH_ABORT (R351): the host runtime aborts the launch in slot. -/
  | launchAbort (slot : Nat)
  /-- Event DEBUG_READ (R362): the debugger reads an item of wave w. -/
  | debugRead (w : Nat) (item : Item)
  /-- Event DEBUG_WRITE (R362): the debugger sets an item of wave w. -/
  | debugWrite (w : Nat) (item : Item) (v : BitVec 64)
  /-- Event DEBUG_WRITE_FORCE (R362): the debugger sets an item, a pending register included. -/
  | debugWriteForce (w : Nat) (item : Item) (v : BitVec 64)
  /-- Event DEBUG_STEP (R362): one issue of wave w, then parked again. -/
  | debugStep (w : Nat)
  /-- Event DEBUG_RESUME (R362): the debugger resumes wave w. -/
  | debugResume (w : Nat)
  /-- Event DEBUG_KILL (R362): the debugger kills wave w. -/
  | debugKill (w : Nat)
  /-- Event PREEMPTION_REQUEST (R353): Foxglove sets REQ and the deadline of a block. -/
  | preemptionRequest (blk : Nat) (deadline : BitVec 64)
  /-- Event FORCED_SAVE (R354): the block is saved to its save area, or discarded. -/
  | forcedSave (blk : Nat) (area : Nat)
  /-- Event CONTEXT_SWITCH_OUT (R356): every block of the context on the core is saved; discard names those Foxglove discards under R359. -/
  | contextSwitchOut (asid : BitVec 16) (core : Nat) (area : Nat) (discard : List Nat)
  /-- Event BLOCK_RESTORE (R358): a saved block is restored through a bind entry. -/
  | blockRestore (blk : Nat) (core : Nat) (entry : Nat)
  /-- Event SCOPE_LOCAL_COPY_EVICTION (R365): the slice of cluster cl evicts its copy of a line. -/
  | scopeLocalCopyEviction (cl : Nat) (line : Nat)
  /-- Event CONTEXT_TEARDOWN (R311): a context is torn down. -/
  | contextTeardown (asid : BitVec 16)
  /-- Event TRANSLATION_CHANGE (R307): Foxglove invalidates the translations of a range. -/
  | translationChange (asid : BitVec 16) (va : BitVec 64) (size : Nat)
  /-- Event LAUNCH_ADMIT (R327): the head of queue q is admitted; pins are the cores Foxglove chooses per segment. -/
  | launchAdmit (q : Nat) (ovb : BitVec 64) (pins : List (Nat × List Nat))
  /-- Event BIND_RECORD_WRITE (R333): Foxglove writes a slot-table entry. -/
  | bindRecordWrite (core : Nat) (entry : Nat) (expect : BitVec 2) (rec : BitVec 128)
  /-- Event SCHEDULING_PERIOD (R341): the end of a scheduling period: victims get REQ and the deadline; pins are the pin changes of R386 (slot, segment, cores). -/
  | schedulingPeriod (deadline : BitVec 64) (pins : List (Nat × Nat × List Nat))
  /-- Event OVERFLOW_EXTEND (R391): Foxglove creates or extends a ring. -/
  | overflowExtend (slot : Nat) (core : Nat) (base : BitVec 64) (log2n : Nat)
  /-- Event LAUNCH_SUSPEND (R391): Foxglove suspends a launch. -/
  | launchSuspend (slot : Nat) (area : Nat)
  /-- Event ENGINE_WALK_FAILURE (R370): a failed walk of a copy is resolved, or fails the copy. -/
  | engineWalkFailure (cp : Nat) (ok : Bool)
  /-- Event MCAST_DELIVERY_TIMEOUT (R372): a delivery is dropped as not reached. -/
  | mcastDeliveryTimeout (cp : Nat) (ws : Nat)
  /-- Event HEARTBEAT_TIMEOUT (R403): a neighbour has been silent for 100 us. -/
  | heartbeatTimeout (bid : Nat) (rank : Nat)
  /-- Event SUSPECT (R404): the coordinator receives a SUSPECT naming rank. -/
  | suspect (bid : Nat) (rank : Nat)
  /-- Event GATHER_TIMEOUT (R404): 20 us of gathering are over. -/
  | gatherTimeout (bid : Nat)
  /-- Event PROPOSE (R404): a PROPOSE arrives. -/
  | propose (bid : Nat) (src : Nat) (tag : BitVec 32) (mask : List Nat)
  /-- Event ACK (R404): an ACK arrives with the chunks whose final it holds. -/
  | ack (bid : Nat) (src : Nat) (tag : BitVec 32) (opseq : BitVec 32) (chunks : List Nat)
  /-- Event NACK (R404): a NACK arrives. -/
  | nack (bid : Nat) (src : Nat) (tag : BitVec 32)
  /-- Event ACK_TIMEOUT (R404): 80 us have passed since the PROPOSE. -/
  | ackTimeout (bid : Nat)
  /-- Event COMMIT (R405): a COMMIT arrives; held lists the holders of each chunk's final that has one. -/
  | commit (bid : Nat) (tag : BitVec 32) (opseq : BitVec 32) (mask : List Nat) (held : List (Nat × List Nat))
  /-- Event COMMIT_TIMEOUT (R404): no COMMIT within 160 us of the ACK. -/
  | commitTimeout (bid : Nat)
  /-- Event ISOLATION (R404): no heartbeat from any member for 100 us. -/
  | isolation (bid : Nat)
  /-- Event JOIN (R408): a JOIN arrives. -/
  | join (bid : Nat) (rank : Nat)
  /-- Event PARTIAL (R410): a PARTIAL lands in ACC. -/
  | partialLand (bid : Nat) (tag : BitVec 32) (opseq : BitVec 32) (chunk : Nat) (mask : List Nat) (data : List (BitVec 8))
  /-- Event FINAL (R413): a FINAL arrives. -/
  | finalLand (bid : Nat) (tag : BitVec 32) (opseq : BitVec 32) (chunk : Nat) (mask : List Nat) (data : List (BitVec 8))
  /-- Event COMPLETE (R409): COMPLETE arrives. -/
  | complete (bid : Nat) (tag : BitVec 32) (opseq : BitVec 32)
  /-- Event STEP_TIMEOUT (R415): the step timer of a chunk runs out. -/
  | stepTimeout (bid : Nat) (chunk : Nat)
  /-- Event COLLECTIVE_ABANDON (R416): the operation is abandoned. -/
  | collectiveAbandon (bid : Nat)
  /-- Event AMSG (R417): an AMSG packet arrives. -/
  | amsg (part : BitVec 12) (src : BitVec 20) (core : Nat) (rec : BitVec 512)
  /-- Event AMACK (R417): AMACK arrives for an operation of wave w. -/
  | amack (w : Nat) (op : Nat) (ok : Bool)
  /-- Event SLOT_TABLE_EDIT (R399): a router swaps to a shadow table. -/
  | slotTableEdit (link : Nat) (table : List (BitVec 16))
  /-- Event PARTITION_RESET (R400): every slot of a partition becomes PURGE. -/
  | partitionReset (part : BitVec 12)
  /-- Event PURGE_EXPIRY (R400): the purged slots become FREE. -/
  | purgeExpiry (part : BitVec 12)
  /-- Event LINK_DETECT (R421): receiver terminations are sensed. -/
  | linkDetect (lanes : Nat)
  /-- Event LINK_TRAIN (R421): alignment and negotiation with what the other end supports. -/
  | linkTrain (width : Nat) (rate : Nat)
  /-- Event FLIT_REPLAY (R421): a flit fails its CRC and is retried. -/
  | flitReplay
  /-- Event LINK_RETRAIN (R421): retraining succeeds or fails. -/
  | linkRetrain (ok : Bool)
  /-- Event LINK_DOWN (R421): outstanding transactions complete with a Dunvia Link error. -/
  | linkDown
  /-- Event PLATD (R422): a host write of PLATD. -/
  | platd (v : BitVec 64)
  /-- Event LTOL (R430): a host write of LTOL. -/
  | ltol (v : BitVec 64)
  /-- Event EVT (R423): a host read of EVT. -/
  | evt
  /-- Event PARTSET_ASSIGN (R418): a host write of PARTSET with bit 63 set. -/
  | partsetAssign (v : BitVec 64)
  /-- Event PARTSET_REMOVE (R418): a host write of PARTSET with bit 63 clear. -/
  | partsetRemove (v : BitVec 64)
  /-- Event AMREG (R418): a host write of AMREG. -/
  | amreg (v : BitVec 64)
  /-- Event NTFBASE (R437): a host write of NTFBASE. -/
  | ntfbase (v : BitVec 64)
  /-- Event NTFLOG (R437): a host write of NTFLOG. -/
  | ntflog (v : BitVec 64)
  /-- Event NTFHEAD (R437): a host write of NTFHEAD. -/
  | ntfhead (v : BitVec 64)
  /-- Event LQREC (R424): a host write of LQREC(q). -/
  | lqrec (q : Nat) (v : BitVec 64)
  /-- Event REGISTER_WRITE (R423): a host write of a register with no behaviour of its own. -/
  | registerWrite (ofs : Nat) (v : BitVec 64)
  /-- Event NOTIFY (R426): service 1 for the parked wave w. -/
  | notify (w : Nat)
  /-- Event LOOKUP (R426): service 2 for the parked wave w. -/
  | lookup (w : Nat)
  /-- Event ABORT (R426): service 3 for the parked wave w. -/
  | abort (w : Nat)
  /-- Event MODSTAT (R426): service 4 for the parked wave w. -/
  | modstat (w : Nat)
  /-- Event MODULE_LOAD (R428): a linked module, the bytes of its file with the first lowest and their number, is loaded at a base into a module
  table entry. -/
  | moduleLoad (asid : BitVec 16) (idx : Nat) (base : BitVec 64) (file : Nat) (len : Nat)
  /-- Event MODULE_UNLOAD (R429): a module is unloaded unless in use. -/
  | moduleUnload (asid : BitVec 16) (idx : Nat)
  /-- Event POWER_STATE_ENTRY (R430): the idle device drops to its deepest allowed state. -/
  | powerStateEntry
  /-- Event FATAL_ERROR_DUMP (R431): a fatal error stops the dies and a dump is written. -/
  | fatalErrorDump (struct : BitVec 8) (die : BitVec 8)
  /-- Event FIRMWARE_IMAGE_CHECK (R433): a firmware image is checked. -/
  | firmwareImageCheck (hdr : List (BitVec 8)) (payload : List (BitVec 8))
  /-- Event ATTESTATION (R434): the host asks for a report. -/
  | attestation (nonce : List (BitVec 8))
  /-- Event PACKAGE_RESET (R38): a package or soft reset. -/
  | packageReset
  /-- Event POWER_ON (R435): power-on. -/
  | powerOn
  /-- Event HEARTBEAT (R403): a HEARTBEAT of a member arrives. -/
  | heartbeat (bid : Nat) (rank : Nat)
  /-- Event FABRIC_LINK_DOWN (R395): a fabric link fails. -/
  | fabricLinkDown (link : Nat)
  /-- Event FABRIC_LINK_TRAINED (R422): fabric training with the neighbours completes. -/
  | fabricLinkTrained
  /-- Event CONTEXT_CREATE (R306): Foxglove creates a context. -/
  | contextCreate (asid : BitVec 16) (root : BitVec 64) (win : BitVec 64) (q1 : Nat) (q2 : Nat) (q3 : Nat)
  /-- Event CONTEXT_ERROR_COLLECTION (R40): the host runtime collects the errors of a context. -/
  | contextErrorCollection (asid : BitVec 16)
  /-- Event FAULT_BUFFER_DISCARD (R361): Foxglove discards a held line. -/
  | faultBufferDiscard (cl : Nat) (n : Nat)
deriving DecidableEq, Repr

end Sys2Proof
end

