-- ==== Sys2Proof/WellFormed.lean ====
section
/-! DEFINITION. Which instructions a word can be: the causes of R60 as a check of the syntax. A word whose
instruction fails a check is illegal whatever the state is. -/

namespace Sys2Proof

/-- Why a word is illegal (R60), one name for each cause. -/
inductive Illegal where
  /-- OP at an unassigned point. -/
  | unassigned
  /-- G = 0b1111. -/
  | neverGuard
  /-- D[9] = 1 outside family BL. -/
  | destStale
  /-- S = 1 on a source that is not a `w` register or pair. -/
  | staleOutOfPlace
  /-- Specifier 0x180 to 0x1BF in a used field. -/
  | reservedSpecifier
  /-- The slot does not accept the operand's class. -/
  | classNotAccepted
  /-- An odd index in a 64-bit slot, or a group that must be aligned and is not. -/
  | oddPair
  /-- A bit that is not used is not zero. -/
  | nonzeroUnused
  /-- A modifier code that the instruction does not accept. -/
  | reservedModifier
  /-- A long-latency instruction with a destination and PE = 0. -/
  | missingPost
deriving DecidableEq, Repr

/-- What an operand slot accepts (the entries of the instructions). -/
inductive Slot where
  | w | wi | x | xi | p | m | n | k | acc | quad | fp8 | wp | xn | sr | srW
  | movD4 | movD6 | movA4 | movA6
deriving DecidableEq, Repr

/-- The width in bits of an integer type (R69). -/
def intW (ty : BitVec 3) : Nat := if ty.toNat < 2 then 8 else if ty.toNat < 4 then 16 else if ty.toNat < 6 then 32 else 64

/-- The destination slot of an integer type (R107). -/
def intD (ty : BitVec 3) : Slot := if ty.toNat < 6 then .w else .x
/-- The source slot of an integer type (R107). -/
def intS (ty : BitVec 3) : Slot := if ty.toNat < 6 then .wi else .xi
/-- The source slot of `ICVT` by STY: a pair and no inline constant for 6 and 7 (R113). -/
def cvtS (ty : BitVec 3) : Slot := if ty.toNat < 6 then .wi else .x
/-- The destination slot of a float type (R123). -/
def fltD (ty : BitVec 3) : Slot := if ty.toNat = 5 then .x else .w
/-- The source slot of a float type (R123). -/
def fltS (ty : BitVec 3) : Slot := if ty.toNat = 5 then .xi else .wi
/-- A register source by type, no inline constant (R178). -/
def regS (ty : BitVec 3) : Slot := intD ty
/-- The destination classes of `MOV` (R112). -/
def movD (ty : BitVec 3) : Slot := if ty.toNat = 6 then .movD6 else .movD4
/-- The source classes of `MOV` (R112). -/
def movA (ty : BitVec 3) : Slot := if ty.toNat = 6 then .movA6 else .movA4

/-- The special registers that exist (R37). -/
def srKnown (r : BitVec 6) : Bool := r.toNat ≤ 0x15 || (0x20 ≤ r.toNat && r.toNat ≤ 0x2F)
/-- The special registers of access RW (R37). -/
def srWritable (r : BitVec 6) : Bool := r.toNat = 0x0E || r.toNat = 0x0F || r.toNat = 0x13 || (0x20 ≤ r.toNat && r.toNat ≤ 0x2F)
/-- The special registers of 64 bits (R37). -/
def srWide (r : BitVec 6) : Bool :=
  r.toNat ∈ [0x02, 0x07, 0x08, 0x0B, 0x0D, 0x0E, 0x0F, 0x10, 0x13, 0x14, 0x15] || 0x20 ≤ r.toNat

/-- The class check of a slot, alignment apart. -/
def Slot.accepts : Slot → Opnd → Bool
  | .w, .w _ | .x, .w _ | .quad, .w _ | .fp8, .w _ => true
  | .wi, .w _ | .wi, .imm _ | .xi, .w _ | .xi, .imm _ => true
  | .p, .p _ | .n, .n _ | .k, .k _ | .acc, .acc _ => true
  | .m, .m i => i.toNat < 12
  | .wp, .w _ | .wp, .p _ | .xn, .w _ | .xn, .n _ => true
  | .sr, .sr r => srKnown r
  | .srW, .sr r => srWritable r
  | .movD4, .w _ | .movD4, .lc _ | .movD6, .w _ | .movD6, .n _ => true
  | .movA4, .w _ | .movA4, .imm _ | .movA4, .k _ | .movA4, .lc _ => true
  | .movA4, .m i => i.toNat < 12
  | .movA6, .w _ | .movA6, .imm _ | .movA6, .n _ => true
  | _, _ => false

/-- The alignment a slot asks of a `w` index (R16, R212). -/
def Slot.align : Slot → Nat
  | .x | .xi | .xn | .movD6 | .movA6 => 2
  | .quad => 4
  | _ => 1

/-- The check of an operand against its slot (R60). -/
def Opnd.chk (o : Opnd) (s : Slot) : Option Illegal :=
  if !s.accepts o then some .classNotAccepted
  else match o with
    | .w r => if r.toNat % s.align = 0 then none else some .oddPair
    | _ => none

/-- The operand is a `w` register. -/
def Opnd.isW : Opnd → Bool
  | .w _ => true
  | _ => false

/-- The operand is a predicate. -/
def Opnd.isP : Opnd → Bool
  | .p _ => true
  | _ => false

/-- The operand is an accumulator of even index (R229). -/
def Opnd.accEven : Opnd → Bool
  | .acc i => i.toNat % 2 = 0
  | _ => false

/-- The check of a source: its class, and S only on `w` registers and pairs (R51). -/
def Src.chk (x : Src) (s : Slot) : Option Illegal :=
  if x.stale && !x.o.isW then some .staleOutOfPlace else x.o.chk s

/-- A modifier code check. -/
def code (b : Bool) : Option Illegal := if b then none else some .reservedModifier

/-- A check that unused bits are zero. -/
def unused (b : Bool) : Option Illegal := if b then none else some .nonzeroUnused

/-- A long-latency instruction with a destination carries PE = 1 (R58). -/
def long (h : Ctl) : Option Illegal := if h.post.isSome then none else some .missingPost

/-- G = 0b1111 is illegal (R47). -/
def Ctl.chk (h : Ctl) : Option Illegal := if h.neg && h.pred = 7 then some .neverGuard else none

/-- An operand that is there exactly when `c` says so, and then fits its slot. -/
def optChk (c : Bool) (s : Slot) (o : Option Src) : Option Illegal :=
  match o with
  | none => unused (!c)
  | some x => if c then x.chk s else some .nonzeroUnused

/-- COMB 0 takes no third predicate, the others take one (R116). -/
def combChk (comb : BitVec 2) (c : Option Src) : Option Illegal := optChk (comb != 0) .p c

/-- The operands of `PMOV` by MODE (R119). -/
def pmovChk (mode : BitVec 2) (d : Option Opnd) (a : Option Src) (mask : BitVec 7) : Option Illegal :=
  match mode.toNat, d, a with
  | 0, some d, none => (d.chk .w).or (unused (mask = 0))
  | 1, none, some a => a.chk .wi
  | 2, some d, some a => ((d.chk .p).or (a.chk .wi)).or (unused (mask = 0))
  | 3, _, _ => some .reservedModifier
  | _, _, _ => some .nonzeroUnused

/-- The operands of `MMOV` by MODE (R190). -/
def mmovChk (mode : BitVec 2) (d : Opnd) (a : Src) (b : Option Src) : Option Illegal :=
  match mode.toNat with
  | 0 => ((d.chk .m).or (a.chk .m)).or (optChk false .x b)
  | 1 => ((d.chk .x).or (a.chk .m)).or (optChk false .x b)
  | 2 => ((d.chk .m).or (a.chk .wi)).or (optChk true .x b)
  | _ => some .reservedModifier

/-- VEC 3 is reserved, and VEC is 0 for TY 0 to 3 (R144). -/
def vecChk (ty : BitVec 3) (vec : BitVec 2) : Option Illegal := code (vec != 3 && (vec == 0 || 4 ≤ ty.toNat))

/-- ORDER and SCOPE of loads and stores (R145). -/
def ldOrd (ords : List Nat) (scope order : BitVec 3) : Option Illegal :=
  code (order.toNat ∈ ords && scope.toNat ≤ 5 && (order != 0 || scope == 0))

/-- AOP and TY of the atomics (R162). -/
def aopChk (aop : BitVec 4) (ty : BitVec 3) : Option Illegal :=
  code (4 ≤ ty.toNat && (aop.toNat ≤ 6 || (aop.toNat ≤ 11 && ty.toNat % 2 = 0)))

/-- A source modifier bit of R121. -/
inductive FBit where
  | nega | negb | negc | absa | absb
deriving DecidableEq, Repr

/-- The float modifiers that an entry accepts (R121, R124). -/
def FMod.chk (f : FMod) (rm sat : Bool) (mods : List FBit) : Option Illegal :=
  code ((rm || f.rm == 0) && (sat || !f.sat) && (!f.nega || .nega ∈ mods) && (!f.negb || .negb ∈ mods) &&
    (!f.negc || .negc ∈ mods) && (!f.absa || .absa ∈ mods) && (!f.absb || .absb ∈ mods))

/-- `MFS` takes a destination of the register's width (R242). -/
def mfsChk (d : Opnd) (a : Src) : Option Illegal :=
  match a.o with
  | .sr r => d.chk (if srWide r then .x else .w)
  | _ => some .classNotAccepted

/-- `MTS` takes a source of the register's width; every writable register has 64 bits (R37, R242). -/
def mtsChk (_d : Opnd) (a : Src) : Option Illegal := a.chk .xi

/-- The first check that fails. -/
def firstIllegal : List (Option Illegal) → Option Illegal
  | [] => none
  | some e :: _ => some e
  | none :: r => firstIllegal r

/-- The checks of each instruction, in the order of its fields; an event has no word and no check. DESIGN CHOICE (log 67): where the entry calls
an operand a pair and names no class (xc of `IMADW`, xa of `LEA`), an inline constant is legal, as in every 64-bit source (R51, R107). -/
def Instr.checks : Instr → List (Option Illegal)
  | .bra h _ _ => [h.chk]
  | .call h _ _ => [h.chk]
  | .brl h _ => [h.chk]
  | .calll h _ => [h.chk]
  | .brx h a _ => [h.chk, a.chk .x]
  | .callx h a _ => [h.chk, a.chk .x]
  | .ret h _ => [h.chk]
  | .exit h => [h.chk]
  | .loop h a _ => [h.chk, a.chk .wi]
  | .lbrk h n => [h.chk, code (1 ≤ n.toNat && n.toNat ≤ 4)]
  | .dly h n => [h.chk, code (n != 0)]
  | .nop h => [h.chk]
  | .yield h => [h.chk]
  | .ipref h a _ _ lvl => [h.chk, a.chk .x, code (lvl.toNat ≤ 1)]
  | .trap h _ => [h.chk]
  | .eret h => [h.chk]
  | .bkpt h _ => [h.chk]
  | .sysc h _ => [h.chk]
  | .iadd h d a b ty _ => [h.chk, code (ty.toNat ∈ [0, 1, 2, 3, 4, 5]), d.chk (intD ty), a.chk (intS ty), b.chk (intS ty)]
  | .isub h d a b ty _ => [h.chk, code (ty.toNat ∈ [0, 1, 2, 3, 4, 5]), d.chk (intD ty), a.chk (intS ty), b.chk (intS ty)]
  | .imul h d a b ty => [h.chk, code (ty.toNat ∈ [0, 1, 2, 3, 4, 5]), d.chk (intD ty), a.chk (intS ty), b.chk (intS ty)]
  | .imulh h d a b ty => [h.chk, code (ty.toNat ∈ [4, 5]), d.chk (intD ty), a.chk (intS ty), b.chk (intS ty)]
  | .imad h d a b c ty => [h.chk, code (ty.toNat ∈ [0, 1, 2, 3, 4, 5]), d.chk (intD ty), a.chk (intS ty), b.chk (intS ty), c.chk (intS ty)]
  | .imadw h d a b c ty => [h.chk, code (ty.toNat ∈ [4, 5]), d.chk (.x), a.chk (.wi), b.chk (.wi), c.chk (.xi)]
  | .imin h d a b ty => [h.chk, code (ty.toNat ∈ [0, 1, 2, 3, 4, 5, 6, 7]), d.chk (intD ty), a.chk (intS ty), b.chk (intS ty)]
  | .imax h d a b ty => [h.chk, code (ty.toNat ∈ [0, 1, 2, 3, 4, 5, 6, 7]), d.chk (intD ty), a.chk (intS ty), b.chk (intS ty)]
  | .iabs h d a ty _ => [h.chk, code (ty.toNat ∈ [1, 3, 5, 7]), d.chk (intD ty), a.chk (intS ty)]
  | .and h d a b ty => [h.chk, code (ty.toNat ∈ [4, 6]), d.chk (intD ty), a.chk (intS ty), b.chk (intS ty)]
  | .or h d a b ty => [h.chk, code (ty.toNat ∈ [4, 6]), d.chk (intD ty), a.chk (intS ty), b.chk (intS ty)]
  | .xor h d a b ty => [h.chk, code (ty.toNat ∈ [4, 6]), d.chk (intD ty), a.chk (intS ty), b.chk (intS ty)]
  | .andn h d a b ty => [h.chk, code (ty.toNat ∈ [4, 6]), d.chk (intD ty), a.chk (intS ty), b.chk (intS ty)]
  | .orn h d a b ty => [h.chk, code (ty.toNat ∈ [4, 6]), d.chk (intD ty), a.chk (intS ty), b.chk (intS ty)]
  | .shl h d a b ty => [h.chk, code (ty.toNat ∈ [4, 6]), d.chk (intD ty), a.chk (intS ty), b.chk (.wi)]
  | .shr h d a b ty => [h.chk, code (ty.toNat ∈ [4, 6]), d.chk (intD ty), a.chk (intS ty), b.chk (.wi)]
  | .sar h d a b ty => [h.chk, code (ty.toNat ∈ [5, 7]), d.chk (intD ty), a.chk (intS ty), b.chk (.wi)]
  | .rot h d a b ty => [h.chk, code (ty.toNat ∈ [4, 6]), d.chk (intD ty), a.chk (intS ty), b.chk (.wi)]
  | .fsh h d a b c ty _ => [h.chk, code (ty.toNat ∈ [4]), d.chk (.w), a.chk (.wi), b.chk (.wi), c.chk (.wi)]
  | .bfx h d a ty pos len => [h.chk, code (ty.toNat ∈ [4, 5, 6, 7]), d.chk (intD ty), a.chk (intS ty), code (pos.toNat < intW ty && len.toNat ≤ intW ty)]
  | .bfi h d a b ty pos len => [h.chk, code (ty.toNat ∈ [4, 6]), d.chk (intD ty), a.chk (intS ty), b.chk (intS ty), code (pos.toNat < intW ty && len.toNat ≤ intW ty)]
  | .popc h d a ty => [h.chk, code (ty.toNat ∈ [4, 6]), d.chk (.w), a.chk (intS ty)]
  | .clz h d a ty => [h.chk, code (ty.toNat ∈ [4, 6]), d.chk (.w), a.chk (intS ty)]
  | .brev h d a ty => [h.chk, code (ty.toNat ∈ [4, 6]), d.chk (intD ty), a.chk (intS ty)]
  | .prmb h d a b c ty => [h.chk, code (ty.toNat ∈ [4]), d.chk (.w), a.chk (.wi), b.chk (.wi), c.chk (.wi)]
  | .sel h d a b c ty => [h.chk, code (ty.toNat ∈ [4, 6]), d.chk (intD ty), a.chk (intS ty), b.chk (intS ty), c.chk (.p)]
  | .mov h d a ty => [h.chk, code (ty.toNat ∈ [4, 6]), d.chk (movD ty), a.chk (movA ty)]
  | .lea h d a b ty _ => [h.chk, code (ty.toNat ∈ [4, 5]), d.chk .x, a.chk .xi, b.chk .wi]
  | .iadd64 h d a b ty _ => [h.chk, code (ty.toNat ∈ [6, 7]), d.chk (intD ty), a.chk (intS ty), b.chk (intS ty)]
  | .isub64 h d a b ty _ => [h.chk, code (ty.toNat ∈ [6, 7]), d.chk (intD ty), a.chk (intS ty), b.chk (intS ty)]
  | .icvt h d a ty _ sty => [h.chk, d.chk (intD ty), a.chk (cvtS sty)]
  | .iaddLit h d a _ ty _ => [h.chk, code (ty.toNat ∈ [0, 1, 2, 3, 4, 5]), d.chk (intD ty), a.chk (intS ty)]
  | .isubLit h d a _ ty _ => [h.chk, code (ty.toNat ∈ [0, 1, 2, 3, 4, 5]), d.chk (intD ty), a.chk (intS ty)]
  | .imulLit h d a _ ty => [h.chk, code (ty.toNat ∈ [0, 1, 2, 3, 4, 5]), d.chk (intD ty), a.chk (intS ty)]
  | .imulhLit h d a _ ty => [h.chk, code (ty.toNat ∈ [4, 5]), d.chk (intD ty), a.chk (intS ty)]
  | .iminLit h d a _ ty => [h.chk, code (ty.toNat ∈ [0, 1, 2, 3, 4, 5, 6, 7]), d.chk (intD ty), a.chk (intS ty)]
  | .imaxLit h d a _ ty => [h.chk, code (ty.toNat ∈ [0, 1, 2, 3, 4, 5, 6, 7]), d.chk (intD ty), a.chk (intS ty)]
  | .andLit h d a _ ty => [h.chk, code (ty.toNat ∈ [4, 6]), d.chk (intD ty), a.chk (intS ty)]
  | .orLit h d a _ ty => [h.chk, code (ty.toNat ∈ [4, 6]), d.chk (intD ty), a.chk (intS ty)]
  | .xorLit h d a _ ty => [h.chk, code (ty.toNat ∈ [4, 6]), d.chk (intD ty), a.chk (intS ty)]
  | .andnLit h d a _ ty => [h.chk, code (ty.toNat ∈ [4, 6]), d.chk (intD ty), a.chk (intS ty)]
  | .ornLit h d a _ ty => [h.chk, code (ty.toNat ∈ [4, 6]), d.chk (intD ty), a.chk (intS ty)]
  | .shlLit h d a _ ty => [h.chk, code (ty.toNat ∈ [4, 6]), d.chk (intD ty), a.chk (intS ty)]
  | .shrLit h d a _ ty => [h.chk, code (ty.toNat ∈ [4, 6]), d.chk (intD ty), a.chk (intS ty)]
  | .sarLit h d a _ ty => [h.chk, code (ty.toNat ∈ [5, 7]), d.chk (intD ty), a.chk (intS ty)]
  | .rotLit h d a _ ty => [h.chk, code (ty.toNat ∈ [4, 6]), d.chk (intD ty), a.chk (intS ty)]
  | .movi h d _ ty => [h.chk, code (ty.toNat ∈ [4, 6, 7]), d.chk (intD ty)]
  | .movh h d a _ ty => [h.chk, code (ty.toNat ∈ [6]), d.chk .x, a.chk .wi]
  | .icmp h d a b c ty cond comb => [h.chk, d.chk .p, a.chk (intS ty), b.chk (intS ty), combChk comb c, code (cond.toNat ≠ 3 && cond.toNat ≠ 7)]
  | .plop h d a b c _ => [h.chk, d.chk .p, a.chk .p, b.chk .p, c.chk .p]
  | .pmov h d a mask mode => [h.chk, pmovChk mode d a mask]
  | .fadd h d a b ty f => [h.chk, code (ty.toNat ∈ [2, 3, 4]), d.chk (fltD ty), a.chk (fltS ty), b.chk (fltS ty), f.chk true true [.nega, .negb, .absa, .absb]]
  | .faddF64 h d a b ty f => [h.chk, code (ty.toNat ∈ [5]), d.chk (fltD ty), a.chk (fltS ty), b.chk (fltS ty), f.chk true true [.nega, .negb, .absa, .absb]]
  | .fsub h d a b ty f => [h.chk, code (ty.toNat ∈ [2, 3, 4]), d.chk (fltD ty), a.chk (fltS ty), b.chk (fltS ty), f.chk true true [.nega, .negb, .absa, .absb]]
  | .fsubF64 h d a b ty f => [h.chk, code (ty.toNat ∈ [5]), d.chk (fltD ty), a.chk (fltS ty), b.chk (fltS ty), f.chk true true [.nega, .negb, .absa, .absb]]
  | .fmul h d a b ty f => [h.chk, code (ty.toNat ∈ [2, 3, 4]), d.chk (fltD ty), a.chk (fltS ty), b.chk (fltS ty), f.chk true true [.nega, .negb, .absa, .absb]]
  | .fmulF64 h d a b ty f => [h.chk, code (ty.toNat ∈ [5]), d.chk (fltD ty), a.chk (fltS ty), b.chk (fltS ty), f.chk true true [.nega, .negb, .absa, .absb]]
  | .ffma h d a b c ty f => [h.chk, code (ty.toNat ∈ [2, 3, 4]), d.chk (fltD ty), a.chk (fltS ty), b.chk (fltS ty), c.chk (fltS ty), f.chk true true [.nega, .negb, .absa, .absb, .negc]]
  | .ffmaF64 h d a b c ty f => [h.chk, code (ty.toNat ∈ [5]), d.chk (fltD ty), a.chk (fltS ty), b.chk (fltS ty), c.chk (fltS ty), f.chk true true [.nega, .negb, .absa, .absb, .negc]]
  | .fmin h d a b ty f => [h.chk, code (ty.toNat ∈ [2, 3, 4]), d.chk (fltD ty), a.chk (fltS ty), b.chk (fltS ty), f.chk false false [.nega, .negb, .absa, .absb]]
  | .fminF64 h d a b ty f => [h.chk, code (ty.toNat ∈ [5]), d.chk (fltD ty), a.chk (fltS ty), b.chk (fltS ty), f.chk false false [.nega, .negb, .absa, .absb]]
  | .fmax h d a b ty f => [h.chk, code (ty.toNat ∈ [2, 3, 4]), d.chk (fltD ty), a.chk (fltS ty), b.chk (fltS ty), f.chk false false [.nega, .negb, .absa, .absb]]
  | .fmaxF64 h d a b ty f => [h.chk, code (ty.toNat ∈ [5]), d.chk (fltD ty), a.chk (fltS ty), b.chk (fltS ty), f.chk false false [.nega, .negb, .absa, .absb]]
  | .fcmp h d a b c ty _ comb => [h.chk, code (ty.toNat ∈ [2, 3, 4]), d.chk .p, a.chk (fltS ty), b.chk (fltS ty), combChk comb c]
  | .fcls h d a ty mask => [h.chk, code (ty.toNat ∈ [2, 3, 4]), d.chk .wp, a.chk (fltS ty), unused (mask == 0 || d.isP)]
  | .fcmpF64 h d a b c ty _ comb => [h.chk, code (ty.toNat ∈ [5]), d.chk .p, a.chk (fltS ty), b.chk (fltS ty), combChk comb c]
  | .fclsF64 h d a ty mask => [h.chk, code (ty.toNat ∈ [5]), d.chk .wp, a.chk (fltS ty), unused (mask == 0 || d.isP)]
  | .fscl h d a b ty f => [h.chk, code (ty.toNat ∈ [2, 3, 4]), d.chk (fltD ty), a.chk (fltS ty), b.chk (.wi), f.chk true true [.nega, .absa]]
  | .fsclF64 h d a b ty f => [h.chk, code (ty.toNat ∈ [5]), d.chk (fltD ty), a.chk (fltS ty), b.chk (.wi), f.chk true true [.nega, .absa]]
  | .frnd h d a ty f => [h.chk, code (ty.toNat ∈ [2, 3, 4]), d.chk (fltD ty), a.chk (fltS ty), f.chk true false [.nega, .absa]]
  | .frndF64 h d a ty f => [h.chk, code (ty.toNat ∈ [5]), d.chk (fltD ty), a.chk (fltS ty), f.chk true false [.nega, .absa]]
  | .faddLit h d a _ ty f => [h.chk, code (ty.toNat ∈ [4]), d.chk .w, a.chk .wi, f.chk true true [.nega, .negb]]
  | .fsubLit h d a _ ty f => [h.chk, code (ty.toNat ∈ [4]), d.chk .w, a.chk .wi, f.chk true true [.nega, .negb]]
  | .fmulLit h d a _ ty f => [h.chk, code (ty.toNat ∈ [4]), d.chk .w, a.chk .wi, f.chk true true [.nega, .negb]]
  | .fminLit h d a _ ty f => [h.chk, code (ty.toNat ∈ [4]), d.chk .w, a.chk .wi, f.chk false false [.nega, .negb]]
  | .fmaxLit h d a _ ty f => [h.chk, code (ty.toNat ∈ [4]), d.chk .w, a.chk .wi, f.chk false false [.nega, .negb]]
  | .fcmpLit h d a _ ty _ => [h.chk, code (ty.toNat ∈ [4]), d.chk .p, a.chk .wi]
  | .frcp h d a ty f => [h.chk, long h, code (ty.toNat ∈ [4, 5]), d.chk (fltD ty), a.chk (fltS ty), f.chk false false [.nega, .absa]]
  | .frsq h d a ty f => [h.chk, long h, code (ty.toNat ∈ [4, 5]), d.chk (fltD ty), a.chk (fltS ty), f.chk false false [.nega, .absa]]
  | .fsqrt h d a ty f => [h.chk, long h, code (ty.toNat ∈ [4, 5]), d.chk (fltD ty), a.chk (fltS ty), f.chk true false [.nega, .absa]]
  | .fex2 h d a ty f => [h.chk, long h, code (ty.toNat ∈ [4]), d.chk (fltD ty), a.chk (fltS ty), f.chk false false [.nega, .absa]]
  | .flg2 h d a ty f => [h.chk, long h, code (ty.toNat ∈ [4]), d.chk (fltD ty), a.chk (fltS ty), f.chk false false [.nega, .absa]]
  | .fsin h d a ty f => [h.chk, long h, code (ty.toNat ∈ [4]), d.chk (fltD ty), a.chk (fltS ty), f.chk false false [.nega, .absa]]
  | .fcos h d a ty f => [h.chk, long h, code (ty.toNat ∈ [4]), d.chk (fltD ty), a.chk (fltS ty), f.chk false false [.nega, .absa]]
  | .hfma2 h d a b c ty f => [h.chk, code (ty.toNat ∈ [2, 3]), d.chk .w, a.chk .wi, b.chk .wi, c.chk .wi, f.chk true true [.nega, .negb, .negc]]
  | .hadd2 h d a b ty f => [h.chk, code (ty.toNat ∈ [2, 3]), d.chk .w, a.chk .wi, b.chk .wi, f.chk true true [.nega, .negb]]
  | .hmul2 h d a b ty f => [h.chk, code (ty.toNat ∈ [2, 3]), d.chk .w, a.chk .wi, b.chk .wi, f.chk true true [.nega, .negb]]
  | .qdot4 h d a b c ty _ _ _ => [h.chk, code (ty.toNat ∈ [0, 1]), d.chk .w, a.chk .fp8, b.chk .fp8, c.chk .wi]
  | .idot4 h d a b c ty _ _ => [h.chk, code (ty.toNat ∈ [0, 1]), d.chk .w, a.chk .wi, b.chk .wi, c.chk .wi]
  | .fcvt h d a ty _ _ sty => [h.chk, code (ty.toNat ∈ [2, 3, 4, 5]), code (sty.toNat ∈ [2, 3, 4, 5] && sty != ty), d.chk (fltD ty), a.chk (fltS sty)]
  | .f2i h d a ty _ sty => [h.chk, code (sty.toNat ∈ [2, 3, 4, 5]), d.chk (intD ty), a.chk (fltS sty)]
  | .i2f h d a ty _ _ sty => [h.chk, code (ty.toNat ∈ [2, 3, 4, 5]), d.chk (fltD ty), a.chk (intS sty)]
  | .pack8 h d a b c ty _ _ _ => [h.chk, code (ty.toNat ∈ [0, 1]), d.chk .w, a.chk .wi, b.chk .wi, c.chk .wi]
  | .unpk8 h d a ty _ _ => [h.chk, code (ty.toNat ∈ [2, 3, 4]), d.chk (if ty.toNat = 4 then .x else .w), a.chk .fp8]
  | .shfl h d a b ty seg _ => [h.chk, code (ty.toNat ∈ [4, 6]), d.chk (intD ty), a.chk (regS ty), b.chk .wi, code (seg.toNat ≤ 5)]
  | .vote h d a cnt _ mode => [h.chk, d.chk (if mode.toNat = 0 then .w else .p), a.chk .p, code (!cnt || mode.toNat = 0)]
  | .matchLanes h d a ty => [h.chk, code (ty.toNat ∈ [4, 6]), d.chk .w, a.chk (regS ty)]
  | .redux h d a ty rop => [h.chk, code (ty.toNat ∈ [4, 5, 6, 7]), d.chk (intD ty), a.chk (intS ty), code (rop.toNat ≤ 5)]
  | .wfence h => [h.chk]
  | .mjoin h d _ => [h.chk, d.chk .m]
  | .mleave h _ => [h.chk]
  | .mwait h a => [h.chk, a.chk .m]
  | .mmov h d a b mode => [h.chk, mmovChk mode d a b]
  | .msync h a => [h.chk, a.chk .wi]
  | .spawn h a b wsrc wid tgt nw _ _ => [h.chk, a.chk .x, optChk (nw.toNat ≠ 0) .w b, optChk wid .x wsrc, code (tgt.toNat ≤ 2 && nw.toNat ≤ 11), code (tgt.toNat ≠ 2 || 2 ≤ nw.toNat)]
  | .cont h a b wsrc wid tgt nw _ _ => [h.chk, a.chk .x, optChk (nw.toNat ≠ 0) .w b, optChk wid .x wsrc, code (tgt.toNat ≤ 2 && nw.toNat ≤ 11), code (tgt.toNat ≠ 2 || 2 ≤ nw.toNat)]
  | .split h a _ _ => [h.chk, a.chk .p]
  | .rgive h nb => [h.chk, code (1 ≤ nb.toNat && nb.toNat ≤ 32)]
  | .rclaim h nb => [h.chk, code (1 ≤ nb.toNat && nb.toNat ≤ 32)]
  | .segq h d a => [h.chk, long h, d.chk .w, a.chk .x]
  | .launch h d a _ _ => [h.chk, long h, d.chk .w, a.chk .x]
  | .waitk h a _ => [h.chk, a.chk .k]
  | .tkrd h d => [h.chk, d.chk .w]
  | .tksav h a _ => [h.chk, a.chk .x]
  | .tkrst h _ _ => [h.chk]
  | .ld h d a _ scope order ty vec ch => [h.chk, long h, a.chk .x, d.chk (intD ty), vecChk ty vec, code (ch.toNat ≤ 2), ldOrd [0, 1, 4] scope order]
  | .st h a b _ scope order ty vec ch => [h.chk, a.chk .x, b.chk (if vec = 0 then intS ty else intD ty), vecChk ty vec, code (ch.toNat ≤ 2), ldOrd [0, 2, 4] scope order]
  | .stn h a b _ scope order ty _ => [h.chk, a.chk .x, b.chk (intS ty), ldOrd [0, 2, 4] scope order]
  | .stnReport h d a b _ scope order ty _ => [h.chk, long h, d.chk .w, a.chk .x, b.chk (intS ty), ldOrd [0, 2, 4] scope order]
  | .pref h a _ lvl => [h.chk, a.chk .x, code (lvl.toNat ≤ 2)]
  | .ldf h d a _ ty vec => [h.chk, long h, a.chk .x, d.chk (intD ty), vecChk ty vec]
  | .dcwb h a _ scope => [h.chk, a.chk .x, code (scope.toNat ∈ [1, 2, 3, 4, 5])]
  | .dcinv h a _ scope => [h.chk, a.chk .x, code (scope.toNat ∈ [1, 2, 3, 4, 5])]
  | .dcfl h a _ scope => [h.chk, a.chk .x, code (scope.toNat ∈ [1, 2, 3, 4, 5])]
  | .icinv h a _ scope => [h.chk, a.chk .x, code (scope.toNat ∈ [1, 3, 4])]
  | .ifence h => [h.chk]
  | .fence h scope order => [h.chk, code (scope.toNat ≤ 5 && 1 ≤ order.toNat && order.toNat ≤ 4)]
  | .rsmk h d a b keep lvl => [h.chk, d.chk .xn, a.chk .wi, b.chk .wi, code (keep.toNat ≤ 1 && lvl.toNat ≤ 5)]
  | .rsrev h a b _ mode => [h.chk, a.chk .x, b.chk .n, code (mode.toNat ≤ 2)]
  | .rsqry h d a _ => [h.chk, long h, d.chk .x, a.chk .x]
  | .atom h d a b _ scope order ty aop => [h.chk, long h, d.chk (intD ty), a.chk .x, b.chk (intS ty), aopChk aop ty, code (scope.toNat ≤ 5 && order.toNat ≤ 4)]
  | .acas h d a b _ scope order ty => [h.chk, long h, code (ty.toNat ∈ [4, 5, 6, 7]), d.chk (intD ty), a.chk .x, b.chk (if ty.toNat < 6 then .x else .quad), code (scope.toNat ≤ 5 && order.toNat ≤ 4)]
  | .red h a b _ scope order ty aop => [h.chk, a.chk .x, b.chk (intS ty), aopChk aop ty, code (scope.toNat ≤ 5 && order.toNat ∈ [0, 2])]
  | .enq h d a b _ scope order _ _ => [h.chk, long h, d.chk .w, a.chk .x, b.chk .w, code (scope.toNat ∈ [3, 4] && order.toNat ∈ [0, 2])]
  | .deq h d a _ scope order _ _ => [h.chk, long h, d.chk .w, a.chk .x, code (scope.toNat ∈ [3, 4] && order.toNat ∈ [0, 1])]
  | .qinit h a b _ _ => [h.chk, a.chk .x, b.chk .x]
  | .qstat h d a _ => [h.chk, long h, d.chk .x, a.chk .x]
  | .gjoin h => [h.chk]
  | .gleave h => [h.chk]
  | .gmap h a slot => [h.chk, a.chk .wi, code (slot != 0)]
  | .cpy h a _ => [h.chk, a.chk .x]
  | .gath h a _ => [h.chk, a.chk .x]
  | .scat h a _ => [h.chk, a.chk .x]
  | .mcast h a _ => [h.chk, a.chk .x]
  | .cpyq h d a _ => [h.chk, long h, d.chk .quad, a.chk .x]
  | .binit h a b _ => [h.chk, a.chk .x, b.chk .wi]
  | .barr h a b _ => [h.chk, a.chk .x, b.chk .wi]
  | .bwait h d a b _ => [h.chk, long h, d.chk .w, a.chk .x, b.chk .wi]
  | .btst h d a _ => [h.chk, long h, d.chk .x, a.chk .x]
  | .tdecl h a b _ _ => [h.chk, a.chk .w, b.chk .w]
  | .tstat h d _ => [h.chk, long h, d.chk .x]
  | .trel h _ => [h.chk]
  | .mma h d a b c ty be5 _ _ => [h.chk, long h, d.chk .acc, a.chk .x, b.chk .x, c.chk .w, code (ty.toNat ≤ 5), code (!be5 || ty.toNat ≤ 1), code (ty.toNat ≠ 5 || d.accEven)]
  | .mmap h d a b c ty _ kq za => [h.chk, long h, d.chk .acc, a.chk .x, b.chk .x, c.chk .w, code (ty.toNat ≤ 1 && kq.toNat = 7 && !za)]
  | .accsc h d a b c => [h.chk, long h, d.chk .acc, a.chk .acc, b.chk .x, c.chk .wi]
  | .accz h d => [h.chk, long h, d.chk .acc]
  | .accrd h d a b => [h.chk, long h, d.chk .quad, a.chk .acc, b.chk .wi]
  | .accwr h d a b => [h.chk, long h, d.chk .acc, a.chk .wi, b.chk .quad]
  | .accld h d a str => [h.chk, long h, d.chk .acc, a.chk .x, code (32 ≤ str.toNat)]
  | .accst h a b str => [h.chk, long h, a.chk .acc, b.chk .x, code (32 ≤ str.toNat)]
  | .coll h d a b _ => [h.chk, long h, d.chk .x, a.chk .x, b.chk .wi]
  | .viewq h d b _ => [h.chk, long h, d.chk .x, b.chk .wi]
  | .amsend h a b c nw => [h.chk, a.chk .x, optChk (nw.toNat ≠ 0) .w b, c.chk .w, code (nw.toNat ≤ 11)]
  | .arrq h d _ => [h.chk, long h, d.chk .w]
  | .mfs h d a => [h.chk, a.chk .sr, mfsChk d a]
  | .mts h d a => [h.chk, d.chk .srW, mtsChk d a]
  | .illegalWord => []
  | .operationRetire _ _ => []
  | .asyncMemoryErrorTrap _ => []
  | .membershipChangeTrap _ => []
  | .waveEnd _ => []
  | .rclaimGrant _ => []
  | .writeAcknowledge _ => []
  | .autoContribution _ => []
  | .gleaveTakesEffect _ => []
  | .cooperativeLeave _ => []
  | .hopArrival _ => []
  | .copyActivate _ => []
  | .segmentLanded _ => []
  | .mcastDelivery _ _ => []
  | .copyComplete _ => []
  | .chainedCommandStart _ _ => []
  | .matrixOpStart _ => []
  | .rowCommit _ _ => []
  | .matrixLoadError _ _ _ => []
  | .vectorClockReceive _ => []
  | .posyRecordArrival _ => []
  | .formTimeout _ _ => []
  | .taskTypeRead _ _ _ => []
  | .blockHandout _ _ => []
  | .inqDequeue _ _ => []
  | .blockBind _ _ => []
  | .outqEnqueue _ => []
  | .powerWake => []
  | .collStage _ _ => []
  | .reduceBlockEnd _ _ => []
  | .launchEnd _ => []
  | .blockLeavePush _ => []
  | .beacon _ => []
  | .overflowRingDrain _ _ => []
  | .steal _ _ => []
  | .heartbeatSend _ => []
  | .occupancyReport _ _ => []
  | .hostWriteConfirm _ => []
  | .fixedLatencyWriteback _ => []
  | .faultResolve _ _ => []
  | .parkedWaveResume _ => []
  | .parkedWaveDeliver _ => []
  | .parkedWaveKill _ => []
  | .launchAbort _ => []
  | .debugRead _ _ => []
  | .debugWrite _ _ _ => []
  | .debugWriteForce _ _ _ => []
  | .debugStep _ => []
  | .debugResume _ => []
  | .debugKill _ => []
  | .preemptionRequest _ _ => []
  | .forcedSave _ _ => []
  | .contextSwitchOut _ _ _ _ => []
  | .blockRestore _ _ _ => []
  | .scopeLocalCopyEviction _ _ => []
  | .contextTeardown _ => []
  | .translationChange _ _ _ => []
  | .launchAdmit _ _ _ => []
  | .bindRecordWrite _ _ _ _ => []
  | .schedulingPeriod _ _ => []
  | .overflowExtend _ _ _ _ => []
  | .launchSuspend _ _ => []
  | .engineWalkFailure _ _ => []
  | .mcastDeliveryTimeout _ _ => []
  | .heartbeatTimeout _ _ => []
  | .suspect _ _ => []
  | .gatherTimeout _ => []
  | .propose _ _ _ _ => []
  | .ack _ _ _ _ _ => []
  | .nack _ _ _ => []
  | .ackTimeout _ => []
  | .commit _ _ _ _ _ => []
  | .commitTimeout _ => []
  | .isolation _ => []
  | .join _ _ => []
  | .partialLand _ _ _ _ _ _ => []
  | .finalLand _ _ _ _ _ _ => []
  | .complete _ _ _ => []
  | .stepTimeout _ _ => []
  | .collectiveAbandon _ => []
  | .amsg _ _ _ _ => []
  | .amack _ _ _ => []
  | .slotTableEdit _ _ => []
  | .partitionReset _ => []
  | .purgeExpiry _ => []
  | .linkDetect _ => []
  | .linkTrain _ _ => []
  | .flitReplay => []
  | .linkRetrain _ => []
  | .linkDown => []
  | .platd _ => []
  | .ltol _ => []
  | .evt => []
  | .partsetAssign _ => []
  | .partsetRemove _ => []
  | .amreg _ => []
  | .ntfbase _ => []
  | .ntflog _ => []
  | .ntfhead _ => []
  | .lqrec _ _ => []
  | .registerWrite _ _ => []
  | .notify _ => []
  | .lookup _ => []
  | .abort _ => []
  | .modstat _ => []
  | .moduleLoad _ _ _ _ _ => []
  | .moduleUnload _ _ => []
  | .powerStateEntry => []
  | .fatalErrorDump _ _ => []
  | .firmwareImageCheck _ _ => []
  | .attestation _ => []
  | .packageReset => []
  | .powerOn => []
  | .heartbeat _ _ => []
  | .fabricLinkDown _ => []
  | .fabricLinkTrained => []
  | .contextCreate _ _ _ _ _ _ => []
  | .contextErrorCollection _ => []
  | .faultBufferDiscard _ _ => []

/-- Why the instruction is no instruction of the machine, if it is none (R60). -/
def Instr.illegal (i : Instr) : Option Illegal := firstIllegal i.checks

/-- A well-formed instruction: every check of R60 that its syntax leaves open holds. -/
def Instr.wf (i : Instr) : Bool := i.illegal.isNone

end Sys2Proof
end

