-- ==== Sys2Proof/Decode.lean ====
section
/-! DEFINITION. The 96-bit word (R45, R46): its fields, the decoder, total on every word and refusing by the names of
R60, and the encoder, both written from the encoding tables of the spec (R52 to R54, R91, R108, R142, R178, R185,
R193, R200, R212, R222, R225, R229, R237, R242). -/

namespace Sys2Proof

/-- The seven fields of a word, high bit first (R46). -/
structure Fields where
  op : BitVec 12
  g : BitVec 4
  h : BitVec 20
  d : BitVec 10
  a : BitVec 10
  b : BitVec 10
  m : BitVec 30
deriving DecidableEq, Repr

/-- `n` bits of `x` from bit `lo` upward. -/
abbrev bits (x : BitVec w) (lo n : Nat) : BitVec n := x.extractLsb' lo n

/-- One bit of `x`. -/
abbrev bit (x : BitVec w) (i : Nat) : Bool := bits x i 1 == 1#1

/-- The word of some fields. -/
def Fields.word (f : Fields) : BitVec 96 := f.op ++ f.g ++ f.h ++ f.d ++ f.a ++ f.b ++ f.m

/-- The fields of a word. -/
def Fields.of (w : BitVec 96) : Fields :=
  ⟨bits w 84 12, bits w 80 4, bits w 60 20, bits w 50 10, bits w 40 10, bits w 30 10, bits w 0 30⟩

/-- The specifier of an operand (R51). -/
def Opnd.specNat : Opnd → Nat
  | .w r => r.toNat
  | .p r => 0x100 + r.toNat
  | .m r => 0x108 + r.toNat
  | .n r => 0x114 + r.toNat
  | .k r => 0x124 + r.toNat
  | .acc r => 0x134 + r.toNat
  | .lc r => 0x13C + r.toNat
  | .sr r => 0x140 + r.toNat
  | .imm r => 0x1C0 + r.toNat

/-- The specifier as 9 bits. -/
def Opnd.spec (o : Opnd) : BitVec 9 := BitVec.ofNat 9 o.specNat

/-- The operand a specifier names; none where it is reserved (R51). -/
def Opnd.ofSpec (s : BitVec 9) : Option Opnd :=
  let n := s.toNat
  if n < 0x100 then some (.w (BitVec.ofNat 8 n))
  else if n < 0x108 then some (.p (BitVec.ofNat 3 (n - 0x100)))
  else if n < 0x114 then some (.m (BitVec.ofNat 4 (n - 0x108)))
  else if n < 0x124 then some (.n (BitVec.ofNat 4 (n - 0x114)))
  else if n < 0x134 then some (.k (BitVec.ofNat 4 (n - 0x124)))
  else if n < 0x13C then some (.acc (BitVec.ofNat 3 (n - 0x134)))
  else if n < 0x140 then some (.lc (BitVec.ofNat 2 (n - 0x13C)))
  else if n < 0x180 then some (.sr (BitVec.ofNat 6 (n - 0x140)))
  else if n < 0x1C0 then none
  else some (.imm (BitVec.ofNat 6 (n - 0x1C0)))

/-- Field D of a destination. -/
def Opnd.dBits (o : Opnd) : BitVec 10 := 0#1 ++ o.spec

/-- A source field: S, then the specifier. -/
def Src.bits (x : Src) : BitVec 10 := BitVec.ofBool x.stale ++ x.o.spec

/-- A source field that may be unused. -/
def optBits : Option Src → BitVec 10
  | none => 0
  | some x => x.bits

/-- A destination field that may be unused. -/
def optDBits : Option Opnd → BitVec 10
  | none => 0
  | some o => o.dBits

/-- Reads field D. -/
def dOp (x : BitVec 10) : Except Illegal Opnd :=
  if bit x 9 then .error .destStale
  else match Opnd.ofSpec (bits x 0 9) with
    | some o => .ok o
    | none => .error .reservedSpecifier

/-- Reads a source field. -/
def sOp (x : BitVec 10) : Except Illegal Src :=
  match Opnd.ofSpec (bits x 0 9) with
  | some o => .ok ⟨o, bit x 9⟩
  | none => .error .reservedSpecifier

/-- Reads a source field that is used only when `c` holds. -/
def optS (c : Bool) (x : BitVec 10) : Except Illegal (Option Src) :=
  if c then (sOp x).map some else .ok none

/-- Reads field D when it is used. -/
def optD (c : Bool) (x : BitVec 10) : Except Illegal (Option Opnd) :=
  if c then (dOp x).map some else .ok none

/-- Fields G and H of the hints (R46, R48). -/
def Ctl.gBits (c : Ctl) : BitVec 4 := BitVec.ofBool c.neg ++ c.pred

/-- Field H (R48). -/
def Ctl.hBits (c : Ctl) : BitVec 20 :=
  c.gap ++ BitVec.ofBool c.post.isSome ++ c.post.getD 0 ++ BitVec.ofBool c.wait.isSome ++
    (c.wait.getD (0, 0)).1 ++ (c.wait.getD (0, 0)).2 ++ BitVec.ofBool c.sp

/-- Reads fields G and H. -/
def Ctl.of (g : BitVec 4) (h : BitVec 20) : Ctl :=
  ⟨bit g 3, bits g 0 3, bits h 17 3, if bit h 16 then some (bits h 12 4) else none,
    if bit h 11 then some (bits h 7 4, bits h 1 6) else none, bit h 0⟩

/-- Class 0x01: control. -/
def parse01 (h : Ctl) (f : Fields) : Except Illegal Instr :=
  match (bits f.op 0 6).toNat with
  | 0x00 => .ok (.bra h (f.a ++ f.b ++ bits f.m 20 10) (bits f.m 9 11))
  | 0x01 => .ok (.brl h (f.d ++ f.a ++ f.b ++ f.m))
  | 0x02 => do
    let a ← sOp f.a
    .ok (.brx h a (bits f.m 9 11))
  | 0x03 => .ok (.call h (f.a ++ f.b ++ bits f.m 20 10) (bits f.m 9 11))
  | 0x04 => .ok (.calll h (f.d ++ f.a ++ f.b ++ f.m))
  | 0x05 => do
    let a ← sOp f.a
    .ok (.callx h a (bits f.m 9 11))
  | 0x06 => .ok (.ret h (bits f.m 9 11))
  | 0x07 => .ok (.exit h)
  | 0x08 => do
    let a ← sOp f.a
    .ok (.loop h a (bits f.m 0 20))
  | 0x09 => .ok (.lbrk h (bits f.m 0 3))
  | 0x0A => .ok (.dly h (bits f.m 0 6))
  | 0x0B => .ok (.nop h)
  | 0x0C => .ok (.yield h)
  | 0x0D => do
    let a ← sOp f.a
    .ok (.ipref h a (bits f.m 14 16) (bits f.m 2 8) (bits f.m 0 2))
  | 0x0E => .ok (.trap h (bits f.m 0 16))
  | 0x0F => .ok (.eret h)
  | 0x10 => .ok (.bkpt h (bits f.m 0 16))
  | 0x11 => .ok (.sysc h (bits f.m 0 16))
  | _ => .error .unassigned

/-- Class 0x02: integer and address. -/
def parse02 (h : Ctl) (f : Fields) : Except Illegal Instr :=
  match (bits f.op 0 6).toNat with
  | 0x00 => do
    let d ← dOp f.d
    let a ← sOp f.a
    let b ← sOp f.b
    .ok (.iadd h d a b (bits f.m 17 3) (bit f.m 14))
  | 0x01 => do
    let d ← dOp f.d
    let a ← sOp f.a
    let b ← sOp f.b
    .ok (.isub h d a b (bits f.m 17 3) (bit f.m 14))
  | 0x02 => do
    let d ← dOp f.d
    let a ← sOp f.a
    let b ← sOp f.b
    .ok (.imul h d a b (bits f.m 17 3))
  | 0x03 => do
    let d ← dOp f.d
    let a ← sOp f.a
    let b ← sOp f.b
    .ok (.imulh h d a b (bits f.m 17 3))
  | 0x04 => do
    let d ← dOp f.d
    let a ← sOp f.a
    let b ← sOp f.b
    let c ← sOp (bits f.m 20 10)
    .ok (.imad h d a b c (bits f.m 17 3))
  | 0x05 => do
    let d ← dOp f.d
    let a ← sOp f.a
    let b ← sOp f.b
    let c ← sOp (bits f.m 20 10)
    .ok (.imadw h d a b c (bits f.m 17 3))
  | 0x06 => do
    let d ← dOp f.d
    let a ← sOp f.a
    let b ← sOp f.b
    .ok (.imin h d a b (bits f.m 17 3))
  | 0x07 => do
    let d ← dOp f.d
    let a ← sOp f.a
    let b ← sOp f.b
    .ok (.imax h d a b (bits f.m 17 3))
  | 0x08 => do
    let d ← dOp f.d
    let a ← sOp f.a
    .ok (.iabs h d a (bits f.m 17 3) (bit f.m 14))
  | 0x09 => do
    let d ← dOp f.d
    let a ← sOp f.a
    let b ← sOp f.b
    .ok (.and h d a b (bits f.m 17 3))
  | 0x0A => do
    let d ← dOp f.d
    let a ← sOp f.a
    let b ← sOp f.b
    .ok (.or h d a b (bits f.m 17 3))
  | 0x0B => do
    let d ← dOp f.d
    let a ← sOp f.a
    let b ← sOp f.b
    .ok (.xor h d a b (bits f.m 17 3))
  | 0x0C => do
    let d ← dOp f.d
    let a ← sOp f.a
    let b ← sOp f.b
    .ok (.andn h d a b (bits f.m 17 3))
  | 0x0D => do
    let d ← dOp f.d
    let a ← sOp f.a
    let b ← sOp f.b
    .ok (.orn h d a b (bits f.m 17 3))
  | 0x0E => do
    let d ← dOp f.d
    let a ← sOp f.a
    let b ← sOp f.b
    .ok (.shl h d a b (bits f.m 17 3))
  | 0x0F => do
    let d ← dOp f.d
    let a ← sOp f.a
    let b ← sOp f.b
    .ok (.shr h d a b (bits f.m 17 3))
  | 0x10 => do
    let d ← dOp f.d
    let a ← sOp f.a
    let b ← sOp f.b
    .ok (.sar h d a b (bits f.m 17 3))
  | 0x11 => do
    let d ← dOp f.d
    let a ← sOp f.a
    let b ← sOp f.b
    .ok (.rot h d a b (bits f.m 17 3))
  | 0x12 => do
    let d ← dOp f.d
    let a ← sOp f.a
    let b ← sOp f.b
    let c ← sOp (bits f.m 20 10)
    .ok (.fsh h d a b c (bits f.m 17 3) (bit f.m 0))
  | 0x13 => do
    let d ← dOp f.d
    let a ← sOp f.a
    .ok (.bfx h d a (bits f.m 17 3) (bits f.m 7 6) (bits f.m 0 7))
  | 0x14 => do
    let d ← dOp f.d
    let a ← sOp f.a
    let b ← sOp f.b
    .ok (.bfi h d a b (bits f.m 17 3) (bits f.m 7 6) (bits f.m 0 7))
  | 0x15 => do
    let d ← dOp f.d
    let a ← sOp f.a
    .ok (.popc h d a (bits f.m 17 3))
  | 0x16 => do
    let d ← dOp f.d
    let a ← sOp f.a
    .ok (.clz h d a (bits f.m 17 3))
  | 0x17 => do
    let d ← dOp f.d
    let a ← sOp f.a
    .ok (.brev h d a (bits f.m 17 3))
  | 0x18 => do
    let d ← dOp f.d
    let a ← sOp f.a
    let b ← sOp f.b
    let c ← sOp (bits f.m 20 10)
    .ok (.prmb h d a b c (bits f.m 17 3))
  | 0x19 => do
    let d ← dOp f.d
    let a ← sOp f.a
    let b ← sOp f.b
    let c ← sOp (bits f.m 20 10)
    .ok (.sel h d a b c (bits f.m 17 3))
  | 0x1A => do
    let d ← dOp f.d
    let a ← sOp f.a
    .ok (.mov h d a (bits f.m 17 3))
  | 0x1B => do
    let d ← dOp f.d
    let a ← sOp f.a
    let b ← sOp f.b
    .ok (.lea h d a b (bits f.m 17 3) (bits f.m 0 3))
  | 0x1C => do
    let d ← dOp f.d
    let a ← sOp f.a
    let b ← sOp f.b
    .ok (.iadd64 h d a b (bits f.m 17 3) (bit f.m 14))
  | 0x1D => do
    let d ← dOp f.d
    let a ← sOp f.a
    let b ← sOp f.b
    .ok (.isub64 h d a b (bits f.m 17 3) (bit f.m 14))
  | 0x1E => do
    let d ← dOp f.d
    let a ← sOp f.a
    .ok (.icvt h d a (bits f.m 17 3) (bit f.m 14) (bits f.m 0 3))
  | _ => .error .unassigned

/-- Class 0x03: integer literal. -/
def parse03 (h : Ctl) (f : Fields) : Except Illegal Instr :=
  match (bits f.op 0 6).toNat with
  | 0x00 => do
    let d ← dOp f.d
    let a ← sOp f.a
    .ok (.iaddLit h d a (f.b ++ bits f.m 8 22) (bits f.m 5 3) (bit f.m 4))
  | 0x01 => do
    let d ← dOp f.d
    let a ← sOp f.a
    .ok (.isubLit h d a (f.b ++ bits f.m 8 22) (bits f.m 5 3) (bit f.m 4))
  | 0x02 => do
    let d ← dOp f.d
    let a ← sOp f.a
    .ok (.imulLit h d a (f.b ++ bits f.m 8 22) (bits f.m 5 3))
  | 0x03 => do
    let d ← dOp f.d
    let a ← sOp f.a
    .ok (.imulhLit h d a (f.b ++ bits f.m 8 22) (bits f.m 5 3))
  | 0x06 => do
    let d ← dOp f.d
    let a ← sOp f.a
    .ok (.iminLit h d a (f.b ++ bits f.m 8 22) (bits f.m 5 3))
  | 0x07 => do
    let d ← dOp f.d
    let a ← sOp f.a
    .ok (.imaxLit h d a (f.b ++ bits f.m 8 22) (bits f.m 5 3))
  | 0x09 => do
    let d ← dOp f.d
    let a ← sOp f.a
    .ok (.andLit h d a (f.b ++ bits f.m 8 22) (bits f.m 5 3))
  | 0x0A => do
    let d ← dOp f.d
    let a ← sOp f.a
    .ok (.orLit h d a (f.b ++ bits f.m 8 22) (bits f.m 5 3))
  | 0x0B => do
    let d ← dOp f.d
    let a ← sOp f.a
    .ok (.xorLit h d a (f.b ++ bits f.m 8 22) (bits f.m 5 3))
  | 0x0C => do
    let d ← dOp f.d
    let a ← sOp f.a
    .ok (.andnLit h d a (f.b ++ bits f.m 8 22) (bits f.m 5 3))
  | 0x0D => do
    let d ← dOp f.d
    let a ← sOp f.a
    .ok (.ornLit h d a (f.b ++ bits f.m 8 22) (bits f.m 5 3))
  | 0x0E => do
    let d ← dOp f.d
    let a ← sOp f.a
    .ok (.shlLit h d a (f.b ++ bits f.m 8 22) (bits f.m 5 3))
  | 0x0F => do
    let d ← dOp f.d
    let a ← sOp f.a
    .ok (.shrLit h d a (f.b ++ bits f.m 8 22) (bits f.m 5 3))
  | 0x10 => do
    let d ← dOp f.d
    let a ← sOp f.a
    .ok (.sarLit h d a (f.b ++ bits f.m 8 22) (bits f.m 5 3))
  | 0x11 => do
    let d ← dOp f.d
    let a ← sOp f.a
    .ok (.rotLit h d a (f.b ++ bits f.m 8 22) (bits f.m 5 3))
  | 0x20 => do
    let d ← dOp f.d
    .ok (.movi h d (f.b ++ bits f.m 8 22) (bits f.m 5 3))
  | 0x21 => do
    let d ← dOp f.d
    let a ← sOp f.a
    .ok (.movh h d a (f.b ++ bits f.m 8 22) (bits f.m 5 3))
  | _ => .error .unassigned

/-- Class 0x04: compare and predicate. -/
def parse04 (h : Ctl) (f : Fields) : Except Illegal Instr :=
  match (bits f.op 0 6).toNat with
  | 0x00 => do
    let d ← dOp f.d
    let a ← sOp f.a
    let b ← sOp f.b
    let comb := bits f.m 12 2
    let c ← optS (comb != 0) (bits f.m 20 10)
    .ok (.icmp h d a b c (bits f.m 17 3) (bits f.m 0 3) comb)
  | 0x01 => do
    let d ← dOp f.d
    let a ← sOp f.a
    let b ← sOp f.b
    let c ← sOp (bits f.m 20 10)
    .ok (.plop h d a b c (bits f.m 0 8))
  | 0x02 => do
    let mode := bits f.m 0 2
    let d ← optD (mode.toNat ≠ 1) f.d
    let a ← optS (mode.toNat ≠ 0) f.a
    .ok (.pmov h d a (bits f.m 2 7) mode)
  | _ => .error .unassigned

/-- Class 0x05: float. -/
def parse05 (h : Ctl) (f : Fields) : Except Illegal Instr :=
  match (bits f.op 0 6).toNat with
  | 0x00 => do
    let d ← dOp f.d
    let a ← sOp f.a
    let b ← sOp f.b
    .ok (.fadd h d a b (bits f.m 17 3) ⟨bits f.m 15 2, bit f.m 14, bit f.m 4, bit f.m 3, bit f.m 2, bit f.m 1, bit f.m 0⟩)
  | 0x01 => do
    let d ← dOp f.d
    let a ← sOp f.a
    let b ← sOp f.b
    .ok (.fsub h d a b (bits f.m 17 3) ⟨bits f.m 15 2, bit f.m 14, bit f.m 4, bit f.m 3, bit f.m 2, bit f.m 1, bit f.m 0⟩)
  | 0x02 => do
    let d ← dOp f.d
    let a ← sOp f.a
    let b ← sOp f.b
    .ok (.fmul h d a b (bits f.m 17 3) ⟨bits f.m 15 2, bit f.m 14, bit f.m 4, bit f.m 3, bit f.m 2, bit f.m 1, bit f.m 0⟩)
  | 0x03 => do
    let d ← dOp f.d
    let a ← sOp f.a
    let b ← sOp f.b
    let c ← sOp (bits f.m 20 10)
    .ok (.ffma h d a b c (bits f.m 17 3) ⟨bits f.m 15 2, bit f.m 14, bit f.m 4, bit f.m 3, bit f.m 2, bit f.m 1, bit f.m 0⟩)
  | 0x04 => do
    let d ← dOp f.d
    let a ← sOp f.a
    let b ← sOp f.b
    .ok (.fmin h d a b (bits f.m 17 3) ⟨bits f.m 15 2, bit f.m 14, bit f.m 4, bit f.m 3, bit f.m 2, bit f.m 1, bit f.m 0⟩)
  | 0x05 => do
    let d ← dOp f.d
    let a ← sOp f.a
    let b ← sOp f.b
    .ok (.fmax h d a b (bits f.m 17 3) ⟨bits f.m 15 2, bit f.m 14, bit f.m 4, bit f.m 3, bit f.m 2, bit f.m 1, bit f.m 0⟩)
  | 0x06 => do
    let d ← dOp f.d
    let a ← sOp f.a
    let b ← sOp f.b
    let comb := bits f.m 12 2
    let c ← optS (comb != 0) (bits f.m 20 10)
    .ok (.fcmp h d a b c (bits f.m 17 3) (bits f.m 0 3) comb)
  | 0x07 => do
    let d ← dOp f.d
    let a ← sOp f.a
    .ok (.fcls h d a (bits f.m 17 3) (bits f.m 0 9))
  | 0x08 => do
    let d ← dOp f.d
    let a ← sOp f.a
    let b ← sOp f.b
    .ok (.fscl h d a b (bits f.m 17 3) ⟨bits f.m 15 2, bit f.m 14, bit f.m 4, bit f.m 3, bit f.m 2, bit f.m 1, bit f.m 0⟩)
  | 0x09 => do
    let d ← dOp f.d
    let a ← sOp f.a
    .ok (.frnd h d a (bits f.m 17 3) ⟨bits f.m 15 2, bit f.m 14, bit f.m 4, bit f.m 3, bit f.m 2, bit f.m 1, bit f.m 0⟩)
  | _ => .error .unassigned

/-- Class 0x06: float literal. -/
def parse06 (h : Ctl) (f : Fields) : Except Illegal Instr :=
  match (bits f.op 0 6).toNat with
  | 0x00 => do
    let d ← dOp f.d
    let a ← sOp f.a
    .ok (.faddLit h d a (f.b ++ bits f.m 8 22) (bits f.m 5 3) ⟨bits f.m 2 2, bit f.m 4, false, false, false, bit f.m 1, bit f.m 0⟩)
  | 0x01 => do
    let d ← dOp f.d
    let a ← sOp f.a
    .ok (.fsubLit h d a (f.b ++ bits f.m 8 22) (bits f.m 5 3) ⟨bits f.m 2 2, bit f.m 4, false, false, false, bit f.m 1, bit f.m 0⟩)
  | 0x02 => do
    let d ← dOp f.d
    let a ← sOp f.a
    .ok (.fmulLit h d a (f.b ++ bits f.m 8 22) (bits f.m 5 3) ⟨bits f.m 2 2, bit f.m 4, false, false, false, bit f.m 1, bit f.m 0⟩)
  | 0x04 => do
    let d ← dOp f.d
    let a ← sOp f.a
    .ok (.fminLit h d a (f.b ++ bits f.m 8 22) (bits f.m 5 3) ⟨bits f.m 2 2, bit f.m 4, false, false, false, bit f.m 1, bit f.m 0⟩)
  | 0x05 => do
    let d ← dOp f.d
    let a ← sOp f.a
    .ok (.fmaxLit h d a (f.b ++ bits f.m 8 22) (bits f.m 5 3) ⟨bits f.m 2 2, bit f.m 4, false, false, false, bit f.m 1, bit f.m 0⟩)
  | 0x06 => do
    let d ← dOp f.d
    let a ← sOp f.a
    .ok (.fcmpLit h d a (f.b ++ bits f.m 8 22) (bits f.m 5 3) (bits f.m 0 2))
  | _ => .error .unassigned

/-- Class 0x07: FP64. -/
def parse07 (h : Ctl) (f : Fields) : Except Illegal Instr :=
  match (bits f.op 0 6).toNat with
  | 0x00 => do
    let d ← dOp f.d
    let a ← sOp f.a
    let b ← sOp f.b
    .ok (.faddF64 h d a b (bits f.m 17 3) ⟨bits f.m 15 2, bit f.m 14, bit f.m 4, bit f.m 3, bit f.m 2, bit f.m 1, bit f.m 0⟩)
  | 0x01 => do
    let d ← dOp f.d
    let a ← sOp f.a
    let b ← sOp f.b
    .ok (.fsubF64 h d a b (bits f.m 17 3) ⟨bits f.m 15 2, bit f.m 14, bit f.m 4, bit f.m 3, bit f.m 2, bit f.m 1, bit f.m 0⟩)
  | 0x02 => do
    let d ← dOp f.d
    let a ← sOp f.a
    let b ← sOp f.b
    .ok (.fmulF64 h d a b (bits f.m 17 3) ⟨bits f.m 15 2, bit f.m 14, bit f.m 4, bit f.m 3, bit f.m 2, bit f.m 1, bit f.m 0⟩)
  | 0x03 => do
    let d ← dOp f.d
    let a ← sOp f.a
    let b ← sOp f.b
    let c ← sOp (bits f.m 20 10)
    .ok (.ffmaF64 h d a b c (bits f.m 17 3) ⟨bits f.m 15 2, bit f.m 14, bit f.m 4, bit f.m 3, bit f.m 2, bit f.m 1, bit f.m 0⟩)
  | 0x04 => do
    let d ← dOp f.d
    let a ← sOp f.a
    let b ← sOp f.b
    .ok (.fminF64 h d a b (bits f.m 17 3) ⟨bits f.m 15 2, bit f.m 14, bit f.m 4, bit f.m 3, bit f.m 2, bit f.m 1, bit f.m 0⟩)
  | 0x05 => do
    let d ← dOp f.d
    let a ← sOp f.a
    let b ← sOp f.b
    .ok (.fmaxF64 h d a b (bits f.m 17 3) ⟨bits f.m 15 2, bit f.m 14, bit f.m 4, bit f.m 3, bit f.m 2, bit f.m 1, bit f.m 0⟩)
  | 0x06 => do
    let d ← dOp f.d
    let a ← sOp f.a
    let b ← sOp f.b
    let comb := bits f.m 12 2
    let c ← optS (comb != 0) (bits f.m 20 10)
    .ok (.fcmpF64 h d a b c (bits f.m 17 3) (bits f.m 0 3) comb)
  | 0x07 => do
    let d ← dOp f.d
    let a ← sOp f.a
    .ok (.fclsF64 h d a (bits f.m 17 3) (bits f.m 0 9))
  | 0x08 => do
    let d ← dOp f.d
    let a ← sOp f.a
    let b ← sOp f.b
    .ok (.fsclF64 h d a b (bits f.m 17 3) ⟨bits f.m 15 2, bit f.m 14, bit f.m 4, bit f.m 3, bit f.m 2, bit f.m 1, bit f.m 0⟩)
  | 0x09 => do
    let d ← dOp f.d
    let a ← sOp f.a
    .ok (.frndF64 h d a (bits f.m 17 3) ⟨bits f.m 15 2, bit f.m 14, bit f.m 4, bit f.m 3, bit f.m 2, bit f.m 1, bit f.m 0⟩)
  | _ => .error .unassigned

/-- Class 0x08: special function. -/
def parse08 (h : Ctl) (f : Fields) : Except Illegal Instr :=
  match (bits f.op 0 6).toNat with
  | 0x00 => do
    let d ← dOp f.d
    let a ← sOp f.a
    .ok (.frcp h d a (bits f.m 17 3) ⟨bits f.m 15 2, bit f.m 14, bit f.m 4, bit f.m 3, bit f.m 2, bit f.m 1, bit f.m 0⟩)
  | 0x01 => do
    let d ← dOp f.d
    let a ← sOp f.a
    .ok (.frsq h d a (bits f.m 17 3) ⟨bits f.m 15 2, bit f.m 14, bit f.m 4, bit f.m 3, bit f.m 2, bit f.m 1, bit f.m 0⟩)
  | 0x02 => do
    let d ← dOp f.d
    let a ← sOp f.a
    .ok (.fsqrt h d a (bits f.m 17 3) ⟨bits f.m 15 2, bit f.m 14, bit f.m 4, bit f.m 3, bit f.m 2, bit f.m 1, bit f.m 0⟩)
  | 0x03 => do
    let d ← dOp f.d
    let a ← sOp f.a
    .ok (.fex2 h d a (bits f.m 17 3) ⟨bits f.m 15 2, bit f.m 14, bit f.m 4, bit f.m 3, bit f.m 2, bit f.m 1, bit f.m 0⟩)
  | 0x04 => do
    let d ← dOp f.d
    let a ← sOp f.a
    .ok (.flg2 h d a (bits f.m 17 3) ⟨bits f.m 15 2, bit f.m 14, bit f.m 4, bit f.m 3, bit f.m 2, bit f.m 1, bit f.m 0⟩)
  | 0x05 => do
    let d ← dOp f.d
    let a ← sOp f.a
    .ok (.fsin h d a (bits f.m 17 3) ⟨bits f.m 15 2, bit f.m 14, bit f.m 4, bit f.m 3, bit f.m 2, bit f.m 1, bit f.m 0⟩)
  | 0x06 => do
    let d ← dOp f.d
    let a ← sOp f.a
    .ok (.fcos h d a (bits f.m 17 3) ⟨bits f.m 15 2, bit f.m 14, bit f.m 4, bit f.m 3, bit f.m 2, bit f.m 1, bit f.m 0⟩)
  | _ => .error .unassigned

/-- Class 0x09: packed and convert. -/
def parse09 (h : Ctl) (f : Fields) : Except Illegal Instr :=
  match (bits f.op 0 6).toNat with
  | 0x00 => do
    let d ← dOp f.d
    let a ← sOp f.a
    let b ← sOp f.b
    let c ← sOp (bits f.m 20 10)
    .ok (.hfma2 h d a b c (bits f.m 17 3) ⟨bits f.m 15 2, bit f.m 14, bit f.m 4, bit f.m 3, bit f.m 2, bit f.m 1, bit f.m 0⟩)
  | 0x01 => do
    let d ← dOp f.d
    let a ← sOp f.a
    let b ← sOp f.b
    .ok (.hadd2 h d a b (bits f.m 17 3) ⟨bits f.m 15 2, bit f.m 14, bit f.m 4, bit f.m 3, bit f.m 2, bit f.m 1, bit f.m 0⟩)
  | 0x02 => do
    let d ← dOp f.d
    let a ← sOp f.a
    let b ← sOp f.b
    .ok (.hmul2 h d a b (bits f.m 17 3) ⟨bits f.m 15 2, bit f.m 14, bit f.m 4, bit f.m 3, bit f.m 2, bit f.m 1, bit f.m 0⟩)
  | 0x03 => do
    let d ← dOp f.d
    let a ← sOp f.a
    let b ← sOp f.b
    let c ← sOp (bits f.m 20 10)
    .ok (.qdot4 h d a b c (bits f.m 17 3) (bits f.m 15 2) (bit f.m 14) (bit f.m 0))
  | 0x04 => do
    let d ← dOp f.d
    let a ← sOp f.a
    let b ← sOp f.b
    let c ← sOp (bits f.m 20 10)
    .ok (.idot4 h d a b c (bits f.m 17 3) (bit f.m 14) (bit f.m 0))
  | 0x05 => do
    let d ← dOp f.d
    let a ← sOp f.a
    .ok (.fcvt h d a (bits f.m 17 3) (bits f.m 15 2) (bit f.m 14) (bits f.m 0 3))
  | 0x06 => do
    let d ← dOp f.d
    let a ← sOp f.a
    .ok (.f2i h d a (bits f.m 17 3) (bits f.m 15 2) (bits f.m 0 3))
  | 0x07 => do
    let d ← dOp f.d
    let a ← sOp f.a
    .ok (.i2f h d a (bits f.m 17 3) (bits f.m 15 2) (bit f.m 14) (bits f.m 0 3))
  | 0x08 => do
    let d ← dOp f.d
    let a ← sOp f.a
    let b ← sOp f.b
    let c ← sOp (bits f.m 20 10)
    .ok (.pack8 h d a b c (bits f.m 17 3) (bits f.m 15 2) (bit f.m 14) (bit f.m 0))
  | 0x09 => do
    let d ← dOp f.d
    let a ← sOp f.a
    .ok (.unpk8 h d a (bits f.m 17 3) (bit f.m 1) (bit f.m 0))
  | _ => .error .unassigned

/-- Class 0x0A: lane. -/
def parse0A (h : Ctl) (f : Fields) : Except Illegal Instr :=
  match (bits f.op 0 6).toNat with
  | 0x00 => do
    let d ← dOp f.d
    let a ← sOp f.a
    let b ← sOp f.b
    .ok (.shfl h d a b (bits f.m 17 3) (bits f.m 2 3) (bits f.m 0 2))
  | 0x01 => do
    let d ← dOp f.d
    let a ← sOp f.a
    .ok (.vote h d a (bit f.m 3) (bit f.m 2) (bits f.m 0 2))
  | 0x02 => do
    let d ← dOp f.d
    let a ← sOp f.a
    .ok (.matchLanes h d a (bits f.m 17 3))
  | 0x03 => do
    let d ← dOp f.d
    let a ← sOp f.a
    .ok (.redux h d a (bits f.m 17 3) (bits f.m 0 3))
  | 0x04 => .ok (.wfence h)
  | _ => .error .unassigned

/-- Class 0x0B: mask. -/
def parse0B (h : Ctl) (f : Fields) : Except Illegal Instr :=
  match (bits f.op 0 6).toNat with
  | 0x00 => do
    let d ← dOp f.d
    .ok (.mjoin h d (f.b ++ bits f.m 20 10))
  | 0x01 => .ok (.mleave h (bits f.m 0 12))
  | 0x02 => do
    let a ← sOp f.a
    .ok (.mwait h a)
  | 0x03 => do
    let d ← dOp f.d
    let a ← sOp f.a
    let mode := bits f.m 0 2
    let b ← optS (mode.toNat = 2) f.b
    .ok (.mmov h d a b mode)
  | 0x04 => do
    let a ← sOp f.a
    .ok (.msync h a)
  | _ => .error .unassigned

/-- Class 0x0C: thread. -/
def parse0C (h : Ctl) (f : Fields) : Except Illegal Instr :=
  match (bits f.op 0 6).toNat with
  | 0x00 => do
    let a ← sOp f.a
    let wid := bit f.m 19
    let nw := bits f.m 13 4
    let b ← optS (nw.toNat ≠ 0) f.b
    let wsrc ← optS wid (bits f.m 20 10)
    .ok (.spawn h a b wsrc wid (bits f.m 17 2) nw (bits f.m 11 2) (bit f.m 10))
  | 0x01 => do
    let a ← sOp f.a
    let wid := bit f.m 19
    let nw := bits f.m 13 4
    let b ← optS (nw.toNat ≠ 0) f.b
    let wsrc ← optS wid (bits f.m 20 10)
    .ok (.cont h a b wsrc wid (bits f.m 17 2) nw (bits f.m 11 2) (bit f.m 10))
  | 0x02 => do
    let a ← sOp f.a
    .ok (.split h a (f.b ++ bits f.m 20 10) (bits f.m 9 11))
  | 0x03 => .ok (.rgive h (bits f.m 0 6))
  | 0x04 => .ok (.rclaim h (bits f.m 0 6))
  | 0x05 => do
    let d ← dOp f.d
    let a ← sOp f.a
    .ok (.segq h d a)
  | 0x06 => do
    let d ← dOp f.d
    let a ← sOp f.a
    .ok (.launch h d a (bits f.m 14 16) (bits f.m 0 4))
  | _ => .error .unassigned

/-- Class 0x0D: token. -/
def parse0D (h : Ctl) (f : Fields) : Except Illegal Instr :=
  match (bits f.op 0 6).toNat with
  | 0x00 => do
    let a ← sOp f.a
    .ok (.waitk h a (bits f.m 0 6))
  | 0x01 => do
    let d ← dOp f.d
    .ok (.tkrd h d)
  | 0x02 => do
    let a ← sOp f.a
    .ok (.tksav h a (bits f.m 14 16))
  | 0x03 => .ok (.tkrst h (bit f.m 16) (bits f.m 0 16))
  | _ => .error .unassigned

/-- Class 0x10: memory. -/
def parse10 (h : Ctl) (f : Fields) : Except Illegal Instr :=
  match (bits f.op 0 6).toNat with
  | 0x00 => do
    let d ← dOp f.d
    let a ← sOp f.a
    .ok (.ld h d a (bits f.m 14 16) (bits f.m 11 3) (bits f.m 8 3) (bits f.m 5 3) (bits f.m 3 2) (bits f.m 1 2))
  | 0x01 => do
    let a ← sOp f.a
    let b ← sOp f.b
    .ok (.st h a b (bits f.m 14 16) (bits f.m 11 3) (bits f.m 8 3) (bits f.m 5 3) (bits f.m 3 2) (bits f.m 1 2))
  | 0x02 => do
    let a ← sOp f.a
    let b ← sOp f.b
    .ok (.stn h a b (bits f.m 14 16) (bits f.m 11 3) (bits f.m 8 3) (bits f.m 5 3) (bits f.m 0 4))
  | 0x03 => do
    let d ← dOp f.d
    let a ← sOp f.a
    let b ← sOp f.b
    .ok (.stnReport h d a b (bits f.m 14 16) (bits f.m 11 3) (bits f.m 8 3) (bits f.m 5 3) (bits f.m 0 4))
  | 0x04 => do
    let a ← sOp f.a
    .ok (.pref h a (bits f.m 14 16) (bits f.m 0 2))
  | 0x05 => do
    let d ← dOp f.d
    let a ← sOp f.a
    .ok (.ldf h d a (bits f.m 14 16) (bits f.m 5 3) (bits f.m 3 2))
  | 0x06 => do
    let a ← sOp f.a
    .ok (.dcwb h a (bits f.m 14 16) (bits f.m 11 3))
  | 0x07 => do
    let a ← sOp f.a
    .ok (.dcinv h a (bits f.m 14 16) (bits f.m 11 3))
  | 0x08 => do
    let a ← sOp f.a
    .ok (.dcfl h a (bits f.m 14 16) (bits f.m 11 3))
  | 0x09 => do
    let a ← sOp f.a
    .ok (.icinv h a (bits f.m 14 16) (bits f.m 11 3))
  | 0x0A => .ok (.ifence h)
  | 0x0B => .ok (.fence h (bits f.m 27 3) (bits f.m 24 3))
  | _ => .error .unassigned

/-- Class 0x11: reader set. -/
def parse11 (h : Ctl) (f : Fields) : Except Illegal Instr :=
  match (bits f.op 0 6).toNat with
  | 0x00 => do
    let d ← dOp f.d
    let a ← sOp f.a
    let b ← sOp f.b
    .ok (.rsmk h d a b (bits f.m 3 2) (bits f.m 0 3))
  | 0x01 => do
    let a ← sOp f.a
    let b ← sOp f.b
    .ok (.rsrev h a b (bits f.m 14 16) (bits f.m 0 2))
  | 0x02 => do
    let d ← dOp f.d
    let a ← sOp f.a
    .ok (.rsqry h d a (bits f.m 14 16))
  | _ => .error .unassigned

/-- Class 0x12: atomic. -/
def parse12 (h : Ctl) (f : Fields) : Except Illegal Instr :=
  match (bits f.op 0 6).toNat with
  | 0x00 => do
    let d ← dOp f.d
    let a ← sOp f.a
    let b ← sOp f.b
    .ok (.atom h d a b (bits f.m 14 16) (bits f.m 11 3) (bits f.m 8 3) (bits f.m 5 3) (bits f.m 1 4))
  | 0x01 => do
    let d ← dOp f.d
    let a ← sOp f.a
    let b ← sOp f.b
    .ok (.acas h d a b (bits f.m 14 16) (bits f.m 11 3) (bits f.m 8 3) (bits f.m 5 3))
  | 0x02 => do
    let a ← sOp f.a
    let b ← sOp f.b
    .ok (.red h a b (bits f.m 14 16) (bits f.m 11 3) (bits f.m 8 3) (bits f.m 5 3) (bits f.m 1 4))
  | _ => .error .unassigned

/-- Class 0x13: queue. -/
def parse13 (h : Ctl) (f : Fields) : Except Illegal Instr :=
  match (bits f.op 0 6).toNat with
  | 0x00 => do
    let d ← dOp f.d
    let a ← sOp f.a
    let b ← sOp f.b
    .ok (.enq h d a b (bits f.m 14 16) (bits f.m 11 3) (bits f.m 8 3) (bits f.m 1 2) (bit f.m 0))
  | 0x01 => do
    let d ← dOp f.d
    let a ← sOp f.a
    .ok (.deq h d a (bits f.m 14 16) (bits f.m 11 3) (bits f.m 8 3) (bits f.m 1 2) (bit f.m 0))
  | 0x02 => do
    let a ← sOp f.a
    let b ← sOp f.b
    .ok (.qinit h a b (bits f.m 14 16) (bits f.m 0 2))
  | 0x03 => do
    let d ← dOp f.d
    let a ← sOp f.a
    .ok (.qstat h d a (bits f.m 14 16))
  | _ => .error .unassigned

/-- Class 0x14: sharing group. -/
def parse14 (h : Ctl) (f : Fields) : Except Illegal Instr :=
  match (bits f.op 0 6).toNat with
  | 0x00 => .ok (.gjoin h)
  | 0x01 => .ok (.gleave h)
  | 0x02 => do
    let a ← sOp f.a
    .ok (.gmap h a (bits f.m 0 6))
  | _ => .error .unassigned

/-- Class 0x18: copy. -/
def parse18 (h : Ctl) (f : Fields) : Except Illegal Instr :=
  match (bits f.op 0 6).toNat with
  | 0x00 => do
    let a ← sOp f.a
    .ok (.cpy h a (bits f.m 14 16))
  | 0x01 => do
    let a ← sOp f.a
    .ok (.gath h a (bits f.m 14 16))
  | 0x02 => do
    let a ← sOp f.a
    .ok (.scat h a (bits f.m 14 16))
  | 0x03 => do
    let a ← sOp f.a
    .ok (.mcast h a (bits f.m 14 16))
  | 0x04 => do
    let d ← dOp f.d
    let a ← sOp f.a
    .ok (.cpyq h d a (bits f.m 14 16))
  | _ => .error .unassigned

/-- Class 0x19: barrier and tile. -/
def parse19 (h : Ctl) (f : Fields) : Except Illegal Instr :=
  match (bits f.op 0 6).toNat with
  | 0x00 => do
    let a ← sOp f.a
    let b ← sOp f.b
    .ok (.binit h a b (bits f.m 14 16))
  | 0x01 => do
    let a ← sOp f.a
    let b ← sOp f.b
    .ok (.barr h a b (bits f.m 14 16))
  | 0x02 => do
    let d ← dOp f.d
    let a ← sOp f.a
    let b ← sOp f.b
    .ok (.bwait h d a b (bits f.m 14 16))
  | 0x03 => do
    let d ← dOp f.d
    let a ← sOp f.a
    .ok (.btst h d a (bits f.m 14 16))
  | 0x04 => do
    let a ← sOp f.a
    let b ← sOp f.b
    .ok (.tdecl h a b (bit f.m 6) (bits f.m 0 6))
  | 0x05 => do
    let d ← dOp f.d
    .ok (.tstat h d (bits f.m 0 6))
  | 0x06 => .ok (.trel h (bits f.m 0 6))
  | _ => .error .unassigned

/-- Class 0x1A: matrix. -/
def parse1A (h : Ctl) (f : Fields) : Except Illegal Instr :=
  match (bits f.op 0 6).toNat with
  | 0x00 => do
    let d ← dOp f.d
    let a ← sOp f.a
    let b ← sOp f.b
    let c ← sOp (bits f.m 20 10)
    .ok (.mma h d a b c (bits f.m 17 3) (bit f.m 16) (bits f.m 6 10) (bit f.m 5))
  | 0x01 => do
    let d ← dOp f.d
    let a ← sOp f.a
    let b ← sOp f.b
    let c ← sOp (bits f.m 20 10)
    .ok (.mmap h d a b c (bits f.m 17 3) (bit f.m 16) (bits f.m 6 10) (bit f.m 5))
  | 0x02 => do
    let d ← dOp f.d
    let a ← sOp f.a
    let b ← sOp f.b
    let c ← sOp (bits f.m 20 10)
    .ok (.accsc h d a b c)
  | 0x03 => do
    let d ← dOp f.d
    .ok (.accz h d)
  | 0x04 => do
    let d ← dOp f.d
    let a ← sOp f.a
    let b ← sOp f.b
    .ok (.accrd h d a b)
  | 0x05 => do
    let d ← dOp f.d
    let a ← sOp f.a
    let b ← sOp f.b
    .ok (.accwr h d a b)
  | 0x06 => do
    let d ← dOp f.d
    let a ← sOp f.a
    .ok (.accld h d a (bits f.m 0 16))
  | 0x07 => do
    let a ← sOp f.a
    let b ← sOp f.b
    .ok (.accst h a b (bits f.m 0 16))
  | _ => .error .unassigned

/-- Class 0x1C: collective and message. -/
def parse1C (h : Ctl) (f : Fields) : Except Illegal Instr :=
  match (bits f.op 0 6).toNat with
  | 0x00 => do
    let d ← dOp f.d
    let a ← sOp f.a
    let b ← sOp f.b
    .ok (.coll h d a b (bits f.m 14 16))
  | 0x01 => do
    let d ← dOp f.d
    let b ← sOp f.b
    .ok (.viewq h d b (bit f.m 0))
  | 0x02 => do
    let a ← sOp f.a
    let c ← sOp (bits f.m 20 10)
    let nw := bits f.m 13 4
    let b ← optS (nw.toNat ≠ 0) f.b
    .ok (.amsend h a b c nw)
  | 0x03 => do
    let d ← dOp f.d
    .ok (.arrq h d (bit f.m 0))
  | _ => .error .unassigned

/-- Class 0x1E: system. -/
def parse1E (h : Ctl) (f : Fields) : Except Illegal Instr :=
  match (bits f.op 0 6).toNat with
  | 0x00 => do
    let d ← dOp f.d
    let a ← sOp f.a
    .ok (.mfs h d a)
  | 0x01 => do
    let d ← dOp f.d
    let a ← sOp f.a
    .ok (.mts h d a)
  | _ => .error .unassigned

/-- The instruction that the used fields name (R62, R63). -/
def parse (f : Fields) : Except Illegal Instr :=
  let h := Ctl.of f.g f.h
  match (bits f.op 6 6).toNat with
  | 0x01 => parse01 h f
  | 0x02 => parse02 h f
  | 0x03 => parse03 h f
  | 0x04 => parse04 h f
  | 0x05 => parse05 h f
  | 0x06 => parse06 h f
  | 0x07 => parse07 h f
  | 0x08 => parse08 h f
  | 0x09 => parse09 h f
  | 0x0A => parse0A h f
  | 0x0B => parse0B h f
  | 0x0C => parse0C h f
  | 0x0D => parse0D h f
  | 0x10 => parse10 h f
  | 0x11 => parse11 h f
  | 0x12 => parse12 h f
  | 0x13 => parse13 h f
  | 0x14 => parse14 h f
  | 0x18 => parse18 h f
  | 0x19 => parse19 h f
  | 0x1A => parse1A h f
  | 0x1C => parse1C h f
  | 0x1E => parse1E h f
  | _ => .error .unassigned

/-- Fields of one instruction: its point, its guard and hints, and the operand fields. -/
def fieldsOf (op : BitVec 12) (h : Ctl) (d a b : BitVec 10) (m : BitVec 30) : Fields := ⟨op, h.gBits, h.hBits, d, a, b, m⟩

/-- The fields of an instruction; none for an event, which has no word. -/
def Instr.fields : Instr → Option Fields
  | .bra h disp live => some (fieldsOf 0x040#12 h 0#10 (bits disp 20 10) (bits disp 10 10) ((bits disp 0 10) ++ live ++ 0#9))
  | .call h disp live => some (fieldsOf 0x043#12 h 0#10 (bits disp 20 10) (bits disp 10 10) ((bits disp 0 10) ++ live ++ 0#9))
  | .brl h disp => some (fieldsOf 0x041#12 h (bits disp 50 10) (bits disp 40 10) (bits disp 30 10) ((bits disp 0 30)))
  | .calll h disp => some (fieldsOf 0x044#12 h (bits disp 50 10) (bits disp 40 10) (bits disp 30 10) ((bits disp 0 30)))
  | .brx h a live => some (fieldsOf 0x042#12 h 0#10 a.bits 0#10 (0#10 ++ live ++ 0#9))
  | .callx h a live => some (fieldsOf 0x045#12 h 0#10 a.bits 0#10 (0#10 ++ live ++ 0#9))
  | .ret h live => some (fieldsOf 0x046#12 h 0#10 0#10 0#10 (0#10 ++ live ++ 0#9))
  | .exit h => some (fieldsOf 0x047#12 h 0#10 0#10 0#10 (0#30))
  | .loop h a len => some (fieldsOf 0x048#12 h 0#10 a.bits 0#10 (0#10 ++ len))
  | .lbrk h n => some (fieldsOf 0x049#12 h 0#10 0#10 0#10 (0#27 ++ n))
  | .dly h n => some (fieldsOf 0x04A#12 h 0#10 0#10 0#10 (0#24 ++ n))
  | .nop h => some (fieldsOf 0x04B#12 h 0#10 0#10 0#10 (0#30))
  | .yield h => some (fieldsOf 0x04C#12 h 0#10 0#10 0#10 (0#30))
  | .ipref h a ofs nb lvl => some (fieldsOf 0x04D#12 h 0#10 a.bits 0#10 (ofs ++ 0#4 ++ nb ++ lvl))
  | .trap h code => some (fieldsOf 0x04E#12 h 0#10 0#10 0#10 (0#14 ++ code))
  | .eret h => some (fieldsOf 0x04F#12 h 0#10 0#10 0#10 (0#30))
  | .bkpt h code => some (fieldsOf 0x050#12 h 0#10 0#10 0#10 (0#14 ++ code))
  | .sysc h code => some (fieldsOf 0x051#12 h 0#10 0#10 0#10 (0#14 ++ code))
  | .iadd h d a b ty sat => some (fieldsOf 0x080#12 h d.dBits a.bits b.bits (0#10 ++ ty ++ 0#2 ++ (BitVec.ofBool sat) ++ 0#14))
  | .isub h d a b ty sat => some (fieldsOf 0x081#12 h d.dBits a.bits b.bits (0#10 ++ ty ++ 0#2 ++ (BitVec.ofBool sat) ++ 0#14))
  | .imul h d a b ty => some (fieldsOf 0x082#12 h d.dBits a.bits b.bits (0#10 ++ ty ++ 0#17))
  | .imulh h d a b ty => some (fieldsOf 0x083#12 h d.dBits a.bits b.bits (0#10 ++ ty ++ 0#17))
  | .imad h d a b c ty => some (fieldsOf 0x084#12 h d.dBits a.bits b.bits (c.bits ++ ty ++ 0#17))
  | .imadw h d a b c ty => some (fieldsOf 0x085#12 h d.dBits a.bits b.bits (c.bits ++ ty ++ 0#17))
  | .imin h d a b ty => some (fieldsOf 0x086#12 h d.dBits a.bits b.bits (0#10 ++ ty ++ 0#17))
  | .imax h d a b ty => some (fieldsOf 0x087#12 h d.dBits a.bits b.bits (0#10 ++ ty ++ 0#17))
  | .iabs h d a ty sat => some (fieldsOf 0x088#12 h d.dBits a.bits 0#10 (0#10 ++ ty ++ 0#2 ++ (BitVec.ofBool sat) ++ 0#14))
  | .and h d a b ty => some (fieldsOf 0x089#12 h d.dBits a.bits b.bits (0#10 ++ ty ++ 0#17))
  | .or h d a b ty => some (fieldsOf 0x08A#12 h d.dBits a.bits b.bits (0#10 ++ ty ++ 0#17))
  | .xor h d a b ty => some (fieldsOf 0x08B#12 h d.dBits a.bits b.bits (0#10 ++ ty ++ 0#17))
  | .andn h d a b ty => some (fieldsOf 0x08C#12 h d.dBits a.bits b.bits (0#10 ++ ty ++ 0#17))
  | .orn h d a b ty => some (fieldsOf 0x08D#12 h d.dBits a.bits b.bits (0#10 ++ ty ++ 0#17))
  | .shl h d a b ty => some (fieldsOf 0x08E#12 h d.dBits a.bits b.bits (0#10 ++ ty ++ 0#17))
  | .shr h d a b ty => some (fieldsOf 0x08F#12 h d.dBits a.bits b.bits (0#10 ++ ty ++ 0#17))
  | .sar h d a b ty => some (fieldsOf 0x090#12 h d.dBits a.bits b.bits (0#10 ++ ty ++ 0#17))
  | .rot h d a b ty => some (fieldsOf 0x091#12 h d.dBits a.bits b.bits (0#10 ++ ty ++ 0#17))
  | .fsh h d a b c ty dir => some (fieldsOf 0x092#12 h d.dBits a.bits b.bits (c.bits ++ ty ++ 0#16 ++ (BitVec.ofBool dir)))
  | .bfx h d a ty pos len => some (fieldsOf 0x093#12 h d.dBits a.bits 0#10 (0#10 ++ ty ++ 0#4 ++ pos ++ len))
  | .bfi h d a b ty pos len => some (fieldsOf 0x094#12 h d.dBits a.bits b.bits (0#10 ++ ty ++ 0#4 ++ pos ++ len))
  | .popc h d a ty => some (fieldsOf 0x095#12 h d.dBits a.bits 0#10 (0#10 ++ ty ++ 0#17))
  | .clz h d a ty => some (fieldsOf 0x096#12 h d.dBits a.bits 0#10 (0#10 ++ ty ++ 0#17))
  | .brev h d a ty => some (fieldsOf 0x097#12 h d.dBits a.bits 0#10 (0#10 ++ ty ++ 0#17))
  | .prmb h d a b c ty => some (fieldsOf 0x098#12 h d.dBits a.bits b.bits (c.bits ++ ty ++ 0#17))
  | .sel h d a b c ty => some (fieldsOf 0x099#12 h d.dBits a.bits b.bits (c.bits ++ ty ++ 0#17))
  | .mov h d a ty => some (fieldsOf 0x09A#12 h d.dBits a.bits 0#10 (0#10 ++ ty ++ 0#17))
  | .lea h d a b ty sh => some (fieldsOf 0x09B#12 h d.dBits a.bits b.bits (0#10 ++ ty ++ 0#14 ++ sh))
  | .iadd64 h d a b ty sat => some (fieldsOf 0x09C#12 h d.dBits a.bits b.bits (0#10 ++ ty ++ 0#2 ++ (BitVec.ofBool sat) ++ 0#14))
  | .isub64 h d a b ty sat => some (fieldsOf 0x09D#12 h d.dBits a.bits b.bits (0#10 ++ ty ++ 0#2 ++ (BitVec.ofBool sat) ++ 0#14))
  | .icvt h d a ty sat sty => some (fieldsOf 0x09E#12 h d.dBits a.bits 0#10 (0#10 ++ ty ++ 0#2 ++ (BitVec.ofBool sat) ++ 0#11 ++ sty))
  | .iaddLit h d a imm ty sat => some (fieldsOf 0x0C0#12 h d.dBits a.bits (bits imm 22 10) ((bits imm 0 22) ++ ty ++ (BitVec.ofBool sat) ++ 0#4))
  | .isubLit h d a imm ty sat => some (fieldsOf 0x0C1#12 h d.dBits a.bits (bits imm 22 10) ((bits imm 0 22) ++ ty ++ (BitVec.ofBool sat) ++ 0#4))
  | .imulLit h d a imm ty => some (fieldsOf 0x0C2#12 h d.dBits a.bits (bits imm 22 10) ((bits imm 0 22) ++ ty ++ 0#5))
  | .imulhLit h d a imm ty => some (fieldsOf 0x0C3#12 h d.dBits a.bits (bits imm 22 10) ((bits imm 0 22) ++ ty ++ 0#5))
  | .iminLit h d a imm ty => some (fieldsOf 0x0C6#12 h d.dBits a.bits (bits imm 22 10) ((bits imm 0 22) ++ ty ++ 0#5))
  | .imaxLit h d a imm ty => some (fieldsOf 0x0C7#12 h d.dBits a.bits (bits imm 22 10) ((bits imm 0 22) ++ ty ++ 0#5))
  | .andLit h d a imm ty => some (fieldsOf 0x0C9#12 h d.dBits a.bits (bits imm 22 10) ((bits imm 0 22) ++ ty ++ 0#5))
  | .orLit h d a imm ty => some (fieldsOf 0x0CA#12 h d.dBits a.bits (bits imm 22 10) ((bits imm 0 22) ++ ty ++ 0#5))
  | .xorLit h d a imm ty => some (fieldsOf 0x0CB#12 h d.dBits a.bits (bits imm 22 10) ((bits imm 0 22) ++ ty ++ 0#5))
  | .andnLit h d a imm ty => some (fieldsOf 0x0CC#12 h d.dBits a.bits (bits imm 22 10) ((bits imm 0 22) ++ ty ++ 0#5))
  | .ornLit h d a imm ty => some (fieldsOf 0x0CD#12 h d.dBits a.bits (bits imm 22 10) ((bits imm 0 22) ++ ty ++ 0#5))
  | .shlLit h d a imm ty => some (fieldsOf 0x0CE#12 h d.dBits a.bits (bits imm 22 10) ((bits imm 0 22) ++ ty ++ 0#5))
  | .shrLit h d a imm ty => some (fieldsOf 0x0CF#12 h d.dBits a.bits (bits imm 22 10) ((bits imm 0 22) ++ ty ++ 0#5))
  | .sarLit h d a imm ty => some (fieldsOf 0x0D0#12 h d.dBits a.bits (bits imm 22 10) ((bits imm 0 22) ++ ty ++ 0#5))
  | .rotLit h d a imm ty => some (fieldsOf 0x0D1#12 h d.dBits a.bits (bits imm 22 10) ((bits imm 0 22) ++ ty ++ 0#5))
  | .movi h d imm ty => some (fieldsOf 0x0E0#12 h d.dBits 0#10 (bits imm 22 10) ((bits imm 0 22) ++ ty ++ 0#5))
  | .movh h d a imm ty => some (fieldsOf 0x0E1#12 h d.dBits a.bits (bits imm 22 10) ((bits imm 0 22) ++ ty ++ 0#5))
  | .icmp h d a b c ty cond comb => some (fieldsOf 0x100#12 h d.dBits a.bits b.bits ((optBits c) ++ ty ++ 0#3 ++ comb ++ 0#9 ++ cond))
  | .plop h d a b c lut => some (fieldsOf 0x101#12 h d.dBits a.bits b.bits (c.bits ++ 0#12 ++ lut))
  | .pmov h d a mask mode => some (fieldsOf 0x102#12 h (optDBits d) (optBits a) 0#10 (0#21 ++ mask ++ mode))
  | .fadd h d a b ty f => some (fieldsOf 0x140#12 h d.dBits a.bits b.bits (0#10 ++ ty ++ f.rm ++ (BitVec.ofBool f.sat) ++ 0#9 ++ (BitVec.ofBool f.absb) ++ (BitVec.ofBool f.absa) ++ (BitVec.ofBool f.negc) ++ (BitVec.ofBool f.negb) ++ (BitVec.ofBool f.nega)))
  | .faddF64 h d a b ty f => some (fieldsOf 0x1C0#12 h d.dBits a.bits b.bits (0#10 ++ ty ++ f.rm ++ (BitVec.ofBool f.sat) ++ 0#9 ++ (BitVec.ofBool f.absb) ++ (BitVec.ofBool f.absa) ++ (BitVec.ofBool f.negc) ++ (BitVec.ofBool f.negb) ++ (BitVec.ofBool f.nega)))
  | .fsub h d a b ty f => some (fieldsOf 0x141#12 h d.dBits a.bits b.bits (0#10 ++ ty ++ f.rm ++ (BitVec.ofBool f.sat) ++ 0#9 ++ (BitVec.ofBool f.absb) ++ (BitVec.ofBool f.absa) ++ (BitVec.ofBool f.negc) ++ (BitVec.ofBool f.negb) ++ (BitVec.ofBool f.nega)))
  | .fsubF64 h d a b ty f => some (fieldsOf 0x1C1#12 h d.dBits a.bits b.bits (0#10 ++ ty ++ f.rm ++ (BitVec.ofBool f.sat) ++ 0#9 ++ (BitVec.ofBool f.absb) ++ (BitVec.ofBool f.absa) ++ (BitVec.ofBool f.negc) ++ (BitVec.ofBool f.negb) ++ (BitVec.ofBool f.nega)))
  | .fmul h d a b ty f => some (fieldsOf 0x142#12 h d.dBits a.bits b.bits (0#10 ++ ty ++ f.rm ++ (BitVec.ofBool f.sat) ++ 0#9 ++ (BitVec.ofBool f.absb) ++ (BitVec.ofBool f.absa) ++ (BitVec.ofBool f.negc) ++ (BitVec.ofBool f.negb) ++ (BitVec.ofBool f.nega)))
  | .fmulF64 h d a b ty f => some (fieldsOf 0x1C2#12 h d.dBits a.bits b.bits (0#10 ++ ty ++ f.rm ++ (BitVec.ofBool f.sat) ++ 0#9 ++ (BitVec.ofBool f.absb) ++ (BitVec.ofBool f.absa) ++ (BitVec.ofBool f.negc) ++ (BitVec.ofBool f.negb) ++ (BitVec.ofBool f.nega)))
  | .ffma h d a b c ty f => some (fieldsOf 0x143#12 h d.dBits a.bits b.bits (c.bits ++ ty ++ f.rm ++ (BitVec.ofBool f.sat) ++ 0#9 ++ (BitVec.ofBool f.absb) ++ (BitVec.ofBool f.absa) ++ (BitVec.ofBool f.negc) ++ (BitVec.ofBool f.negb) ++ (BitVec.ofBool f.nega)))
  | .ffmaF64 h d a b c ty f => some (fieldsOf 0x1C3#12 h d.dBits a.bits b.bits (c.bits ++ ty ++ f.rm ++ (BitVec.ofBool f.sat) ++ 0#9 ++ (BitVec.ofBool f.absb) ++ (BitVec.ofBool f.absa) ++ (BitVec.ofBool f.negc) ++ (BitVec.ofBool f.negb) ++ (BitVec.ofBool f.nega)))
  | .fmin h d a b ty f => some (fieldsOf 0x144#12 h d.dBits a.bits b.bits (0#10 ++ ty ++ f.rm ++ (BitVec.ofBool f.sat) ++ 0#9 ++ (BitVec.ofBool f.absb) ++ (BitVec.ofBool f.absa) ++ (BitVec.ofBool f.negc) ++ (BitVec.ofBool f.negb) ++ (BitVec.ofBool f.nega)))
  | .fminF64 h d a b ty f => some (fieldsOf 0x1C4#12 h d.dBits a.bits b.bits (0#10 ++ ty ++ f.rm ++ (BitVec.ofBool f.sat) ++ 0#9 ++ (BitVec.ofBool f.absb) ++ (BitVec.ofBool f.absa) ++ (BitVec.ofBool f.negc) ++ (BitVec.ofBool f.negb) ++ (BitVec.ofBool f.nega)))
  | .fmax h d a b ty f => some (fieldsOf 0x145#12 h d.dBits a.bits b.bits (0#10 ++ ty ++ f.rm ++ (BitVec.ofBool f.sat) ++ 0#9 ++ (BitVec.ofBool f.absb) ++ (BitVec.ofBool f.absa) ++ (BitVec.ofBool f.negc) ++ (BitVec.ofBool f.negb) ++ (BitVec.ofBool f.nega)))
  | .fmaxF64 h d a b ty f => some (fieldsOf 0x1C5#12 h d.dBits a.bits b.bits (0#10 ++ ty ++ f.rm ++ (BitVec.ofBool f.sat) ++ 0#9 ++ (BitVec.ofBool f.absb) ++ (BitVec.ofBool f.absa) ++ (BitVec.ofBool f.negc) ++ (BitVec.ofBool f.negb) ++ (BitVec.ofBool f.nega)))
  | .fcmp h d a b c ty cond comb => some (fieldsOf 0x146#12 h d.dBits a.bits b.bits ((optBits c) ++ ty ++ 0#3 ++ comb ++ 0#9 ++ cond))
  | .fcls h d a ty mask => some (fieldsOf 0x147#12 h d.dBits a.bits 0#10 (0#10 ++ ty ++ 0#8 ++ mask))
  | .fcmpF64 h d a b c ty cond comb => some (fieldsOf 0x1C6#12 h d.dBits a.bits b.bits ((optBits c) ++ ty ++ 0#3 ++ comb ++ 0#9 ++ cond))
  | .fclsF64 h d a ty mask => some (fieldsOf 0x1C7#12 h d.dBits a.bits 0#10 (0#10 ++ ty ++ 0#8 ++ mask))
  | .fscl h d a b ty f => some (fieldsOf 0x148#12 h d.dBits a.bits b.bits (0#10 ++ ty ++ f.rm ++ (BitVec.ofBool f.sat) ++ 0#9 ++ (BitVec.ofBool f.absb) ++ (BitVec.ofBool f.absa) ++ (BitVec.ofBool f.negc) ++ (BitVec.ofBool f.negb) ++ (BitVec.ofBool f.nega)))
  | .fsclF64 h d a b ty f => some (fieldsOf 0x1C8#12 h d.dBits a.bits b.bits (0#10 ++ ty ++ f.rm ++ (BitVec.ofBool f.sat) ++ 0#9 ++ (BitVec.ofBool f.absb) ++ (BitVec.ofBool f.absa) ++ (BitVec.ofBool f.negc) ++ (BitVec.ofBool f.negb) ++ (BitVec.ofBool f.nega)))
  | .frnd h d a ty f => some (fieldsOf 0x149#12 h d.dBits a.bits 0#10 (0#10 ++ ty ++ f.rm ++ (BitVec.ofBool f.sat) ++ 0#9 ++ (BitVec.ofBool f.absb) ++ (BitVec.ofBool f.absa) ++ (BitVec.ofBool f.negc) ++ (BitVec.ofBool f.negb) ++ (BitVec.ofBool f.nega)))
  | .frndF64 h d a ty f => some (fieldsOf 0x1C9#12 h d.dBits a.bits 0#10 (0#10 ++ ty ++ f.rm ++ (BitVec.ofBool f.sat) ++ 0#9 ++ (BitVec.ofBool f.absb) ++ (BitVec.ofBool f.absa) ++ (BitVec.ofBool f.negc) ++ (BitVec.ofBool f.negb) ++ (BitVec.ofBool f.nega)))
  | .faddLit h d a imm ty f => some (fieldsOf 0x180#12 h d.dBits a.bits (bits imm 22 10) ((bits imm 0 22) ++ ty ++ (BitVec.ofBool f.sat) ++ f.rm ++ (BitVec.ofBool f.negb) ++ (BitVec.ofBool f.nega)))
  | .fsubLit h d a imm ty f => some (fieldsOf 0x181#12 h d.dBits a.bits (bits imm 22 10) ((bits imm 0 22) ++ ty ++ (BitVec.ofBool f.sat) ++ f.rm ++ (BitVec.ofBool f.negb) ++ (BitVec.ofBool f.nega)))
  | .fmulLit h d a imm ty f => some (fieldsOf 0x182#12 h d.dBits a.bits (bits imm 22 10) ((bits imm 0 22) ++ ty ++ (BitVec.ofBool f.sat) ++ f.rm ++ (BitVec.ofBool f.negb) ++ (BitVec.ofBool f.nega)))
  | .fminLit h d a imm ty f => some (fieldsOf 0x184#12 h d.dBits a.bits (bits imm 22 10) ((bits imm 0 22) ++ ty ++ (BitVec.ofBool f.sat) ++ f.rm ++ (BitVec.ofBool f.negb) ++ (BitVec.ofBool f.nega)))
  | .fmaxLit h d a imm ty f => some (fieldsOf 0x185#12 h d.dBits a.bits (bits imm 22 10) ((bits imm 0 22) ++ ty ++ (BitVec.ofBool f.sat) ++ f.rm ++ (BitVec.ofBool f.negb) ++ (BitVec.ofBool f.nega)))
  | .fcmpLit h d a imm ty cond => some (fieldsOf 0x186#12 h d.dBits a.bits (bits imm 22 10) ((bits imm 0 22) ++ ty ++ 0#3 ++ cond))
  | .frcp h d a ty f => some (fieldsOf 0x200#12 h d.dBits a.bits 0#10 (0#10 ++ ty ++ f.rm ++ (BitVec.ofBool f.sat) ++ 0#9 ++ (BitVec.ofBool f.absb) ++ (BitVec.ofBool f.absa) ++ (BitVec.ofBool f.negc) ++ (BitVec.ofBool f.negb) ++ (BitVec.ofBool f.nega)))
  | .frsq h d a ty f => some (fieldsOf 0x201#12 h d.dBits a.bits 0#10 (0#10 ++ ty ++ f.rm ++ (BitVec.ofBool f.sat) ++ 0#9 ++ (BitVec.ofBool f.absb) ++ (BitVec.ofBool f.absa) ++ (BitVec.ofBool f.negc) ++ (BitVec.ofBool f.negb) ++ (BitVec.ofBool f.nega)))
  | .fsqrt h d a ty f => some (fieldsOf 0x202#12 h d.dBits a.bits 0#10 (0#10 ++ ty ++ f.rm ++ (BitVec.ofBool f.sat) ++ 0#9 ++ (BitVec.ofBool f.absb) ++ (BitVec.ofBool f.absa) ++ (BitVec.ofBool f.negc) ++ (BitVec.ofBool f.negb) ++ (BitVec.ofBool f.nega)))
  | .fex2 h d a ty f => some (fieldsOf 0x203#12 h d.dBits a.bits 0#10 (0#10 ++ ty ++ f.rm ++ (BitVec.ofBool f.sat) ++ 0#9 ++ (BitVec.ofBool f.absb) ++ (BitVec.ofBool f.absa) ++ (BitVec.ofBool f.negc) ++ (BitVec.ofBool f.negb) ++ (BitVec.ofBool f.nega)))
  | .flg2 h d a ty f => some (fieldsOf 0x204#12 h d.dBits a.bits 0#10 (0#10 ++ ty ++ f.rm ++ (BitVec.ofBool f.sat) ++ 0#9 ++ (BitVec.ofBool f.absb) ++ (BitVec.ofBool f.absa) ++ (BitVec.ofBool f.negc) ++ (BitVec.ofBool f.negb) ++ (BitVec.ofBool f.nega)))
  | .fsin h d a ty f => some (fieldsOf 0x205#12 h d.dBits a.bits 0#10 (0#10 ++ ty ++ f.rm ++ (BitVec.ofBool f.sat) ++ 0#9 ++ (BitVec.ofBool f.absb) ++ (BitVec.ofBool f.absa) ++ (BitVec.ofBool f.negc) ++ (BitVec.ofBool f.negb) ++ (BitVec.ofBool f.nega)))
  | .fcos h d a ty f => some (fieldsOf 0x206#12 h d.dBits a.bits 0#10 (0#10 ++ ty ++ f.rm ++ (BitVec.ofBool f.sat) ++ 0#9 ++ (BitVec.ofBool f.absb) ++ (BitVec.ofBool f.absa) ++ (BitVec.ofBool f.negc) ++ (BitVec.ofBool f.negb) ++ (BitVec.ofBool f.nega)))
  | .hfma2 h d a b c ty f => some (fieldsOf 0x240#12 h d.dBits a.bits b.bits (c.bits ++ ty ++ f.rm ++ (BitVec.ofBool f.sat) ++ 0#9 ++ (BitVec.ofBool f.absb) ++ (BitVec.ofBool f.absa) ++ (BitVec.ofBool f.negc) ++ (BitVec.ofBool f.negb) ++ (BitVec.ofBool f.nega)))
  | .hadd2 h d a b ty f => some (fieldsOf 0x241#12 h d.dBits a.bits b.bits (0#10 ++ ty ++ f.rm ++ (BitVec.ofBool f.sat) ++ 0#9 ++ (BitVec.ofBool f.absb) ++ (BitVec.ofBool f.absa) ++ (BitVec.ofBool f.negc) ++ (BitVec.ofBool f.negb) ++ (BitVec.ofBool f.nega)))
  | .hmul2 h d a b ty f => some (fieldsOf 0x242#12 h d.dBits a.bits b.bits (0#10 ++ ty ++ f.rm ++ (BitVec.ofBool f.sat) ++ 0#9 ++ (BitVec.ofBool f.absb) ++ (BitVec.ofBool f.absa) ++ (BitVec.ofBool f.negc) ++ (BitVec.ofBool f.negb) ++ (BitVec.ofBool f.nega)))
  | .qdot4 h d a b c ty rm sat bty => some (fieldsOf 0x243#12 h d.dBits a.bits b.bits (c.bits ++ ty ++ rm ++ (BitVec.ofBool sat) ++ 0#13 ++ (BitVec.ofBool bty)))
  | .idot4 h d a b c ty sat bsgn => some (fieldsOf 0x244#12 h d.dBits a.bits b.bits (c.bits ++ ty ++ 0#2 ++ (BitVec.ofBool sat) ++ 0#13 ++ (BitVec.ofBool bsgn)))
  | .fcvt h d a ty rm sat sty => some (fieldsOf 0x245#12 h d.dBits a.bits 0#10 (0#10 ++ ty ++ rm ++ (BitVec.ofBool sat) ++ 0#11 ++ sty))
  | .f2i h d a ty rm sty => some (fieldsOf 0x246#12 h d.dBits a.bits 0#10 (0#10 ++ ty ++ rm ++ 0#12 ++ sty))
  | .i2f h d a ty rm sat sty => some (fieldsOf 0x247#12 h d.dBits a.bits 0#10 (0#10 ++ ty ++ rm ++ (BitVec.ofBool sat) ++ 0#11 ++ sty))
  | .pack8 h d a b c ty rm sat half => some (fieldsOf 0x248#12 h d.dBits a.bits b.bits (c.bits ++ ty ++ rm ++ (BitVec.ofBool sat) ++ 0#13 ++ (BitVec.ofBool half)))
  | .unpk8 h d a ty ety half => some (fieldsOf 0x249#12 h d.dBits a.bits 0#10 (0#10 ++ ty ++ 0#15 ++ (BitVec.ofBool ety) ++ (BitVec.ofBool half)))
  | .shfl h d a b ty seg mode => some (fieldsOf 0x280#12 h d.dBits a.bits b.bits (0#10 ++ ty ++ 0#12 ++ seg ++ mode))
  | .vote h d a cnt neg mode => some (fieldsOf 0x281#12 h d.dBits a.bits 0#10 (0#26 ++ (BitVec.ofBool cnt) ++ (BitVec.ofBool neg) ++ mode))
  | .matchLanes h d a ty => some (fieldsOf 0x282#12 h d.dBits a.bits 0#10 (0#10 ++ ty ++ 0#17))
  | .redux h d a ty rop => some (fieldsOf 0x283#12 h d.dBits a.bits 0#10 (0#10 ++ ty ++ 0#14 ++ rop))
  | .wfence h => some (fieldsOf 0x284#12 h 0#10 0#10 0#10 (0#30))
  | .mjoin h d disp => some (fieldsOf 0x2C0#12 h d.dBits 0#10 (bits disp 10 10) ((bits disp 0 10) ++ 0#20))
  | .mleave h set => some (fieldsOf 0x2C1#12 h 0#10 0#10 0#10 (0#18 ++ set))
  | .mwait h a => some (fieldsOf 0x2C2#12 h 0#10 a.bits 0#10 (0#30))
  | .mmov h d a b mode => some (fieldsOf 0x2C3#12 h d.dBits a.bits (optBits b) (0#28 ++ mode))
  | .msync h a => some (fieldsOf 0x2C4#12 h 0#10 a.bits 0#10 (0#30))
  | .spawn h a b wsrc wid tgt nw prio idem => some (fieldsOf 0x300#12 h 0#10 a.bits (optBits b) ((optBits wsrc) ++ (BitVec.ofBool wid) ++ tgt ++ nw ++ prio ++ (BitVec.ofBool idem) ++ 0#10))
  | .cont h a b wsrc wid tgt nw prio idem => some (fieldsOf 0x301#12 h 0#10 a.bits (optBits b) ((optBits wsrc) ++ (BitVec.ofBool wid) ++ tgt ++ nw ++ prio ++ (BitVec.ofBool idem) ++ 0#10))
  | .split h a disp live => some (fieldsOf 0x302#12 h 0#10 a.bits (bits disp 10 10) ((bits disp 0 10) ++ live ++ 0#9))
  | .rgive h nb => some (fieldsOf 0x303#12 h 0#10 0#10 0#10 (0#24 ++ nb))
  | .rclaim h nb => some (fieldsOf 0x304#12 h 0#10 0#10 0#10 (0#24 ++ nb))
  | .segq h d a => some (fieldsOf 0x305#12 h d.dBits a.bits 0#10 (0#30))
  | .launch h d a ofs lq => some (fieldsOf 0x306#12 h d.dBits a.bits 0#10 (ofs ++ 0#10 ++ lq))
  | .waitk h a n => some (fieldsOf 0x340#12 h 0#10 a.bits 0#10 (0#24 ++ n))
  | .tkrd h d => some (fieldsOf 0x341#12 h d.dBits 0#10 0#10 (0#30))
  | .tksav h a ofs => some (fieldsOf 0x342#12 h 0#10 a.bits 0#10 (ofs ++ 0#14))
  | .tkrst h opn set => some (fieldsOf 0x343#12 h 0#10 0#10 0#10 (0#13 ++ (BitVec.ofBool opn) ++ set))
  | .ld h d a ofs scope order ty vec ch => some (fieldsOf 0x400#12 h d.dBits a.bits 0#10 (ofs ++ scope ++ order ++ ty ++ vec ++ ch ++ 0#1))
  | .st h a b ofs scope order ty vec ch => some (fieldsOf 0x401#12 h 0#10 a.bits b.bits (ofs ++ scope ++ order ++ ty ++ vec ++ ch ++ 0#1))
  | .stn h a b ofs scope order ty nsel => some (fieldsOf 0x402#12 h 0#10 a.bits b.bits (ofs ++ scope ++ order ++ ty ++ 0#1 ++ nsel))
  | .stnReport h d a b ofs scope order ty nsel => some (fieldsOf 0x403#12 h d.dBits a.bits b.bits (ofs ++ scope ++ order ++ ty ++ 0#1 ++ nsel))
  | .pref h a ofs lvl => some (fieldsOf 0x404#12 h 0#10 a.bits 0#10 (ofs ++ 0#12 ++ lvl))
  | .ldf h d a ofs ty vec => some (fieldsOf 0x405#12 h d.dBits a.bits 0#10 (ofs ++ 0#6 ++ ty ++ vec ++ 0#3))
  | .dcwb h a ofs scope => some (fieldsOf 0x406#12 h 0#10 a.bits 0#10 (ofs ++ scope ++ 0#11))
  | .dcinv h a ofs scope => some (fieldsOf 0x407#12 h 0#10 a.bits 0#10 (ofs ++ scope ++ 0#11))
  | .dcfl h a ofs scope => some (fieldsOf 0x408#12 h 0#10 a.bits 0#10 (ofs ++ scope ++ 0#11))
  | .icinv h a ofs scope => some (fieldsOf 0x409#12 h 0#10 a.bits 0#10 (ofs ++ scope ++ 0#11))
  | .ifence h => some (fieldsOf 0x40A#12 h 0#10 0#10 0#10 (0#30))
  | .fence h scope order => some (fieldsOf 0x40B#12 h 0#10 0#10 0#10 (scope ++ order ++ 0#24))
  | .rsmk h d a b keep lvl => some (fieldsOf 0x440#12 h d.dBits a.bits b.bits (0#25 ++ keep ++ lvl))
  | .rsrev h a b ofs mode => some (fieldsOf 0x441#12 h 0#10 a.bits b.bits (ofs ++ 0#12 ++ mode))
  | .rsqry h d a ofs => some (fieldsOf 0x442#12 h d.dBits a.bits 0#10 (ofs ++ 0#14))
  | .atom h d a b ofs scope order ty aop => some (fieldsOf 0x480#12 h d.dBits a.bits b.bits (ofs ++ scope ++ order ++ ty ++ aop ++ 0#1))
  | .acas h d a b ofs scope order ty => some (fieldsOf 0x481#12 h d.dBits a.bits b.bits (ofs ++ scope ++ order ++ ty ++ 0#5))
  | .red h a b ofs scope order ty aop => some (fieldsOf 0x482#12 h 0#10 a.bits b.bits (ofs ++ scope ++ order ++ ty ++ aop ++ 0#1))
  | .enq h d a b ofs scope order sz blk => some (fieldsOf 0x4C0#12 h d.dBits a.bits b.bits (ofs ++ scope ++ order ++ 0#5 ++ sz ++ (BitVec.ofBool blk)))
  | .deq h d a ofs scope order sz blk => some (fieldsOf 0x4C1#12 h d.dBits a.bits 0#10 (ofs ++ scope ++ order ++ 0#5 ++ sz ++ (BitVec.ofBool blk)))
  | .qinit h a b ofs sz => some (fieldsOf 0x4C2#12 h 0#10 a.bits b.bits (ofs ++ 0#12 ++ sz))
  | .qstat h d a ofs => some (fieldsOf 0x4C3#12 h d.dBits a.bits 0#10 (ofs ++ 0#14))
  | .gjoin h => some (fieldsOf 0x500#12 h 0#10 0#10 0#10 (0#30))
  | .gleave h => some (fieldsOf 0x501#12 h 0#10 0#10 0#10 (0#30))
  | .gmap h a slot => some (fieldsOf 0x502#12 h 0#10 a.bits 0#10 (0#24 ++ slot))
  | .cpy h a ofs => some (fieldsOf 0x600#12 h 0#10 a.bits 0#10 (ofs ++ 0#14))
  | .gath h a ofs => some (fieldsOf 0x601#12 h 0#10 a.bits 0#10 (ofs ++ 0#14))
  | .scat h a ofs => some (fieldsOf 0x602#12 h 0#10 a.bits 0#10 (ofs ++ 0#14))
  | .mcast h a ofs => some (fieldsOf 0x603#12 h 0#10 a.bits 0#10 (ofs ++ 0#14))
  | .cpyq h d a ofs => some (fieldsOf 0x604#12 h d.dBits a.bits 0#10 (ofs ++ 0#14))
  | .binit h a b ofs => some (fieldsOf 0x640#12 h 0#10 a.bits b.bits (ofs ++ 0#14))
  | .barr h a b ofs => some (fieldsOf 0x641#12 h 0#10 a.bits b.bits (ofs ++ 0#14))
  | .bwait h d a b ofs => some (fieldsOf 0x642#12 h d.dBits a.bits b.bits (ofs ++ 0#14))
  | .btst h d a ofs => some (fieldsOf 0x643#12 h d.dBits a.bits 0#10 (ofs ++ 0#14))
  | .tdecl h a b rdy tile => some (fieldsOf 0x644#12 h 0#10 a.bits b.bits (0#23 ++ (BitVec.ofBool rdy) ++ tile))
  | .tstat h d tile => some (fieldsOf 0x645#12 h d.dBits 0#10 0#10 (0#24 ++ tile))
  | .trel h tile => some (fieldsOf 0x646#12 h 0#10 0#10 0#10 (0#24 ++ tile))
  | .mma h d a b c ty be5 kq za => some (fieldsOf 0x680#12 h d.dBits a.bits b.bits (c.bits ++ ty ++ (BitVec.ofBool be5) ++ kq ++ (BitVec.ofBool za) ++ 0#5))
  | .mmap h d a b c ty be5 kq za => some (fieldsOf 0x681#12 h d.dBits a.bits b.bits (c.bits ++ ty ++ (BitVec.ofBool be5) ++ kq ++ (BitVec.ofBool za) ++ 0#5))
  | .accsc h d a b c => some (fieldsOf 0x682#12 h d.dBits a.bits b.bits (c.bits ++ 0#20))
  | .accz h d => some (fieldsOf 0x683#12 h d.dBits 0#10 0#10 (0#30))
  | .accrd h d a b => some (fieldsOf 0x684#12 h d.dBits a.bits b.bits (0#30))
  | .accwr h d a b => some (fieldsOf 0x685#12 h d.dBits a.bits b.bits (0#30))
  | .accld h d a str => some (fieldsOf 0x686#12 h d.dBits a.bits 0#10 (0#14 ++ str))
  | .accst h a b str => some (fieldsOf 0x687#12 h 0#10 a.bits b.bits (0#14 ++ str))
  | .coll h d a b ofs => some (fieldsOf 0x700#12 h d.dBits a.bits b.bits (ofs ++ 0#14))
  | .viewq h d b sl => some (fieldsOf 0x701#12 h d.dBits 0#10 b.bits (0#29 ++ (BitVec.ofBool sl)))
  | .amsend h a b c nw => some (fieldsOf 0x702#12 h 0#10 a.bits (optBits b) (c.bits ++ 0#3 ++ nw ++ 0#13))
  | .arrq h d blk => some (fieldsOf 0x703#12 h d.dBits 0#10 0#10 (0#29 ++ (BitVec.ofBool blk)))
  | .mfs h d a => some (fieldsOf 0x780#12 h d.dBits a.bits 0#10 (0#30))
  | .mts h d a => some (fieldsOf 0x781#12 h d.dBits a.bits 0#10 (0#30))
  | .illegalWord => none
  | .operationRetire _ _ => none
  | .asyncMemoryErrorTrap _ => none
  | .membershipChangeTrap _ => none
  | .waveEnd _ => none
  | .rclaimGrant _ => none
  | .writeAcknowledge _ => none
  | .autoContribution _ => none
  | .gleaveTakesEffect _ => none
  | .cooperativeLeave _ => none
  | .hopArrival _ => none
  | .copyActivate _ => none
  | .segmentLanded _ => none
  | .mcastDelivery _ _ => none
  | .copyComplete _ => none
  | .chainedCommandStart _ _ => none
  | .matrixOpStart _ => none
  | .rowCommit _ _ => none
  | .matrixLoadError _ _ _ => none
  | .vectorClockReceive _ => none
  | .posyRecordArrival _ => none
  | .formTimeout _ _ => none
  | .taskTypeRead _ _ _ => none
  | .blockHandout _ _ => none
  | .inqDequeue _ _ => none
  | .blockBind _ _ => none
  | .outqEnqueue _ => none
  | .powerWake => none
  | .collStage _ _ => none
  | .reduceBlockEnd _ _ => none
  | .launchEnd _ => none
  | .blockLeavePush _ => none
  | .beacon _ => none
  | .overflowRingDrain _ _ => none
  | .steal _ _ => none
  | .heartbeatSend _ => none
  | .occupancyReport _ _ => none
  | .hostWriteConfirm _ => none
  | .fixedLatencyWriteback _ => none
  | .faultResolve _ _ => none
  | .parkedWaveResume _ => none
  | .parkedWaveDeliver _ => none
  | .parkedWaveKill _ => none
  | .launchAbort _ => none
  | .debugRead _ _ => none
  | .debugWrite _ _ _ => none
  | .debugWriteForce _ _ _ => none
  | .debugStep _ => none
  | .debugResume _ => none
  | .debugKill _ => none
  | .preemptionRequest _ _ => none
  | .forcedSave _ _ => none
  | .contextSwitchOut _ _ _ _ => none
  | .blockRestore _ _ _ => none
  | .scopeLocalCopyEviction _ _ => none
  | .contextTeardown _ => none
  | .translationChange _ _ _ => none
  | .launchAdmit _ _ _ => none
  | .bindRecordWrite _ _ _ _ => none
  | .schedulingPeriod _ _ => none
  | .overflowExtend _ _ _ _ => none
  | .launchSuspend _ _ => none
  | .engineWalkFailure _ _ => none
  | .mcastDeliveryTimeout _ _ => none
  | .heartbeatTimeout _ _ => none
  | .suspect _ _ => none
  | .gatherTimeout _ => none
  | .propose _ _ _ _ => none
  | .ack _ _ _ _ _ => none
  | .nack _ _ _ => none
  | .ackTimeout _ => none
  | .commit _ _ _ _ _ => none
  | .commitTimeout _ => none
  | .isolation _ => none
  | .join _ _ => none
  | .partialLand _ _ _ _ _ _ => none
  | .finalLand _ _ _ _ _ _ => none
  | .complete _ _ _ => none
  | .stepTimeout _ _ => none
  | .collectiveAbandon _ => none
  | .amsg _ _ _ _ => none
  | .amack _ _ _ => none
  | .slotTableEdit _ _ => none
  | .partitionReset _ => none
  | .purgeExpiry _ => none
  | .linkDetect _ => none
  | .linkTrain _ _ => none
  | .flitReplay => none
  | .linkRetrain _ => none
  | .linkDown => none
  | .platd _ => none
  | .ltol _ => none
  | .evt => none
  | .partsetAssign _ => none
  | .partsetRemove _ => none
  | .amreg _ => none
  | .ntfbase _ => none
  | .ntflog _ => none
  | .ntfhead _ => none
  | .lqrec _ _ => none
  | .registerWrite _ _ => none
  | .notify _ => none
  | .lookup _ => none
  | .abort _ => none
  | .modstat _ => none
  | .moduleLoad _ _ _ _ _ => none
  | .moduleUnload _ _ => none
  | .powerStateEntry => none
  | .fatalErrorDump _ _ => none
  | .firmwareImageCheck _ _ => none
  | .attestation _ => none
  | .packageReset => none
  | .powerOn => none
  | .heartbeat _ _ => none
  | .fabricLinkDown _ => none
  | .fabricLinkTrained => none
  | .contextCreate _ _ _ _ _ _ => none
  | .contextErrorCollection _ => none
  | .faultBufferDiscard _ _ => none

/-- The word of an instruction. -/
def encode (i : Instr) : Option (BitVec 96) := i.fields.map Fields.word

/-- The decoder: the instruction of a word, or the cause of R60 by name. A word whose unused bits are not zero
differs from the word of the instruction its used fields name. -/
def decode (w : BitVec 96) : Except Illegal Instr :=
  match parse (Fields.of w) with
  | .error e => .error e
  | .ok i =>
    match i.illegal with
    | some e => .error e
    | none => if encode i = some w then .ok i else .error .nonzeroUnused

/-- The little-endian value of some bytes. -/
def leNat : List Byte → Nat
  | [] => 0
  | b :: r => b.toNat + 256 * leNat r

/-- The first `n` bytes of a number, little-endian. -/
def leBytes : Nat → Nat → List Byte
  | 0, _ => []
  | n + 1, x => BitVec.ofNat 8 x :: leBytes n (x / 256)

/-- The word that 12 bytes of memory hold: three little-endian 32-bit words, the first lowest (R45). -/
def wordOfBytes (bs : List Byte) : BitVec 96 := BitVec.ofNat 96 (leNat (bs.take 12))

/-- The 12 bytes of a word as memory holds them (R45). -/
def bytesOfWord (w : BitVec 96) : List Byte := leBytes 12 w.toNat

/-- Decoding from bytes: the instruction and the bytes after it; none where fewer than 12 are given. -/
def decodeBytes (bs : List Byte) : Option (Except Illegal Instr × List Byte) :=
  if bs.length < 12 then none else some (decode (wordOfBytes bs), bs.drop 12)

/-- The host's question: the instruction that the decoder reads from a table row's word `w` of `nbits` bits. -/
def decodeTableWord (nbits w : Nat) : Option Instr :=
  match decodeBytes (leBytes 12 (w % 2 ^ nbits)) with
  | some (.ok i, _) => some i
  | _ => none

end Sys2Proof
end

