-- ==== Sys2Proof/Machine/Memory.lean ====
section
/-! DEFINITION. Sparse tables by a numeric key, and memory: one list of (address, byte) pairs in canonical form, strictly
rising addresses and no zero byte listed. Every byte the machine addresses has a key: device memory and host memory
their canonical physical address (R301, R302), scratchpads and accumulator tiles a range of their own above it. -/

namespace Sys2Proof.Machine

/-- A sparse table: the value at a key, and a default elsewhere. -/
abbrev Tab (α : Type) := List (Nat × α)

/-- The value at a key. -/
def Tab.get (dflt : α) : Tab α → Nat → α
  | [], _ => dflt
  | (k, v) :: r, a => if k = a then v else Tab.get dflt r a

/-- Sets the value at a key; keys stay in rising order. -/
def Tab.put : Tab α → Nat → α → Tab α
  | [], a, v => [(a, v)]
  | (k, x) :: r, a, v =>
    if a < k then (a, v) :: (k, x) :: r else if a = k then (a, v) :: r else (k, x) :: Tab.put r a v

/-- Removes a key. -/
def Tab.del (t : Tab α) (a : Nat) : Tab α := t.filter (fun e => e.1 != a)

/-- Changes the value at a key. -/
def Tab.upd (dflt : α) (t : Tab α) (a : Nat) (f : α → α) : Tab α := t.put a (f (t.get dflt a))

/-- Memory in canonical form. -/
abbrev Memory := List Host.Cell

/-- What an address that is not listed reads as. DESIGN CHOICE (log 2): the spec gives no contents of memory that nothing
has written. -/
def Memory.unlisted : Byte := 0

/-- One byte of memory. -/
def Memory.read (m : Memory) (a : Nat) : Byte := Tab.get Memory.unlisted m a

/-- Writes one byte; writing what an unlisted address reads as removes the entry. -/
def Memory.write : Memory → Nat → Byte → Memory
  | [], a, v => if v = Memory.unlisted then [] else [(a, v)]
  | (k, x) :: r, a, v =>
    if a < k then (if v = Memory.unlisted then (k, x) :: r else (a, v) :: (k, x) :: r)
    else if a = k then (if v = Memory.unlisted then r else (a, v) :: r)
    else (k, x) :: Memory.write r a v

/-- Writes some bytes, the head of the list last. -/
def Memory.writeAll (m : Memory) : List Host.Cell → Memory
  | [] => m
  | (a, v) :: r => (m.writeAll r).write a v

/-- The canonical form: rising addresses from `lo` upward, and no entry equal to what an unlisted address reads as. -/
def Memory.wfFrom (lo : Nat) : Memory → Bool
  | [] => true
  | (k, v) :: r => lo ≤ k && v != Memory.unlisted && Memory.wfFrom (k + 1) r

/-- Memory is in canonical form. -/
def Memory.wf (m : Memory) : Bool := Memory.wfFrom 0 m

end Sys2Proof.Machine
end

