-- ==== Sys2Proof/Machine/State.lean ====
section
/-! DEFINITION. The state of the machine: everything the spec gives it, as plain data, with the state after reset, the
faults and the refusals. Each field's docstring names the rule of spec/ it comes from. -/

namespace Sys2Proof.Machine

/-! ### Threads and waves -/

/-- The three states of a thread (R10). -/
inductive ThSt where
  | run | held | done
deriving DecidableEq, Repr

/-- What holds a HELD thread (R186, R189, R191). -/
inductive Hold where
  | meet
  | mwait (m : Nat)
  | msync (lm : Lanes)
deriving DecidableEq, Repr

/-- A loop level: START, END, COUNT (R24). -/
structure Loop where
  start : Addr
  stop : Addr
  count : W32
deriving DecidableEq, Repr

/-- A thread's control state (R18, R20, R24, R37). Its `w` registers and predicates stand in the wave's tables. -/
structure Thread where
  pc : Addr
  st : ThSt
  hold : Hold
  /-- E0 to E3, the newest first; RSN is the length (R20). -/
  rs : List W64
  rsd : BitVec 16
  /-- `lc0` first; LD is the length (R24). -/
  ls : List Loop
  stkptr : W64
  workid : W64
  /-- Wait age, 0 to 255 (R340). -/
  age : Nat
  /-- Frozen while another path group is in the handler (R348). -/
  frozen : Bool
  /-- Stopped at a safe point (R353). -/
  stopped : Bool
  /-- Released past the safe point it stands at (R353). -/
  passed : Bool
  /-- The stack word of a hop arrival is still to be loaded (R387). -/
  arriving : Bool
  /-- It has come to its PC in sequence (R388). -/
  seq : Bool
deriving DecidableEq, Repr

/-- A thread that was not started (R13, R19). -/
def Thread.idle : Thread := ⟨0, .done, .meet, [], 0, [], 0, 0, 0, false, false, false, false, false⟩

/-- A mask: lanes and meet address (R27). -/
structure Mask where
  lanes : Lanes
  meet : W64
deriving DecidableEq, Repr

/-- The detail of an error (R347, R350). -/
structure Detail where
  kind : BitVec 8
  op : BitVec 12
  v2 : W64
  v3 : W64
deriving DecidableEq, Repr

/-- A completion token: count, sticky error bit, detail of the first error (R28, R347). -/
structure Token where
  count : Nat
  err : Bool
  det : Option Detail
deriving DecidableEq, Repr

/-- Where a result goes. -/
inductive Dest where
  | none
  /-- `n` consecutive `w` registers from `r`. -/
  | w (r n : Nat)
  | p (i : Nat)
  /-- `p0` to `p6` by mask (`PMOV.unpack`, R119). -/
  | ps (mask : BitVec 7)
  | m (i : Nat)
  | n (i : Nat)
  | lc (i : Nat)
  /-- A special register written by `MTS` (R242). -/
  | sr (i : Nat)
deriving DecidableEq, Repr

/-- A result in the pipe (R32, R355): due position, destination, lanes, the value per lane, and the operation it completes. -/
structure PipeEnt where
  due : BitVec 16
  dst : Dest
  lanes : Lanes
  vals : Tab Nat
  post : Option Nat
deriving DecidableEq, Repr

/-- An operation issued and not retired (R28, R58): its token, its result and whether it has completed. -/
structure Op where
  id : Nat
  tok : Option Nat
  dst : Dest
  lanes : Lanes
  vals : Tab Nat
  done : Bool
  err : Option Detail
  opc : BitVec 12
  /-- The outstanding operation is a `COLL` or a blocking `ARRQ` (R407). -/
  coll : Bool
  /-- Registers whose result a debugger's WRITE.FORCE discards (R362). -/
  dropped : List Nat
deriving DecidableEq, Repr

/-- A write that is not acknowledged yet (R148, R274): its number in its wave, its address, whether host memory must confirm it (R284), the
operation that completes with its acknowledgement (R282, R284), and whether it is still to be performed, as part of that operation (R275). -/
structure OutW where
  seq : Nat
  va : Nat
  host : Bool
  op : Option Nat
  late : Bool
deriving DecidableEq, Repr

/-- The rotation state and pipe that a handler entry puts aside (R348). -/
structure Frame where
  pos : BitVec 16
  rc : Nat
  fav : Lanes
  ages : Tab Nat
  pipe : List PipeEnt
  /-- The handler lanes. -/
  lanes : Lanes
deriving DecidableEq, Repr

/-- A fault record (R350), as the latch of a parked wave holds it. -/
structure Record where
  cause : BitVec 7
  resume : W64
  pc : Addr
  active : Lanes
  iword : BitVec 96
  v0 : W64
  v1 : W64
  v2 : W64
  v3 : W64
  /-- The store of the record at `sr.fault` failed: bit 6 of the CAUSE byte in the latch (R348). -/
  failed : Bool
deriving DecidableEq, Repr

/-- What an issue knows: wave, core, block, context, launch slot, path group, active lanes, BA, the number of a new operation. -/
structure Iss where
  w : Nat
  core : Nat
  blk : Nat
  asid : Nat
  slot : Nat
  grp : Lanes
  act : Lanes
  ba : Addr
  opid : Nat
  h : Ctl
deriving DecidableEq, Repr

/-- Why a wave is not eligible although it has a RUN thread (R338). -/
inductive Wait where
  | ready
  | token (k n : Nat)
  | fence (order scope : Nat)
  | wfence | ifence
  | rclaim (n order : Nat)
  | slot
  | tileq (t : Nat)
  /-- An access that the load-store unit cannot hold waits before its issue for reads of the wave to be bound (R275). -/
  | bound
  /-- A seq_cst access has issued: it acts as `FENCE.seq_cst` at its scope after itself (R275). -/
  | sc (scope : Nat)
  /-- A call waits before its issue for the acknowledgement of its spill stores (R21). -/
  | spill
deriving DecidableEq, Repr

/-- The spill stores that a call has made and waits for (R21): address and value, the numbers of the writes (from `lo`, below `hi`), and the
addresses of those that the Dunvia Link has lost. -/
structure Spill where
  ws : List (Nat × Nat)
  lo : Nat
  hi : Nat
  lost : List Nat
deriving DecidableEq, Repr

/-- A wave: the state its path groups share (R26), and its 32 threads. -/
structure Wave where
  live : Bool
  /-- A number no other wave has; operations name the wave by it. -/
  uid : Nat
  /-- The block, as a key of `blocks`. -/
  blk : Nat
  /-- `sr.wave` (R37). -/
  widx : Nat
  /-- Allocation A (R15). -/
  alloc : Nat
  role : W32
  /-- `wr` of lane `l` at key 256 l + r. -/
  regs : Tab W32
  /-- `pi` of lane `l` at key 8 l + i. -/
  preds : Tab Bool
  thr : Tab Thread
  masks : Tab Mask
  toks : Tab Token
  ns : Tab W64
  pend : BitVec 256
  pipe : List PipeEnt
  /-- Issue-position counter (R32). -/
  pos : BitVec 16
  rc : Nat
  fav : Lanes
  /-- `sr.handler`, `sr.fault` (R39). -/
  handler : W64
  fault : W64
  frame : Option Frame
  parked : Bool
  latch : Option Record
  /-- `sr.clock` as it parked: the call of a service (R437). -/
  parkAt : W64
  /-- Oldest first. -/
  ops : List Op
  opn : Nat
  /-- Unacknowledged writes, oldest first (R148, R161, R274). -/
  outw : List OutW
  /-- The number of the next write. -/
  wseq : Nat
  untracked : Option Detail
  asyncDue : Bool
  spill : Option Spill
  /-- A membership change to trap on: old tag, new tag, members (R407). -/
  membership : Option (W32 × W32 × Nat)
  wait : Wait
  /-- Cycles in which the wave is not eligible: GAP, `DLY`, taken branch (R56). -/
  stall : Nat
  /-- Its fetch is suspended: its last access had a page walked for its checks (R146, R338). -/
  walking : Bool
  /-- The turn of its last issue; 0 when it has not issued (R339). -/
  lastIssue : Nat
  /-- Registers whose word is uncorrectable: lane, index (R319). -/
  bad : List (Nat × Nat)
  /-- A debugger's STEP: park after the next issue (R362). -/
  stepping : Bool
  /-- All threads stopped at safe points and the conditions hold: the wave leaves (R353). -/
  leaving : Bool
  /-- The priority class of its block (R339). -/
  priority : Nat
  /-- Performance counters that `MTS` has written and the context has not yet taken (R242). -/
  pmcSet : List (Nat × W64)
deriving DecidableEq, Repr

/-- No wave. -/
def Wave.empty : Wave :=
  { live := false, uid := 0, blk := 0, widx := 0, alloc := 8, role := 0, regs := [], preds := [], thr := [], masks := [],
    toks := [], ns := [], pend := 0, pipe := [], pos := 0, rc := 0, fav := 0, handler := 0, fault := 0, frame := none,
    parked := false, latch := none, parkAt := 0, ops := [], opn := 0, outw := [], wseq := 0, untracked := none, asyncDue := false,
    spill := none, membership := none, wait := .ready, stall := 0, walking := false, lastIssue := 0, bad := [], stepping := false, leaving := false,
    priority := 0, pmcSet := [] }

/-! ### Blocks and cores -/

/-- A tile-table entry (R224): STATE 0 EMPTY, 1 FILLING, 2 READY, 3 DRAINING. -/
structure Tile where
  state : Nat
  nrd : Nat
  nfill : Nat
  size : Nat
  base : Nat
deriving DecidableEq, Repr

/-- A free entry (R224). -/
def Tile.free : Tile := ⟨0, 0, 0, 0, 0⟩

/-- A window slot: the block it reaches and the generation recorded (R172, R372); none when revoked or unmapped. -/
structure Window where
  core : Nat
  entry : Nat
  gen : BitVec 16
deriving DecidableEq, Repr

/-- The report of the most recent copy of a record (R220). -/
structure Report where
  /-- The copy it reports. -/
  copy : Nat
  bytes : Nat
  done : Bool
  err : Bool
  fbk : Nat
  unreach : W64
deriving DecidableEq, Repr

/-- A block: bound at the key core × 64 + bind entry (R9, R334). -/
structure Block where
  live : Bool
  slot : Nat
  asid : Nat
  /-- Block index b (R323). -/
  index : Nat
  frame : Option Nat
  /-- QB of its entry: wave w issues from quarter (QB + w) mod 4. -/
  qb : Nat
  waves : Nat
  formed : Bool
  prio : Nat
  /-- Idempotent status (R359). -/
  idem : Bool
  member : Bool
  /-- `GLEAVE` waits for accepted deliveries (R171). -/
  leaving : Bool
  /-- Scratchpad start in the core's SRAM and size in bytes (R334). -/
  scrb : Nat
  scrsz : Nat
  gen : BitVec 16
  tiles : Tab Tile
  tileN : Nat
  accB : Nat
  accN : Nat
  /-- BQ(j) of R205, and the block pool, by relative quarter j. -/
  bq : Tab Nat
  pool : Tab Nat
  windows : Tab (Option Window)
  /-- `sr.preq`, `sr.deadline` (R37). -/
  preq : Bool
  deadline : W64
  reports : Tab (Option Report)
  /-- The records a formed wave came from, while its status is idempotent (R359). -/
  recs : List (BitVec 512)
  /-- When it was bound, for the scheduling period (R341). -/
  since : Nat
  /-- Reduce records of the formed block: chunk, view tag (R411). -/
  reduces : List (Nat × Nat)
  /-- Its cooperative leaving: it ends without an OUTQ enqueue (R353). -/
  left : Bool
  /-- Its waves have ended: automatic contribution and OUTQ enqueue are still to be made (R330, R412). -/
  outq : Bool
  auto : Bool
  /-- The numbers of its waves that have ended (R10, R330). -/
  ended : List Nat
deriving DecidableEq, Repr

/-- No block. -/
def Block.empty : Block :=
  { live := false, slot := 0, asid := 0, index := 0, frame := none, qb := 0, waves := 0, formed := false, prio := 0,
    idem := false, member := false, leaving := false, scrb := 0, scrsz := 0, gen := 0, tiles := [], tileN := 0, accB := 0,
    accN := 0, bq := [], pool := [], windows := [], preq := false, deadline := BitVec.allOnes 64, reports := [], recs := [],
    since := 0, reduces := [], left := false, outq := false, auto := false, ended := [] }

/-- A delivery of an `MCAST` to one window slot (R217): waiting, accepted by a block of a scratchpad base, or not reached. -/
inductive Delivery where
  | sent (w : Window)
  | accepted (blk : Nat)
  | missed
deriving DecidableEq, Repr

/-- A copy in the engine of a core (R367, R368, R355). -/
structure Copy where
  id : Nat
  core : Nat
  blk : Nat
  /-- The issuing wave and its operation. -/
  uid : Nat
  op : Nat
  /-- 0 `CPY`, 1 `GATH`, 2 `SCAT`, 3 `MCAST`. -/
  kind : Nat
  rcd : BitVec 512
  /-- Scratchpad offset of the record (R220). -/
  ofs : Nat
  active : Bool
  /-- The first row not completed, and the bytes of it that have landed. -/
  row : Nat
  seg : Nat
  /-- The row's index, once read (R216). -/
  idxv : Option Nat
  bytes : Nat
  fbk : Nat
  /-- Destination lines already parked (R371). -/
  parked : List Nat
  landed : Bool
  err : Option Detail
  /-- A failed walk that Foxglove has been told of: address (R370). -/
  walk : Option W64
  deliveries : Tab Delivery
  /-- The clock as it became active and sent its deliveries (R372). -/
  sentAt : Nat
  /-- Tiles it counts in: NFILL and NRD, as block and entry. -/
  fills : List (Nat × Nat)
  reads : List (Nat × Nat)
  /-- The tile that a row of a `GATH` is being read from (R438). -/
  rowRead : Option (Nat × Nat)
  /-- The bytes it has written, as a mask, by line (R320). -/
  wrote : Tab Nat
  /-- Its chained command is still to run (R218). -/
  chained : Bool
  prio : Nat
  /-- It begins when the writes of the issuing wave numbered below this are acknowledged, and earlier reads bound (R280). -/
  need : Nat
deriving DecidableEq, Repr

/-- An operation of the matrix unit (R230, R355): the instruction's fields and operand values. -/
structure MatOp where
  id : Nat
  core : Nat
  blk : Nat
  uid : Nat
  op : Nat
  tok : Nat
  /-- 0 `MMA`, 1 `MMAP`, 2 `ACCSC`, 3 `ACCZ`, 4 `ACCRD`, 5 `ACCWR`, 6 `ACCLD`, 7 `ACCST`. -/
  kind : Nat
  /-- Tile of the core it writes or reads first, and a second tile (FP64 pair, `ACCSC` source). -/
  tile : Nat
  tile2 : Option Nat
  ty : Nat
  be5 : Bool
  kq : Nat
  za : Bool
  xa : W64
  xb : W64
  c : W32
  /-- Rows committed. -/
  row : Nat
  started : Bool
  /-- It has committed its last row, or failed (R230); it stays until it retires. -/
  ended : Bool
  /-- The copy it is chained to, until that copy has landed (R218, R373). -/
  chain : Option Nat
  /-- It may start: no chained command, or one whose conditions have been met (R373). -/
  go : Bool
  /-- `ACCWR` row data: lane l's element e at key 4 l + e. -/
  data : Tab W32
  reads : List (Nat × Nat)
  /-- The first step cycle, once started, and the row that took it (R376, R377). -/
  start : Nat
  r0 : Nat
  /-- The lanes active at issue: the columns `ACCWR` writes. -/
  lanes : Lanes
  /-- Its instruction word, for the save area (R355). -/
  word : BitVec 96
  /-- It begins when the writes of the issuing wave numbered below this are acknowledged, and earlier reads bound (R280). -/
  need : Nat
  /-- The bytes that an `ACCST` has written, as a mask, by line (R320). -/
  wrote : Tab Nat
deriving DecidableEq, Repr

/-- A bind record's place: the slot table entry of a core (R332). -/
abbrev BindRec := BitVec 128

/-- A wave that a Posy is forming (R336). -/
structure Form where
  core : Nat
  recs : List (BitVec 512)
  since : Nat
  released : Bool
  /-- The task-type entry once read (R440): REG, SCR, FLAGS. -/
  entry : Option (Nat × Nat × BitVec 16)
  /-- Its read failed and is with Foxglove. -/
  failed : Bool
deriving DecidableEq, Repr

/-- A thread record on its way to a core (R202, R390). -/
structure Transit where
  rcd : BitVec 512
  core : Nat
  /-- The sending wave: its writes numbered below `need` must be acknowledged, its reads among the operations below `before` bound. -/
  uid : Nat
  need : Nat
  before : Nat
  /-- The operation of an `AMSEND` it answers. -/
  op : Option Nat
  /-- The fabric rank it is bound for, when it leaves the device (R240). -/
  rank : Option Nat
  /-- A hop that was forwarded once (R390). -/
  forwarded : Bool
  /-- Written straight to the overflow ring of its core (cooperative saves, R353). -/
  toRing : Bool
  /-- To the cold ring (R388). -/
  cold : Bool
  /-- The clock of the sender's die: the threads it forms are causally after the sender's accesses (R281). -/
  vc : Tab Nat
  /-- The sending core; 288 for the base die (R393). -/
  src : Nat
  /-- The partition it travels in, and whether it has left the device, when it is bound for another one (R418). -/
  part : Nat
  gone : Bool
deriving DecidableEq, Repr

/-- Where an address leads (R143): scratchpad of a block at an offset, device memory, or host memory. -/
inductive Place where
  | scratch (blk ofs : Nat)
  | dev (pa : Nat) (pte : W64)
  | host (pa : Nat)
deriving DecidableEq, Repr

/-- An access that has issued and that the load-store unit still holds (R271, R275): its instruction, what the issue knew, the wave's registers
at its issue, the places checked then, and the lanes whose later accesses wait for it. -/
structure Late where
  uid : Nat
  ins : Instr
  i : Iss
  x : Wave
  places : List (Nat × Place)
  /-- The lanes' effective addresses. -/
  va : Tab Nat
  size : Nat
  order : Nat
  scope : Nat
  /-- It writes. -/
  wr : Bool
  /-- Earlier writes of the wave: those numbered below (R275). -/
  need : Nat
  blocks : Lanes
deriving DecidableEq, Repr

/-- A queue request that waits at a home slice (R168). -/
structure QWait where
  hdr : Nat
  /-- The header's place. -/
  at' : Place
  asid : Nat
  enq : Bool
  /-- The waiter: a wave's operation and lane; with `uid` 0 a distributor's request, `op` the block of an OUTQ enqueue or the bind entry of an INQ
  dequeue (R330). -/
  uid : Nat
  op : Nat
  lane : Nat
  data : Nat
  size : Nat
  /-- The lane's effective address. -/
  va : W64
  /-- The lanes whose later accesses wait for it (R275). -/
  blocks : Lanes
deriving DecidableEq, Repr

/-- A `BWAIT` that waits at a scratchpad (R223). -/
structure BWait where
  obj : Nat
  phase : BitVec 16
  uid : Nat
  op : Nat
  /-- The effective address it waits at. -/
  va : W64
deriving DecidableEq, Repr

/-! ### Memory system -/

/-- The park record of a line (R300, R308 to R312). -/
structure Park where
  /-- Effective set (R154). -/
  set : W64
  /-- Read-once bits still to read. -/
  unread : BitVec 18
  /-- 0 CORE, 1 CLUSTER, 2 DIE, 3 PACKAGE. -/
  lvl : Nat
  /-- LOC of the `STN` report (R156). -/
  loc : Nat
  /-- Virtual line through which it was placed in an L1 (R309). -/
  vline : Nat
  asid : Nat
  /-- Its place in the order of parking (R296). -/
  order : Nat
  /-- The quotas of the launch whose access parked it (R309). -/
  quota : Nat × Nat × Nat
deriving DecidableEq, Repr

/-- A scope-local copy: cluster slice, line, context, the line's bytes when it was made, the modified bytes by offset (R279, R365). -/
structure Local where
  cl : Nat
  line : Nat
  asid : Nat
  /-- Virtual address of the access that made it: its page must still grant write when it is pushed (R361). -/
  va : Nat
  orig : Nat
  data : Tab Byte
  /-- The launches' blocks that wrote it (R366). -/
  blks : List Nat
  /-- The contexts whose atomics wrote it: a release of any of them pushes it (R161, R279). -/
  writers : List Nat
deriving DecidableEq, Repr

/-- A line in a fault buffer (R360). -/
structure Held where
  cl : Nat
  line : Nat
  asid : Nat
  va : Nat
  data : Tab Byte
  /-- The contexts and blocks whose atomics wrote it (R161, R366). -/
  writers : List Nat
  blks : List Nat
  /-- It came from an eviction, so the next release fence reports it (R361). -/
  evicted : Bool
deriving DecidableEq, Repr

/-- A message between dies with its vector clock (R276). -/
structure Msg where
  src : Nat
  dst : Nat
  vc : Tab Nat
  cells : List Host.Cell
deriving DecidableEq, Repr

/-- A cached translation: slice (numbered die × 18 + slice), context, page base and size, the leaf entry (R304). -/
structure Tlb where
  slice : Nat
  asid : Nat
  base : Nat
  size : Nat
  pte : W64
deriving DecidableEq, Repr

/-- A fetch block in an instruction store: level 0 the L0I of a quarter (core × 4 + quarter), 1 the L1I of a core, 2 the L2I of a die (R295). -/
structure IBlock where
  level : Nat
  unit : Nat
  asid : Nat
  va : Nat
  bytes : List Byte
deriving DecidableEq, Repr

/-! ### Launches, contexts, collectives, host -/

/-- A launch slot (R324, R326 to R328). -/
structure Launch where
  used : Bool
  admitted : Bool
  rcd : BitVec 1024
  asid : Nat
  ovb : W64
  /-- Order of enqueue, and of admission. -/
  seq : Nat
  adm : Nat
  /-- The launch before it on its queue (R327). -/
  prev : Option Nat
  /-- Blocks its distributors still own: die, from the lowest index to the highest, and returned ones. -/
  lo : Tab Nat
  hi : Tab Nat
  back : List (Nat × Nat)
  frames : List Nat
  /-- Blocks bound, saved or ending. -/
  out : Nat
  /-- Dequeued INQ data waiting for a binding: core entry key, data (R330). -/
  inq : Tab (Option Nat)
  /-- Slot data that a die's distributor has dequeued and that no entry holds any more (log 49). -/
  spare : List (Nat × Nat)
  /-- Blocks taken by an OFFER entry and not yet bound: entry key, index. -/
  handed : Tab (Option Nat)
  suspended : Bool
  aborted : Bool
  /-- When a block of it last ended; none when none has (R341). -/
  lastEnd : Option Nat
  bid : Option Nat
  /-- The launch queue it was enqueued on. -/
  queue : Nat
  /-- The clock of the die that enqueued it (R281). -/
  vc : Tab Nat
  /-- The copy of its segment map that each die keeps, header and entries: Foxglove changes the four as one (R383). -/
  map : Option (Nat × List Nat)
deriving DecidableEq, Repr

/-- No launch. -/
def Launch.free : Launch :=
  { used := false, admitted := false, rcd := 0, asid := 0, ovb := 0, seq := 0, adm := 0, prev := none, lo := [], hi := [],
    back := [], frames := [], out := 0, inq := [], spare := [], handed := [], suspended := false, aborted := false,
    lastEnd := none, bid := none, queue := 0, vc := [], map := none }

/-- A module table entry (R427). -/
structure Module where
  state : Nat
  gen : BitVec 16
  base : W64
  size : Nat
  globals : List (List Byte × W64)
  /-- The image that a load has still to write (R428). -/
  image : List Byte
deriving DecidableEq, Repr

/-- A context (R41): roots of its page tables per die, window base, park quotas, errors, modules, notification ring. -/
structure Context where
  live : Bool
  roots : Tab W64
  window : W64
  q1 : Nat
  q2 : Nat
  q3 : Nat
  ctxerr : W64
  /-- Its status is capacity-stall: no core has room for a saved block of it (R357). -/
  stalled : Bool
  modules : Tab Module
  ntfBase : W64
  ntfLog : Nat
  ntfHead : Nat
  ntfTail : Nat
  /-- `sr.pmci` on core c at key 16 c + i (R342). -/
  pmc : Tab W64
deriving DecidableEq, Repr

/-- No context. -/
def Context.none : Context :=
  { live := false, roots := [], window := 0, q1 := 0, q2 := 0, q3 := 0, ctxerr := 0, stalled := false, modules := [], ntfBase := 0, ntfLog := 0,
    ntfHead := 0, ntfTail := 0, pmc := [] }

/-- The agreement state of a binding (R404). -/
inductive CState where
  | normal | agree | isolated | candidate
deriving DecidableEq, Repr

/-- A chunk of the operation in progress (R409 to R415). Masks are lists of binding ranks. -/
structure Chunk where
  /-- Its IN is staged. -/
  staged : Bool
  /-- The step goes on without its IN (R415). -/
  flushed : Bool
  /-- The mask of ACC, once a partial has landed. -/
  acc : Option (List Nat)
  /-- The mask of OUT, once the step is taken. -/
  out : Option (List Nat)
  /-- The reduce block runs, and has ended (R411). -/
  reducing : Bool
  reduced : Bool
  /-- The final's mask and the view tag when it was written to DST. -/
  final : Option (List Nat × W32)
  rst : Bool
  rew : Bool
  /-- The clock of the contribution staged: the threads of the reduce step are causally after it (R281). -/
  vc : Tab Nat
  /-- The clock as its partial landed (R415). -/
  landedAt : Nat
  /-- Its final could not be written: the error of its contributions (R420). -/
  bad : Option (BitVec 8)
deriving DecidableEq, Repr

/-- A chunk of which nothing has come yet. -/
def Chunk.fresh : Chunk := ⟨false, false, none, none, false, false, none, false, false, [], 0, none⟩

/-- A `COLL` or an automatic contribution (R409, R412): wave, operation, chunk, source, the bound on the writes of the wave it waits for (R238), and
whether it belongs to the operation in progress. -/
structure CollOp where
  uid : Nat
  op : Nat
  chunk : Nat
  src : W64
  need : Nat
  staged : Bool
  /-- The clock of the contributor's die. -/
  vc : Tab Nat
deriving DecidableEq, Repr

/-- A packet of the fabric (R396): its header flit, and the mask and the data of its payload. -/
structure Packet where
  hdr : BitVec 256
  mask : List Nat
  data : List Byte
deriving DecidableEq, Repr

/-- A collective binding at this device (R401 to R416). -/
structure Binding where
  live : Bool
  rcd : BitVec 1024
  slot : Nat
  asid : Nat
  /-- The partition of its traffic (R418). -/
  part : Nat
  /-- Binding rank of this device, and the fabric ranks of the members. -/
  rank : Nat
  members : List Nat
  tag : W32
  view : List Nat
  st : CState
  seen : W32
  acked : W32
  suspects : List Nat
  cands : List Nat
  /-- Gathering or a proposal of this coordinator: tag, mask, ACKs received with their chunks. -/
  gather : Bool
  /-- The clock as its gathering began; as it proposed or acknowledged; as its operation, or a re-run, began (R404, R415). -/
  gatherAt : Nat
  agreeAt : Nat
  began : Nat
  prop : Option (W32 × List Nat)
  acks : List (Nat × List Nat)
  opseq : W32
  restarts : Nat
  chunks : Tab Chunk
  colls : List CollOp
  queue : List W32
  ovf : Bool
  /-- `ARRQ` operations that wait: wave, operation (R241). -/
  arrq : List (Nat × Nat)
  /-- Packets of a later tag or operation, held (R406, R409). -/
  held : List Packet
  /-- Packets of this device that have still to leave it. -/
  sent : List Packet
  discards : Nat
  /-- Time of the last heartbeat of each neighbour, and of the last one sent. -/
  beats : Tab Nat
  beat : Option Nat
deriving DecidableEq, Repr

/-- A partition table entry (R418). -/
structure Partition where
  valid : Bool
  asid : Nat
  am : Option Nat
deriving DecidableEq, Repr

/-- A block's save area in use (R355): what is not in its memory bytes the model keeps as it was. -/
structure Saved where
  live : Bool
  block : Block
  waves : List Wave
  area : Nat
  /-- 0 forced, 1 switch-out, 2 Foxglove. -/
  why : Nat
  since : Nat
  copies : List Copy
  mats : List MatOp
  core : Nat
  /-- Waits on its barrier objects, by scratchpad offset. -/
  bwaits : List BWait
  /-- The copies whose states the area holds, in order (R355). -/
  cids : List Nat
  /-- The clock of what reaches its waves while they are saved, for the die they come back to (R277). -/
  vc : Tab Nat
deriving DecidableEq, Repr

/-- A launch record waiting in a queue (R326). -/
structure QRec where
  slot : Nat
deriving DecidableEq, Repr

/-- A `LAUNCH` whose record is still to be read: it waits for the writes of the wave numbered below `need`, and takes its place among the records
of its cycle (R209, R326). -/
structure LReq where
  uid : Nat
  op : Nat
  queue : Nat
  core : Nat
  asid : Nat
  place : Place
  need : Nat
deriving DecidableEq, Repr

/-- Link states of R421. -/
inductive Link where
  | detect | train | negotiate | active | retrain | down
deriving DecidableEq, Repr

/-- An error that the environment makes in a structure (R319): one that is corrected or refetched and only counted in SERC (index, uncorrectable);
the line of a scratchpad, cache or memory at an address of `mem`, a register of a wave (uid, lane, index), an accumulator element at an address, each
uncorrectable; or a packet that arrives with a header, which it reads as malformed (R396). -/
inductive Upset where
  | counted (i : Nat) (fatal : Bool)
  | line (a : Nat)
  | reg (uid l r : Nat)
  | acc (a : Nat)
  | packet (header : BitVec 256)
deriving DecidableEq, Repr

/-- A value that Foxglove or the host runtime sets: the parking threshold of a core (R352), the scheduling period in cycles (R341). -/
inductive Setting where
  | pth (core n : Nat)
  | period (n : Nat)
deriving DecidableEq, Repr

/-- Everything but memory. -/
structure Device where
  /-- Wave slot s of quarter q of core c at key 64 c + 16 q + s (R40). -/
  waves : Tab Wave
  blocks : Tab Block
  saved : List Saved
  copies : List Copy
  mats : List MatOp
  /-- Bind entry e of core c at key 64 c + e (R332). -/
  binds : Tab BindRec
  /-- What Foxglove's last write of an entry met: whether it took effect (R333). -/
  bindOut : Option Bool
  /-- Writes of entries that come after a binding of the same cycle: core, entry, the STATE expected, the record (R344). -/
  bindDue : List (Nat × Nat × BitVec 2 × BitVec 128)
  /-- Bytes of a core's data SRAM that were scratchpad at its last binding (R296). -/
  split : Tab Nat
  /-- `sr.segment` by core (R37). -/
  segs : Tab W32
  /-- Generation counters by core (R372). -/
  gens : Tab (BitVec 16)
  forms : List Form
  transit : List Transit
  /-- Records in the spill areas: die, the core they are bound for, record (R390, R391). -/
  spill : List (Nat × Nat × BitVec 512)
  overflowDue : List (Nat × Nat)
  /-- Foxglove has been told that formed waves of a launch slot wait on a core for an offer (R336). -/
  offersDue : List (Nat × Nat)
  qwaits : List QWait
  /-- Accesses that the load-store units hold, in the order of their issue (R275). -/
  late : List Late
  /-- Writes still outstanding of waves that have ended, by wave number (R10, R274). -/
  orphans : Tab (List OutW)
  bwaits : List BWait
  parks : Tab (Option Park)
  parkn : Nat
  locals : List Local
  fbuf : List Held
  clk : Tab Nat
  applied : Tab Nat
  msgs : List Msg
  /-- Byte a as die e still reads it, at key e × 2^52 + a (R276). -/
  stale : Tab Byte
  /-- Dies that hold read copies: die, line. -/
  readers : List (Nat × Nat)
  owners : Tab Nat
  /-- The clock that stands with a line at the base die, at its park location or in the bridge: entry k of line l at key 4 l + k. -/
  lclk : Tab Nat
  poison : List Nat
  /-- Accumulator elements, by their address, whose word is uncorrectable (R319). -/
  badAcc : List Nat
  tlb : List Tlb
  iblocks : List IBlock
  launches : Tab Launch
  lqs : Tab (List QRec)
  lseq : Nat
  /-- The last record enqueued on a queue, by its order of enqueue (R327). -/
  lqLast : Tab (Option Nat)
  lreqs : List LReq
  /-- Host writes to LQREC that are not settled yet: queue, LQASID(q) as it stood, value (R424). -/
  lqrecs : List (Nat × Nat × W64)
  contexts : Tab Context
  bindings : Tab Binding
  partitions : Tab Partition
  /-- AMACK answers that have still to leave the device (R417), and the packets that have left it, oldest first. -/
  fabWait : List Packet
  fabOut : List Packet
  slotTabs : Tab (List (BitVec 16))
  /-- Fabric links that are down: link l of this device at l, link l of the device of rank r at 16 × (1 + r) + l (R395). -/
  linksDown : List Nat
  fabricUp : Bool
  /-- Torus sizes and coordinates of the platform descriptor (R422). -/
  torus : List Nat
  coords : List Nat
  hreg : Tab W64
  link : Link
  linkWidth : Nat
  linkRate : Nat
  linkFerr : Bool
  retries : Nat
  /-- Host accesses that a retraining link holds: a write or a read that has an effect, offset, value (R421). -/
  hostHeld : List (Bool × Nat × W64)
  /-- Loads reported to the host runtime: context, entry (R428). -/
  loadReports : List (Nat × Nat)
  /-- Times of the retraining failures since the link was last active (R421). -/
  retrainFails : List Nat
  serc : Tab W64
  power : Nat
  /-- Firmware images in use, by kind (R433). -/
  fwImages : Tab (List Byte)
  debugOn : Bool
  report : List Byte
  /-- Answer and status of the last debugger operation (R362). -/
  dbg : W64
  dbgStatus : Nat
  stopped : Bool
  clock : W64
  /-- Quarters whose FP64 unit took an instruction in this cycle and in the one before (R338). -/
  fp64Now : List Nat
  fp64Last : List Nat
  /-- Parking threshold PTH by core (R352). -/
  pth : Tab Nat
  /-- The scheduling period, in cycles (R341). -/
  period : Nat
  /-- Switch-outs that have begun and wait for what holds their blocks: context, core, area, blocks to discard (R356). -/
  outs : List (Nat × Nat × Nat × List Nat)
  /-- Discarded records, packets and other counted events. -/
  discards : Nat
  abandons : Nat
  occ : Tab Nat
  /-- Cores whose reported occupancy for a launch slot was below AQT in this period, and those that took a hop record of it: core, slot; replicas
  added for occupancy: slot, segment, core (R386). -/
  cool : List (Nat × Nat)
  hopsIn : List (Nat × Nat)
  extra : List (Nat × Nat × Nat)
  logs : List (Nat × Nat)
  /-- The model's own: events that come next, the wave that issues, the quarter whose turn it is, the counter of free
  values, the word last fetched, and counters of identifiers. -/
  agenda : List Instr
  cur : Nat
  turn : Nat
  free : Nat
  iword : BitVec 96
  uidn : Nat
  idn : Nat
  turns : Nat
  /-- The waves that have had their quarter's turn in this cycle. -/
  issued : List Nat
  /-- The model's own (log 18): for the events that the coming cycles make ready, in order, whether each is held back to a later cycle. -/
  holdback : List Bool
  /-- The model's own (log 43): the errors that the environment makes in the structures of R319 in the coming cycles. -/
  upsets : List (List Upset)
  /-- The model's own (log 50): the values that Foxglove and the host runtime set in the coming cycles. -/
  settings : List (List Setting)
deriving DecidableEq, Repr

/-- The state of the machine: memory, and everything else. -/
structure State where
  mem : Memory
  dev : Device
deriving DecidableEq, Repr

/-- The faults at which the model stops. All are safe: the spec names no machine state in which they arise. -/
inductive Fault where
  /-- Raised by an instruction's meaning when the current wave key names no wave, or a wave with no path group to issue:
  the spec gives an instruction no effect outside a path group (R9). Safe. -/
  | noPathGroup
deriving DecidableEq, Repr

/-- The refusals of the model. -/
inductive Refusal where
  /-- The instruction has no meaning in the model yet; raised by its arm of `exec`. Safe. -/
  | notModelled (mnemonic : String)
deriving DecidableEq, Repr

/-- The slot table of a router after reset: entries 0 and 128 CONTROL, the others FREE. DESIGN CHOICE (log 3). -/
def resetSlots : List (BitVec 16) :=
  (List.range 256).map (fun i => if i = 0 || i = 128 then 0xC000#16 else 0#16)

/-- The device after reset: no context, no launch, every slot free (log 3 names what the spec gives no value for). -/
def Device.reset : Device :=
  { waves := [], blocks := [], saved := [], copies := [], mats := [], binds := [], bindOut := none, bindDue := [], split := [], segs := [], gens := [], forms := [],
    transit := [], spill := [], overflowDue := [], offersDue := [], qwaits := [], late := [], orphans := [], bwaits := [], parks := [], parkn := 0, locals := [],
    fbuf := [], clk := [], applied := [], msgs := [], stale := [], readers := [], owners := [], lclk := [], poison := [], badAcc := [], tlb := [],
    iblocks := [], launches := [], lqs := [], lseq := 0, lqLast := [], lreqs := [], lqrecs := [], contexts := [], bindings := [], partitions := [], fabWait := [], fabOut := [], slotTabs := [],
    linksDown := [], fabricUp := false, torus := [], coords := [], hreg := [], link := .detect, linkWidth := 0,
    linkRate := 0, linkFerr := false, retries := 0, hostHeld := [], loadReports := [], retrainFails := [], serc := [], power := 0, fwImages := [],
    debugOn := false, report := [], dbg := 0, dbgStatus := 0, stopped := false, clock := 0,
    fp64Now := [], fp64Last := [], pth := [], period := 3400000, outs := [], discards := 0, abandons := 0, occ := [], cool := [], hopsIn := [], extra := [], logs := [], agenda := [], cur := 0, turn := 0, free := 0, iword := 0,
    uidn := 1, idn := 1, turns := 1, issued := [], holdback := [], upsets := [], settings := [] }

/-- The machine right after reset. -/
def State.reset : State := ⟨[], Device.reset⟩

end Sys2Proof.Machine
end

