-- ==== Sys2Proof/Machine/Access.lean ====
section
/-! DEFINITION. Memory as an instruction reaches it: bytes, the address regions of R143, translation (R304 to R306), the
dies' views of device memory (R270, R276), parks (R298, R308 to R312), scope-local copies (R279). -/

namespace Sys2Proof.Machine

/-- The state while a step works on it: memory as it stood, the bytes written since (the last first), and the rest. -/
structure St where
  m0 : Memory
  log : List Host.Cell
  d : Device
deriving DecidableEq, Repr

/-- Sets the device part. -/
def St.withD (s : St) (f : Device → Device) : St := { s with d := f s.d }

/-- One byte. -/
def St.rd (s : St) (a : Nat) : Byte :=
  match s.log.lookup a with
  | some b => b
  | none => s.m0.read a

/-- Writes one byte. -/
def St.wr (s : St) (a : Nat) (b : Byte) : St := { s with log := (a, b) :: s.log }

/-- `n` bytes, little-endian (R3). -/
def St.rdN (s : St) (a : Nat) : Nat → Nat
  | 0 => 0
  | n + 1 => (s.rd a).toNat + 256 * s.rdN (a + 1) n

/-- Writes the low `n` bytes of a number, little-endian. -/
def St.wrN (s : St) (a : Nat) : Nat → Nat → St
  | 0, _ => s
  | n + 1, v => (s.wr a (BitVec.ofNat 8 v)).wrN (a + 1) n (v / 256)

/-- The next free value, and the state that has used it (log 5). -/
def St.fresh (s : St) : BitVec 64 × St := (Config.freeValue s.d.free, s.withD fun d => { d with free := d.free + 1 })

/-! ### Cores, address ranges of the model -/

/-- Die of core c, numbered as R301 numbers channels. -/
def dieOf (c : Nat) : Nat := c / 72
/-- Cluster of core c within its die. -/
def clusterOf (c : Nat) : Nat := c % 72 / 4
/-- Core c in the format of `sr.core` (R37). -/
def coreId (c : Nat) : Nat := dieOf c * 128 + clusterOf c * 4 + c % 4
/-- The core of an identifier in the format of `sr.core`. -/
def coreOfId (i : Nat) : Nat := i / 128 * 72 + i / 4 % 32 * 4 + i % 4

/-- Where the data SRAM of core c stands in `mem`. -/
def scratchBase (c : Nat) : Nat := 2 ^ 52 + c * 2 ^ 20
/-- Where tile t of core c stands in `mem` (R34). -/
def tileBase (c t : Nat) : Nat := 2 ^ 53 + c * 2 ^ 20 + t * 65536

/-- The cluster slice of a core, numbered over the package: the slice that its requests first reach outside its L1 (R298, R304; log 44). -/
def sliceOf (core : Nat) : Nat := core / 4

/-- The line of an address. -/
def lineOf (a : Nat) : Nat := a / 128

/-- The wave of a key. -/
def Device.wave (d : Device) (w : Nat) : Wave := d.waves.get Wave.empty w
/-- Sets a wave. -/
def Device.setWave (d : Device) (w : Nat) (x : Wave) : Device := { d with waves := d.waves.put w x }
/-- The block of a key. -/
def Device.block (d : Device) (b : Nat) : Block := d.blocks.get Block.empty b
/-- Sets a block. -/
def Device.setBlock (d : Device) (b : Nat) (x : Block) : Device := { d with blocks := d.blocks.put b x }
/-- The context of an ASID. -/
def Device.ctx (d : Device) (a : Nat) : Context := d.contexts.get Context.none a
/-- Sets a context. -/
def Device.setCtx (d : Device) (a : Nat) (x : Context) : Device := { d with contexts := d.contexts.put a x }
/-- The launch of a slot. -/
def Device.launch (d : Device) (l : Nat) : Launch := d.launches.get Launch.free l
/-- Sets a launch slot. -/
def Device.setLaunch (d : Device) (l : Nat) (x : Launch) : Device := { d with launches := d.launches.put l x }
/-- Adds to a performance counter of a context on a core (R342, R343). -/
def Device.pmc (d : Device) (asid core i n : Nat) : Device :=
  let x := d.ctx asid
  d.setCtx asid { x with pmc := x.pmc.upd 0 (16 * core + i) (· + BitVec.ofNat 64 n) }
/-- The wave of a unique number, with its key. -/
def Device.byUid (d : Device) (uid : Nat) : Option (Nat × Wave) := d.waves.find? (fun e => e.2.live && e.2.uid == uid)

/-! ### What a wave has outstanding -/

/-- The place is host memory. -/
def Place.isHost : Place → Bool
  | .host _ => true
  | _ => false

/-- Unacknowledged writes of the wave (R148). -/
def Wave.unack (x : Wave) : Nat := x.outw.length
/-- Those of them that host memory must confirm (R284). -/
def Wave.unackHost (x : Wave) : Nat := (x.outw.filter (·.host)).length

/-- Writes to some places, each with its address, count among the wave's unacknowledged writes (R148, R274): of an operation that their
acknowledgement completes, if there is one, and still to be performed if they are `late`. -/
def Wave.addWrites (x : Wave) (op : Option Nat) (late : Bool) (ps : List (Nat × Place)) : Wave :=
  ps.foldl (fun x p => { x with outw := x.outw ++ [⟨x.wseq, p.1, p.2.isHost, op, late⟩], wseq := x.wseq + 1 }) x

/-- The first write that an operation still has to make is performed, at host memory or not; or it is not made at all. -/
def Wave.landWrite (x : Wave) (op : Nat) (made : Option Bool) : Wave :=
  match x.outw.find? (fun o => o.late && o.op == some op) with
  | none => x
  | some o => { x with outw := x.outw.filterMap (fun e =>
      if e == o then made.map (fun h => { o with late := false, op := none, host := h }) else some e) }

/-- The operation reads: a load, a returning atomic, `DEQ`, `LDF` or `RSQRY` (R161). -/
def Op.isRead (o : Op) : Bool := [0x400#12, 0x405#12, 0x442#12, 0x480#12, 0x481#12, 0x4C1#12].contains o.opc

/-- Changes the wave of a unique number, wherever it stands. -/
def Device.updWave (d : Device) (uid : Nat) (f : Wave → Wave) : Device :=
  match d.byUid uid with
  | some (w, x) => d.setWave w (f x)
  | none => { d with saved := d.saved.map (fun v => { v with waves := v.waves.map (fun x => if x.uid == uid then f x else x) }) }

/-- Changes the operation `op` of the wave of a unique number. -/
def Device.updOp (d : Device) (uid op : Nat) (f : Op → Op) : Device :=
  d.updWave uid (fun x => { x with ops := x.ops.map (fun o => if o.id == op then f o else o) })

/-- The wave of a unique number, resident or saved. -/
def Device.waveOf (d : Device) (uid : Nat) : Option Wave :=
  ((d.byUid uid).map (·.2)).or ((d.saved.flatMap (·.waves)).find? (·.uid == uid))

/-- Every write of the wave numbered below `need` is acknowledged. -/
def Device.acked (d : Device) (uid need : Nat) : Bool :=
  (((d.waveOf uid).map (·.outw)).getD (d.orphans.get [] uid)).all (fun o => need ≤ o.seq)

/-- Every read of the wave among its operations below `before` is bound (R274). -/
def Device.bound (d : Device) (uid before : Nat) : Bool :=
  match d.waveOf uid with
  | some x => x.ops.all (fun o => o.done || !o.isRead || before ≤ o.id)
  | none => true

/-- A field of a number: `len` bits from `lo`. -/
def field (x lo len : Nat) : Nat := x / 2 ^ lo % 2 ^ len

/-! ### Physical memory and translation -/

/-- The canonical address of a physical address (R302). -/
def canonical (pa : Nat) : Nat :=
  if 0x0080_0000_0000 ≤ pa && pa ≤ 0x00C7_FFFF_FFFF then
    let x := pa - 0x0080_0000_0000
    let c := x / 2 ^ 30
    let o := x % 2 ^ 30
    (c + 288 * (o / 4096)) * 4096 + o % 4096
  else pa

/-- A physical address is host memory (R301). -/
def isHost (pa : Nat) : Bool := 0x8_0000_0000_0000 ≤ pa

/-- A physical address lies in a reserved range (R301). -/
def isReserved (pa : Nat) : Bool :=
  (0x0048_0000_0000 ≤ pa && pa ≤ 0x007F_FFFF_FFFF) || (0x00C8_0000_0000 ≤ pa && pa ≤ 0x00FF_FFFF_FFFF) ||
    (0x0200_0000_0000 ≤ pa && pa < 0x8_0000_0000_0000)

/-- The channel of a canonical tier-1 address (R302); none for tier 2 and host memory. -/
def channelOf (pa : Nat) : Option Nat := if pa < 0x0048_0000_0000 then some (pa / 4096 % 288) else none

/-- The home die of a line (R302). -/
def homeDie (pa : Nat) : Nat :=
  match channelOf pa with
  | some c => c / 72
  | none => pa / 4096 % 4

/-- The fold of a line number (R298). -/
def foldOf (ln : Nat) : Nat := field ln 0 12 + field ln 12 12 + field ln 24 12 + field ln 36 9
/-- The home slice of a line in every die (R298). -/
def homeSlice (ln : Nat) : Nat := foldOf ln % 18
/-- The copy slice of a line in a sector (R298). -/
def copySlice (ln sector : Nat) : Nat := 6 * sector + foldOf ln % 6

/-- What an access needs of a page (R306): 0 read, 1 write, 2 both, 3 fetch, as R350 codes it. -/
inductive Acc where
  | read | write | both | fetch
deriving DecidableEq, Repr

/-- The code of R350. -/
def Acc.code : Acc → Nat
  | .read => 0
  | .write => 1
  | .both => 2
  | .fetch => 3

/-- Why an access faults: cause (R346), walk level, failing entry, tile and its state (R350). -/
structure MErr where
  cause : Nat
  level : Nat
  pte : W64
  tile : Nat
  tstate : Nat
deriving DecidableEq, Repr

/-- A fault with no walk. -/
def MErr.plain (cause : Nat) : MErr := ⟨cause, 7, 0, 0, 0⟩

/-- The five levels: low bit of the index, index bits (R304). -/
def levelLo : Nat → Nat
  | 0 => 45
  | 1 => 33
  | 2 => 29
  | 3 => 21
  | _ => 16
/-- Index bits of a level. -/
def levelBits : Nat → Nat
  | 0 => 12
  | 1 => 12
  | 2 => 4
  | 3 => 8
  | _ => 5

/-- The byte at a canonical address as a die reads it (R276). -/
def St.rdDie (s : St) (die a : Nat) : Byte :=
  match s.d.stale.lookup (die * 2 ^ 52 + a) with
  | some b => b
  | none => s.rd a

/-- `n` bytes as a die reads them. -/
def St.rdDieN (s : St) (die a : Nat) : Nat → Nat
  | 0 => 0
  | n + 1 => (s.rdDie die a).toNat + 256 * s.rdDieN die (a + 1) n

/-- A leaf or pointer entry breaks R306. -/
def pteBad (level : Nat) (e : Nat) : Bool :=
  let leaf := field e 1 1 = 1
  let pa := field e 12 40 * 4096
  field e 0 1 = 0 || (leaf && level = 0) || (!leaf && level = 4) || field e 52 12 != 0 || field e 9 3 != 0 || field e 6 1 != 0 ||
    field e 2 1 != 0 ||
    (if leaf then pa % 2 ^ levelLo level != 0 || isReserved pa || (field e 7 1 = 1) != isHost pa
     else pa % (8 * 2 ^ levelBits (level + 1)) != 0)

/-- The page walk from a level on, at a table's address (R304 to R306): physical address, leaf entry, page size. -/
def St.walkFrom (s : St) (die va : Nat) : Nat → Nat → Nat → Except MErr (Nat × W64 × Nat)
  | 0, level, _ => .error ⟨9, level, 0, 0, 0⟩
  | fuel + 1, level, tab =>
    let e := s.rdDieN die (canonical (tab + 8 * field va (levelLo level) (levelBits level))) 8
    let pa := field e 12 40 * 4096
    if pteBad level e then .error ⟨9, level, BitVec.ofNat 64 e, 0, 0⟩
    else if field e 1 1 = 1 then
      .ok (pa + va % 2 ^ levelLo level, BitVec.ofNat 64 e, 2 ^ levelLo level)
    else s.walkFrom die va fuel (level + 1) pa

/-- The root entry of a context on a die is bits 51:15 of the table's address, and valid (R306). -/
def St.walk (s : St) (die asid va : Nat) : Except MErr (Nat × W64 × Nat) :=
  let r := ((s.d.ctx asid).roots.get 0 die).toNat
  if field r 0 1 = 0 then .error ⟨9, 0, 0, 0, 0⟩
  else s.walkFrom die va 5 0 (field r 15 37 * 2 ^ 15)

/-- The translation cache of a slice holds the page of an address (R304). -/
def Tlb.covers (t : Tlb) (slice asid va : Nat) : Bool := t.slice == slice && t.asid == asid && t.base ≤ va && va < t.base + t.size

/-- The translation buffer of load pipe `p` of a core's matrix unit, by a number beyond those of the slices (R375). -/
def pipeOf (core p : Nat) : Nat := 72 + 2 * core + p % 2

/-- The die of a translation cache. -/
def tlbDie (slice : Nat) : Nat := if slice < 72 then slice / 18 else (slice - 72) / 144

/-- Translation at a slice or a load pipe: a cached one stays in use until it is invalidated, else a walker of its die walks (R304, R307, R375). -/
def St.translate (s : St) (slice asid va : Nat) : Except MErr (Nat × W64 × Nat) :=
  -- bits 63:57 of an address translate nowhere (R143)
  if 2 ^ 57 ≤ va then .error (.plain 9)
  else match s.d.tlb.find? (fun t => t.covers slice asid va) with
  | some t => .ok (field t.pte.toNat 12 40 * 4096 + (va - t.base), t.pte, t.size)
  | none => s.walk (tlbDie slice) asid va

/-- Keeps the translation of an address in the slice's cache. -/
def St.cacheTlb (s : St) (slice asid va : Nat) : St :=
  match s.translate slice asid va with
  | .error _ => s
  | .ok (_, pte, size) =>
    if s.d.tlb.any (fun t => t.covers slice asid va) then s
    else s.withD fun d => { d with tlb := ⟨slice, asid, va / size * size, size, pte⟩ :: d.tlb }

/-- Keeps the translation of an address in a load pipe's buffer of 32 entries: a full one gives up its oldest (R375). -/
def St.cachePipe (s : St) (pipe asid va : Nat) : St :=
  (s.cacheTlb pipe asid va).withD fun d =>
    { d with tlb := (d.tlb.filter (·.slice == pipe)).take 32 ++ d.tlb.filter (·.slice != pipe) }

/-- The page permits the access (R306). -/
def permits (pte : W64) (a : Acc) : Bool :=
  let e := pte.toNat
  match a with
  | .read => field e 3 1 = 1
  | .write => field e 4 1 = 1
  | .both => field e 3 1 = 1 && field e 4 1 = 1
  | .fetch => field e 5 1 = 1

/-- The key in `mem` of a place. -/
def Place.key (d : Device) : Place → Nat
  | .scratch b o => scratchBase (b / 64) + (d.block b).scrb + o
  | .dev pa _ => pa
  | .host pa => pa

/-- The block that window slot `s` of a block reaches; none when the slot is revoked or unmapped, or its member has left or issued `GLEAVE`
(R171, R172). -/
def Device.window (d : Device) (blk slot : Nat) : Option Nat :=
  if slot = 0 then some blk
  else match (d.block blk).windows.get none slot with
    | none => none
    | some w =>
      let k := 64 * w.core + w.entry
      let b := d.block k
      if b.live && b.gen == w.gen && b.member && !b.leaving then some k else none

/-- The tile of a block that holds a byte of its scratchpad (R224). -/
def Block.tileAt (b : Block) (ofs : Nat) : Option (Nat × Tile) :=
  b.tiles.find? (fun t => t.2.size != 0 && t.2.base ≤ ofs && ofs < t.2.base + t.2.size)

/-- Where an access at `ea` by a block leads when the cache `slice` translates it, and what stops it: translation, permission, scratchpad-range,
revoked-window (R143, R146, R172). -/
def St.locateBy (s : St) (slice blk : Nat) (ea : W64) (a : Acc) : Except MErr Place :=
  let b := s.d.block blk
  let va := ea.toNat
  let base := (s.d.ctx b.asid).window.toNat
  if 2 ^ 57 ≤ va then .error (.plain 9)
  else if base ≤ va && va < base + 2 ^ 26 then
    match s.d.window blk ((va - base) / 2 ^ 20) with
    | none => .error (.plain 12)
    | some k =>
      let o := (va - base) % 2 ^ 20
      if (s.d.block k).scrsz ≤ o then .error (.plain 11)
      else .ok (.scratch k o)
  else match s.translate slice b.asid va with
    | .error e => .error e
    | .ok (pa, pte, _) =>
      if !permits pte a then .error ⟨10, 7, pte, 0, 0⟩
      else if isHost pa then .ok (.host pa) else .ok (.dev (canonical pa) pte)

/-- Where an access at `ea` by a block leads, translated at the slice of its core's cluster. -/
def St.locate (s : St) (blk : Nat) (ea : W64) (a : Acc) : Except MErr Place := s.locateBy (sliceOf (blk / 64)) blk ea a

/-- A load, store, atomic, barrier or queue access to a tile needs it READY (R227). -/
def St.tileCheck (s : St) (p : Place) : Except MErr Place :=
  match p with
  | .scratch k o =>
    match (s.d.block k).tileAt o with
    | some (t, x) => if x.state = 2 then .ok p else .error ⟨15, 7, 0, t, x.state⟩
    | none => .ok p
  | _ => .ok p

/-! ### The dies' views of device memory -/

/-- Entry k of die d's vector clock. -/
def Device.clkOf (d : Device) (die k : Nat) : Nat := d.clk.get 0 (4 * die + k)
/-- The vector clock of a die. -/
def Device.clkVec (d : Device) (die : Nat) : Tab Nat := (List.range 4).map (fun k => (k, d.clkOf die k))
/-- APPLIED(e, k) (R276). -/
def Device.appliedOf (d : Device) (e k : Nat) : Nat := d.applied.get 0 (4 * e + k)

/-- Merges a vector clock into a die's, entry by entry (R276). -/
def Device.mergeClk (d : Device) (die : Nat) (vc : Tab Nat) : Device :=
  { d with clk := (List.range 4).foldl (fun t k => t.put (4 * die + k) (max (t.get 0 (4 * die + k)) (vc.get 0 k))) d.clk }

/-- The message may be applied at its die (R276): it is its origin's oldest to that die, and every other origin's count has been
applied. -/
def Device.msgReady (d : Device) (m : Msg) : Bool :=
  (List.range 4).all (fun k => k == m.src || m.vc.get 0 k ≤ d.appliedOf m.dst k || k == m.dst)

/-- Applies a message that has left the list: its bytes are what the die reads, unless a later message holds them too. -/
def Device.applyMsg (d : Device) (m : Msg) (rest : List Msg) : Device :=
  let later (a : Nat) := rest.any (fun x => x.dst == m.dst && x.cells.any (fun c => c.1 == a))
  let stale := m.cells.foldl (fun t c =>
    let k := m.dst * 2 ^ 52 + c.1
    match t.lookup k with
    | none => t
    | some _ => if later c.1 then Tab.put t k c.2 else Tab.del t k) d.stale
  let d := { d with stale := stale, applied := d.applied.put (4 * m.dst + m.src) (m.vc.get 0 m.src), msgs := rest }
  d.mergeClk m.dst m.vc

/-- Applies, in order, the messages bound for a die that a clock covers: what carries that clock is applied after them (R276). -/
def Device.drainUpTo (d : Device) (die : Nat) (vc : Tab Nat) : Device :=
  (d.msgs.filter (fun m => m.dst == die && m.vc.get 0 m.src ≤ vc.get 0 m.src)).foldl (fun d m => d.applyMsg m (d.msgs.erase m)) d

/-- A die takes a clock that reaches it with a fill, a transfer, a record or a flag: what carries the clock is held until every count in it has
been applied at the die, by the messages that are on their way and by beacons (R276). -/
def Device.takeClk (d : Device) (die : Nat) (vc : Tab Nat) : Device :=
  let d := (d.drainUpTo die vc).mergeClk die vc
  let due (t : Tab Nat) (k : Nat) : Tab Nat := t.put (4 * die + k) (max (t.get 0 (4 * die + k)) (vc.get 0 k))
  { d with applied := ((List.range 4).filter (· != die)).foldl due d.applied }

/-- A message of one die to another that is not an update of bytes: a fill, a transfer of ownership, a write to a parked line (R276). The sender
counts it, and it is applied as it comes in, after what it waits for. -/
def Device.send (d : Device) (o e : Nat) : Device :=
  let d := { d with clk := d.clk.put (4 * o + o) (d.clkOf o o + 1) }
  d.takeClk e (d.clkVec o)

/-- The clock that stands with a line. -/
def Device.lineClk (d : Device) (line : Nat) : Tab Nat := (List.range 4).map (fun k => (k, d.lclk.get 0 (4 * line + k)))

/-- Adds a die's clock to the one that stands with a line. -/
def Device.leaveClk (d : Device) (die line : Nat) : Device :=
  if d.clk.isEmpty then d
  else { d with lclk := (List.range 4).foldl (fun t k => t.put (4 * line + k) (max (t.get 0 (4 * line + k)) (d.clkOf die k))) d.lclk }

/-- A die's access at a line's place outside the die: the clocks pass both ways (R276, R277). -/
def Device.meetLine (d : Device) (die line : Nat) : Device :=
  if d.clk.isEmpty then d else let d := d.leaveClk die line; d.takeClk die (d.lineClk line)

/-- An access of one die in another's scratchpad: their clocks meet (R277). -/
def Device.meetDie (d : Device) (e f : Nat) : Device :=
  if e = f || d.clk.isEmpty then d
  else
    let d := d.takeClk e (d.clkVec f)
    d.takeClk f (d.clkVec e)

/-- A clock that reaches a wave of a saved block waits for the die that the block comes back to (R277). -/
def Device.oweClk (d : Device) (uid : Nat) (vc : Tab Nat) : Device :=
  { d with saved := d.saved.map (fun v => if v.live && v.waves.any (·.uid == uid) then
      { v with vc := (List.range 4).map (fun k => (k, max (v.vc.get 0 k) (vc.get 0 k))) } else v) }

/-- The clock that reaches a die with a line: its owner's, or the one at the base die. -/
def Device.fromOwner (d : Device) (e line : Nat) : Device :=
  let o := d.owners.get 4 line
  if o = e then d else if o < 4 then d.send o e else d.takeClk e (d.lineClk line)

/-- Die `e` obtains the line from its owner: a fill or a transfer of ownership, with its vector clock (R276). -/
def Device.obtain (d : Device) (e line : Nat) : Device :=
  if d.readers.contains (e, line) then d
  else
    let d := d.fromOwner e line
    { d with readers := (e, line) :: d.readers }

/-- Die `e` becomes the line's owner (R270). -/
def Device.own (d : Device) (e line : Nat) : Device :=
  if d.owners.get 4 line = e then d
  else
    let d := d.fromOwner e line
    let d := if d.readers.contains (e, line) then d else { d with readers := (e, line) :: d.readers }
    -- the owner holds the latest value
    { d with owners := d.owners.put line e, stale := d.stale.filter (fun x => x.1 / 2 ^ 52 != e || x.1 % 2 ^ 52 / 128 != line) }

/-- Every die's copy of a line is invalidated before a new value is served: a park, or an atomic at the base die (R299, R436). -/
def Device.invalidate (d : Device) (line : Nat) : Device :=
  let o := d.owners.get 4 line
  let d := if o < 4 then d.leaveClk o line else d
  { d with
    readers := d.readers.filter (·.2 != line)
    owners := d.owners.put line 4
    msgs := d.msgs.map (fun m => { m with cells := m.cells.filter (fun c => c.1 / 128 != line) })
    stale := d.stale.filter (fun e => e.1 % 2 ^ 52 / 128 != line) }

/-- The die of a park's location; none for the last-level cache (R308). -/
def Park.die (p : Park) : Option Nat := if p.lvl < 3 then some (field p.set.toNat 56 2) else none

/-- A parked line leaves its park location: its clock stays with the line (R276, R282). -/
def Device.leavePark (d : Device) (line : Nat) : Device :=
  match (d.parks.get none line).bind Park.die with
  | some k => d.leaveClk k line
  | none => d

/-- A die's access at the park location of a line: a read is a fill from the location's die, a write is also a message to it (R276, R282). -/
def Device.meetPark (d : Device) (die line : Nat) (p : Park) (wr : Bool) : Device :=
  match p.die with
  | some k =>
    if k = die then d
    else
      let d := if wr then d.send die k else d
      if d.clk.isEmpty then d else d.send k die
  | none => d.meetLine die line

/-- Sends bytes of one line written in die `e` to the other dies that hold copies of it: each message counts in the clock, and each
die reads the old bytes until it applies the message (R274, R276). -/
def St.publish (s : St) (e line : Nat) (cells : List Host.Cell) : St :=
  let others := (s.d.readers.filter (fun r => r.2 == line && r.1 != e)).map (·.1)
  others.foldl (fun s o => s.withD fun d =>
    let d := { d with clk := d.clk.put (4 * e + e) (d.clkOf e e + 1) }
    let old := cells.foldl (fun t c =>
      let k := o * 2 ^ 52 + c.1
      match t.lookup k with
      | some _ => t
      | none => Tab.put t k (s.rd c.1)) d.stale
    { d with stale := old, msgs := d.msgs ++ [⟨e, o, d.clkVec e, cells⟩] }) s

/-- Writes bytes of one line: at the park location when it is parked, else as the owner die's write (R270, R274). -/
def St.wrLine (s : St) (die line : Nat) (cells : List Host.Cell) : St :=
  let s :=
    match s.d.parks.get none line with
    | some p => s.withD (·.meetPark die line p true)
    | none => (s.withD (·.own die line)).publish die line cells
  cells.foldl (fun s c => s.wr c.1 c.2) s

/-- The cells of the low `n` bytes of a number at an address. -/
def cellsOf (a : Nat) : Nat → Nat → List Host.Cell
  | 0, _ => []
  | n + 1, v => (a, BitVec.ofNat 8 v) :: cellsOf (a + 1) n (v / 256)

/-- An access of a core at a place that is no line of device memory: the clocks that meet there. -/
def St.meetAt (s : St) (core : Nat) (p : Place) : St :=
  match p with
  | .scratch k _ => s.withD (·.meetDie (dieOf core) (dieOf (k / 64)))
  | .host pa => s.withD (·.meetLine (dieOf core) (lineOf pa))
  | _ => s

/-- Writes issued count among the wave's unacknowledged writes (R148, R274). -/
def St.countWrites (s : St) (w : Nat) (ps : List (Nat × Place)) : St := s.withD fun d => d.setWave w ((d.wave w).addWrites none false ps)

/-- Writes `n` bytes at a place, as a thread or an engine of core `core` does. An access never crosses a line: it is aligned. -/
def St.store (s : St) (core : Nat) (p : Place) (n v : Nat) : St :=
  match p with
  | .dev pa _ => s.wrLine (dieOf core) (lineOf pa) (cellsOf pa n v)
  | p => (s.meetAt core p).wrN (p.key s.d) n v

/-- An error that a read at a place completes with: poison of its line, or the Dunvia Link (R146, R320, R421). -/
def St.readErr (s : St) (p : Place) : Option (BitVec 8) :=
  match p with
  | .host _ => if s.d.link = .down then some 2 else none
  | p => if s.d.poison.contains (lineOf (p.key s.d)) then some 1 else none

/-- An error that a write at a place completes with. -/
def St.writeErr (s : St) (p : Place) : Option (BitVec 8) :=
  match p with
  | .host _ => if s.d.link = .down then some 2 else none
  | _ => none

/-- Reads `n` bytes at a place from core `core`: a parked line at its park location, another as the core's die holds it. -/
def St.load (s : St) (core : Nat) (p : Place) (n : Nat) : Nat × St :=
  match p with
  | .dev pa _ =>
    match s.d.parks.get none (lineOf pa) with
    | some k => (s.rdN pa n, s.withD (·.meetPark (dieOf core) (lineOf pa) k false))
    | none =>
      let s := s.withD (·.obtain (dieOf core) (lineOf pa))
      (s.rdDieN (dieOf core) pa n, s)
  | p => (s.rdN (p.key s.d) n, s.meetAt core p)

/-- Reads `n` bytes at a place as `LDF` and a recall do: the latest value at the park location or the home, with no copy made on the way (R150,
R316). -/
def St.loadFar (s : St) (core : Nat) (p : Place) (n : Nat) : Nat × St :=
  match p with
  | .dev pa _ =>
    match s.d.parks.get none (lineOf pa) with
    | some k => (s.rdN pa n, s.withD (·.meetPark (dieOf core) (lineOf pa) k false))
    | none => (s.rdN pa n, s.withD (·.fromOwner (dieOf core) (lineOf pa)))
  | p => s.load core p n

/-! ### Reader sets and parks -/

/-- Fields of a reader-set value (R152). -/
def setLvl (x : W64) : Nat := field x.toNat 61 3
/-- KEEP. -/
def setKeep (x : W64) : Nat := field x.toNat 38 2
/-- DIE. -/
def setDie (x : W64) : Nat := field x.toNat 56 2
/-- CL. -/
def setCl (x : W64) : Nat := field x.toNat 48 5
/-- CORE. -/
def setCore (x : W64) : Nat := field x.toNat 46 2
/-- MASK. -/
def setMask (x : W64) : Nat := field x.toNat 0 18

/-- Builds a reader-set value. -/
def mkSet (lvl die cl core keep mask : Nat) : W64 :=
  BitVec.ofNat 64 (lvl * 2 ^ 61 + die * 2 ^ 56 + cl * 2 ^ 48 + core * 2 ^ 46 + keep * 2 ^ 38 + mask)

/-- The set ALL. -/
def setAll : W64 := 0x8000000000000000

/-- The value satisfies R153. -/
def setOk (x : W64) : Bool :=
  let n := x.toNat
  let lvl := setLvl x
  lvl ≤ 5 && setKeep x ≤ 1 && field n 58 3 = 0 && field n 53 3 = 0 && field n 40 6 = 0 && field n 18 20 = 0 &&
    (match lvl with
     | 0 => setCl x < 18 && setMask x = 0
     | 1 => setCl x < 18 && setCore x = 0 && setMask x % 16 != 0 && setMask x < 16
     | 2 => setCl x = 0 && setCore x = 0 && setMask x != 0
     | 3 => setDie x = 0 && setCl x = 0 && setCore x = 0 && setMask x % 16 != 0 && setMask x < 16
     | _ => n % 2 ^ 61 = 0)

/-- The cores that a set names (R149, R154), as a test on a core. -/
def setHas (x : W64) (core : Nat) : Bool :=
  match setLvl x with
  | 0 => dieOf core = setDie x && clusterOf core = setCl x && core % 4 = setCore x
  | 1 => dieOf core = setDie x && clusterOf core = setCl x && setMask x / 2 ^ (core % 4) % 2 = 1
  | 2 => dieOf core = setDie x && setMask x / 2 ^ clusterOf core % 2 = 1
  | 3 => setMask x / 2 ^ dieOf core % 2 = 1
  | _ => true

/-- The mask of the numbers below `n` that satisfy a test. -/
def maskOf (n : Nat) (f : Nat → Bool) : Nat := (List.range n).foldl (fun m i => if f i then m + 2 ^ i else m) 0

/-- COVER of the cores that satisfy a test, at a level (R154). -/
def coverAt (lvl keep : Nat) (has : Nat → Bool) : W64 :=
  match (List.range 288).find? has with
  | none => setAll
  | some c =>
    match lvl with
    | 0 => mkSet 0 (dieOf c) (clusterOf c) (c % 4) keep 0
    | 1 => mkSet 1 (dieOf c) (clusterOf c) 0 keep (maskOf 4 (fun i => has (c / 4 * 4 + i)))
    | 2 => mkSet 2 (dieOf c) 0 0 keep (maskOf 18 (fun k => (List.range 4).any (fun i => has (dieOf c * 72 + 4 * k + i))))
    | 3 => mkSet 3 0 0 0 keep (maskOf 4 (fun k => (List.range 72).any (fun i => has (72 * k + i))))
    | _ => setAll

/-- The narrowest level that holds the cores that satisfy a test (R154). -/
def coverLvl (has : Nat → Bool) : Nat :=
  let cs := (List.range 288).filter has
  match cs with
  | [] => 4
  | c :: _ =>
    if cs.all (· == c) then 0
    else if cs.all (fun x => x / 4 == c / 4) then 1
    else if cs.all (fun x => dieOf x == dieOf c) then 2 else 3

/-- The read-once bits of a fresh park: MASK of its set, one bit for a CORE set (R312). -/
def unreadOf (x : W64) : BitVec 18 := if setLvl x = 0 then 1 else BitVec.ofNat 18 (setMask x)

/-- The park location of a set as LOC of the `STN` report (R156, R308). -/
def locOf (x : W64) (ln : Nat) : Nat :=
  match setLvl x with
  | 0 => setDie x * 128 + setCl x * 4 + setCore x
  | 1 => setDie x * 32 + copySlice ln (setCl x / 6)
  | 2 => setDie x * 32 + homeSlice ln
  | _ => 0

/-- The bytes of a core's data SRAM that its bound blocks take (R296). -/
def Device.scratchUsed (d : Device) (core : Nat) : Nat :=
  ((d.blocks.filter (fun e => e.1 / 64 == core && e.2.live)).map (·.2.scrsz)).sum

/-- Sets of a core's L1, as its last binding has split the SRAM (R296). -/
def Device.l1Sets (d : Device) (core : Nat) : Nat := (768 - d.split.get 0 core / 1024) / 2

/-- The structure that holds the parks of a level: 0 an L1, 1 an L2 slice, 2 the last-level cache (R309). -/
def parkKind (lvl : Nat) : Nat := if lvl = 0 then 0 else if lvl < 3 then 1 else 2

/-- A park shares the set of a location that a line would take there (R309). -/
def Device.sameSet (d : Device) (lvl loc ln vline : Nat) (e : Nat × Option Park) : Bool :=
  match e.2 with
  | none => false
  | some p =>
    parkKind p.lvl == parkKind lvl && p.loc == loc &&
      (match parkKind lvl with
       | 0 => let n := d.l1Sets (coreOfId loc); p.vline % n == vline % n
       | 1 => e.1 % 1024 == ln % 1024
       | _ => e.1 % 131072 == ln % 131072)

/-- The park quotas of a launch's record (R322). -/
def Device.launchQuota (d : Device) (slot : Nat) : Nat × Nat × Nat :=
  let r := (d.launch slot).rcd.toNat
  (field r 744 3, field r 748 4, field r 752 4)

/-- The quota of a park at a level: the smaller of the context's and the launch's (R309). -/
def Device.parkQuota (d : Device) (asid : Nat) (q : Nat × Nat × Nat) (lvl : Nat) : Nat :=
  let x := d.ctx asid
  match parkKind lvl with
  | 0 => min x.q1 q.1
  | 1 => min x.q2 q.2.1
  | _ => min x.q3 q.2.2

/-- The set that a park would use has room (R309); the line itself does not count. -/
def Device.hasRoom (d : Device) (asid : Nat) (q : Nat × Nat × Nat) (lvl loc ln vline : Nat) : Bool :=
  let same := d.parks.filter (fun e => e.1 != ln && d.sameSet lvl loc ln vline e)
  let mine := same.filter (fun e => match e.2 with | some p => p.asid == asid | none => false)
  same.length < (if lvl = 0 then 4 else 8) && mine.length < d.parkQuota asid q lvl

/-- The widening of a set to the next level (R310). -/
def widen (x : W64) : W64 :=
  match setLvl x with
  | 0 => mkSet 1 (setDie x) (setCl x) 0 (setKeep x) (2 ^ setCore x)
  | 1 => mkSet 2 (setDie x) 0 0 (setKeep x) (2 ^ setCl x)
  | 2 => mkSet 3 0 0 0 (setKeep x) (2 ^ setDie x)
  | _ => setAll

/-- A line goes home (R311). -/
def Device.goHome (d : Device) (ln : Nat) : Device :=
  let d := d.leavePark ln
  { d with parks := d.parks.put ln none }

/-- PLACE of R310: the steps outward from a set, within some quotas. Answers the state, the level used and the fallback steps taken. -/
def Device.placeFrom (d : Device) (asid : Nat) (q : Nat × Nat × Nat) (ln vline : Nat) : Nat → W64 → Nat → Device × Nat × Nat
  | 0, _, n => (d.goHome ln, 4, n)
  | fuel + 1, set, n =>
    let lvl := setLvl set
    if 4 ≤ lvl then (d.goHome ln, 4, n)
    else
      let loc := locOf set ln
      let full := 1048576 ≤ (d.parks.filter (fun e => e.1 != ln && e.2.any (·.lvl < 3))).length
      if d.hasRoom asid q lvl loc ln vline && (lvl == 3 || !full) then
        let p : Park := ⟨set, unreadOf set, lvl, loc, vline, asid, d.parkn, q⟩
        let d := (d.leavePark ln).invalidate ln
        let d := match p.die with
          | some k => if d.clk.isEmpty then d else d.takeClk k (d.lineClk ln)
          | none => d
        ({ d with parks := d.parks.put ln (some p), parkn := d.parkn + 1 }, lvl, n)
      else if lvl < 3 && full then (d.goHome ln, 4, n + 1)
      else d.placeFrom asid q ln vline fuel (widen set) (n + 1)

/-- Parks a line under a set of LVL 0 to 4 for a core's access through a virtual address; ALL drops the park (R156, R310). The
fallback steps are charged to the core (R342). -/
def Device.place (d : Device) (core asid slot ln vline : Nat) (set : W64) : Device × Nat × Nat :=
  if 4 ≤ setLvl set then (d.goHome ln, 4, 0)
  else
    let r := d.placeFrom asid (d.launchQuota slot) ln vline 5 set 0
    (r.1.pmc asid core 10 r.2.2, r.2.1, r.2.2)

/-- A declared reader's read of a read-once park (R312): its bit clears, and the line goes home with the last. -/
def Device.readOnce (d : Device) (core ln : Nat) : Device :=
  match d.parks.get none ln with
  | none => d
  | some p =>
    if setKeep p.set != 1 || !setHas p.set core then d
    else
      let bit : Nat := match p.lvl with
        | 0 => 0
        | 1 => core % 4
        | 2 => clusterOf core
        | _ => dieOf core
      let u := p.unread &&& ~~~(1#18 <<< bit)
      if u = 0 then d.goHome ln else { d with parks := d.parks.put ln (some { p with unread := u }) }

/-- DET of R313: the requester's own copy slice or home slice holds the park tag. -/
def detOf (p : Park) (core ln : Nat) : Nat :=
  if p.lvl = 1 && p.loc = dieOf core * 32 + copySlice ln (clusterOf core / 6) then 1
  else if p.lvl = 2 && p.loc = dieOf core * 32 + homeSlice ln then 1 else 0

/-! ### Scope-local copies -/

/-- The copy of a line in a cluster slice. -/
def Device.localOf (d : Device) (cl ln : Nat) : Option Local := d.locals.find? (fun l => l.cl == cl && l.line == ln)

/-- One byte of a scope-local copy: modified, or as the line was when the copy was made (R279, R365). -/
def Local.byte (l : Local) (o : Nat) : Byte :=
  match l.data.lookup o with
  | some b => b
  | none => BitVec.ofNat 8 (l.orig / 256 ^ o)

/-- `n` bytes of a scope-local copy from an offset in its line. -/
def Local.rdN (l : Local) (o : Nat) : Nat → Nat
  | 0 => 0
  | n + 1 => (l.byte o).toNat + 256 * l.rdN (o + 1) n

/-- Bytes of a line written to its home from a copy or a fault buffer, as one plain write for each run (R279). -/
def St.pushBytes (s : St) (die line : Nat) (data : Tab Byte) : St :=
  s.wrLine die line (data.map (fun e => (line * 128 + e.1, e.2)))

/-- The page of a held or modified line still grants write to its context (R361), as the slice translates it. -/
def St.writable (s : St) (cl asid line va : Nat) : Bool :=
  match s.translate cl asid va with
  | .ok (pa, pte, _) => permits pte .write && lineOf (canonical pa) == line
  | .error _ => false

/-- Pushes a copy: its bytes go home and it is dropped; a line whose page no longer grants write moves to the fault buffer, or waits
when that is full (R279, R361). -/
def St.pushLocal (s : St) (l : Local) (evicted : Bool) : St :=
  let gone := s.withD fun d => { d with locals := d.locals.filter (fun x => !(x.cl == l.cl && x.line == l.line)) }
  if l.data.isEmpty then gone
  else if s.writable l.cl l.asid l.line l.va then gone.pushBytes (l.cl / 18) l.line l.data
  else if (s.d.fbuf.filter (·.cl == l.cl)).length < 8 then
    gone.withD fun d => { d with fbuf := d.fbuf ++ [⟨l.cl, l.line, l.asid, l.va, l.data, l.writers, l.blks, evicted⟩] }
  else s

/-- A release at die scope or wider pushes the copies in the cluster that its context's atomics wrote (R161, R279). -/
def St.pushAll (s : St) (cl asid : Nat) : St :=
  (s.d.locals.filter (fun l => l.cl == cl && l.writers.contains asid)).foldl (fun s l => s.pushLocal l false) s

/-- A re-issued fence retries the held lines first (R361). -/
def St.retryHeld (s : St) (cl asid : Nat) : St :=
  (s.d.fbuf.filter (fun h => h.cl == cl && h.writers.contains asid)).foldl (fun s h =>
    if s.writable cl h.asid h.line h.va then
      (s.withD fun d => { d with fbuf := d.fbuf.erase h }).pushBytes (cl / 18) h.line h.data
    else s) s

end Sys2Proof.Machine
end

