-- ==== Sys2Proof/Machine/Ops.lean ====
section
/-! DEFINITION. The operations that the meanings share: threads and registers of a wave, the result pipe and its positions
(R32, R56), tokens and operations (R28, R58), masks (R186), the choice of a path group (R340), taking an exception and
returning from one (R346 to R349), and the frame every instruction issues in (R59). -/

namespace Sys2Proof.Machine

/-! ### Lanes, threads, registers -/

/-- The lanes of a mask, in ascending order. -/
def lanesOf (m : Lanes) : List Nat := (List.range 32).filter (fun l => m.getLsbD l)

/-- The mask of the lanes that satisfy a test. -/
def maskLanes (f : Nat → Bool) : Lanes := (List.range 32).foldl (fun m l => if f l then m ||| (1#32 <<< l) else m) 0

/-- Lane `l` is in the mask. -/
abbrev Lanes.has (m : Lanes) (l : Nat) : Bool := m.getLsbD l

/-- The lowest lane of a mask; 0 for an empty one. -/
def lowest (m : Lanes) : Nat := (lanesOf m).headD 0

/-- The lanes whose part failed, with why. -/
def failures {ε α : Type} (rs : List (Nat × Except ε α)) : List (Nat × ε) :=
  rs.filterMap (fun r => match r.2 with
    | .error e => some (r.1, e)
    | .ok _ => none)

/-- The lanes whose part was made, with what it gave. -/
def successes {ε α : Type} (rs : List (Nat × Except ε α)) : List (Nat × α) :=
  rs.filterMap (fun r => match r.2 with
    | .ok p => some (r.1, p)
    | .error _ => none)

/-- What a lane's part gave. -/
def gotten {ε α : Type} (dflt : α) (rs : List (Nat × Except ε α)) (l : Nat) : α := ((successes rs).lookup l).getD dflt

/-- The thread of a lane. -/
def Wave.thread (x : Wave) (l : Nat) : Thread := x.thr.get Thread.idle l
/-- Sets the thread of a lane. -/
def Wave.setThread (x : Wave) (l : Nat) (t : Thread) : Wave := { x with thr := x.thr.put l t }
/-- Changes the thread of a lane. -/
def Wave.updThread (x : Wave) (l : Nat) (f : Thread → Thread) : Wave := x.setThread l (f (x.thread l))
/-- Changes the threads of some lanes. -/
def Wave.updLanes (x : Wave) (m : Lanes) (f : Thread → Thread) : Wave := (lanesOf m).foldl (fun x l => x.updThread l f) x

/-- `wr` of a lane (R15). -/
def Wave.reg (x : Wave) (l r : Nat) : W32 := x.regs.get 0 (256 * l + r)
/-- Sets `wr` of a lane: a word that was uncorrectable is good again (R319). -/
def Wave.setReg (x : Wave) (l r : Nat) (v : W32) : Wave :=
  { x with regs := x.regs.put (256 * l + r) v, bad := x.bad.filter (· != (l, r)) }
/-- The pair that starts at `wr` (R16). -/
def Wave.pair (x : Wave) (l r : Nat) : W64 := x.reg l (r + 1) ++ x.reg l r
/-- `n` registers from `r` as one number, the first lowest. -/
def Wave.group (x : Wave) (l r : Nat) : Nat → Nat
  | 0 => 0
  | n + 1 => (x.reg l r).toNat + 2 ^ 32 * x.group l (r + 1) n
/-- Writes `n` registers from `r`; a register at or above the allocation is discarded (R206). -/
def Wave.setGroup (x : Wave) (l r : Nat) : Nat → Nat → Wave
  | 0, _ => x
  | n + 1, v => (if r < x.alloc then x.setReg l r (BitVec.ofNat 32 v) else x).setGroup l (r + 1) n (v / 2 ^ 32)
/-- A predicate: `p7` reads as true (R17). -/
def Wave.pred (x : Wave) (l i : Nat) : Bool := i = 7 || x.preds.get false (8 * l + i)
/-- Writes a predicate: a write to `p7` is discarded (R17). -/
def Wave.setPred (x : Wave) (l i : Nat) (v : Bool) : Wave :=
  if i = 7 then x else { x with preds := x.preds.put (8 * l + i) v }
/-- A mask register (R27). -/
def Wave.mask (x : Wave) (i : Nat) : Mask := x.masks.get ⟨0, 0⟩ i
/-- Writes a mask: one with no lane is clear, its meet address 0 (R27). -/
def Wave.setMask (x : Wave) (i : Nat) (m : Mask) : Wave := { x with masks := x.masks.put i (if m.lanes = 0 then ⟨0, 0⟩ else m) }
/-- A completion token (R28). -/
def Wave.tok (x : Wave) (k : Nat) : Token := x.toks.get ⟨0, false, none⟩ k
/-- Writes a token. -/
def Wave.setTok (x : Wave) (k : Nat) (t : Token) : Wave := { x with toks := x.toks.put k t }
/-- A reader-set register (R30). -/
def Wave.nreg (x : Wave) (i : Nat) : W64 := x.ns.get setAll i

/-- A token as a source operand (R29). -/
def Token.word (t : Token) : W32 := BitVec.ofNat 32 (t.count % 64 + if t.err then 64 else 0)

/-- The lanes in a state that issues: RUN, not frozen, not stopped. -/
def Wave.runs (x : Wave) : Lanes :=
  maskLanes (fun l => let t := x.thread l; t.st == .run && !t.frozen && !t.stopped)

/-- The lanes that are not DONE. -/
def Wave.alive (x : Wave) : Lanes := maskLanes (fun l => (x.thread l).st != .done)

/-- The lanes among `m` whose PC is that of lane `l`. -/
def Wave.groupAt (x : Wave) (m : Lanes) (l : Nat) : Lanes :=
  maskLanes (fun i => m.getLsbD i && (x.thread i).pc == (x.thread l).pc)

/-- The lane of lowest PC among `m` (the first of them). -/
def Wave.lowestPc (x : Wave) (m : Lanes) : Nat :=
  (lanesOf m).foldl (fun b l => if (x.thread l).pc.toNat < (x.thread b).pc.toNat then l else b) (lowest m)

/-- The lane of greatest wait age among `m`, ties to the lowest PC (R340). -/
def Wave.oldest (x : Wave) (m : Lanes) : Nat :=
  (lanesOf m).foldl (fun b l =>
    let t := x.thread l
    let u := x.thread b
    if u.age < t.age || (u.age == t.age && t.pc.toNat < u.pc.toNat) then l else b) (lowest m)

/-- The path group that issues next, and the wave with its rotation state after the choice (R340). -/
def Wave.choose (x : Wave) : Option (Lanes × Wave) :=
  let m := x.runs
  if m = 0 then none
  else
    let f := x.fav &&& m
    let x := if f = 0 then { x with fav := 0 } else x
    let g := if f = 0 then x.groupAt m (x.lowestPc m) else x.groupAt m (lowest f)
    if m &&& ~~~g != 0 && x.rc = 64 then
      let g := x.groupAt m (x.oldest m)
      some (g, { x with fav := g, rc := 0 })
    else some (g, x)

/-- The rotation state after an issue for group `g` (R340). -/
def Wave.rotate (x : Wave) (g : Lanes) : Wave :=
  let wait := x.runs &&& ~~~g
  let x := x.updLanes g (fun t => { t with age := 0 })
  let x := x.updLanes wait (fun t => { t with age := min 255 (t.age + 1) })
  { x with rc := if wait = 0 then 0 else x.rc + 1 }

/-! ### Masks (R186) and MSYNC (R191) -/

/-- A lane leaves every mask (R186). -/
def Wave.leaveMasks (x : Wave) (l : Nat) : Wave :=
  (List.range 12).foldl (fun x i =>
    let m := x.mask i
    if m.lanes.getLsbD l then x.setMask i { m with lanes := m.lanes &&& ~~~(1#32 <<< l) } else x) x

/-- A thread is arrived at a mask (R186). DESIGN CHOICE (log 55): R186 does not give the PC of a thread that `MWAIT` or `MSYNC` holds; it is arrived at
no mask but the one that `MWAIT` names. -/
def arrivedAt (m : Mask) (i l : Nat) (t : Thread) : Bool :=
  m.lanes.getLsbD l &&
    (match t.st, t.hold with
     | .held, .mwait j => j == i
     | .held, .msync _ => false
     | _, _ => t.pc.setWidth 64 == m.meet)

/-- A mask is released: it is not clear and every member is arrived or DONE (R186). -/
def Wave.releasable (x : Wave) (i : Nat) : Bool :=
  let m := x.mask i
  m.lanes != 0 && (lanesOf m.lanes).all (fun l => let t := x.thread l; t.st == .done || arrivedAt m i l t)

/-- A RUN thread at the meet address of a mask it belongs to is HELD at fetch; a thread held there with no such mask left runs.
DESIGN CHOICE (log 54): so does one in `MWAIT` on a mask of which it is no member any more. -/
def Wave.holdAt (x : Wave) : Wave :=
  (List.range 32).foldl (fun x l =>
    let t := x.thread l
    let at' := (List.range 12).any (fun i => let m := x.mask i; m.lanes.getLsbD l && t.pc.setWidth 64 == m.meet)
    match t.st, t.hold with
    | .run, _ => if at' then x.setThread l { t with st := .held, hold := .meet } else x
    | .held, .meet => if at' then x else x.setThread l { t with st := .run }
    | .held, .mwait i => if (x.mask i).lanes.getLsbD l then x else x.setThread l { t with st := .run, hold := .meet }
    | _, _ => x) x

/-- A thread held with an LM whose lanes are all held with it, or DONE (R191). -/
def Wave.syncFree (x : Wave) (t : Thread) : Bool :=
  match t.st, t.hold with
  | .held, .msync lm => (lanesOf lm).all (fun j =>
      let u := x.thread j
      u.st == .done || (u.st == .held && u.hold == .msync lm))
  | _, _ => false

/-- MSYNC: the lanes of an LM that are all held with it, or DONE, are released together (R191). -/
def Wave.syncRelease (x : Wave) : Wave :=
  (List.range 32).foldl (fun y l =>
    if x.syncFree (x.thread l) then y.setThread l { x.thread l with st := .run, hold := .meet } else y) x

/-- Holds and releases, until nothing more is released (at most one round for each mask). -/
def Wave.settleN : Nat → Wave → Wave
  | 0, x => x
  | n + 1, x =>
    let x := x.holdAt.syncRelease.holdAt
    let rel := (List.range 12).filter (x.releasable ·)
    if rel.isEmpty then x
    else Wave.settleN n (rel.foldl (fun x i => x.setMask i ⟨0, 0⟩) x)

/-- Holds and releases after a change of PCs, masks or thread states. -/
def Wave.settle (x : Wave) : Wave := Wave.settleN 13 x

/-! ### Positions, the result pipe, operations -/

/-- Marks an operation complete. -/
def Wave.complete (x : Wave) (id : Nat) (f : Op → Op) : Wave :=
  { x with ops := x.ops.map (fun o => if o.id = id then { f o with done := true } else o) }

/-- The bit of a register range. -/
def pendBits (r n : Nat) : BitVec 256 := BitVec.ofNat 256 ((2 ^ n - 1) * 2 ^ r)

/-- Writes one lane's result to its destination. -/
def Wave.writeLane (x : Wave) (dst : Dest) (l v : Nat) : Wave :=
  match dst with
  | .none => x
  | .w r n => x.setGroup l r n v
  | .p i => x.setPred l i (v % 2 == 1)
  | .ps m => (List.range 7).foldl (fun x i => if m.getLsbD i then x.setPred l i (v / 2 ^ i % 2 == 1) else x) x
  | .m _ => x
  | .n i => { x with ns := x.ns.put i (BitVec.ofNat 64 v) }
  | .lc i =>
    x.updThread l (fun t =>
      if i < t.ls.length then { t with ls := t.ls.modify i (fun c => { c with count := BitVec.ofNat 32 v }) } else t)
  | .sr i =>
    if i = 0x13 then x.updThread l (fun t => { t with stkptr := BitVec.ofNat 64 v })
    else if i = 0x0E then { x with handler := BitVec.ofNat 64 v &&& ~~~3#64 }
    else if i = 0x0F then { x with fault := BitVec.ofNat 64 v &&& ~~~63#64 }
    else if 0x20 ≤ i then { x with pmcSet := x.pmcSet ++ [(i - 0x20, BitVec.ofNat 64 v)] }
    else x

/-- The destination is one register of the whole wave: it takes the lowest active lane's value, as `MMOV` and `MTS` do (R190, R242). -/
def Dest.waveWide : Dest → Bool
  | .n _ => true
  | .sr i => i != 0x13
  | _ => false

/-- Lands a result: for each lane that was active, and for a mask as a whole (R32, R190). -/
def Wave.landOne (x : Wave) (e : PipeEnt) : Wave :=
  let x :=
    match e.dst with
    | .m i =>
      if e.lanes = 0 then x
      else
        let v := e.vals.get 0 (lowest e.lanes)
        x.setMask i ⟨BitVec.ofNat 32 v, BitVec.ofNat 64 (v / 2 ^ 32)⟩
    | dst =>
      let ls := if dst.waveWide then (lanesOf e.lanes).take 1 else lanesOf e.lanes
      ls.foldl (fun x l => x.writeLane dst l (e.vals.get 0 l)) x
  match e.post with
  | some n => x.complete n id
  | none => x

/-- Positions from the counter to a due position. -/
def Wave.ahead (x : Wave) (e : PipeEnt) : Nat := (e.due - x.pos).toNat

/-- Lands the results due `k` positions ahead, in the order of their issue (R57). -/
def Wave.landAt (x : Wave) (k : Nat) : Wave :=
  let now := x.pipe.filter (fun e => x.ahead e == k)
  let rest := x.pipe.filter (fun e => x.ahead e != k)
  now.foldl (fun x e => x.landOne e) { x with pipe := rest }

/-- Advances the issue-position counter by `n`; results land at their positions (R32, R56). -/
def Wave.advance (x : Wave) : Nat → Wave
  | 0 => x.landAt 0
  | n + 1 => Wave.advance { x.landAt 0 with pos := x.pos + 1 } n

/-- The destination registers of an operation. -/
def Dest.regs : Dest → List Nat
  | .w r len => (List.range len).map (· + r)
  | _ => []

/-- The results on their way: in the pipe, and in the pipe that a handler has put aside (R348). -/
def Wave.pipes (x : Wave) : List PipeEnt := x.pipe ++ (match x.frame with
  | some f => f.pipe
  | none => [])

/-- A result on its way goes to one of the operation's registers: its retirement waits (R57). -/
def Wave.pipeHolds (x : Wave) (o : Op) : Bool :=
  x.pipes.any (fun e => e.lanes != 0 && e.dst.regs.any (fun r => o.dst.regs.contains r))

/-- Retires an operation: it writes its result, 0 after an error; its pending bits clear; its token counts down and keeps the first
error (R28, R31, R146, R347). An untracked error is due as a trap (R146). -/
def Wave.retireOp (x : Wave) (o : Op) : Wave :=
  let x := { x with ops := x.ops.filter (fun p => p.id != o.id) }
  let x := (lanesOf o.lanes).foldl (fun x l =>
    o.dst.regs.foldl (fun x r =>
      if o.dropped.contains r then x
      else if r < x.alloc then
        -- a queue reset leaves its status (R167), a barrier's error the word of `BWAIT` (R223); any other error leaves 0 (R146)
        let v := if o.err.any (fun e => e.kind != 3 && e.kind != 11) then 0 else o.vals.get 0 l
        let i := match o.dst with
          | .w r0 _ => r - r0
          | _ => 0
        x.setReg l r (BitVec.ofNat 32 (v / 2 ^ (32 * i)))
      else x) x) x
  let x := { x with pend := o.dst.regs.foldl (fun p r => if o.dropped.contains r then p else p &&& ~~~(1#256 <<< r)) x.pend }
  match o.tok with
  | some k =>
    let t := x.tok k
    x.setTok k { count := t.count - 1, err := t.err || o.err.isSome, det := t.det.or o.err }
  | none => if o.err.isSome then { x with untracked := x.untracked.or o.err, asyncDue := true } else x

/-- The oldest operation on a token (none: those tracked by no token). -/
def Wave.oldestOp (x : Wave) (tok : Option Nat) : Option Op := x.ops.find? (fun o => o.tok == tok)

/-! ### Taking an exception, and the return -/

/-- A fault or trap that an instruction raises: cause, ACTIVE, the group that would have issued, the stop instruction, the
resume address and the words V0 to V3 (R350). -/
structure Trap where
  cause : Nat
  active : Lanes
  grp : Lanes
  pc : Addr
  resume : Addr
  v0 : W64
  v1 : W64
  v2 : W64
  v3 : W64

/-- The part of a wait that a handler entry, a park or a resumption leaves: a claim (R207) and the fence of a seq_cst access (R275) have issued
and go on waiting; a hold before an issue is made anew. DEDUCED (log 56). -/
def Wait.kept : Wait → Wait
  | .rclaim n o => .rclaim n o
  | .sc k => .sc k
  | _ => .ready

/-- The three routes of R346: 0 H, 1 F, 2 F→H. -/
def routeOf (cause : Nat) : Nat :=
  match cause with
  | 9 | 10 | 18 => 2
  | 33 | 34 | 40 => 1
  | _ => 0

/-- The record's common words, bytes 0 to 31, and V0 to V3 as one 512-bit number (R350, R314). -/
def Record.nat (r : Record) : Nat :=
  r.iword.toNat + 2 ^ 96 * r.active.toNat + 2 ^ 128 * (r.cause.toNat + 2 ^ 7 * r.pc.toNat) + 2 ^ 192 * r.resume.toNat +
    2 ^ 256 * (r.v0.toNat + 2 ^ 64 * r.v1.toNat + 2 ^ 128 * r.v2.toNat + 2 ^ 192 * r.v3.toNat)

/-- The wave parks for Foxglove with a record in its latch (R351); a debugger's STEP ends there (R362). -/
def St.park (s : St) (w : Nat) (r : Record) : St :=
  s.withD fun d => d.setWave w { d.wave w with parked := true, latch := some r, parkAt := d.clock, wait := (d.wave w).wait.kept, spill := none, stepping := false }

/-- Steps 2 to 5 of R348: handler mode, the trap frame, the frozen threads, the PCs. -/
def Wave.enterHandler (x : Wave) (active grp : Lanes) : Wave :=
  let lanes := if active = 0 then grp else active
  let ages : Tab Nat := (List.range 32).map (fun l => (l, (x.thread l).age))
  let fr : Frame := ⟨x.pos, x.rc, x.fav, ages, x.pipe, lanes⟩
  let x := { x with frame := some fr, pos := 0, rc := 0, fav := 0, pipe := [], wait := x.wait.kept, spill := none, parked := false, latch := none }
  let x := x.updLanes (~~~lanes) (fun t => { t with frozen := true, age := 0 })
  x.updLanes lanes (fun t => { t with pc := x.handler.setWidth 57, age := 0, seq := false })

/-- Stores the record at `sr.fault` as an ordinary store of the wave and enters the handler; a store that fails parks the wave, with
bit 6 of CAUSE set in the latch (R348). A handler lane that is at a meet address there is held, and a mask whose members are all arrived is
released (R186). -/
def St.deliver (s : St) (w : Nat) (r : Record) (grp : Lanes) : St :=
  let x := s.d.wave w
  if x.handler = 0 || x.fault = 0 || x.frame.isSome then s.park w r
  else match s.locate x.blk x.fault .write with
    | .error _ => s.park w { r with failed := true }
    | .ok p =>
      match s.tileCheck p with
      | .error _ => s.park w { r with failed := true }
      | .ok p =>
        if (s.writeErr p).isSome then s.park w { r with failed := true }
        else
          let s := (s.store (w / 64) p 64 r.nat).countWrites w [(x.fault.toNat, p)]
          s.withD fun d => d.setWave w ((d.wave w).enterHandler r.active grp).settle

/-- TAKING AN EXCEPTION (R346, R348): route H enters the handler, F and F→H park the wave for Foxglove. -/
def St.takeTrap (s : St) (w : Nat) (t : Trap) : St :=
  let x := s.d.wave w
  let r : Record := ⟨BitVec.ofNat 7 t.cause, t.resume.setWidth 64, t.pc, t.active, s.d.iword, t.v0, t.v1, t.v2, t.v3, false⟩
  let blk := s.d.block x.blk
  let s := s.withD fun d => { d with free := d.free + 1 }
  let s :=
    if t.cause = 13 then s.withD (·.pmc blk.asid (w / 64) 9 1)
    else if t.cause = 2 then s.withD (·.pmc blk.asid (w / 64) 14 1) else s
  if routeOf t.cause = 0 then s.deliver w r t.grp else s.park w r

/-- The part of `ERET` that also ends a handler whose lanes are all DONE: the frame comes back, every thread is unfrozen (R349). -/
def Wave.leaveHandler (x : Wave) : Wave :=
  match x.frame with
  | none => x
  | some f =>
    let x := { x with pos := f.pos, rc := f.rc, fav := f.fav, pipe := f.pipe, frame := none, wait := x.wait.kept }
    (List.range 32).foldl (fun x l => x.updThread l (fun t => { t with frozen := false, age := f.ages.get 0 l })) x

/-! ### The frame of every issue (R59) -/

/-- What the checks of R59 must know of an instruction's registers: sources (first register, count, S), destination
registers, tiles, and a tile that is read out of the array (R35). -/
structure Req where
  srcs : List (Nat × Nat × Bool)
  dsts : List (Nat × Nat)
  tiles : List Nat
  out : Option Nat
  preds : Bool

/-- No registers. -/
def Req.none : Req := ⟨[], [], [], .none, false⟩

/-- What an instruction yields: nothing, a fixed-latency result, or a long-latency operation. -/
inductive Out where
  | none
  /-- Latency, destination, values by lane. -/
  | fixed (lat : Nat) (dst : Dest) (vals : Tab Nat)
  /-- Destination, values, complete already, error, whether it is a collective wait. -/
  | long (dst : Dest) (vals : Tab Nat) (done : Bool) (err : Option Detail) (coll : Bool)

/-- The effect of an instruction that issues. -/
structure Eff where
  st : St
  out : Out
  /-- Where a lane is transferred to; none: it goes on in sequence. -/
  next : Nat → Option Addr
  /-- Positions it takes when it is no taken branch (`DLY` takes n). -/
  pos : Nat
  /-- It publishes: the idempotent status clears (R359). -/
  pub : Bool
  /-- A trap after its own issue (`TRAP`, `BKPT`, `SYSC`): cause and CODE (R105). -/
  post : Option (Nat × BitVec 16)
  /-- `YIELD` ends the group's run (R103). -/
  yields : Bool
  /-- `ERET` leaves the handler for the handler lanes' PC (R349). -/
  leave : Option Addr
  /-- A wait that follows the issue: a seq_cst access acts as `FENCE.seq_cst` after itself (R275); a claim waits for its pool (R207). -/
  waits : Option Wait

/-- How a body ends: a fault before issue, a hold before issue, or an issue. -/
inductive Res where
  | trap (cause : Nat) (v0 v1 v2 v3 : W64)
  /-- The same, with the state as the instruction's pushes have left it (R361). -/
  | fail (st : St) (cause : Nat) (v0 v1 v2 v3 : W64)
  | hold (st : St) (w : Wait)
  | ok (e : Eff)

/-- An effect with no result. -/
def Eff.plain (s : St) : Eff := ⟨s, .none, fun _ => none, 1, false, none, false, none, none⟩

/-- A register range is within the allocation (R15). -/
def inAlloc (a : Nat) (r : Nat × Nat) : Bool := r.1 + r.2 ≤ a

/-- The ranges that the register-range check sees. -/
def Req.ranges (q : Req) : List (Nat × Nat) := q.srcs.map (fun s => (s.1, s.2.1)) ++ q.dsts

/-- A range holds a pending register. -/
def Wave.pending (x : Wave) (r : Nat × Nat) : Bool := x.pend &&& pendBits r.1 r.2 != 0

/-- `accN.prog` of a tile of a core (R35, R230): the earliest operation on it that has not retired. -/
def Device.prog (d : Device) (core tile : Nat) : W32 :=
  match d.mats.find? (fun m => m.core == core && (m.tile == tile || m.tile2 == some tile)) with
  | none => 0
  | some m =>
    let widx := match d.byUid m.uid with
      | some (_, x) => x.widx
      | none => 0
    BitVec.ofNat 32 (2 ^ 31 + widx % 32 * 2 ^ 20 + m.tok % 16 * 2 ^ 16 +
      (if m.kind = 4 || m.kind = 5 then (if m.row = 0 then 0 else 128) else m.row % 256))

/-- The specifier word of V0 in a REG record (R350). -/
def regV0 (r : Nat) (lanes : Lanes) : W64 := BitVec.ofNat 64 (r + 2 ^ 32 * lanes.toNat)

/-- V0 to V3 of a TOK record (R350). -/
def tokV (x : Wave) (k : Nat) (det : Option Detail) : W64 × W64 × W64 × W64 :=
  let v0 := BitVec.ofNat 64 (k + 2 ^ 8 * (x.tok k).word.toNat)
  match det with
  | none => (v0, 0, 0, 0)
  | some d => (v0, BitVec.ofNat 64 (d.kind.toNat + 2 ^ 8 * d.op.toNat), d.v2, d.v3)

/-- Step 2 of R59, then the register checks of steps 4 and 5 and the token check of step 6, as the cause they raise. Steps 4 and 5 look
at registers of active lanes only. -/
def Wave.regCheck (x : Wave) (s : St) (i : Iss) (q : Req) : Option (Nat × W64 × W64) :=
  match q.ranges.find? (fun r => !inAlloc x.alloc r) with
  | some r => some (1, regV0 r.1 i.act, 0)
  | none =>
    match q.tiles.find? (fun t => (s.d.block x.blk).accN ≤ t) with
    | some t => some (1, regV0 (0x134 + t) i.act, 0)
    | none => none

/-- Steps 4 to 6 of R59. DESIGN CHOICE (log 52): R59 does not place the data error of cause 4 (R319); it comes after the under-wait fault and before
the pending-overwrite fault. -/
def Wave.hazard (x : Wave) (s : St) (i : Iss) (q : Req) : Option (Nat × W64 × W64) :=
  let core := i.core
  let src := if i.act = 0 then none else q.srcs.find? (fun r => !r.2.2 && x.pending (r.1, r.2.1))
  match src with
  | some r => some (2, regV0 r.1 i.act, 0)
  | none =>
    match (if i.act = 0 then none else q.out) with
    | some t =>
      let p := s.d.prog core ((s.d.block x.blk).accB + t)
      if p.getLsbD 31 then some (2, regV0 (0x134 + t) i.act, p.setWidth 64) else rest
    | none => rest
where
  rest : Option (Nat × W64 × W64) :=
    let hits := x.bad.filter (fun b => i.act.getLsbD b.1 && q.srcs.any (fun r => r.1 ≤ b.2 && b.2 < r.1 + r.2.1))
    match hits with
    | r :: _ => some (4, regV0 r.2 i.act, BitVec.ofNat 64 (maskLanes (fun l => hits.any (·.1 == l))).toNat)
    | [] =>
      match (if i.act = 0 then none else q.dsts.find? (fun r => x.pending r)) with
      | some r => some (3, regV0 r.1 i.act, 0)
      | none =>
        match i.h.post with
        | some k => if (x.tok k.toNat).count = 63 then some (5, (tokV x k.toNat none).1, 0) else none
        | none => none

/-- The top loop level whose END is `pc` ends an iteration; `ls` is the loop stack, innermost first (R98). -/
def endIter (pc : Addr) : List Loop → List Loop × Addr
  | [] => ([], pc + 12)
  | t :: r =>
    if t.stop = pc then
      if 1 < t.count.toNat then ({ t with count := t.count - 1 } :: r, t.start) else endIter pc r
    else (t :: r, pc + 12)

/-- The next PC of a lane of the path group (R92, R98). -/
def nextOf (t : Thread) (tgt : Option Addr) : Thread :=
  if t.st = .done then t
  else match tgt with
    | some a => { t with pc := a, passed := false, seq := false }
    | none =>
      let e := endIter t.pc t.ls.reverse
      { t with pc := e.2, ls := e.1.reverse, passed := false, seq := e.2 = t.pc + 12 }

/-- The wave takes the result of an instruction at its position: the post, the pipe entry or the operation (R28, R31, R47, R50). -/
def Wave.post (x : Wave) (i : Iss) (opc : BitVec 12) (o : Out) : Wave :=
  let k := i.h.post.map (·.toNat)
  let x := match k with
    | some k => let t := x.tok k; x.setTok k { t with count := t.count + 1 }
    | none => x
  let idle := i.act = 0
  let mk (dst : Dest) (vals : Tab Nat) (done : Bool) (err : Option Detail) (coll : Bool) : Op :=
    ⟨i.opid, k, dst, i.act, vals, done, err, opc, coll, []⟩
  let add (x : Wave) (p : Op) : Wave := { x with ops := x.ops ++ [p], opn := x.opn + 1 }
  match o with
  | .none => if k.isSome then add x (mk .none [] true none false) else x
  | .fixed lat dst vals =>
    let x :=
      if idle then x
      else { x with pipe := x.pipe ++ [⟨x.pos + BitVec.ofNat 16 lat, dst, i.act, vals, if k.isSome then some i.opid else none⟩] }
    if k.isSome then add x (mk .none [] idle none false) else x
  | .long dst vals done err coll =>
    if idle then (if k.isSome then add x (mk .none [] true none false) else x)
    else
      let x := { x with pend := dst.regs.foldl (fun p r => p ||| (1#256 <<< r)) x.pend }
      if k.isSome || !done || err.isSome then add x (mk dst vals done err coll) else x

/-- The group's threads are stopped at a safe point (R353). -/
def St.safePoint (s : St) (w : Nat) (grp : Lanes) : St :=
  s.withD fun d => d.setWave w ((d.wave w).updLanes grp (fun t => if t.st = .run then { t with stopped := true } else t))

/-- The conditions under which a wave leaves cooperatively (R353). -/
def Device.mayLeave (d : Device) (w : Nat) : Bool :=
  let x := d.wave w
  let b := d.block x.blk
  (List.range 16).all (fun k => (x.tok k).count == 0) && x.pend == 0 && (List.range 12).all (fun m => (x.mask m).lanes == 0) &&
    (lanesOf x.alive).all (fun l => let t := x.thread l; t.rs.isEmpty && t.rsd == 0 && t.ls.isEmpty && t.pc.toNat < 2 ^ 48) &&
    x.frame.isNone && (List.range b.accN).all (fun t => !(d.prog (w / 64) (b.accB + t)).getLsbD 31)

/-- The test of the cycle in which every thread that is not DONE is stopped at a safe point: the wave leaves, its pipe drained, or every
stopped thread is released past its safe point (R353). -/
def Device.safeTest (d : Device) (w : Nat) : Device :=
  let x := d.wave w
  if !x.live || x.leaving || x.alive = 0 || !(lanesOf x.alive).all (fun l => (x.thread l).stopped) then d
  else if d.mayLeave w then d.setWave w { x.advance 8 with leaving := true }
  else d.setWave w (x.updLanes x.alive (fun t => { t with stopped := false, passed := true }))

/-- Counters that a wave has written enter its context (R242). -/
def Device.flushPmc (d : Device) (w : Nat) : Device :=
  let x := d.wave w
  if x.pmcSet.isEmpty then d
  else
    let asid := (d.block x.blk).asid
    let c := d.ctx asid
    (d.setCtx asid { c with pmc := x.pmcSet.foldl (fun t e => t.put (16 * (w / 64) + e.1) e.2) c.pmc }).setWave w { x with pmcSet := [] }

/-- Some active lane is transferred away from the next instruction: the branch is taken (R56). -/
def Eff.taken (e : Eff) (i : Iss) : Bool :=
  (lanesOf i.act).any (fun l => match e.next l with
    | some a => a != i.ba + 12
    | none => false)

/-- The positions an issue takes (R32, R49). -/
def Eff.positions (e : Eff) (i : Iss) : Nat := (if e.taken i then 3 else e.pos) + i.h.gap.toNat

/-- The next PCs of the path group. After a trap of its own, active lanes stand at BA + 12 and the others keep their PCs (R105). DESIGN CHOICE
(log 60): so they do where the trap stands at END(LD−1), where R98 would end an iteration: no COUNT and no LD changes. An `ERET` transfers the
handler lanes, and no lane ends an iteration by it (R98, R349). -/
def Wave.goOn (x : Wave) (i : Iss) (e : Eff) : Wave :=
  if e.post.isSome then x.updLanes i.act (fun t => { t with pc := i.ba + 12, passed := false, seq := true })
  else if e.leave.isSome then x
  else (lanesOf i.grp).foldl (fun x l => x.updThread l (fun t => nextOf t (if i.act.getLsbD l then e.next l else none))) x

/-- The return from a handler, its pipe drained: the handler lanes go to the resume address (R349). -/
def Wave.goBack (x : Wave) (a : Addr) : Wave :=
  let lanes := match x.frame with
    | some f => f.lanes
    | none => 0
  (x.advance 8).leaveHandler.updLanes lanes (fun t => if t.st == .done then t else { t with pc := a, passed := false, seq := false })

/-- The next position. -/
def Wave.nextPos (x : Wave) : Wave := { x with pos := x.pos + 1 }

/-- One cycle of an issue: the results of its position land, threads are held and masks released as they then stand (R32, R186). -/
def Wave.cycle (x : Wave) : Wave := (x.landAt 0).settle

/-- The `n` cycles of an issue (R56). -/
def Wave.cycles (x : Wave) : Nat → Wave
  | 0 => x.cycle
  | n + 1 => (x.cycles n).nextPos.cycle

/-- The wave after an issue: its post, the next PCs, the rotation, the positions, holds and releases (R49, R56, R98, R340). -/
def Wave.issued (x : Wave) (i : Iss) (opc : BitVec 12) (e : Eff) (preq : Bool) (turn : Nat) : Wave :=
  let n := e.positions i
  let x := ((x.post i opc e.out).goOn i e).rotate i.grp
  let x := { x with
    rc := if e.yields && !preq then 64 else x.rc
    stall := n, wait := e.waits.getD .ready, spill := none, lastIssue := turn }
  -- lanes that take a trap of their own go on at the handler: they are held nowhere on the way (R105, R186)
  if e.post.isSome then x.advance n
  else match e.leave with
    | some a => ((x.advance n).goBack a).settle
    | none => x.cycles n

/-- An instruction that publishes ends the block's idempotent status (R359). -/
def Device.publish (d : Device) (blk : Nat) : Device :=
  let b := d.block blk
  if b.idem then d.setBlock blk { b with idem := false, recs := [] } else d

/-- The trap of `TRAP`, `BKPT` and `SYSC`, after the issue. The handler and the record's place are those of the issue, though a later write
may have landed since (R39, R105). -/
def St.postTrap (s : St) (i : Iss) (x : Wave) (cause : Nat) (code : BitVec 16) : St :=
  let y := s.d.wave i.w
  let s := (s.withD (·.setWave i.w { y with handler := x.handler, fault := x.fault })).takeTrap i.w
    ⟨cause, i.act, i.grp, i.ba, i.ba + 12, code.setWidth 64, 0, 0, 0⟩
  s.withD fun d => d.setWave i.w { d.wave i.w with handler := y.handler, fault := y.fault }

/-- A debugger's STEP parks the wave again after one issue (R362). -/
def Device.stepped (d : Device) (w : Nat) : Device :=
  let x := d.wave w
  if x.stepping && !x.parked then d.setWave w { x with stepping := false, parked := true } else d

/-- An instruction has issued from the wave's quarter in this cycle (R339, R342); class 0x07 takes the quarter's FP64 unit (R338). -/
def Device.tookTurn (d : Device) (asid w : Nat) (opc : BitVec 12) : Device :=
  { (d.pmc asid (w / 64) 1 1) with issued := w :: d.issued, fp64Now := if opc.toNat / 64 = 7 then w / 16 :: d.fp64Now else d.fp64Now }

/-- The issue itself (R49, R56, R98, R340). Just after a `YIELD` with REQ = 1 is a safe point (R103, R353). -/
def St.finish (i : Iss) (opc : BitVec 12) (e : Eff) : St :=
  let x0 := e.st.d.wave i.w
  let preq := (e.st.d.block i.blk).preq
  let s := e.st.withD fun d => ((d.setWave i.w (x0.issued i opc e preq d.turns)).flushPmc i.w).tookTurn i.asid i.w opc
  let s := if e.pub then s.withD (·.publish i.blk) else s
  let s := match e.post with
    | some (cause, code) => (s.postTrap i x0 cause code).withD fun d => d.setWave i.w (d.wave i.w).settle
    | none => s
  let s := if e.yields && preq then s.safePoint i.w i.grp else s
  s.withD (·.stepped i.w)

/-- The wave stands ready again when all handler lanes are DONE and the handler's pipe is empty (R349). -/
def St.handlerEnd (s : St) (w : Nat) : St :=
  let x := s.d.wave w
  match x.frame with
  | some f =>
    if (lanesOf f.lanes).all (fun l => (x.thread l).st == .done) then
      -- the pipe drains as by empty positions before the frame comes back
      s.withD (·.setWave w ((x.advance 8).leaveHandler.settle))
    else s
  | none => s

/-- The state of a step that begins at `s`. -/
def St.of (s : State) : St := ⟨s.mem, [], s.dev⟩

/-- What a step that begins at `s` leaves when it has come to `u`: the bytes written reach memory, whose form is kept. -/
def State.after (s : State) (u : St) : State := ⟨s.mem.writeAll u.log, u.d⟩

/-- Every meaning and every event is one of these: a change of the state, with bytes written through the log. -/
def run (s : State) (f : St → Except Fault St) : Host.Outcome State Fault Refusal :=
  match f (St.of s) with
  | .ok t => .next (s.after t)
  | .error e => .fault e

/-- The path group that the current wave issues for, its wave with the results of its position landed, and what the issue knows
(R32, R47, R340). -/
def St.group (s : St) (h : Ctl) : Option (Iss × Wave) :=
  let w := s.d.cur
  match ((s.d.wave w).landAt 0).choose with
  | none => none
  | some (grp, x) =>
    if !x.live then none
    else
      let act := maskLanes (fun l => grp.getLsbD l && (x.pred l h.pred.toNat != h.neg))
      let b := s.d.block x.blk
      some (⟨w, w / 64, x.blk, b.asid, b.slot, grp, act, (x.thread (lowest grp)).pc, x.opn, h⟩, x)

/-- A fault at the stop instruction (R345). -/
def St.faultAt (s : St) (i : Iss) (cause : Nat) (v0 v1 v2 v3 : W64) : St := s.takeTrap i.w ⟨cause, i.act, i.grp, i.ba, i.ba, v0, v1, v2, v3⟩

/-- The wait hint of an instruction: how it holds, or the token whose error it meets (R49, R194). -/
def Wave.hint (x : Wave) (h : Ctl) : Option (Nat × Nat) × Option Nat :=
  match h.wait with
  | none => (none, none)
  | some (k, n) =>
    if n.toNat < (x.tok k.toNat).count then (some (k.toNat, n.toNat), none)
    else if (x.tok k.toNat).err then (none, some k.toNat) else (none, none)

/-- The wave's turn goes on to another wave: the group's threads stop at the safe point before the issue (R339, R353). -/
def St.safeStop (s : St) (w : Nat) (grp : Lanes) : St := (s.safePoint w grp).withD fun d => d.setWave w { d.wave w with wait := .bound }

/-- What stops an instruction before its own checks, in the order of R59: a safe point (R353), a register, its wait hint, a hazard.
DESIGN CHOICE (log 53): the safe point, which R353 puts just before issue, comes before step 2. -/
def St.stopsAt (s : St) (i : Iss) (x : Wave) (q : Req) : Option St :=
  let b := s.d.block i.blk
  if i.h.sp && b.preq && s.d.clock.toNat < b.deadline.toNat && !(x.thread (lowest i.grp)).passed then some (s.safeStop i.w i.grp)
  else match x.regCheck s i q with
    | some (c, v0, v1) => some (s.faultAt i c v0 v1 0 0)
    | none =>
      match x.hint i.h with
      | (some (k, n), _) => some (s.withD (·.setWave i.w { x with wait := .token k n }))
      | (none, some k) => let v := tokV x k (x.tok k).det; some (s.faultAt i 7 v.1 v.2.1 v.2.2.1 v.2.2.2)
      | (none, none) =>
        match x.hazard s i q with
        | some (c, v0, v1) => some (s.faultAt i c v0 v1 0 0)
        | none => none

/-- How an instruction goes on from its own checks. -/
def St.carryOut (s : St) (i : Iss) (opc : BitVec 12) : Res → St
  | .trap c v0 v1 v2 v3 => s.faultAt i c v0 v1 v2 v3
  | .fail t c v0 v1 v2 v3 => t.faultAt i c v0 v1 v2 v3
  | .hold t wt => t.withD (fun d => d.setWave i.w { d.wave i.w with wait := wt })
  | .ok e => (St.finish i opc e).handlerEnd i.w

/-- THE FRAME OF EVERY INSTRUCTION (R49, R59): the path group of the current wave is chosen (R340), its guard read (R47), the checks made in
their order, then the instruction's own faults, holds and effect. -/
def issue (opc : BitVec 12) (h : Ctl) (q : Req) (body : Iss → St → Res) (s : State) : Host.Outcome State Fault Refusal :=
  run s fun s =>
    match s.group h with
    | none => .error .noPathGroup
    | some (i, x) =>
      let s0 := s.withD (·.setWave i.w x)
      .ok (match s0.stopsAt i x q with
        | some t => t
        | none => s0.carryOut i opc (body i s0))

/-- An event that is not enabled changes nothing. -/
def event (s : State) (f : St → Option St) : Host.Outcome State Fault Refusal :=
  run s fun s => .ok ((f s).getD s)

end Sys2Proof.Machine
end

