-- ==== Sys2Proof/Machine/Operands.lean ====
section
/-! DEFINITION. The operand forms: how a source of every class is read in a slot (R16, R29, R51, R70, R123), the register ranges that an
operand names, and the frames of register-only instructions. -/

namespace Sys2Proof
open Machine

/-- The value of an inline constant (R51). -/
def immVal (r : BitVec 6) : Int := (r.toNat : Int) - 32

/-- A source in a 32-bit slot. -/
def Opnd.val32 (x : Wave) (l : Nat) : Opnd → W32
  | .w r => x.reg l r.toNat
  | .imm r => BitVec.ofInt 32 (immVal r)
  | .k r => (x.tok r.toNat).word
  | .m r => (x.mask r.toNat).lanes
  | .lc r => match (x.thread l).ls[r.toNat]? with
    | some c => c.count
    | none => 0
  | .n r => (x.nreg r.toNat).setWidth 32
  | .p r => if x.pred l r.toNat then 1 else 0
  | .acc _ | .sr _ => 0

/-- A source in a 64-bit slot. -/
def Opnd.val64 (x : Wave) (l : Nat) : Opnd → W64
  | .w r => x.pair l r.toNat
  | .imm r => BitVec.ofInt 64 (immVal r)
  | .n r => x.nreg r.toNat
  | o => (o.val32 x l).setWidth 64

/-- A predicate source. -/
def Opnd.valP (x : Wave) (l : Nat) : Opnd → Bool
  | .p r => x.pred l r.toNat
  | _ => false

/-- The index of an operand's register. -/
def Opnd.idx : Opnd → Nat
  | .w r => r.toNat
  | .p r => r.toNat
  | .m r => r.toNat
  | .n r => r.toNat
  | .k r => r.toNat
  | .acc r => r.toNat
  | .lc r => r.toNat
  | .sr r => r.toNat
  | .imm r => r.toNat

/-- The registers a source of `n` words reads, with S. -/
def Src.rng (s : Src) (n : Nat) : List (Nat × Nat × Bool) :=
  match s.o with
  | .w r => [(r.toNat, n, s.stale)]
  | _ => []

/-- The registers a destination of `n` words names. -/
def Opnd.rng (o : Opnd) (n : Nat) : List (Nat × Nat) :=
  match o with
  | .w r => [(r.toNat, n)]
  | _ => []

/-- The registers of a source that may be absent. -/
def srcRng (s : Option Src) (n : Nat) : List (Nat × Nat × Bool) := (s.map (·.rng n)).getD []

/-- The registers of a destination that may be absent. -/
def dstRng (d : Option Opnd) (n : Nat) : List (Nat × Nat) := (d.map (·.rng n)).getD []

/-- Where a result of `n` words goes. -/
def Opnd.dest (o : Opnd) (n : Nat) : Dest :=
  match o with
  | .w r => .w r.toNat n
  | .p r => .p r.toNat
  | .m r => .m r.toNat
  | .n r => .n r.toNat
  | .lc r => .lc r.toNat
  | _ => .none

/-- Where a result goes whose destination may be absent. -/
def dstOf (d : Option Opnd) (n : Nat) : Dest := (d.map (·.dest n)).getD .none

end Sys2Proof

namespace Sys2Proof.Machine

/-- The values of the lanes of a mask. -/
def valsOf (m : Lanes) (f : Nat → Nat) : Tab Nat := (lanesOf m).map (fun l => (l, f l))

/-- Registers of an integer type: one, or a pair (R69). -/
def intN (ty : BitVec 3) : Nat := if ty.toNat < 6 then 1 else 2

/-- The integer type is signed (R54). -/
def intSigned (ty : BitVec 3) : Bool := ty.toNat % 2 = 1

/-- A pattern read under an integer type (R69, R70). -/
def intOf (ty : BitVec 3) (v : Nat) : Int :=
  let u := v % 2 ^ intW ty
  if intSigned ty && 2 ^ (intW ty - 1) ≤ u then (u : Int) - 2 ^ intW ty else u

/-- The range of a type: least and greatest value (R69). -/
def intMin (ty : BitVec 3) : Int := if intSigned ty then -(2 ^ (intW ty - 1)) else 0
/-- The greatest value of a type. -/
def intMax (ty : BitVec 3) : Int := if intSigned ty then 2 ^ (intW ty - 1) - 1 else 2 ^ intW ty - 1

/-- An exact value clamped to the range of a type (R71). -/
def clamp (ty : BitVec 3) (v : Int) : Int := max (intMin ty) (min (intMax ty) v)

/-- The pattern that an exact result writes: wrapped or clamped, then extended to 32 bits where the type is narrow (R70, R71). -/
def intRes (ty : BitVec 3) (sat : Bool) (v : Int) : Nat :=
  let v := if sat then clamp ty v else v
  let u := (v % 2 ^ intW ty).toNat
  if intW ty = 64 then u else (BitVec.ofInt 32 (intOf ty u)).toNat

end Sys2Proof.Machine

namespace Sys2Proof
open Machine

/-- A source of an integer type (R107). -/
def Src.int (s : Src) (x : Wave) (l : Nat) (ty : BitVec 3) : Int :=
  intOf ty (if ty.toNat < 6 then (s.o.val32 x l).toNat else (s.o.val64 x l).toNat)

end Sys2Proof

namespace Sys2Proof.Machine

/-- A literal under an integer type: sign-extended in a 64-bit slot (R114). -/
def litInt (imm : BitVec 32) (ty : BitVec 3) : Int := intOf ty (imm.signExtend 64).toNat

/-- Registers of a float type (R123). -/
def fltN (ty : BitVec 3) : Nat := if ty.toNat = 5 then 2 else 1

end Sys2Proof.Machine

namespace Sys2Proof
open Machine

/-- A float source as a pattern of its format: a register, or the exact value of an inline constant (R51, R123). -/
def Src.flt (s : Src) (x : Wave) (l : Nat) (ty : BitVec 3) : Nat :=
  let f := fmtOf ty.toNat
  match s.o with
  | .imm r => f.round 0 false (FVal.ofInt (immVal r))
  | o => (if ty.toNat = 5 then (o.val64 x l).toNat else (o.val32 x l).toNat) % 2 ^ f.width

/-- A 32-bit source. -/
abbrev Src.w (s : Src) (x : Wave) (l : Nat) : W32 := s.o.val32 x l
/-- A 64-bit source. -/
abbrev Src.x (s : Src) (x : Wave) (l : Nat) : W64 := s.o.val64 x l

end Sys2Proof

namespace Sys2Proof.Machine

/-- The registers of an instruction with one destination. -/
def req (d : List (Nat × Nat)) (srcs : List (List (Nat × Nat × Bool))) : Req := { Req.none with srcs := srcs.flatten, dsts := d }

/-- A fixed-latency instruction on the registers of each active lane (R32, R90, R120). -/
def alu (opc : BitVec 12) (lat : Nat) (h : Ctl) (d : Opnd) (n : Nat) (srcs : List (List (Nat × Nat × Bool)))
    (f : Wave → Nat → Nat) (s : State) : Host.Outcome State Fault Refusal :=
  issue opc h (req (d.rng n) srcs) (fun i t =>
    let x := t.d.wave i.w
    .ok { Eff.plain t with out := .fixed lat (d.dest n) (valsOf i.act (f x)) }) s

/-- A special-function operation: long-latency, complete at once with its values (R133). -/
def sfu (opc : BitVec 12) (h : Ctl) (d : Opnd) (n : Nat) (srcs : List (List (Nat × Nat × Bool)))
    (f : Wave → Nat → Nat) (s : State) : Host.Outcome State Fault Refusal :=
  issue opc h (req (d.rng n) srcs) (fun i t =>
    let x := t.d.wave i.w
    .ok { Eff.plain t with out := .long (d.dest n) (valsOf i.act (f x)) true none false }) s

end Sys2Proof.Machine
end

