-- ==== Sys2Proof/Machine/Flags.lean ====
section
/-! DEFINITION. The predicates that instructions compute: the machine has no flag register (R80), its conditions go to `p0` to
`p7`. -/

namespace Sys2Proof.Machine

/-- The conditions of `ICMP` (R116). -/
def icond (cond : BitVec 3) (a b : Int) : Bool :=
  match cond.toNat with
  | 0 => decide (a = b)
  | 1 => decide (a < b)
  | 2 => decide (a ≤ b)
  | 4 => decide (a ≠ b)
  | 5 => decide (b < a)
  | 6 => decide (b ≤ a)
  | _ => false

/-- COMB: the comparison with the third predicate (R116). -/
def comb (c : BitVec 2) (v p : Bool) : Bool :=
  match c.toNat with
  | 0 => v
  | 1 => v && p
  | 2 => v || p
  | _ => v != p

/-- A predicate as a result. -/
def bitVal (b : Bool) : Nat := if b then 1 else 0

/-- The third predicate of a comparison in a lane. -/
def thirdPred (c : Option Src) (x : Wave) (l : Nat) : Bool :=
  match c with
  | some p => p.o.valP x l
  | none => false

/-- The table of `PLOP` (R118). -/
def lutBit (lut : BitVec 8) (a b c : Bool) : Bool := lut.getLsbD (4 * bitVal a + 2 * bitVal b + bitVal c)

/-- A comparison of integers (R117). -/
def cmpInt (opc : BitVec 12) (h : Ctl) (d : Opnd) (a b : Src) (c : Option Src) (ty cond : BitVec 3) (cb : BitVec 2)
    (s : State) : Host.Outcome State Fault Refusal :=
  alu opc 2 h d 1 [a.rng (intN ty), b.rng (intN ty)]
    (fun x l => bitVal (comb cb (icond cond (a.int x l ty) (b.int x l ty)) (thirdPred c x l))) s

/-- A comparison of floats, with the second source as a pattern in each lane (R117). -/
def cmpFlt (opc : BitVec 12) (lat : Nat) (h : Ctl) (d : Opnd) (a : Src) (bsrc : List (Nat × Nat × Bool)) (b : Wave → Nat → Nat)
    (c : Option Src) (ty : BitVec 3) (cond : Nat) (cb : BitVec 2) (s : State) : Host.Outcome State Fault Refusal :=
  let f := fmtOf ty.toNat
  alu opc lat h d 1 [a.rng (fltN ty), bsrc]
    (fun x l => bitVal (comb cb (fcond cond (f.value (a.flt x l ty)) (f.value (b x l))) (thirdPred c x l))) s

end Sys2Proof.Machine
end

