-- ==== Sys2Proof/Machine/Lsu.lean ====
section
/-! DEFINITION. The load-store unit: the access checks of a memory instruction in the order of R146, lane reads and writes, and the
conditions that fences wait for (R142 to R150, R161, R184, R275). -/

namespace Sys2Proof
open Machine

/-- EA: x[A] + SX(OFS, 64) (R143). -/
def Src.ea (a : Src) (ofs : BitVec 16) (x : Wave) (l : Nat) : W64 := a.x x l + ofs.signExtend 64

end Sys2Proof

namespace Sys2Proof.Machine

/-- The fault that a MEM record describes (R350): cause, EA, faulting lanes, walk level, access, tile and entry. -/
def memRes (m : MErr) (ea : W64) (a : Acc) (lanes : Lanes) (kind : Nat) : Res :=
  .trap m.cause ea
    (BitVec.ofNat 64 (lanes.toNat + 2 ^ 32 * m.level + 2 ^ 36 * a.code + 2 ^ 48 * (m.tile % 64) + 2 ^ 54 * (m.tstate % 4)))
    m.pte (BitVec.ofNat 64 kind)

/-- The first check that the access of one lane fails: alignment, then where it leads, then, for the accesses of R227, the tile's
state (R144, R146, R227). -/
def St.check (s : St) (blk : Nat) (ea : W64) (size align : Nat) (a : Acc) (tile : Bool) : Except MErr Place :=
  if ea.toNat % align != 0 then .error (.plain 8)
  else match s.locate blk ea a with
    | .error e => .error e
    | .ok p =>
      match p with
      | .scratch k o => if (s.d.block k).scrsz < o + size then .error (.plain 11) else if tile then s.tileCheck p else .ok p
      | _ => .ok p

/-- The translations that the checks of some lanes' accesses have used stay cached, and checks that had to walk suspend the wave's fetch (R146,
R307). -/
def St.walked (s : St) (i : Iss) (ea : Nat → W64) (lanes : List Nat) : St :=
  let t := lanes.foldl (fun s l => s.cacheTlb (sliceOf i.core) i.asid (ea l).toNat) s
  if t.d.tlb.length = s.d.tlb.length then s else t.withD fun d => d.setWave i.w { d.wave i.w with walking := true }

/-- The place is scratchpad. -/
def Place.isScratch : Place → Bool
  | .scratch _ _ => true
  | _ => false

/-- Checks the accesses of some lanes: every lane's place, or the fault of the lowest failing lane with every lane that fails by that
cause (R350). The translations used stay cached (R307). -/
def St.checks (s : St) (i : Iss) (lanes : List Nat) (ea : Nat → W64) (size align : Nat) (a : Acc) (tile : Bool := true) :
    Except Res (List (Nat × Place) × St) :=
  let rs := lanes.map (fun l => (l, s.check i.blk (ea l) size align a tile))
  match failures rs with
  | (l, e) :: bad =>
    .error (memRes e (ea l) a (maskLanes (fun j => ((l, e) :: bad).any (fun b => b.1 == j && b.2.cause == e.cause))) 0)
  | [] =>
    let ps := successes rs
    .ok (ps, s.walked i ea ((ps.filter (!·.2.isScratch)).map (·.1)))

/-- The park that stops an undeclared access at a place (R149): none when the line is not parked or the core is declared. -/
def St.undeclared (s : St) (core : Nat) (p : Place) : Option Park :=
  match p with
  | .dev pa _ =>
    match s.d.parks.get none (lineOf pa) with
    | some k => if setHas k.set core then none else some k
    | none => none
  | _ => none

/-- The page of a place serves an undeclared load by recall (R316). -/
def Place.ps : Place → Bool
  | .dev _ pte => pte.getLsbD 8
  | _ => false

/-- The locate fault of an instruction (R149, R313, R314): OP 0 `LD`, 1 `ATOM`, 2 `ACAS`, 3 `RSQRY`. -/
def St.locateFault (s : St) (i : Iss) (op : Nat) (ea : Nat → W64) (ps : List (Nat × Place)) : Option Res :=
  let bad := ps.filterMap (fun p =>
    match s.undeclared i.core p.2 with
    | some k => if op = 0 && p.2.ps then none else some (p.1, p.2, k)
    | none => none)
  match bad with
  | [] => none
  | (l, p, k) :: _ =>
    let ln := match p with
      | .dev pa _ => lineOf pa
      | _ => 0
    -- every lane whose line is parked and undeclared, those that a recall would serve among them (R314)
    let lanes := maskLanes (fun j => ps.any (fun b => b.1 == j && (s.undeclared i.core b.2).isSome))
    some (.trap 13 (BitVec.ofNat 64 (128 * ln + detOf k i.core ln))
      (BitVec.ofNat 64 (op + 2 ^ 4 * k.lvl + 2 ^ 7 * k.loc + 2 ^ 16 * coreId i.core + 2 ^ 32 * lanes.toNat)) (ea l) k.set)

/-- The place lies outside slot 0 of the block's window (R359). -/
def Place.outside (p : Place) (blk : Nat) : Bool :=
  match p with
  | .scratch k _ => k != blk
  | _ => true

/-- One lane's read of `n` bytes, as `LD` reads (R147, R149): an undeclared read of a parked line is served by recall (R316). -/
def St.readLane (s : St) (i : Iss) (p : Place) (n : Nat) : Nat × St :=
  match s.undeclared i.core p with
  | some _ => s.loadFar i.core p n
  | none => s.load i.core p n

/-- The lines of device memory among some places. -/
def linesOf (ps : List (Nat × Place)) : List Nat := (ps.filterMap (fun p => match p.2 with
  | .dev pa _ => some (lineOf pa)
  | _ => none)).eraseDups

/-- The recalls by which undeclared lanes are served, one for each line (R144, R316). -/
def St.countRecalls (s : St) (i : Iss) (ps : List (Nat × Place)) : St :=
  s.withD (·.pmc i.asid i.core 11 (linesOf (ps.filter (fun p => (s.undeclared i.core p.2).isSome))).length)

/-- A declared reader's read clears its read-once bit (R312). -/
def St.readOnceAt (s : St) (core : Nat) (p : Place) : St :=
  match p with
  | .dev pa _ => s.withD (·.readOnce core (lineOf pa))
  | _ => s

/-- The bytes that some writes leave, by key; a later write of the list stands (R144). -/
def bytesOf (d : Device) (ws : List (Place × Nat × Nat)) (f : Place → Bool) : Tab Byte :=
  (ws.filter (fun w => f w.1)).foldl (fun t w => (cellsOf (w.1.key d) w.2.1 w.2.2).foldl (fun t c => Tab.put t c.1 c.2) t) []

/-- The writes of one instruction: line by line in device memory, so that a line written whole loses its poison (R320). -/
def St.storeAll (s : St) (core : Nat) (ws : List (Place × Nat × Nat)) : St :=
  let dev := bytesOf s.d ws (fun p => match p with
    | .dev _ _ => true
    | _ => false)
  let rest := bytesOf s.d ws (fun p => match p with
    | .dev _ _ => false
    | _ => true)
  let lines := (dev.map (fun c => lineOf c.1)).eraseDups
  let s := ws.foldl (fun s w => s.meetAt core w.1) s
  let s := lines.foldl (fun s ln => s.wrLine (dieOf core) ln (dev.filter (fun c => lineOf c.1 == ln))) s
  let s := rest.foldl (fun s c => s.wr c.1 c.2) s
  let whole := ((dev ++ rest).map (fun c => lineOf c.1)).eraseDups.filter (fun ln => 128 ≤ ((dev ++ rest).filter (fun c => lineOf c.1 == ln)).length)
  s.withD fun d => { d with poison := d.poison.filter (fun ln => !whole.contains ln) }

/-- The detail of an operation's error (R347, R350). -/
def mkDetail (kind : BitVec 8) (opc : BitVec 12) (addr : W64) : Detail := ⟨kind, opc, addr, 0⟩

/-- The first error of some lanes' reads. -/
def St.readErrs (s : St) (opc : BitVec 12) (ea : Nat → W64) (ps : List (Nat × Place)) : Option Detail :=
  ps.findSome? (fun p => (s.readErr p.2).map (fun k => mkDetail k opc (ea p.1)))

/-- The first error of some lanes' writes. -/
def St.writeErrs (s : St) (opc : BitVec 12) (ea : Nat → W64) (ps : List (Nat × Place)) : Option Detail :=
  ps.findSome? (fun p => (s.writeErr p.2).map (fun k => mkDetail k opc (ea p.1)))

/-- A write that fails is not performed; the operation is one that completes with an error (R146). -/
def St.goodWrites (s : St) (ws : List (Place × Nat × Nat)) : List (Place × Nat × Nat) := ws.filter (fun w => (s.writeErr w.1).isNone)

/-- Earlier reads of the wave are all complete (R161, R184). -/
def Wave.readsDone (x : Wave) : Bool := x.ops.all (fun o => o.done || !o.isRead)

/-- A release of a context on a core at die scope or wider: the scope-local copies that it wrote in the cluster go outward, held lines first
(R161, R361). -/
def St.releaseOf (s : St) (core asid scope : Nat) : St :=
  if scope < 3 then s else (s.retryHeld (sliceOf core) asid).pushAll (sliceOf core) asid

/-- The release of an issue. -/
def St.release (s : St) (i : Iss) (scope : Nat) : St := s.releaseOf i.core i.asid scope

/-- Nothing that the context wrote is left in the cluster slice or its fault buffer. -/
def Device.pushed (d : Device) (core asid : Nat) : Bool :=
  d.locals.all (fun l => !(l.cl == sliceOf core && l.writers.contains asid)) &&
    d.fbuf.all (fun h => !(h.cl == sliceOf core && h.writers.contains asid))

/-- What a fence of an order waits for (R161): 1 acquire, 2 release, 3 both, 4 both and visibility within the scope. -/
def Device.fenceOver (d : Device) (w order scope : Nat) : Bool :=
  let x := d.wave w
  (order == 2 || x.readsDone) && (order == 1 || x.unack == 0) && (order != 4 || scope < 4 || d.msgs.isEmpty)

/-- A fence completes: its waits are over, and at die scope or wider no scope-local copy is left to push (R161, R361). -/
def Device.fenceReady (d : Device) (w order scope : Nat) : Bool :=
  d.fenceOver w order scope && (order == 1 || scope < 3 || d.pushed (w / 64) (d.block (d.wave w).blk).asid)

/-- What `WFENCE` waits for (R184): earlier reads are complete, and every earlier access has been performed: none is held, no `ENQ` waits, every
row of an `ACCST` is stored. -/
def Device.wfenceReady (d : Device) (w : Nat) : Bool :=
  let uid := (d.wave w).uid
  (d.wave w).readsDone && d.late.all (fun l => l.uid != uid) && d.qwaits.all (fun q => q.uid != uid || !q.enq) &&
    d.mats.all (fun m => m.uid != uid || m.kind != 7 || m.ended)

/-- What `IFENCE` waits for (R160). -/
def Device.ifenceReady (d : Device) (w : Nat) : Bool := (d.wave w).unack == 0

/-- The first line that the fault buffer holds of a context's writes in the cluster, for a fence of its at die scope or wider (R361). -/
def St.unwritten (s : St) (i : Iss) (scope : Nat) : Option Held :=
  if scope < 3 then none else s.d.fbuf.find? (fun f => f.cl == sliceOf i.core && f.writers.contains i.asid)

/-- The write-back fault of a held line of the context (R350, R361); the line stays in the buffer. -/
def St.wbRes (s : St) (f : Held) : Res :=
  let m := f.data.foldl (fun n c => n + 2 ^ c.1) 0
  .fail s 26 (BitVec.ofNat 64 (128 * f.line))
    (BitVec.ofNat 64 (f.asid + 2 ^ 16 * (f.cl / 18 * 32 + f.cl % 18)))
    (BitVec.ofNat 64 m) (BitVec.ofNat 64 (m / 2 ^ 64))

/-- What an access does before itself by its ORDER (R275): a release pushes; a seq_cst access waits as `FENCE.acq_rel`, and fails as it
does (R361). With no active lane it makes no access (R47). -/
def St.orderBefore (s : St) (i : Iss) (order scope : Nat) : Except Res St :=
  if i.act = 0 then .ok s
  else
    let s := if 2 ≤ order then s.release i scope else s
    match (if order = 4 then s.unwritten i scope else none) with
    | some f => .error (s.wbRes f)
    | none => if order = 4 && !s.d.fenceReady i.w 3 scope then .error (.hold s (.fence 3 scope)) else .ok s

/-! ### Accesses that the load-store unit holds (R271, R275) -/

/-- A waiting queue request's ring holds a byte of an access of the same lane: the slot's access comes first in program order (R271). -/
def St.inRing (s : St) (q : QWait) (asid size : Nat) (va : Tab Nat) : Bool :=
  let h := s.rdN q.hdr 64
  let ring := field h 134 58 * 64
  match va.lookup q.lane with
  | some a => q.asid == asid && ring < a + size && a < ring + 2 ^ min 24 (field h 128 6) * q.size
  | none => false

/-- The lines of a range, each by its first address in it. -/
def linesIn (lo n : Nat) : List Nat := (List.range ((lo + n + 127) / 128 - lo / 128)).map (fun k => max lo (128 * (lo / 128 + k)))

/-- Where row i of an `ACCST` goes (R235). -/
def MatOp.stRow (m : MatOp) (i : Nat) : Nat := (m.xa.toNat + 16 * m.c.toNat * i) % 2 ^ 64

/-- The bytes of memory, by key, that an `ACCST` has still to store: runs within a line. -/
def St.toStore (s : St) (m : MatOp) : List (Nat × Nat) :=
  if m.kind ≠ 7 || m.ended then []
  else ((List.range 128).drop m.row).flatMap (fun i => (linesIn (m.stRow i) 512).filterMap (fun va =>
    match s.locate m.blk (BitVec.ofNat 64 va) .write with
    | .ok p => some (p.key s.d, min (m.stRow i + 512) (128 * (va / 128 + 1)) - va)
    | .error _ => none))

/-- An earlier `ACCST` of the wave has still to store a byte of an access: its rows are stores of the wave, which come first (R235, R271). -/
def St.unstored (s : St) (l : Late) : Bool :=
  s.d.mats.any (fun m => m.uid == l.uid && m.op < l.i.opid &&
    (s.toStore m).any (fun r => l.places.any (fun q => r.1 < q.2.key s.d + l.size && q.2.key s.d < r.1 + r.2)))

/-- An access must wait behind the accesses of its wave issued before it: behind an unbound read whose later accesses are held (R275), or one that
touches a byte of it in the same lane (R271). -/
def St.behind (s : St) (l : Late) : Bool :=
  s.unstored l ||
  s.d.late.any (fun e => e.uid == l.uid && e.i.opid < l.i.opid && (e.blocks &&& l.i.act != 0 ||
    e.places.any (fun p => l.places.any (fun q => p.1 == q.1 && p.2.key s.d < q.2.key s.d + l.size && q.2.key s.d < p.2.key s.d + e.size)))) ||
  s.d.qwaits.any (fun q => q.uid == l.uid && q.op < l.i.opid && (q.blocks &&& l.i.act != 0 || s.inRing q l.i.asid l.size l.va))

/-- A release write waits until earlier reads are bound, earlier writes acknowledged and, at die scope or wider, its push complete (R275). -/
def Device.unreleased (d : Device) (l : Late) : Bool :=
  l.wr && (l.order == 2 || l.order == 3) &&
    !(d.acked l.uid l.need && d.bound l.uid l.i.opid && (l.scope < 3 || d.pushed l.i.core l.i.asid))

/-- The load-store unit holds the access. -/
def St.mustWait (s : St) (l : Late) : Bool := l.i.act != 0 && (s.behind l || s.d.unreleased l)

/-- What performing an access gives: the values by lane, the first error, the writes made (each with its address), those that a waiting request
still has to make, whether a request waits at a home slice, and whether the acknowledgement of the writes completes the operation. -/
structure Perf where
  vals : Tab Nat
  err : Option Detail
  wait : Bool
  ws : List (Nat × Place)
  later : List (Nat × Place)
  owed : Bool
  st : St

/-- A write with no register result: an error is the operation's (R146). -/
def outErr (err : Option Detail) : Out := if err.isSome then .long .none [] true err false else .none

/-- What an instruction's access leaves: its result, or nothing but an error. -/
def Perf.out (r : Perf) (dst : Option Dest) : Out :=
  match dst with
  | some d => .long d r.vals (!r.wait && !(r.owed && !r.ws.isEmpty)) r.err false
  | none => outErr r.err

/-- The lanes whose later accesses wait for an access: those of an acquire (R275). -/
def acquires (order : Nat) (act : Lanes) : Lanes := if order = 1 || order = 3 || order = 4 then act else 0

/-- The wait that a seq_cst access leaves (R275). -/
def scOf (order scope : Nat) : Option Wait := if order = 4 then some (.sc scope) else none

/-- The access of an issue as the load-store unit holds it: `rd` says that later accesses may wait for it, `wr` that it writes. -/
def Iss.late (i : Iss) (x : Wave) (ins : Instr) (order scope size : Nat) (rd wr : Bool) (ea : Nat → W64) (ps : List (Nat × Place)) : Late :=
  ⟨x.uid, ins, i, x, ps, ps.map (fun p => (p.1, (ea p.1).toNat)), size, order, scope, wr, x.wseq, if rd then acquires order i.act else 0⟩

/-- Places with the addresses of their lanes. -/
def addressed (ea : Nat → W64) (ps : List (Nat × Place)) : List (Nat × Place) := ps.map (fun p => ((ea p.1).toNat, p.2))

/-- The result of an access that is held: an operation still to complete; an instruction of class None has completed at its issue (R50, R64). -/
def heldOut (dst : Option Dest) : Out :=
  match dst with
  | some d => .long d [] false none false
  | none => .none

/-- The access is held, under a number of its own: a write already counts among those of its wave. -/
def St.holdAccess (s : St) (i : Iss) (l : Late) (ws : List (Nat × Place)) : St :=
  s.withD fun d =>
    let y := d.wave i.w
    let d : Device := { d with late := d.late ++ [l] }
    d.setWave i.w { (if l.wr then y.addWrites (some i.opid) true ws else y) with opn := y.opn + 1 }

/-- The access has been performed: the writes made count, and so do those that a waiting request still has to make. -/
def Perf.after (r : Perf) (i : Iss) : St :=
  r.st.withD fun d => d.setWave i.w (((d.wave i.w).addWrites (if r.owed then some i.opid else none) false r.ws).addWrites (some i.opid) true r.later)

/-- AN ACCESS THAT HAS PASSED ITS CHECKS: performed now, or held by the load-store unit until what it waits for is over; either way the
instruction has issued (R147, R148, R275). -/
def St.access (s : St) (i : Iss) (x : Wave) (ins : Instr) (order scope size : Nat) (rd wr : Bool) (ea : Nat → W64) (ps : List (Nat × Place))
    (dst : Option Dest) (pub : Bool) (perf : St → Perf) : Res :=
  match s.orderBefore i order scope with
  | .error r => r
  | .ok s =>
    let l := i.late x ins order scope size rd wr ea ps
    let waits := if i.act = 0 then none else scOf order scope
    if s.mustWait l then
      .ok { Eff.plain (s.holdAccess i l (addressed ea ps)) with out := heldOut dst, pub := pub, waits := waits }
    else .ok { Eff.plain ((perf s).after i) with out := (perf s).out dst, pub := pub, waits := waits }

/-- An instruction whose access the unit does not hold waits before its issue for what would hold it. -/
def St.boundFirst (s : St) (i : Iss) (x : Wave) (ea : Nat → W64) (size : Nat) (ps : List (Nat × Place)) (go : Res) : Res :=
  if s.mustWait (i.late x (.nop i.h) 0 0 size false false ea ps) then .hold s .bound else go

/-- The wave still has to perform a store to the line of a place, at virtual line `vl`: one that is held, a waiting `ENQ`, rows of an `ACCST`. -/
def St.stillStores (s : St) (uid op vl : Nat) (p : Place) : Bool :=
  let ln := lineOf (p.key s.d)
  s.d.late.any (fun e => e.uid == uid && e.i.opid < op && e.wr && e.places.any (fun q => lineOf (q.2.key s.d) == ln)) ||
    s.d.qwaits.any (fun q => q.uid == uid && q.op < op && q.enq && (List.range 128).any (fun k => s.inRing q q.asid 1 [(q.lane, 128 * vl + k)])) ||
    s.d.mats.any (fun m => m.uid == uid && m.op < op && (s.toStore m).any (fun r => lineOf r.1 == ln))

/-- A change of a line's set comes after the wave's earlier stores to the line (R157). -/
def St.storedFirst (s : St) (i : Iss) (x : Wave) (ea : Nat → W64) (ps : List (Nat × Place)) (go : Res) : Res :=
  if ps.any (fun p => s.stillStores x.uid i.opid (lineOf (ea p.1).toNat) p.2) then .hold s .bound else go

/-- The bytes of an element of a type. -/
def tySize (ty : BitVec 3) : Nat := intW ty / 8

/-- The registers of a data group (R142, R144). -/
def groupN (ty : BitVec 3) (vec : BitVec 2) : Nat := intN ty * 2 ^ vec.toNat

/-- What a load of a type writes: a narrow element is extended; a group of 32- or 64-bit elements is its bytes (R70, R147). -/
def loadVal (ty : BitVec 3) (v : Nat) : Nat := if ty.toNat < 4 then intRes ty false (intOf ty v) else v

/-- A data element to store: an inline constant at the element's type (R142). -/
def dataVal (b : Src) (x : Wave) (l : Nat) (ty : BitVec 3) : Nat :=
  (if ty.toNat < 6 then (b.w x l).toNat else (b.x x l).toNat) % 2 ^ intW ty

/-- The data group of a store. -/
def groupVal (b : Src) (x : Wave) (l : Nat) (ty : BitVec 3) (vec : BitVec 2) : Nat :=
  if vec = 0 then dataVal b x l ty else x.group l b.o.idx (groupN ty vec)

/-- `n` bytes at a virtual address of a context, as a unit of the base die reads them (map reads, records, headers); none where there
is no translation or no read permission, or the read ends in poison or a Dunvia Link error. -/
def St.ctxRead (s : St) (asid va n : Nat) : Option Nat :=
  match s.translate 0 asid va with
  | .error _ => none
  | .ok (pa, pte, _) =>
    if !permits pte .read then none
    else
      let p := if isHost pa then Place.host pa else .dev (canonical pa) pte
      if (s.readErr p).isSome || s.d.poison.contains (lineOf (p.key s.d)) then none else some (s.rdN (p.key s.d) n)

/-- The place of a virtual address in a context for a unit outside a block: none where it does not translate. -/
def St.ctxPlace (s : St) (asid va : Nat) : Option Place :=
  match s.translate 0 asid va with
  | .error _ => none
  | .ok (pa, pte, _) => some (if isHost pa then .host pa else .dev (canonical pa) pte)

end Sys2Proof.Machine
end

