-- ==== Sys2Proof/Machine/Records.lean ====
section
/-! DEFINITION. Launch records, thread records, the segment map and the sending of records (R11 to R14, R174, R201, R322, R336,
R382 to R389). -/

namespace Sys2Proof.Machine

/-! ### The launch record (R322) -/

/-- A field of a launch record. -/
def Launch.f (l : Launch) (lo len : Nat) : Nat := field l.rcd.toNat lo len
/-- ENTRY. -/
def Launch.entry (l : Launch) : Nat := l.f 0 64
/-- INQ. -/
def Launch.inqA (l : Launch) : Nat := l.f 128 64
/-- OUTQ. -/
def Launch.outqA (l : Launch) : Nat := l.f 192 64
/-- COLL. -/
def Launch.collA (l : Launch) : Nat := l.f 256 64
/-- TTBASE. -/
def Launch.ttbase (l : Launch) : Nat := l.f 320 64
/-- SEGMAP. -/
def Launch.segmap (l : Launch) : Nat := l.f 384 64
/-- STKBASE. -/
def Launch.stkbase (l : Launch) : Nat := l.f 448 64
/-- LIMIT. -/
def Launch.limit (l : Launch) : Nat := l.f 512 64
/-- FPOS. -/
def Launch.fpos (l : Launch) : Nat := l.f 576 64
/-- FTIME, nanoseconds. -/
def Launch.ftime (l : Launch) : Nat := l.f 640 20
/-- SCR. -/
def Launch.scr (l : Launch) : Nat := l.f 672 32
/-- REGQ. -/
def Launch.regq (l : Launch) : Nat := l.f 704 6
/-- PRIO. -/
def Launch.prio (l : Launch) : Nat := l.f 736 2
/-- TRAVEL. -/
def Launch.travel (l : Launch) : Bool := l.f 738 1 = 1
/-- IDEM. -/
def Launch.idem (l : Launch) : Bool := l.f 739 1 = 1
/-- PERSIST. -/
def Launch.persist (l : Launch) : Bool := l.f 740 1 = 1
/-- AFTER. -/
def Launch.after (l : Launch) : Bool := l.f 741 1 = 1
/-- ACCN. -/
def Launch.accn (l : Launch) : Nat := l.f 756 4
/-- TTE. -/
def Launch.tte (l : Launch) : Nat := l.f 760 7
/-- TTN. -/
def Launch.ttn (l : Launch) : Nat := l.f 768 17
/-- STKSZ. -/
def Launch.stksz (l : Launch) : Nat := l.f 800 16
/-- STKN. -/
def Launch.stkn (l : Launch) : Nat := l.f 816 16
/-- GCLASS. -/
def Launch.gclass (l : Launch) : Nat := l.f 832 4
/-- NF, TW, BB, GB of `sr.fpos` (R14). -/
def Launch.nf (l : Launch) : Nat := field l.fpos 35 3
/-- TW. -/
def Launch.tw (l : Launch) : Nat := field l.fpos 38 7
/-- BB. -/
def Launch.bb (l : Launch) : Nat := field l.fpos 45 3
/-- GB. -/
def Launch.gb (l : Launch) : Nat := field l.fpos 48 3
/-- LO(i): 0 for field 0, TW from NF on (R11, R14). -/
def Launch.los (l : Launch) (i : Nat) : Nat := if i = 0 then 0 else if l.nf ≤ i then l.tw else field l.fpos (7 * (i - 1)) 7
/-- Field i of an identifier. -/
def Launch.fieldOf (l : Launch) (id i : Nat) : Nat := field id (l.los i) (l.los (i + 1) - l.los i)
/-- Every field from `k` up to the field below `n` lies within its extent (R13, R323). -/
def Launch.within (l : Launch) (id k n : Nat) : Bool :=
  (List.range n).all (fun i => i < k || l.fieldOf id i ≤ l.fieldOf l.limit i)
/-- W, the waves of a block (R323). -/
def Launch.waves (l : Launch) : Nat := 2 ^ (l.los l.bb - 5)
/-- The role of wave `w` (R323). -/
def Launch.role (l : Launch) (w : Nat) : Nat :=
  let r (i : Nat) := l.f (712 + 6 * i) 6
  if r 0 + r 1 + r 2 + r 3 = 0 then 0
  else if w < r 0 then 0 else if w < r 0 + r 1 then 1 else if w < r 0 + r 1 + r 2 then 2 else 3

/-- The smallest block identifier, in work-identifier bits, at or above `b` whose fields from BB lie in their extents. -/
def Launch.upTo (l : Launch) (b : Nat) : Nat :=
  (List.range l.nf).foldl (fun b i =>
    if i < l.bb || l.fieldOf b i ≤ l.fieldOf l.limit i then b else (b / 2 ^ l.los (i + 1) + 1) * 2 ^ l.los (i + 1)) b

/-- The greatest at or below `b`. -/
def Launch.downTo (l : Launch) (b : Nat) : Nat :=
  (List.range l.nf).foldl (fun b i =>
    if i < l.bb || l.fieldOf b i ≤ l.fieldOf l.limit i then b
    else b / 2 ^ l.los (i + 1) * 2 ^ l.los (i + 1) + l.limit % 2 ^ l.los (i + 1)) b

/-- The next block index of a die at or above `b`, before the end of the launch's range (R323, R328). -/
def Launch.nextBlock (l : Launch) (die : Nat) : Nat → Nat → Option Nat
  | 0, _ => none
  | fuel + 1, b =>
    let b := b + (die + 4 - b % 4) % 4
    let c := l.upTo (b * 2 ^ l.los l.bb) / 2 ^ l.los l.bb
    if 2 ^ (l.tw - l.los l.bb) ≤ c then none
    else if c % 4 = die then some c else l.nextBlock die fuel c

/-- The last block index of a die at or below `b` (R329). -/
def Launch.prevBlock (l : Launch) (die : Nat) : Nat → Nat → Option Nat
  | 0, _ => none
  | fuel + 1, b =>
    if b < die then none
    else
      let b := b - (b - die) % 4
      let c := l.downTo (b * 2 ^ l.los l.bb) / 2 ^ l.los l.bb
      if c % 4 = die then some c else if c < 1 then none else l.prevBlock die fuel (c - 1)

/-- Its blocks and formed waves take frames of stacks: in a TRAVEL launch the travel stacks take the frames' place (R334, R387). -/
def Launch.framed (l : Launch) : Bool := l.stkn != 0 && !l.travel

/-- The thread's stack top (R323). -/
def Launch.stackTop (l : Launch) (frame w lane : Nat) : W64 :=
  if l.stkn = 0 then 0 else BitVec.ofNat 64 (l.stkbase + l.stksz * (frame * 32 * l.waves + 32 * w + lane + 1))

/-- TOP(v) − 8 of the travel stack (R387); 0 when STKSZ is 0. -/
def Launch.travelTop (l : Launch) (workid : W64) : W64 :=
  if l.stksz = 0 then 0 else BitVec.ofNat 64 (l.stkbase + l.stksz * (workid.toNat % 2 ^ l.tw + 1) - 8)

/-! ### The thread record (R174) -/

/-- Builds a record; `words` are the payload words from word 0. -/
def mkRec (addr tti workid slot kind : Nat) (idem : Bool) (prio pred : Nat) (words : List W32) : BitVec 512 :=
  BitVec.ofNat 512 (addr % 2 ^ 48 + 2 ^ 48 * (tti % 2 ^ 16) + 2 ^ 64 * (workid % 2 ^ 64) + 2 ^ 128 * (slot % 2 ^ 12) +
    2 ^ 140 * (kind % 16) + (if idem then 2 ^ 144 else 0) + 2 ^ 145 * (prio % 4) + 2 ^ 152 * (pred % 2 ^ 8) +
    2 ^ 160 * (words.foldr (fun w n => w.toNat + 2 ^ 32 * n) 0))

/-- ADDR. -/
def recAddr (r : BitVec 512) : Nat := field r.toNat 0 48
/-- TTI. -/
def recTti (r : BitVec 512) : Nat := field r.toNat 48 16
/-- WORKID. -/
def recWork (r : BitVec 512) : W64 := BitVec.ofNat 64 (field r.toNat 64 64)
/-- SLOT. -/
def recSlot (r : BitVec 512) : Nat := field r.toNat 128 12
/-- KIND. -/
def recKind (r : BitVec 512) : Nat := field r.toNat 140 4
/-- IDEM. -/
def recIdem (r : BitVec 512) : Bool := field r.toNat 144 1 = 1
/-- PRIO. -/
def recPrio (r : BitVec 512) : Nat := field r.toNat 145 2
/-- PRED, `p0` to `p6`. -/
def recPred (r : BitVec 512) : Nat := field r.toNat 152 7
/-- A payload word. -/
def recWord (r : BitVec 512) (i : Nat) : W32 := BitVec.ofNat 32 (field r.toNat (160 + 32 * i) 32)
/-- Records with equal (TTI, ADDR, SLOT) form one wave (R176). -/
def recKey (r : BitVec 512) : Nat := field r.toNat 0 64 + 2 ^ 64 * recSlot r
/-- A record read from memory is malformed: KIND 0 or 8 to 15, or a reserved bit (R174). DESIGN CHOICE (log 45): ADDR[1:0], PRED bit 7, and PRED of
a record that is no hop, count as reserved bits. -/
def recBad (r : BitVec 512) : Bool :=
  recKind r = 0 || 8 ≤ recKind r || field r.toNat 147 5 != 0 || field r.toNat 159 1 != 0 || field r.toNat 0 2 != 0 ||
    (recKind r != 4 && recPred r != 0)

/-- Bytes of a record, as memory holds it. -/
def recNat (r : BitVec 512) : Nat := r.toNat

/-! ### Sending -/

/-- Records in a core's Posy (R336). -/
def Device.posyCount (d : Device) (core : Nat) : Nat := ((d.forms.filter (·.core == core)).map (fun f => f.recs.length)).sum

/-- A core has an OFFER or BOUND entry for a launch slot (R332). -/
def Device.serves (d : Device) (core slot : Nat) : Bool :=
  d.binds.any (fun e => e.1 / 64 == core && (field e.2.toNat 126 2 == 1 || field e.2.toNat 126 2 == 3) && field e.2.toNat 112 12 == slot)

/-- A Posy that forms a wave of the record's key and has room (R336). -/
def Device.forming (d : Device) (core : Nat) (r : BitVec 512) : Bool :=
  d.forms.any (fun f => f.core == core && !f.released && f.recs.length < 32 && f.recs.any (fun q => recKey q == recKey r)) &&
    d.posyCount core < 256

/-- The core that the die distributor chooses for `SPAWN.ANY` (R336). -/
def Device.anyCore (d : Device) (core : Nat) (r : BitVec 512) : Nat :=
  let die := dieOf core
  let cs := ((List.range 72).map (· + 72 * die)).filter (fun c => d.serves c (recSlot r))
  let best := cs.filter (fun c => d.forming c r)
  let cs := if best.isEmpty then cs else best
  match cs with
  | [] => core
  | c :: cs => cs.foldl (fun b c => if d.posyCount c < d.posyCount b then c else b) c

/-- The core whose channel holds the address in payload words 0 and 1 (R201); none where R201 falls back to ANY. -/
def St.nearCore (s : St) (core asid : Nat) (r : BitVec 512) : Option Nat :=
  let va := (recWord r 0).toNat + 2 ^ 32 * (recWord r 1).toNat
  if 2 ^ 57 ≤ va then none
  else match s.translate (sliceOf core) asid va with
    | .ok (pa, _, _) => if isHost pa then none else channelOf (canonical pa)
    | .error _ => none

/-- The core of a TGT code: 0 LOCAL, 1 ANY, 2 NEAR (R201). -/
def St.targetCore (s : St) (core asid tgt : Nat) (r : BitVec 512) : Nat :=
  match tgt with
  | 0 => core
  | 2 => (s.nearCore core asid r).getD (s.d.anyCore core r)
  | _ => s.d.anyCore core r

/-- A record enters the send buffer: it leaves when the writes that the wave has made are acknowledged at package scope, the scope-local
copies of its context pushed, and its reads bound (R202, R281). -/
def St.send (s : St) (w tgt : Nat) (cold : Bool) (r : BitVec 512) : St :=
  (s.releaseOf (w / 64) (s.d.block (s.d.wave w).blk).asid 4).withD fun d =>
    let x := d.wave w
    { d with transit := d.transit ++ [⟨r, tgt, x.uid, x.wseq, x.opn, none, none, false, false, cold, d.clkVec (dieOf (w / 64)), w / 64, 0, false⟩] }

/-- What a record, or another thing that a wave leaves behind, waits for of its wave is over: earlier writes acknowledged, earlier reads bound,
nothing of its context left to push in its cluster (R202, R281). -/
def Device.leaves (d : Device) (uid need before : Nat) : Bool :=
  d.acked uid need && d.bound uid before &&
    (match d.byUid uid with
     | some (w, x) => d.pushed (w / 64) (d.block x.blk).asid
     | none => true)

/-- A thread ends by `EXIT`, `CONT`, `SPLIT` or a hop: it leaves every mask, its stacks are discarded (R101, R203). -/
def Wave.endLane (x : Wave) (l : Nat) : Wave :=
  (x.leaveMasks l).updThread l (fun t => { t with st := .done, hold := .meet, rs := [], ls := [] })

/-- Payload from the lane's registers: word i is `wi` where LIVE has bit i (R204, R389). DESIGN CHOICE (log 61): a register at or above the
allocation raises no fault there, and gives what it holds. -/
def livePayload (x : Wave) (l : Nat) (live : BitVec 11) : List W32 :=
  (List.range 11).map (fun i => if live.getLsbD i then x.reg l i else 0)

/-! ### The segment map (R382 to R388) -/

/-- The map as a launch's memory holds it at admission: AQT, NSEG and the entries, without PIN, NPIN, OVB and reserved bits, which Foxglove writes
(R5, R382, R384); none where it cannot be read. -/
def St.readMap (s : St) (asid slot : Nat) : Option (Nat × List Nat) :=
  let at' := (s.d.launch slot).segmap
  match s.ctxRead asid at' 64 with
  | none => none
  | some h =>
    let es := (List.range (field h 32 13)).foldr (fun i t => match t, s.ctxRead asid (at' + 64 + 32 * i) 32 with
      | some t, some e => some ((field e 0 96 + 2 ^ 177 * field e 177 3) :: t)
      | _, _ => none) (some [])
    es.map (fun es => (field h 0 9 + 2 ^ 32 * field h 32 13, es))

/-- The dies' copy of the map's entries (R383). -/
def Device.mapEntries (d : Device) (slot : Nat) : List Nat := ((d.launch slot).map.map (·.2)).getD []

/-- AQT of a TRAVEL launch (R382); 0 for another launch. -/
def Device.aqt (d : Device) (slot : Nat) : Nat := ((d.launch slot).map.map (fun m => field m.1 0 9)).getD 0

/-- The segment that holds an address, with its entry, in the dies' copy of the map (R382, R383). -/
def Device.segOf (d : Device) (slot a : Nat) : Option (Nat × Nat) :=
  let es := d.mapEntries slot
  ((List.range es.length).zip es).find? (fun p => field p.2 0 64 ≤ a && a < field p.2 0 64 + field p.2 64 32)

/-- NPIN of an entry. -/
def segPins (e : Nat) : List Nat := (List.range (min 8 (field e 180 4))).map (fun k => coreOfId (field e (184 + 9 * k) 9))

/-- The distance of R388. -/
def distance (x y : Nat) : Nat :=
  if x / 4 = y / 4 then 1 else if dieOf x = dieOf y && clusterOf x / 6 = clusterOf y / 6 then 2 else if dieOf x = dieOf y then 3 else 4

/-- The nearest of some cores, ties to the lowest core identifier. -/
def nearest (core : Nat) (cs : List Nat) : Option Nat :=
  match cs with
  | [] => none
  | c :: cs => some (cs.foldl (fun b c =>
      if distance core c < distance core b || (distance core c = distance core b && coreId c < coreId b) then c else b) c)

/-- Last reported occupancy of a core for a launch (R388). -/
def Device.occOf (d : Device) (core slot : Nat) : Nat := d.occ.get 0 (4096 * core + slot)

/-- The replica a hop goes to (R388): none for a cold segment. -/
def Device.replica (d : Device) (core slot aqt : Nat) (e : Nat) : Option Nat :=
  let pins := segPins e
  (nearest core (pins.filter (fun c => d.occOf c slot < aqt))).or (nearest core pins)

/-- The segment pinned on a core, for a TRAVEL launch: `sr.segment` when VALID. -/
def Device.pinnedOn (d : Device) (core : Nat) : Option Nat :=
  let v := d.segs.get 0 core
  if v.getLsbD 31 then some (v.toNat % 4096) else none

/-- Whether an address stays on the core: the core pins the launch's segment that holds it (R96, R383). -/
def Device.staysOn (d : Device) (core slot a : Nat) : Bool :=
  match d.segOf slot a with
  | some (_, e) => (segPins e).contains core
  | none => false

end Sys2Proof.Machine
end

