-- ==== Sys2Proof/Machine/Fetch.lean ====
section
/-! DEFINITION. Instruction fetch: fetch blocks of 192 bytes in the L0I of a quarter, the L1I of a core and the L2I of a die, kept until they are
replaced or invalidated (R160, R295), the word at an address and the failures of a fetch (R45, R306, R320). -/

namespace Sys2Proof.Machine

/-! ### The instruction stores -/

/-- Fetch blocks that a store of a level holds (R295). -/
def storeSize : Nat → Nat
  | 0 => 85
  | 1 => 1024
  | _ => 21845

/-- The block that a store holds. -/
def Device.iblock (d : Device) (level unit asid va : Nat) : Option IBlock :=
  d.iblocks.find? (fun b => b.level == level && b.unit == unit && b.asid == asid && b.va == va)

/-- A store takes a block; a full one gives up the block it took first. DESIGN CHOICE (log 46). -/
def Device.keepBlock (d : Device) (b : IBlock) : Device :=
  let mine := d.iblocks.filter (fun x => x.level == b.level && x.unit == b.unit)
  let rest := match (if storeSize b.level ≤ mine.length then mine.getLast? else none) with
    | some o => d.iblocks.filter (· != o)
    | none => d.iblocks
  { d with iblocks := b :: rest }

/-- Drops the blocks that hold an address from the stores a scope names (R160). -/
def Device.dropBlocks (d : Device) (core va scope : Nat) : Device :=
  let hit (x : IBlock) : Bool :=
    match x.level with
    | 0 => scope == 4 || (scope == 3 && dieOf (x.unit / 4) == dieOf core) || (scope == 1 && x.unit / 4 == core)
    | 1 => scope == 4 || (scope == 3 && dieOf x.unit == dieOf core) || (scope == 1 && x.unit == core)
    | _ => scope == 4 || (scope == 3 && x.unit == dieOf core)
  { d with iblocks := d.iblocks.filter (fun x => !(x.va == va / 192 * 192 && hit x)) }

/-! ### The L2 boundary -/

/-- Why a byte cannot be fetched across the L2 boundary of a slice: ERRKIND, 0 for a translation or permission failure (R295, R320, R350). -/
def St.fetchErr (s : St) (slice asid va : Nat) : Option Nat :=
  if 2 ^ 57 ≤ va then some 0
  else match s.translate slice asid va with
    | .error _ => some 0
    | .ok (pa, pte, _) =>
      if !permits pte .fetch then some 0
      else (s.readErr (if isHost pa then .host pa else .dev (canonical pa) pte)).map (·.toNat)

/-- The bytes of memory from an address as the L2 of the slice's die holds them. -/
def St.codeBytes (s : St) (slice asid va n : Nat) : List Byte :=
  (List.range n).map (fun k => match s.translate slice asid (va + k) with
    | .error _ => 0
    | .ok (pa, _, _) => if isHost pa then s.rd pa else s.rdDie (slice / 18) (canonical pa))

/-- Both ends of a block can be fetched. A block of which a page cannot be is kept nowhere, and each instruction of it is fetched on its own.
DESIGN CHOICE (log 46). -/
def St.keeps (s : St) (slice asid b : Nat) : Bool := (s.fetchErr slice asid b).isNone && (s.fetchErr slice asid (b + 191)).isNone

/-! ### Fills -/

/-- The L2I of the core's die takes a block (R104, R295). -/
def St.fillL2 (s : St) (core asid b : Nat) : St :=
  if (s.d.iblock 2 (dieOf core) asid b).isSome || !s.keeps (sliceOf core) asid b then s
  else
    let s := (s.cacheTlb (sliceOf core) asid b).cacheTlb (sliceOf core) asid (b + 191)
    s.withD (·.keepBlock ⟨2, dieOf core, asid, b, s.codeBytes (sliceOf core) asid b 192⟩)

/-- The L1I of a core takes a block from the L2I. -/
def St.fillL1 (s : St) (core asid b : Nat) : St :=
  if (s.d.iblock 1 core asid b).isSome then s
  else match s.d.iblock 2 (dieOf core) asid b with
    | some x => s.withD (·.keepBlock { x with level := 1, unit := core })
    | none => s

/-- A prefetch into the L2I and, unless `l2only` or a pinned segment takes the whole L1I, into the core's L1I (R104, R384). -/
def St.fillBlock (s : St) (core asid b : Nat) (l2only : Bool) : St :=
  let s := s.fillL2 core asid b
  if l2only || (s.d.pinnedOn core).isSome then s else s.fillL1 core asid b

/-- The fetch of a block for a wave: into the quarter's L0I, through the L1I unless a pinned segment that does not hold the instruction takes
it (R295, R384). -/
def St.fillFor (s : St) (w asid slot pc b : Nat) : St :=
  let core := w / 64
  let s :=
    if (s.d.iblock 1 core asid b).isSome then s
    else
      let s := s.fillL2 core asid b
      if (s.d.pinnedOn core).isNone || s.d.staysOn core slot pc then s.fillL1 core asid b else s
  match (s.d.iblock 1 core asid b).or (s.d.iblock 2 (dieOf core) asid b) with
  | some x => s.withD (·.keepBlock { x with level := 0, unit := w / 16 })
  | none => s

/-! ### The fetch of an instruction -/

/-- The blocks of the instruction at an address. -/
def blocksOf (pc : Nat) : List Nat := [pc / 192 * 192, (pc + 11) / 192 * 192].eraseDups

/-- The level at which the block is first found: 0 the quarter's L0I, 1 the L1I, 2 the L2I, 3 none. -/
def Device.foundAt (d : Device) (w asid b : Nat) : Nat :=
  if (d.iblock 0 (w / 16) asid b).isSome then 0
  else if (d.iblock 1 (w / 64) asid b).isSome then 1
  else if (d.iblock 2 (dieOf (w / 64)) asid b).isSome then 2 else 3

/-- The blocks of the instruction that are still to come into the quarter's L0I. -/
def St.missing (s : St) (w asid pc : Nat) : List Nat :=
  (blocksOf pc).filter (fun b =>
    let f := s.d.foundAt w asid b
    f != 0 && (f != 3 || s.keeps (sliceOf (w / 64)) asid b))

/-- Why the byte at an address cannot be fetched: a block that a store holds has passed its checks (R295). -/
def St.byteErr (s : St) (w asid va : Nat) : Option Nat :=
  if s.d.foundAt w asid (va / 192 * 192) = 3 then s.fetchErr (sliceOf (w / 64)) asid va else none

/-- Why the instruction at an address cannot be fetched. -/
def St.instrErr (s : St) (w asid pc : Nat) : Option Nat := (s.byteErr w asid pc).or (s.byteErr w asid (pc + 11))

/-- One byte of code as a wave fetches it: from its quarter's L0I, else across the L2 boundary. -/
def St.codeByte (s : St) (w asid va : Nat) : Byte :=
  let b := va / 192 * 192
  match s.d.iblock 0 (w / 16) asid b with
  | some x => x.bytes.getD (va - b) 0
  | none => (s.codeBytes (sliceOf (w / 64)) asid va 1).headD 0

/-- The word at an address, as a wave fetches it. -/
def St.codeWord (s : St) (w asid pc : Nat) : BitVec 96 := wordOfBytes ((List.range 12).map (fun k => s.codeByte w asid (pc + k)))

/-- The translation of a byte that the quarter's L0I does not hold stays cached (R304). -/
def St.touchCode (s : St) (w asid va : Nat) : St :=
  if s.d.foundAt w asid (va / 192 * 192) = 0 then s else s.cacheTlb (sliceOf (w / 64)) asid va

/-- The fetch of the instruction at an address: an ERRKIND when one of its bytes fails, else its word. -/
def St.fetch (s : St) (w asid pc : Nat) : Except Nat (BitVec 96 × St) :=
  match s.instrErr w asid pc with
  | some k => .error k
  | none => .ok (s.codeWord w asid pc, (s.touchCode w asid pc).touchCode w asid (pc + 11))

/-- The token on which the next instruction of a wave waits, by its wait hint or as a `WAITK`, whether or not its turn has come (R194, R338). -/
def St.tokenWait (s : St) (w : Nat) : Option Nat :=
  let x := s.d.wave w
  let asid := (s.d.block x.blk).asid
  match (x.landAt 0).choose with
  | none => none
  | some (g, y) =>
    let pc := (y.thread (lowest g)).pc.toNat
    if (s.instrErr w asid pc).isSome then none
    else
      let word := s.codeWord w asid pc
      let h := Ctl.of (Fields.of word).g (Fields.of word).h
      match (y.hint h).1 with
      | some (k, _) => some k
      | none => match decode word with
        | .ok (.waitk h a n) =>
          if (lanesOf g).any (fun l => y.pred l h.pred.toNat != h.neg) && n.toNat < (y.tok a.o.idx).count then some a.o.idx else none
        | _ => none

end Sys2Proof.Machine
end

