-- ==== Sys2Proof/Machine/Control.lean ====
section
/-! DEFINITION. Control flow: transfers, calls and returns with the return stack (R20 to R23), hops (R96, R388), loops, traps (R91 to
R106, R349). -/

namespace Sys2Proof.Machine

/-- The lanes of a mask, as a mask of a list. -/
def maskOfList (ls : List Nat) : Lanes := maskLanes (fun l => ls.contains l)

/-- A fault in CTRL format (R350). -/
def ctrlRes (cause : Nat) (v0 : W64) (lanes : Lanes) (detail : Nat) : Res :=
  .trap cause v0 (BitVec.ofNat 64 (lanes.toNat + 2 ^ 32 * detail)) 0 0

/-- The first lane that fails, and every lane that fails by its cause. -/
def firstBad {α : Type} (bad : List (Nat × α)) (cause : α → Nat) : Option (Nat × α × Lanes) :=
  match bad with
  | [] => none
  | (l, e) :: _ => some (l, e, maskOfList ((bad.filter (fun b => cause b.2 == cause e)).map (·.1)))

/-- Why a push or a pop cannot be made: a stack fault, or a fault of its access with its ERRKIND. -/
structure StackErr where
  ctl : Bool
  m : MErr
  ea : W64
  a : Acc
  kind : Nat

/-- Its cause. -/
def StackErr.cause (e : StackErr) : Nat := e.m.cause

/-- The failures in the order of their checks: those of the stack itself, in any lane, before those of its memory accesses (R7, R95). -/
def byCheck (bad : List (Nat × StackErr)) : List (Nat × StackErr) := bad.filter (·.2.ctl) ++ bad.filter (!·.2.ctl)

/-- The fault (R350): CTRL with `sr.stkptr`, or MEM. -/
def StackErr.res (e : StackErr) (lanes : Lanes) : Res :=
  if e.ctl then ctrlRes e.m.cause e.ea lanes 0 else memRes e.m e.ea e.a lanes e.kind

/-- The 8-byte access of a spill, a refill or a stack word: its place, or what stops it (R21). -/
def St.stackAcc (s : St) (i : Iss) (ea : W64) (a : Acc) : Except StackErr Place :=
  match s.check i.blk ea 8 8 a true with
  | .error m => .error ⟨false, m, ea, a, 0⟩
  | .ok p =>
    let err := match a with
      | .read => s.readErr p
      | _ => s.writeErr p
    match err with
    | some k => .error ⟨false, .plain 29, ea, a, k.toNat⟩
    | none => .ok p

/-- The store that a push makes: none when the entry goes on chip only (R21, R23). -/
def St.pushPlace (s : St) (i : Iss) (travel : Bool) (t : Thread) : Except StackErr (Option Place) :=
  let full := t.rs.length = 4
  if (travel || full) && t.rsd = BitVec.allOnes 16 then .error ⟨true, .plain 19, t.stkptr, .write, 0⟩
  else if travel || full then (s.stackAcc i (t.stkptr - 8) .write).map some
  else .ok none

/-- The load that a pop makes: none when the entry is on chip. -/
def St.popPlace (s : St) (i : Iss) (t : Thread) : Except StackErr (Option Place) :=
  if !t.rs.isEmpty then .ok none
  else if t.rsd = 0 then .error ⟨true, .plain 20, t.stkptr, .read, 0⟩
  else (s.stackAcc i t.stkptr .read).map some

/-- PUSH, its spill made (R21, R23). -/
def St.pushLane (s : St) (i : Iss) (travel : Bool) (l : Nat) (ra : W64) : St :=
  let t := (s.d.wave i.w).thread l
  let full := t.rs.length = 4
  let t := { t with rs := (ra :: t.rs).take 4 }
  let t := if travel || full then { t with stkptr := t.stkptr - 8, rsd := t.rsd + 1 } else t
  s.withD (fun d => d.setWave i.w ((d.wave i.w).setThread l t))

/-- POP (R21 to R23): the address popped. -/
def St.popLane (s : St) (i : Iss) (travel : Bool) (l : Nat) (p : Option Place) : W64 × St :=
  let t := (s.d.wave i.w).thread l
  let r := match p with
    | some p => s.load i.core p 8
    | none => ((t.rs.headD 0).toNat, s)
  let t' := { t with rs := t.rs.drop 1 }
  let t' := if travel || t.rs.isEmpty then { t' with stkptr := t.stkptr + 8, rsd := t.rsd - 1 } else t'
  (BitVec.ofNat 64 r.1, r.2.withD (fun d => d.setWave i.w ((d.wave i.w).setThread l t')))

/-- The value that a pop would give, without popping. -/
def St.popValue (s : St) (i : Iss) (t : Thread) (p : Option Place) : W64 :=
  match p with
  | some p => BitVec.ofNat 64 (s.load i.core p 8).1
  | none => t.rs.headD 0

/-- LOOP_EXIT (R94); `ls` innermost first. -/
def loopExit (t : Addr) : List Loop → List Loop
  | [] => []
  | x :: r => if x.start.toNat ≤ t.toNat && t.toNat ≤ x.stop.toNat then x :: r else loopExit t r

/-- A control transfer. -/
inductive Xfer where
  | branch | call | ret
deriving DecidableEq, Repr

/-- Tokens with a nonzero count. -/
def Wave.busyToks (x : Wave) : List Nat := (List.range 16).filter (fun k => (x.tok k).count != 0)

/-- The lane's target: bits 63:57 stay for the check of R92. -/
abbrev Target := Iss → Wave → Nat → W64

/-- A hop of one lane (R96, R387, R389): the stack word, the record, the end of the lane. -/
def St.hopLane (s : St) (i : Iss) (live : BitVec 11) (l : Nat) (t : Addr) (word : Option Place) : St :=
  let x := s.d.wave i.w
  let th := x.thread l
  let b := s.d.block i.blk
  let s := match word with
    | some p => (s.storeAll i.core [(p, 8, th.stkptr.toNat)]).countWrites i.w [(th.stkptr.toNat, p)]
    | none => s
  let pred := (List.range 7).foldl (fun n k => if x.pred l k then n + 2 ^ k else n) 0
  let r := mkRec t.toNat 0 th.workid.toNat i.slot 4 b.idem b.prio pred (livePayload x l live)
  let tgt := match s.d.segOf i.slot t.toNat with
    | some (_, e) => s.d.replica i.core i.slot (s.d.aqt i.slot) e
    | none => none
  let s := s.send i.w (tgt.getD i.core) tgt.isNone r
  s.withD fun d => (d.setWave i.w ((d.wave i.w).endLane l)).pmc i.asid i.core 12 1

/-- The stack access of a lane's transfer: a call pushes, a return pops (R95). -/
def St.xferAcc (s : St) (i : Iss) (k : Xfer) (travel : Bool) (t : Thread) : Except StackErr (Option Place) :=
  match k with
  | .branch => .ok none
  | .call => s.pushPlace i travel t
  | .ret => s.popPlace i t

/-- Where a lane goes: its target, or the address that it pops, with bits 1:0 cleared (R92, R95). -/
def St.xferTo (s : St) (i : Iss) (x : Wave) (k : Xfer) (target : Target) (p : Nat → Option Place) (l : Nat) : Addr :=
  addrOf (if k = .ret then s.popValue i (x.thread l) (p l) else target i x l)

/-- The lanes that hop (R96, R388). -/
def St.hopsOf (s : St) (i : Iss) (tgt : Nat → Addr) : List Nat :=
  if (s.d.launch i.slot).travel then (lanesOf i.act).filter (fun l => !s.d.staysOn i.core i.slot (tgt l).toNat) else []

/-- Where a hopping lane leaves its stack word (R387). -/
def St.hopWord (s : St) (i : Iss) (x : Wave) (l : Nat) : Except StackErr (Option Place) :=
  let n := s.d.launch i.slot
  if n.stksz = 0 then .ok none else (s.stackAcc i (n.travelTop (x.thread l).workid) .write).map some

/-- The pushes or pops of a transfer. -/
def St.xferStack (s : St) (i : Iss) (k : Xfer) (travel : Bool) (p : Nat → Option Place) : St :=
  (lanesOf i.act).foldl (fun s l => match k with
    | .branch => s
    | .call => s.pushLane i travel l ((i.ba + 12).setWidth 64)
    | .ret => (s.popLane i travel l (p l)).2) s

/-- The lanes of a branch leave the loops that their targets lie outside of (R94). -/
def Wave.unloop (x : Wave) (m : Lanes) (tgt : Nat → Addr) : Wave :=
  (lanesOf m).foldl (fun x l => x.updThread l (fun t => { t with ls := (loopExit (tgt l) t.ls.reverse).reverse })) x

/-- The effect of a transfer: the pushes or pops, the hops, the loops left. -/
def St.xferDo (s : St) (i : Iss) (k : Xfer) (live : BitVec 11) (tgt : Nat → Addr) (p w : Nat → Option Place) : St :=
  let s1 := s.xferStack i k (s.d.launch i.slot).travel p
  let s2 := (s.hopsOf i tgt).foldl (fun s l => s.hopLane i live l (tgt l) (w l)) s1
  if k = .branch then s2.withD (fun d => d.setWave i.w ((d.wave i.w).unloop i.act tgt)) else s2

/-- The lanes whose target is no code address (R92). -/
def farLanes (i : Iss) (x : Wave) (k : Xfer) (target : Target) : List Nat :=
  if k = .ret then [] else (lanesOf i.act).filter (fun l => 2 ^ 57 ≤ (target i x l).toNat)

/-- A token that a return waits for in vain (R95). -/
def lateTok (i : Iss) (x : Wave) (k : Xfer) : Option Nat :=
  if k = .ret && i.act != 0 then (List.range 16).find? (fun k => 8 ≤ k && (x.tok k).count != 0) else none

/-- What a push stores: E3, or in TRAVEL mode the return address (R21, R23). -/
def spillVal (i : Iss) (travel : Bool) (t : Thread) : W64 := if travel then (i.ba + 12).setWidth 64 else t.rs.getLastD 0

/-- The stores of the pushes: lane, address, place, value. -/
def spillsOf (i : Iss) (x : Wave) (k : Xfer) (travel : Bool) (p : Nat → Option Place) : List (Nat × Nat × Place × Nat) :=
  if k = .call then (lanesOf i.act).filterMap (fun l => (p l).map (fun q =>
    (l, ((x.thread l).stkptr - 8).toNat, q, (spillVal i travel (x.thread l)).toNat)))
  else []

/-- Stores as a spill keeps them. -/
def spillKeys (ws : List (Nat × Nat × Place × Nat)) : List (Nat × Nat) := ws.map (fun w => (w.2.1, w.2.2.2))

/-- The spill stores are made, and the call waits for their acknowledgement (R21). -/
def St.spillDo (s : St) (i : Iss) (ws : List (Nat × Nat × Place × Nat)) : St :=
  let n := (s.d.wave i.w).wseq
  ((s.storeAll i.core (ws.map (fun w => (w.2.2.1, 8, w.2.2.2)))).countWrites i.w (ws.map (fun w => (w.2.1, w.2.2.1)))).withD fun d =>
    d.setWave i.w { d.wave i.w with spill := some ⟨spillKeys ws, n, n + ws.length, []⟩ }

/-- A CALL THAT SPILLS (R21): it makes its stores and waits until each is acknowledged; then it issues, or takes the pre-issue access error of
those that the Dunvia Link has lost. -/
def St.spillFirst (s : St) (i : Iss) (x : Wave) (ws : List (Nat × Nat × Place × Nat)) (go : Res) : Res :=
  if ws.isEmpty then go
  else match x.spill.filter (·.ws == spillKeys ws) with
    | none => .hold (s.spillDo i ws) .spill
    | some p => match ws.filter (fun w => p.lost.contains w.2.1) with
      | [] => go
      | w :: r => (StackErr.mk false (.plain 29) (BitVec.ofNat 64 w.2.1) .write 2).res (maskOfList ((w :: r).map (·.1)))

/-- The stack accesses that lanes of a transfer make: each is an access of its lane, which later and earlier ones order (R21, R271, R275). -/
def stackPlaces (st : List (Nat × Except StackErr (Option Place))) : List (Nat × Place) :=
  (successes st).filterMap (fun p => p.2.map (fun q => (p.1, q)))

/-- A transfer whose stack accesses the load-store unit would hold waits before its issue. -/
def St.stackFirst (s : St) (i : Iss) (x : Wave) (k : Xfer) (ps : List (Nat × Place)) (go : Res) : Res :=
  if ps.isEmpty then go
  else s.boundFirst i x (fun l => let a := (x.thread l).stkptr; if k = .call then a - 8 else a) 8 ps go

/-- `CALL`, `CALLX` and `RET` are taken when any lane is active (R93). -/
def alwaysTaken (opc : BitVec 12) : Bool := opc = 0x043 || opc = 0x045 || opc = 0x046

/-- The transfers of R92 to R96: the checks of every active lane, then the pushes or pops, then the new PCs. -/
def transfer (opc : BitVec 12) (h : Ctl) (srcs : List (Nat × Nat × Bool)) (k : Xfer) (live : BitVec 11) (target : Target)
    (s : State) : Host.Outcome State Fault Refusal :=
  issue opc h { Req.none with srcs := srcs } (fun i s =>
    let x := s.d.wave i.w
    match farLanes i x k target with
    | l :: ls => ctrlRes 18 (target i x l) (maskOfList (l :: ls)) 0
    | [] =>
      match lateTok i x k with
      | some t => .trap 6 (tokV x t none).1 0 0 0
      | none =>
        let st := (lanesOf i.act).map (fun l => (l, s.xferAcc i k (s.d.launch i.slot).travel (x.thread l)))
        match firstBad (byCheck (failures st)) StackErr.cause with
        | some (_, e, m) => e.res m
        | none =>
          let p := gotten none st
          let tgt := s.xferTo i x k target p
          let hops := s.hopsOf i tgt
          if !hops.isEmpty && (!x.busyToks.isEmpty || x.pend != 0) then
            ctrlRes 22 0 (maskOfList hops) (maskOfList x.busyToks).toNat
          else
            match hops.filter (fun l => (s.d.segOf i.slot (tgt l).toNat).isNone) with
            | l :: ls => ctrlRes 18 ((tgt l).setWidth 64) (maskOfList (l :: ls)) 0
            | [] =>
              let words := hops.map (fun l => (l, s.hopWord i x l))
              match firstBad (failures words) StackErr.cause with
              | some (_, e, m) => e.res m
              | none =>
                s.stackFirst i x k (stackPlaces st ++ stackPlaces words) (s.spillFirst i x (spillsOf i x k (s.d.launch i.slot).travel p)
                  (.ok { Eff.plain (s.xferDo i k live tgt p (gotten none words)) with
                    next := fun l => some (tgt l), pos := if alwaysTaken opc && i.act ≠ 0 then 3 else 1 }))) s

/-- BA + 4 × SX(DISP30, 64) (R53). -/
def dispTarget (disp : BitVec 30) : Target := fun i _ _ => i.ba.setWidth 64 + 4 * disp.signExtend 64

/-- BA + 4 × SX(DISP60, 64), 64 bits (R53). -/
def dispTargetL (disp : BitVec 60) : Target := fun i _ _ => i.ba.setWidth 64 + 4 * disp.signExtend 64

/-- x[A] (R92). -/
def regTarget (a : Src) : Target := fun _ x l => a.x x l

/-- `BRA` (R92, R94). -/
def execBra (h : Ctl) (disp : BitVec 30) (live : BitVec 11) (s : State) : Host.Outcome State Fault Refusal :=
  transfer 0x040 h [] .branch live (dispTarget disp) s

/-- `BRL` (R92, R94). -/
def execBrl (h : Ctl) (disp : BitVec 60) (s : State) : Host.Outcome State Fault Refusal :=
  transfer 0x041 h [] .branch (BitVec.allOnes 11) (dispTargetL disp) s

/-- `BRX` (R92, R94). -/
def execBrx (h : Ctl) (a : Src) (live : BitVec 11) (s : State) : Host.Outcome State Fault Refusal :=
  transfer 0x042 h (a.rng 2) .branch live (regTarget a) s

/-- `CALL` (R92, R95). -/
def execCall (h : Ctl) (disp : BitVec 30) (live : BitVec 11) (s : State) : Host.Outcome State Fault Refusal :=
  transfer 0x043 h [] .call live (dispTarget disp) s

/-- `CALLL` (R92, R95). -/
def execCalll (h : Ctl) (disp : BitVec 60) (s : State) : Host.Outcome State Fault Refusal :=
  transfer 0x044 h [] .call (BitVec.allOnes 11) (dispTargetL disp) s

/-- `CALLX` (R92, R95). -/
def execCallx (h : Ctl) (a : Src) (live : BitVec 11) (s : State) : Host.Outcome State Fault Refusal :=
  transfer 0x045 h (a.rng 2) .call live (regTarget a) s

/-- `RET` (R92, R95). -/
def execRet (h : Ctl) (live : BitVec 11) (s : State) : Host.Outcome State Fault Refusal :=
  transfer 0x046 h [] .ret live (fun _ _ _ => 0) s

/-- Changes the threads of the active lanes. -/
def onLanes (s : St) (i : Iss) (f : Thread → Thread) : St :=
  s.withD (fun d => d.setWave i.w ((d.wave i.w).updLanes i.act f))

/-- `EXIT` (R101). -/
def execExit (h : Ctl) (s : State) : Host.Outcome State Fault Refusal :=
  issue 0x047 h Req.none (fun i s =>
    .ok (Eff.plain (s.withD (fun d => d.setWave i.w ((lanesOf i.act).foldl (fun x l => x.endLane l) (d.wave i.w)))))) s

/-- `LOOP` (R97). -/
def execLoop (h : Ctl) (a : Src) (len : BitVec 20) (s : State) : Host.Outcome State Fault Refusal :=
  issue 0x048 h { Req.none with srcs := a.rng 1 } (fun i s =>
    let x := s.d.wave i.w
    let full := (lanesOf i.act).filter (fun l => (x.thread l).ls.length = 4)
    if !full.isEmpty then ctrlRes 21 0 (maskOfList full) 0
    else
      let stop := i.ba + 12 + 12 * len.setWidth 57
      let y := (lanesOf i.act).foldl (fun y l =>
        if a.w x l = 0 then y else y.updThread l (fun t => { t with ls := t.ls ++ [⟨i.ba + 12, stop, a.w x l⟩] })) x
      .ok { Eff.plain (s.withD (·.setWave i.w y)) with
        next := fun l => if a.w x l = 0 then some (stop + 12) else some (i.ba + 12) }) s

/-- `LBRK` (R100). -/
def execLbrk (h : Ctl) (n : BitVec 3) (s : State) : Host.Outcome State Fault Refusal :=
  issue 0x049 h Req.none (fun i s => .ok (Eff.plain (onLanes s i (fun t => { t with ls := t.ls.take (t.ls.length - n.toNat) })))) s

/-- `DLY` (R56, R102). -/
def execDly (h : Ctl) (n : BitVec 6) (s : State) : Host.Outcome State Fault Refusal :=
  issue 0x04A h Req.none (fun _ s => .ok { Eff.plain s with pos := n.toNat }) s

/-- `NOP` (R102). -/
def execNop (h : Ctl) (s : State) : Host.Outcome State Fault Refusal :=
  issue 0x04B h Req.none (fun _ s => .ok (Eff.plain s)) s

/-- `YIELD` (R103). -/
def execYield (h : Ctl) (s : State) : Host.Outcome State Fault Refusal :=
  issue 0x04C h Req.none (fun i s => .ok { Eff.plain s with yields := i.act != 0 }) s

/-- `IPREF` (R104): the blocks enter the instruction stores. -/
def execIpref (h : Ctl) (a : Src) (ofs : BitVec 16) (nb : BitVec 8) (lvl : BitVec 2) (s : State) : Host.Outcome State Fault Refusal :=
  issue 0x04D h { Req.none with srcs := a.rng 2 } (fun i s =>
    let x := s.d.wave i.w
    .ok (Eff.plain ((lanesOf i.act).foldl (fun s l =>
      let base := (a.ea ofs x l).toNat / 192 * 192
      (List.range (nb.toNat + 1)).foldl (fun s k => s.fillBlock i.core i.asid (base + 192 * k) (lvl == 1)) s) s))) s

/-- `TRAP` (R105). -/
def execTrap (h : Ctl) (code : BitVec 16) (s : State) : Host.Outcome State Fault Refusal :=
  issue 0x04E h Req.none (fun i s => .ok { Eff.plain s with post := if i.act = 0 then none else some (32, code) }) s

/-- `BKPT` (R105). -/
def execBkpt (h : Ctl) (code : BitVec 16) (s : State) : Host.Outcome State Fault Refusal :=
  issue 0x050 h Req.none (fun i s => .ok { Eff.plain s with post := if i.act = 0 then none else some (33, code) }) s

/-- `SYSC` (R105, R425). -/
def execSysc (h : Ctl) (code : BitVec 16) (s : State) : Host.Outcome State Fault Refusal :=
  issue 0x051 h Req.none (fun i s => .ok { Eff.plain s with post := if i.act = 0 then none else some (34, code) }) s

/-- `ERET`: THE RETURN FROM A HANDLER (R106, R349). -/
def execEret (h : Ctl) (s : State) : Host.Outcome State Fault Refusal :=
  issue 0x04F h Req.none (fun i s =>
    let x := s.d.wave i.w
    if i.act = 0 then .ok (Eff.plain s)
    else if x.frame.isNone then ctrlRes 40 0 i.act 0
    -- the wave holds, and its results land, until the handler's pipe is empty
    else if !x.pipe.isEmpty then .hold (s.withD (·.setWave i.w (x.advance 8))) .ready
    else
      match s.stackAcc i (x.fault + 24) .read with
      | .error e => e.res i.act
      | .ok p =>
        let r := s.load i.core p 8
        -- the load sees the handler's earlier stores, of any of its lanes (R271)
        s.boundFirst i x (fun _ => x.fault + 24) 8 ((lanesOf ((x.frame.map (·.lanes)).getD 0)).map (fun l => (l, p)))
          (.ok { Eff.plain r.2 with leave := some ((BitVec.ofNat 64 r.1 &&& ~~~3#64).setWidth 57) })) s

end Sys2Proof.Machine
end

