-- ==== Sys2Proof/Machine/Lane.lean ====
section
/-! DEFINITION. Lane exchange, `WFENCE`, masks and tokens (R178 to R197). -/

namespace Sys2Proof.Machine

/-- The pattern of a source of one register or a pair. -/
def rawVal (a : Src) (ty : BitVec 3) (x : Wave) (l : Nat) : Nat := if ty.toNat < 6 then (a.w x l).toNat else (a.x x l).toNat

/-- A lane instruction: every lane's result from the sources of all active lanes, 6 positions later (R179). -/
def laneOp (opc : BitVec 12) (h : Ctl) (d : Opnd) (n : Nat) (srcs : List (List (Nat × Nat × Bool)))
    (f : Iss → Wave → Nat → Nat) (s : State) : Host.Outcome State Fault Refusal :=
  issue opc h (req (d.rng n) srcs) (fun i t =>
    let x := t.d.wave i.w
    .ok { Eff.plain t with out := .fixed 6 (d.dest n) (valsOf i.act (f i x)) }) s

/-- The source lane of `SHFL` (R180): MODE 0 IDX, 1 ASC, 2 DSC, 3 XOR, in segments of w lanes. -/
def shflLane (mode w l j : Nat) : Nat :=
  let s := l - l % w
  match mode with
  | 0 => s + j % w
  | 1 => if w ≤ j || l < s + j then l else l - j
  | 2 => if w ≤ j || s + w ≤ l + j then l else l + j
  | _ => s + ((l - s) ^^^ (j % w))

/-- `SHFL` (R180). -/
def execShfl (h : Ctl) (d : Opnd) (a b : Src) (ty : BitVec 3) (seg : BitVec 3) (mode : BitVec 2) (s : State) :
    Host.Outcome State Fault Refusal :=
  laneOp 0x280 h d (intN ty) [a.rng (intN ty), b.rng 1]
    (fun i x l =>
      let k := shflLane mode.toNat (2 ^ seg.toNat) l (b.w x l).toNat
      rawVal a ty x (if i.act.getLsbD k then k else l)) s

/-- `VOTE` (R181). -/
def execVote (h : Ctl) (d : Opnd) (a : Src) (cnt neg : Bool) (mode : BitVec 2) (s : State) : Host.Outcome State Fault Refusal :=
  laneOp 0x281 h d 1 []
    (fun i x _ =>
      let q (l : Nat) : Bool := a.o.valP x l != neg
      let v := lanesOf i.act
      match mode.toNat with
      | 0 => if cnt then (v.filter q).length else (maskOfList (v.filter q)).toNat
      | 1 => bitVal (v.all q)
      | 2 => bitVal (v.any q)
      | _ => bitVal (v.all q || v.all (fun l => !q l))) s

/-- `MATCH` (R182). -/
def execMatchLanes (h : Ctl) (d : Opnd) (a : Src) (ty : BitVec 3) (s : State) : Host.Outcome State Fault Refusal :=
  laneOp 0x282 h d 1 [a.rng (intN ty)]
    (fun i x l => (maskOfList ((lanesOf i.act).filter (fun k => rawVal a ty x k == rawVal a ty x l))).toNat) s

/-- One step of `REDUX`: 0 ADD, 1 MIN, 2 MAX, 3 AND, 4 OR, 5 XOR (R183). -/
def reduxOp (rop : Nat) (p q : Int) : Int :=
  match rop with
  | 0 => p + q
  | 1 => min p q
  | 2 => max p q
  | 3 => bitAnd p q
  | 4 => bitOr p q
  | _ => bitXor p q
where
  bitAnd (p q : Int) : Int := ((p % 2 ^ 64).toNat &&& (q % 2 ^ 64).toNat : Nat)
  bitOr (p q : Int) : Int := ((p % 2 ^ 64).toNat ||| (q % 2 ^ 64).toNat : Nat)
  bitXor (p q : Int) : Int := ((p % 2 ^ 64).toNat ^^^ (q % 2 ^ 64).toNat : Nat)

/-- `REDUX` (R183). -/
def execRedux (h : Ctl) (d : Opnd) (a : Src) (ty : BitVec 3) (rop : BitVec 3) (s : State) : Host.Outcome State Fault Refusal :=
  laneOp 0x283 h d (intN ty) [a.rng (intN ty)]
    (fun i x _ =>
      match lanesOf i.act with
      | [] => 0
      | l :: ls => intRes ty false (ls.foldl (fun v k => reduxOp rop.toNat v (a.int x k ty)) (a.int x l ty))) s

/-- `WFENCE` (R184): the wave waits until its earlier reads are complete; and its writes performed. -/
def execWfence (h : Ctl) (s : State) : Host.Outcome State Fault Refusal :=
  issue 0x284 h Req.none (fun i s =>
    if i.act ≠ 0 && !s.d.wfenceReady i.w then .hold s .wfence else .ok (Eff.plain s)) s

/-! ### Masks -/

/-- Changes the wave that issues. -/
def onWave (s : St) (i : Iss) (f : Wave → Wave) : St := s.withD (fun d => d.setWave i.w (f (d.wave i.w)))

/-- `MJOIN` (R185, R187). DESIGN CHOICE (log 61): a meet address with bits 63:48 nonzero raises its fetch fault before a mask conflict. -/
def execMjoin (h : Ctl) (d : Opnd) (disp : BitVec 20) (s : State) : Host.Outcome State Fault Refusal :=
  issue 0x2C0 h Req.none (fun i s =>
    let x := s.d.wave i.w
    let meet : W64 := i.ba.setWidth 64 + 4 * disp.signExtend 64
    let m := x.mask d.idx
    if i.act = 0 then .ok (Eff.plain s)
    else if 2 ^ 48 ≤ meet.toNat then ctrlRes 18 meet i.act 0
    else if m.lanes ≠ 0 && m.meet != meet then ctrlRes 24 0 i.act d.idx
    else .ok (Eff.plain (onWave s i (fun x => x.setMask d.idx ⟨m.lanes ||| i.act, meet⟩)))) s

/-- `MLEAVE` (R188). -/
def execMleave (h : Ctl) (set : BitVec 12) (s : State) : Host.Outcome State Fault Refusal :=
  issue 0x2C1 h Req.none (fun i s =>
    .ok (Eff.plain (onWave s i (fun x => (List.range 12).foldl (fun x k =>
      if set.getLsbD k then let m := x.mask k; x.setMask k { m with lanes := m.lanes &&& ~~~i.act } else x) x)))) s

/-- `MWAIT` (R189). -/
def execMwait (h : Ctl) (a : Src) (s : State) : Host.Outcome State Fault Refusal :=
  issue 0x2C2 h Req.none (fun i s =>
    .ok (Eff.plain (onWave s i (fun x =>
      x.updLanes (i.act &&& (x.mask a.o.idx).lanes) (fun t => { t with st := .held, hold := .mwait a.o.idx }))))) s

/-- A mask as a result. -/
def Mask.val (m : Mask) : Nat := m.lanes.toNat + 2 ^ 32 * m.meet.toNat

/-- `MMOV` (R190): MODE 0 COPY, 1 MEET, 2 SET, with the sources of the lowest active lane. -/
def execMmov (h : Ctl) (d : Opnd) (a : Src) (b : Option Src) (mode : BitVec 2) (s : State) : Host.Outcome State Fault Refusal :=
  issue 0x2C3 h { Req.none with srcs := if mode.toNat = 2 then a.rng 1 ++ srcRng b 2 else [], dsts := d.rng 2 } (fun i s =>
    let x := s.d.wave i.w
    let l := lowest i.act
    let v :=
      if mode.toNat = 0 then (x.mask a.o.idx).val
      else if mode.toNat = 1 then (x.mask a.o.idx).meet.toNat
      else
        let lanes := a.w x l &&& x.alive
        if lanes = 0 then 0 else (Mask.mk lanes ((b.map (fun b => b.x x l &&& 0x0000FFFFFFFFFFFC#64)).getD 0)).val
    .ok { Eff.plain s with out := .fixed 2 (d.dest 2) (valsOf i.act (fun _ => v)) }) s

/-- `MSYNC` (R191). -/
def execMsync (h : Ctl) (a : Src) (s : State) : Host.Outcome State Fault Refusal :=
  issue 0x2C4 h { Req.none with srcs := a.rng 1 } (fun i s =>
    let x := s.d.wave i.w
    let lm (l : Nat) : Lanes := a.w x l &&& x.alive
    let bad := (lanesOf i.act).filter (fun l =>
      !(lm l).getLsbD l ||
        (lanesOf i.act).any (fun k => lm k != lm l && lm k &&& lm l != 0) ||
        (lanesOf (lm l)).any (fun k => match (x.thread k).st, (x.thread k).hold with
          | .held, .msync m => m != lm l
          | _, _ => false))
    if !bad.isEmpty then ctrlRes 24 0 (maskOfList bad) 0
    else .ok (Eff.plain (onWave s i (fun x =>
      (lanesOf i.act).foldl (fun y l => y.updThread l (fun t => { t with st := .held, hold := .msync (lm l) })) x)))) s

/-! ### Tokens -/

/-- `WAITK` (R194). -/
def execWaitk (h : Ctl) (a : Src) (n : BitVec 6) (s : State) : Host.Outcome State Fault Refusal :=
  issue 0x340 h Req.none (fun i s =>
    let x := s.d.wave i.w
    let k := a.o.idx
    if i.act = 0 then .ok (Eff.plain s)
    else if n.toNat < (x.tok k).count then .hold s (.token k n.toNat)
    else if (x.tok k).err then let v := tokV x k (x.tok k).det; .trap 7 v.1 v.2.1 v.2.2.1 v.2.2.2
    else .ok (Eff.plain s)) s

/-- The value of `TKRD` (R195). -/
def Wave.tokBits (x : Wave) : Nat :=
  (List.range 16).foldl (fun n k => n + (if (x.tok k).err then 2 ^ k else 0) + (if (x.tok k).count ≠ 0 then 2 ^ (16 + k) else 0)) 0

/-- `TKRD` (R195). -/
def execTkrd (h : Ctl) (d : Opnd) (s : State) : Host.Outcome State Fault Refusal :=
  alu 0x341 2 h d 1 [] (fun x _ => x.tokBits) s

/-- The 16 bytes of `TKSAV` (R196). -/
def Wave.tokBytes (x : Wave) : Nat :=
  (List.range 16).foldr (fun k n => (x.tok k).word.toNat + 256 * n) 0

/-- `TKRST` (R197, R347). -/
def execTkrst (h : Ctl) (opn : Bool) (set : BitVec 16) (s : State) : Host.Outcome State Fault Refusal :=
  issue 0x343 h Req.none (fun i s =>
    .ok (Eff.plain (if i.act = 0 then s else onWave s i (fun x => (List.range 16).foldl (fun x k =>
      if set.getLsbD k then
        let t := x.tok k
        x.setTok k (if opn then { t with err := true } else { t with err := false, det := none })
      else x) x)))) s

end Sys2Proof.Machine
end

