-- ==== Sys2Proof/Machine/MemInstr.lean ====
section
/-! DEFINITION. Loads, stores, cache maintenance, fences, reader sets and atomics (R147 to R165). -/

namespace Sys2Proof.Machine

/-- One lane's read at its place: of the scope-local copy of its line where the access may hold one (`loc`, R279), else as `readLane`. -/
def St.readAt (s : St) (i : Iss) (loc : Bool) (size : Nat) (p : Place) : Nat × St :=
  match p with
  | .dev pa _ =>
    match (if loc then s.d.localOf (sliceOf i.core) (lineOf pa) else none) with
    | some c => (c.rdN (pa % 128) size, s)
    | none => s.readLane i p size
  | _ => s.readLane i p size

/-- The reads of a load: each line is obtained, and then all lanes are served as the lines stand, so that equal addresses yield equal values (R144). -/
def St.loadLanes (s : St) (i : Iss) (loc : Bool) (size : Nat) (val : Nat → Nat) (ps : List (Nat × Place)) : Tab Nat × St :=
  let s := ps.foldl (fun s p => (s.readAt i loc size p.2).2) s
  (ps.map (fun p => (p.1, val (s.readAt i loc size p.2).1)), s)

/-- The read-once bits that a load of some places clears (R312). -/
def St.markRead (s : St) (core : Nat) (ps : List (Nat × Place)) : St := ps.foldl (fun s p => s.readOnceAt core p.2) s

/-- A load as it is performed: the values and the first error; the reads that are served mark the parks they read (R147, R312). -/
def St.loadPerf (s : St) (opc : BitVec 12) (i : Iss) (once loc : Bool) (size : Nat) (ea : Nat → W64) (val : Nat → Nat) (ps : List (Nat × Place)) : Perf :=
  let err := s.readErrs opc ea ps
  let t := if once then s.countRecalls i ps else s
  let r := t.loadLanes i loc size val ps
  let good := ps.filter (fun p => (s.readErr p.2).isNone)
  ⟨r.1, err, false, [], [], false, if once then r.2.markRead i.core good else r.2⟩

/-- A far load as it is performed (R150). -/
def St.farPerf (s : St) (opc : BitVec 12) (i : Iss) (size : Nat) (ea : Nat → W64) (val : Nat → Nat) (ps : List (Nat × Place)) : Perf :=
  let s1 := ps.foldl (fun s p => (s.loadFar i.core p.2 size).2) s
  ⟨ps.map (fun p => (p.1, val (s1.loadFar i.core p.2 size).1)), s.readErrs opc ea ps, false, [], [], false, s1⟩

/-- A load of every active lane: the checks, the locate check, then the access (R146, R147). `op` is the code of R314; none for a load that
never faults on a park. -/
def loadOp (opc : BitVec 12) (ins : Instr) (h : Ctl) (d : Opnd) (a : Src) (ofs : BitVec 16) (n size : Nat) (order scope : Nat) (op : Option Nat)
    (perf : Iss → (Nat → W64) → List (Nat × Place) → St → Perf) (s : State) : Host.Outcome State Fault Refusal :=
  issue opc h { Req.none with srcs := a.rng 2, dsts := d.rng n } (fun i s =>
    let x := s.d.wave i.w
    let ea := a.ea ofs x
    match s.checks i (lanesOf i.act) ea size size .read with
    | .error r => r
    | .ok (ps, s) =>
      match op.bind (fun k => s.locateFault i k ea ps) with
      | some r => r
      | none => s.access i x ins order scope size true false ea ps (some (d.dest n)) false (perf i ea ps)) s

/-- `LD` as it is performed; at cluster scope with acquire or seq_cst it reads the scope-local copy of its line (R279). -/
def ldPerf (scope order ty : BitVec 3) (vec : BitVec 2) (i : Iss) (ea : Nat → W64) (ps : List (Nat × Place)) (s : St) : Perf :=
  s.loadPerf 0x400 i true (scope.toNat = 2 && (order.toNat = 1 || order.toNat = 4)) (tySize ty * 2 ^ vec.toNat) ea (loadVal ty) ps

/-- `LD` (R147, R149). -/
def execLd (h : Ctl) (d : Opnd) (a : Src) (ofs : BitVec 16) (scope order ty : BitVec 3) (vec ch : BitVec 2) (s : State) :
    Host.Outcome State Fault Refusal :=
  loadOp 0x400 (.ld h d a ofs scope order ty vec ch) h d a ofs (groupN ty vec) (tySize ty * 2 ^ vec.toNat) order.toNat scope.toNat (some 0)
    (ldPerf scope order ty vec) s

/-- `LDF` as it is performed (R150). -/
def ldfPerf (ty : BitVec 3) (vec : BitVec 2) (i : Iss) (ea : Nat → W64) (ps : List (Nat × Place)) (s : St) : Perf :=
  s.farPerf 0x405 i (tySize ty * 2 ^ vec.toNat) ea (loadVal ty) ps

/-- `LDF` (R150). -/
def execLdf (h : Ctl) (d : Opnd) (a : Src) (ofs : BitVec 16) (ty : BitVec 3) (vec : BitVec 2) (s : State) :
    Host.Outcome State Fault Refusal :=
  loadOp 0x405 (.ldf h d a ofs ty vec) h d a ofs (groupN ty vec) (tySize ty * 2 ^ vec.toNat) 0 0 none (ldfPerf ty vec) s

/-- A store as it is performed (R148): the writes that do not fail, lanes in ascending order. -/
def St.storePerf (s : St) (opc : BitVec 12) (i : Iss) (size : Nat) (ea : Nat → W64) (val : Nat → Nat) (ps : List (Nat × Place)) : Perf :=
  let ws := s.goodWrites (ps.map (fun p => (p.2, size, val p.1)))
  ⟨[], s.writeErrs opc ea ps, false, addressed ea (ps.filter (fun p => (s.writeErr p.2).isNone)), [], false, s.storeAll i.core ws⟩

/-- A store of every active lane (R148): the checks, `pre` of the instruction, then the access. -/
def storeOp (opc : BitVec 12) (ins : Instr) (h : Ctl) (d : Option Opnd) (a b : Src) (ofs : BitVec 16) (n size : Nat) (order scope : Nat)
    (pre : Wave → Option Nat) (perf : Iss → Wave → (Nat → W64) → List (Nat × Place) → St → Perf) (s : State) :
    Host.Outcome State Fault Refusal :=
  issue opc h { Req.none with srcs := a.rng 2 ++ b.rng n, dsts := dstRng d 1 } (fun i s =>
    let x := s.d.wave i.w
    let ea := a.ea ofs x
    match s.checks i (lanesOf i.act) ea size size .write with
    | .error r => r
    | .ok (ps, s) =>
      match (if i.act = 0 then none else pre x) with
      | some c => ctrlRes c 0 i.act 0
      | none =>
        s.access i x ins order scope size false true ea ps (d.map (·.dest 1)) (ps.any (fun p => p.2.outside i.blk)) (perf i x ea ps)) s

/-- `TKSAV` as it is performed: the tokens as they stood at its issue (R196). -/
def tksavPerf (i : Iss) (x : Wave) (ea : Nat → W64) (ps : List (Nat × Place)) (s : St) : Perf := s.storePerf 0x342 i 16 ea (fun _ => x.tokBytes) ps

/-- `TKSAV` (R196). -/
def execTksav (h : Ctl) (a : Src) (ofs : BitVec 16) (s : State) : Host.Outcome State Fault Refusal :=
  issue 0x342 h { Req.none with srcs := a.rng 2 } (fun i s =>
    let x := s.d.wave i.w
    match s.checks i (lanesOf i.act) (a.ea ofs x) 16 16 .write with
    | .error r => r
    | .ok (ps, s) =>
      s.access i x (.tksav h a ofs) 0 0 16 false true (a.ea ofs x) ps none (ps.any (fun p => p.2.outside i.blk))
        (tksavPerf i x (a.ea ofs x) ps)) s

/-- `ST` as it is performed (R148). -/
def stPerf (b : Src) (ty : BitVec 3) (vec : BitVec 2) (i : Iss) (x : Wave) (ea : Nat → W64) (ps : List (Nat × Place)) (s : St) : Perf :=
  s.storePerf 0x401 i (tySize ty * 2 ^ vec.toNat) ea (fun l => groupVal b x l ty vec) ps

/-- `ST` (R148). -/
def execSt (h : Ctl) (a b : Src) (ofs : BitVec 16) (scope order ty : BitVec 3) (vec ch : BitVec 2) (s : State) :
    Host.Outcome State Fault Refusal :=
  storeOp 0x401 (.st h a b ofs scope order ty vec ch) h none a b ofs (groupN ty vec) (tySize ty * 2 ^ vec.toNat) order.toNat scope.toNat
    (fun _ => none) (stPerf b ty vec) s

/-- Parks the lines of an `STN` (R156): each line once, under the set; the level used and the location by lane. Under SAME a line keeps its
park, read-once bits included. -/
def St.parkLines (s : St) (i : Iss) (set : W64) (ea : Nat → W64) (ps : List (Nat × Place)) : Tab (Nat × Nat) × St :=
  (linesOf ps).foldl (fun t ln =>
    let mine := ps.filter (fun p => match p.2 with
      | .dev pa _ => lineOf pa == ln
      | _ => false)
    let top := mine.getLastD (0, .host 0)
    let r := if setLvl set = 5 then (t.2.d, ((t.2.d.parks.get none ln).map (·.lvl)).getD 4, 0)
      else t.2.d.place i.core i.asid i.slot ln (lineOf (ea top.1).toNat) set
    let loc := match r.1.parks.get none ln with
      | some k => k.loc
      | none => 0
    (mine.foldl (fun u p => Tab.put u p.1 (r.2.1, loc)) t.1, { t.2 with d := r.1 })) ([], s)

/-- The report of `STN` (R156): USED 4, LOC 0 and FB 0 for a plain store. -/
def stnReportVal (set : W64) (plain : Bool) (used loc : Nat) : Nat :=
  let req := setLvl set
  if plain then req * 2 ^ 4 + 4
  else (if used = 4 then 0 else loc) * 2 ^ 16 + req * 2 ^ 4 + (if req < 5 && req < used then 8 else 0) + used

/-- `STN` as it is performed (R156): the element stored, the line parked; the report, which the acknowledgement completes (R282, R284). -/
def stnPerf (opc : BitVec 12) (rep : Bool) (b : Src) (ty : BitVec 3) (nsel : BitVec 4) (i : Iss) (x : Wave) (ea : Nat → W64)
    (ps : List (Nat × Place)) (s : St) : Perf :=
  let set := x.nreg nsel.toNat
  let w := s.storePerf opc i (tySize ty) ea (fun l => dataVal b x l ty) ps
  let r := w.st.parkLines i set ea (ps.filter (fun p => (s.writeErr p.2).isNone))
  { w with
    vals := if rep then ps.map (fun p =>
      let u := r.1.get (4, 0) p.1
      (p.1, stnReportVal set (match p.2 with
        | .dev _ _ => false
        | _ => true) u.1 u.2)) else []
    owed := rep
    st := r.2 }

/-- Both forms of `STN` (R156): the set in `nK` is checked, then the element is stored and the line parked. -/
def stnOp (opc : BitVec 12) (ins : Instr) (h : Ctl) (d : Option Opnd) (a b : Src) (ofs : BitVec 16) (scope order ty : BitVec 3) (nsel : BitVec 4)
    (s : State) : Host.Outcome State Fault Refusal :=
  storeOp opc ins h d a b ofs (intN ty) (tySize ty) order.toNat scope.toNat
    (fun x => if setOk (x.nreg nsel.toNat) then none else some 17) (stnPerf opc d.isSome b ty nsel) s

/-- `STN` (R156). -/
def execStn (h : Ctl) (a b : Src) (ofs : BitVec 16) (scope order ty : BitVec 3) (nsel : BitVec 4) (s : State) :
    Host.Outcome State Fault Refusal :=
  stnOp 0x402 (.stn h a b ofs scope order ty nsel) h none a b ofs scope order ty nsel s

/-- `STN` with its level report (R156). -/
def execStnReport (h : Ctl) (d : Opnd) (a b : Src) (ofs : BitVec 16) (scope order ty : BitVec 3) (nsel : BitVec 4) (s : State) :
    Host.Outcome State Fault Refusal :=
  stnOp 0x403 (.stnReport h d a b ofs scope order ty nsel) h (some d) a b ofs scope order ty nsel s

/-- `PREF` (R151): no visible effect, no fault. -/
def execPref (h : Ctl) (a : Src) (_ofs : BitVec 16) (_lvl : BitVec 2) (s : State) : Host.Outcome State Fault Refusal :=
  issue 0x404 h { Req.none with srcs := a.rng 2 } (fun _ s => .ok (Eff.plain s)) s

/-- Cache maintenance of a line in the core's die (R159): `wb` writes its modified data outward, `drop` discards the copies that are clean
then. A die whose copy is dropped reads the line afresh. -/
def St.maintDie (s : St) (i : Iss) (wb drop : Bool) (p : Nat × Place) (ln : Nat) : St :=
  let e := dieOf i.core
  let dirty := s.d.owners.get 4 ln = e
  let s :=
    if dirty && wb then
      (s.withD fun d => let d := d.leaveClk e ln; { d with owners := d.owners.put ln 4 }).countWrites i.w [p]
    else s
  if drop && !(dirty && !wb) then s.withD fun d => { d with
    readers := d.readers.filter (· != (e, ln))
    stale := d.stale.filter (fun x => x.1 / 2 ^ 52 != e || x.1 % 2 ^ 52 / 128 != ln) }
  else s

/-- Cache maintenance of a line in the scope-local copies of the core's cluster slice (R159). -/
def St.maintLocal (s : St) (i : Iss) (wb drop : Bool) (p : Nat × Place) (c : Local) : St :=
  let drops (s : St) : St := s.withD fun d => { d with locals := d.locals.filter (fun y => !(y.cl == c.cl && y.line == c.line)) }
  if c.data.isEmpty then (if drop then drops s else s)
  else if !wb then s
  else
    let s := ((drops s).pushBytes (dieOf i.core) c.line c.data).countWrites i.w [p]
    if drop then s else s.withD fun d => { d with locals := d.locals ++ [{ c with data := [], orig := c.rdN 0 128 }] }

/-- Cache maintenance of one lane's line at the levels of a scope (R159): what an L1 or a sector's copy slice holds follows its die. A parked
line is skipped. -/
def St.maintLine (s : St) (i : Iss) (scope : Nat) (wb drop : Bool) (p : Nat × Place) : St :=
  match p.2 with
  | .dev pa _ =>
    let ln := lineOf pa
    if (s.d.parks.get none ln).isSome then s
    else
      let s := match (if scope < 2 then none else s.d.localOf (sliceOf i.core) ln) with
        | none => s
        | some c => s.maintLocal i wb drop p c
      if scope < 4 then s else s.maintDie i wb drop p ln
  | _ => s

/-- `DCWB`, `DCINV`, `DCFL` (R159): the line of each lane. -/
def maintOp (opc : BitVec 12) (h : Ctl) (a : Src) (ofs : BitVec 16) (scope : BitVec 3) (wb drop : Bool) (s : State) :
    Host.Outcome State Fault Refusal :=
  issue opc h { Req.none with srcs := a.rng 2 } (fun i s =>
    let x := s.d.wave i.w
    let ea := a.ea ofs x
    match s.checks i (lanesOf i.act) ea 1 1 .write false with
    | .error r => r
    | .ok (ps, s) =>
      s.boundFirst i x ea 1 ps (.ok (Eff.plain (ps.foldl (fun s p => s.maintLine i scope.toNat wb drop ((ea p.1).toNat, p.2)) s)))) s

/-- `DCWB` (R159). -/
def execDcwb (h : Ctl) (a : Src) (ofs : BitVec 16) (scope : BitVec 3) (s : State) : Host.Outcome State Fault Refusal :=
  maintOp 0x406 h a ofs scope true false s
/-- `DCINV` (R159). -/
def execDcinv (h : Ctl) (a : Src) (ofs : BitVec 16) (scope : BitVec 3) (s : State) : Host.Outcome State Fault Refusal :=
  maintOp 0x407 h a ofs scope false true s
/-- `DCFL` (R159). -/
def execDcfl (h : Ctl) (a : Src) (ofs : BitVec 16) (scope : BitVec 3) (s : State) : Host.Outcome State Fault Refusal :=
  maintOp 0x408 h a ofs scope true true s

/-- An `ICINV` that reaches every die carries its die's clock to them: a fill that follows it there reads what the die had written or seen
(R160, R276). -/
def Device.tellDies (d : Device) (e : Nat) : Device := ((List.range 4).filter (· != e)).foldl (fun d f => d.send e f) d

/-- `ICINV` (R160). -/
def execIcinv (h : Ctl) (a : Src) (ofs : BitVec 16) (scope : BitVec 3) (s : State) : Host.Outcome State Fault Refusal :=
  issue 0x409 h { Req.none with srcs := a.rng 2 } (fun i s =>
    let x := s.d.wave i.w
    let ea := a.ea ofs x
    match s.checks i (lanesOf i.act) ea 1 1 .write false with
    | .error r => r
    | .ok (ps, s) =>
      let s := if 4 ≤ scope.toNat && i.act ≠ 0 then s.withD (·.tellDies (dieOf i.core)) else s
      .ok (Eff.plain (ps.foldl (fun s p => s.withD (·.dropBlocks i.core (ea p.1).toNat scope.toNat)) s))) s

/-- `IFENCE` (R160). -/
def execIfence (h : Ctl) (s : State) : Host.Outcome State Fault Refusal :=
  issue 0x40A h Req.none (fun i s => if i.act ≠ 0 && !s.d.ifenceReady i.w then .hold s .ifence else .ok (Eff.plain s)) s

/-- After a release fence no access of the wave is performed until its reads before the fence are bound (R275). -/
def Device.holdReads (d : Device) (uid : Nat) : Device :=
  { d with
    late := d.late.map (fun l => if l.uid == uid then { l with blocks := BitVec.allOnes 32 } else l)
    qwaits := d.qwaits.map (fun q => if q.uid == uid && !q.enq then { q with blocks := BitVec.allOnes 32 } else q) }

/-- `FENCE` (R161): a release pushes the scope-local copies; a line that cannot be written raises the write-back fault (R361). -/
def execFence (h : Ctl) (scope order : BitVec 3) (s : State) : Host.Outcome State Fault Refusal :=
  issue 0x40B h Req.none (fun i s =>
    if i.act = 0 then .ok (Eff.plain s)
    else
      let rel := 2 ≤ order.toNat
      let s := if rel then s.release i scope.toNat else s
      match (if rel then s.unwritten i scope.toNat else none) with
      | some f => s.wbRes f
      | none =>
        if s.d.fenceReady i.w order.toNat scope.toNat then
          .ok (Eff.plain (if rel then s.withD (·.holdReads (s.d.wave i.w).uid) else s))
        else .hold s (.fence order.toNat scope.toNat)) s

/-! ### Reader sets -/

/-- `RSMK` (R155). -/
def execRsmk (h : Ctl) (d : Opnd) (a b : Src) (keep : BitVec 2) (lvl : BitVec 3) (s : State) : Host.Outcome State Fault Refusal :=
  alu 0x440 2 h d 2 [a.rng 1, b.rng 1]
    (fun x l =>
      let m := (a.w x l).toNat
      let c := (b.w x l).toNat
      let v := lvl.toNat * 2 ^ 61 + keep.toNat * 2 ^ 38
      match lvl.toNat with
      | 0 => v + field c 7 2 * 2 ^ 56 + field c 2 5 * 2 ^ 48 + field c 0 2 * 2 ^ 46
      | 1 => v + field c 7 2 * 2 ^ 56 + field c 2 5 * 2 ^ 48 + m % 16
      | 2 => v + field c 7 2 * 2 ^ 56 + m % 2 ^ 18
      | 3 => v + m % 16
      | _ => v) s

/-- The new set of an `RSREV` (R157); none when the line is left as it is. MODE 0 REPLACE, 1 ADD, 2 DEMOTE. -/
def revise (mode : Nat) (set : W64) (cur : Option Park) : Option W64 :=
  if setLvl set = 5 then none
  else match mode, cur with
    | 0, _ => some set
    | _, none => none
    | 1, some p =>
      if setLvl set = 4 then some setAll
      else
        let has (c : Nat) : Bool := setHas p.set c || setHas set c
        some (coverAt (coverLvl has) (setKeep set) has)
    | _, some p =>
      if setLvl set = 4 then some setAll
      else if setLvl set ≤ p.lvl then none
      else some (coverAt (setLvl set) (setKeep set) (setHas p.set))

/-- `RSREV` of the line at one lane's place, whose address in the context is `va` (R157). -/
def St.reviseLine (s : St) (i : Iss) (mode : Nat) (set va : W64) (p : Place) : St :=
  match p with
  | .dev pa _ =>
    match revise mode set (s.d.parks.get none (lineOf pa)) with
    | some n => s.withD (fun d => (d.place i.core i.asid i.slot (lineOf pa) (lineOf va.toNat) n).1)
    | none => s
  | _ => s

/-- `RSREV` (R157). -/
def execRsrev (h : Ctl) (a b : Src) (ofs : BitVec 16) (mode : BitVec 2) (s : State) : Host.Outcome State Fault Refusal :=
  issue 0x441 h { Req.none with srcs := a.rng 2 } (fun i s =>
    let x := s.d.wave i.w
    let ea := a.ea ofs x
    let set := x.nreg b.o.idx
    match s.checks i (lanesOf i.act) ea 1 1 .write false with
    | .error r => r
    | .ok (ps, s) =>
      if i.act ≠ 0 && !setOk set then ctrlRes 17 0 i.act 0
      else s.boundFirst i x ea 1 ps <| s.storedFirst i x ea ps
        (.ok { Eff.plain (ps.foldl (fun s p => s.reviseLine i mode.toNat set (ea p.1) p.2) s) with pub := i.act != 0 })) s

/-- The reader set of a parked line, or that of one that is not (R158). -/
def rsqryVal (p : Option Park) : Nat :=
  match p with
  | none => setAll.toNat
  | some k => if setKeep k.set = 1 && k.lvl ≠ 0 then k.set.toNat / 2 ^ 18 * 2 ^ 18 + k.unread.toNat else k.set.toNat

/-- What `RSQRY` answers for a place (R158). -/
def Device.rsqryAt (d : Device) (p : Place) : Nat :=
  match p with
  | .dev pa _ => rsqryVal (d.parks.get none (lineOf pa))
  | _ => setAll.toNat

/-- `RSQRY` (R158). -/
def execRsqry (h : Ctl) (d : Opnd) (a : Src) (ofs : BitVec 16) (s : State) : Host.Outcome State Fault Refusal :=
  issue 0x442 h { Req.none with srcs := a.rng 2, dsts := d.rng 2 } (fun i s =>
    let x := s.d.wave i.w
    let ea := a.ea ofs x
    match s.checks i (lanesOf i.act) ea 1 1 .read false with
    | .error r => r
    | .ok (ps, s) =>
      match s.locateFault i 3 ea ps with
      | some r => r
      | none =>
        s.boundFirst i x ea 1 ps
          (.ok { Eff.plain s with out := .long (d.dest 2) (ps.map (fun p => (p.1, s.d.rsqryAt p.2))) true none false })) s

/-! ### Atomics -/

/-- The new value of AOP (R162), on patterns of a type. -/
def atomNew (aop : Nat) (ty : BitVec 3) (old b : Nat) : Nat :=
  let f := fmtOf (if ty.toNat < 6 then 4 else 5)
  match aop with
  | 0 => (old + b) % 2 ^ intW ty
  | 1 => if intOf ty b < intOf ty old then b else old
  | 2 => if intOf ty old < intOf ty b then b else old
  | 3 => old &&& b
  | 4 => old ||| b
  | 5 => old ^^^ b
  | 6 => b
  | 7 => if b ≤ old then 0 else old + 1
  | 8 => if old = 0 || b < old then b else old - 1
  | 9 => f.fadd 0 false old b
  | 10 => f.fmin old b
  | _ => f.fmax old b

/-- The lanes of one address, as one request (R165): what each receives, and the location's new value; none when none of them writes. -/
def combine (new : Nat → Nat → Option Nat) (old : Nat) (bs : List (Nat × Nat)) : Tab Nat × Option Nat :=
  bs.foldl (fun t b => (Tab.put t.1 b.1 (t.2.getD old), (new (t.2.getD old) b.2).or t.2)) ([], none)

/-- The aggregated FADD (R165): prefix sums of the operands, each added once to old. -/
def combineFadd (f : Fmt) (old : Nat) (bs : List (Nat × Nat)) : Tab Nat × Option Nat :=
  match bs with
  | [] => ([], none)
  | (l0, b0) :: r =>
    let t := r.foldl (fun (t : Tab Nat × Nat) b => (Tab.put t.1 b.1 (f.fadd 0 false old t.2), f.fadd 0 false t.2 b.2)) ([(l0, old)], b0)
    (t.1, some (f.fadd 0 false old t.2))

/-- What an atomic request comes to: each lane's value, whether it has written, and the state. -/
abbrev ARes := Tab Nat × Bool × St

/-- The read and write of an atomic whose location read as it did: one that writes nothing marks nothing (R268, R365). -/
def atomPut (s : St) (r : Tab Nat × Option Nat) (f : Nat → St) : ARes :=
  match r.2 with
  | some v => (r.1, true, f v)
  | none => (r.1, false, s)

/-- The scope-local copy of a line in the cluster slice of a core, made when there is none (R279, R365). -/
def St.withLocal (s : St) (i : Iss) (va ln : Nat) : St :=
  let cl := sliceOf i.core
  if (s.d.localOf cl ln).isSome then s
  else
    let die := dieOf i.core
    let s := s.withD (·.obtain die ln)
    s.withD fun d => { d with locals := d.locals ++ [⟨cl, ln, i.asid, va, s.rdDieN die (128 * ln) 128, [], [], []⟩] }

/-- A write to a scope-local copy: its bytes are marked, and the block and context that made it (R279, R365, R366). -/
def Local.write (c : Local) (i : Iss) (o n v : Nat) : Local :=
  { c with
    data := (cellsOf o n v).foldl (fun t e => Tab.put t e.1 e.2) c.data
    blks := if c.blks.contains i.blk then c.blks else c.blks ++ [i.blk]
    writers := if c.writers.contains i.asid then c.writers else c.writers ++ [i.asid] }

/-- One atomic request at a place (R164, R436): its indivisible read and write. `va` is its effective address. -/
def St.atomicAt (s : St) (i : Iss) (scope va : Nat) (p : Place) (n : Nat) (g : Nat → Tab Nat × Option Nat) : ARes :=
  match p with
  | .dev pa _ =>
    let ln := lineOf pa
    let die := dieOf i.core
    match s.d.parks.get none ln with
    | some k =>
      let s := s.withD (·.meetPark die ln k false)
      atomPut s (g (s.rdN pa n)) (fun v => s.wrLine die ln (cellsOf pa n v))
    | none =>
      if scope = 2 then
        let cl := sliceOf i.core
        let s := s.withLocal i va ln
        match s.d.localOf cl ln with
        | some c =>
          atomPut s (g (c.rdN (pa % 128) n)) (fun v => s.withD fun d => { d with
            locals := d.locals.map (fun y => if y.cl == cl && y.line == ln then c.write i (pa % 128) n v else y) })
        | none => ([], false, s)
      else if scope ≥ 4 then
        let s := s.withD (fun d => (d.invalidate ln).meetLine die ln)
        atomPut s (g (s.rdN pa n)) (fun v => s.wrN pa n v)
      else
        let s := s.withD (·.own die ln)
        atomPut s (g (s.rdN pa n)) (fun v => s.wrLine die ln (cellsOf pa n v))
  | p =>
    let s := s.meetAt i.core p
    atomPut s (g (s.rdN (p.key s.d) n)) (fun v => s.wrN (p.key s.d) n v)

/-- The bridge cannot make the operation on host memory (R164). -/
def hostAtomicBad (aop : Nat) (ty : BitVec 3) : Bool := aop = 7 || aop = 8 || aop = 10 || aop = 11 || (aop = 9 && 6 ≤ ty.toNat)

/-- The requests of an atomic instruction, one for each effective address, in the order of their lowest lanes (R165): what each lane receives,
and the places written. -/
def St.atomAll (s : St) (i : Iss) (scope n : Nat) (ea : Nat → W64) (ok : List (Nat × Place)) (arg : Nat → Nat)
    (g : List (Nat × Nat) → Nat → Tab Nat × Option Nat) : Tab Nat × List (Nat × Place) × St :=
  ((ok.map (fun q => (ea q.1).toNat)).eraseDups).foldl (fun t va =>
    let mine := ok.filter (fun q => (ea q.1).toNat == va)
    let p := (mine.headD (0, .host 0)).2
    let u := t.2.2.atomicAt i scope va p n (g (mine.map (fun q => (q.1, arg q.1))))
    (u.1.foldl (fun v e => Tab.put v e.1 e.2) t.1, if u.2.1 then t.2.1 ++ mine.map (fun q => (va, q.2)) else t.2.1, u.2.2)) ([], [], s)

/-- An atomic instruction as it is performed: an atomic that meets poison writes nothing (R320); one on host memory completes with the host's
confirmation (R284). `rd` says that it reads as `LD` does. -/
def St.atomPerf (s : St) (opc : BitVec 12) (i : Iss) (scope n : Nat) (rd : Bool) (ea : Nat → W64) (arg : Nat → Nat)
    (g : List (Nat × Nat) → Nat → Tab Nat × Option Nat) (ps : List (Nat × Place)) : Perf :=
  let ok := ps.filter (fun p => (s.readErr p.2).isNone)
  let r := s.atomAll i scope n ea ok arg g
  ⟨r.1, s.readErrs opc ea ps, false, r.2.1, [], ps.any (·.2.isHost), if rd then r.2.2.markRead i.core ok else r.2.2⟩

/-- The lanes whose atomic operation meets host memory and cannot be made there (R164). -/
def hostBadLanes (bad : Bool) (ps : List (Nat × Place)) : List (Nat × Place) :=
  ps.filter (fun p => match p.2 with
    | .host _ => bad
    | _ => false)

/-- `ATOM`, `ACAS` and `RED` (R163 to R165): the checks, then the access. -/
def atomOp (opc : BitVec 12) (ins : Instr) (h : Ctl) (d : Option Opnd) (a : Src) (ofs : BitVec 16) (order scope : Nat) (ty : BitVec 3)
    (srcs : List (Nat × Nat × Bool)) (op : Option Nat) (hostBad : Bool)
    (perf : Iss → Wave → (Nat → W64) → List (Nat × Place) → St → Perf) (s : State) : Host.Outcome State Fault Refusal :=
  let n := tySize ty
  let dn := intN ty
  issue opc h { Req.none with srcs := a.rng 2 ++ srcs, dsts := dstRng d dn } (fun i s =>
    let x := s.d.wave i.w
    let ea := a.ea ofs x
    match s.checks i (lanesOf i.act) ea n n .both with
    | .error r => r
    | .ok (ps, s) =>
      match op.bind (fun k => s.locateFault i k ea ps) with
      | some r => r
      | none =>
        match hostBadLanes hostBad ps with
        | (l, p) :: r => memRes (.plain 14) (ea l) .both (maskOfList (((l, p) :: r).map (·.1))) 0
        | [] =>
          s.access i x ins order scope n op.isSome true ea ps (d.map (·.dest dn)) (ps.any (fun p => p.2.outside i.blk)) (perf i x ea ps)) s

/-- The combiner of an AOP (R162, R165). -/
def aopCombine (aop : BitVec 4) (ty : BitVec 3) (bs : List (Nat × Nat)) (old : Nat) : Tab Nat × Option Nat :=
  if aop.toNat = 9 then combineFadd (fmtOf (if ty.toNat < 6 then 4 else 5)) old bs
  else combine (fun a b => some (atomNew aop.toNat ty a b)) old bs

/-- `ATOM` and `RED` as they are performed (R163, R165). -/
def aopPerf (opc : BitVec 12) (rd : Bool) (b : Src) (scope ty : BitVec 3) (aop : BitVec 4) (i : Iss) (x : Wave) (ea : Nat → W64)
    (ps : List (Nat × Place)) (s : St) : Perf :=
  s.atomPerf opc i scope.toNat (tySize ty) rd ea (fun l => dataVal b x l ty) (aopCombine aop ty) ps

/-- `ATOM` (R163). -/
def execAtom (h : Ctl) (d : Opnd) (a b : Src) (ofs : BitVec 16) (scope order ty : BitVec 3) (aop : BitVec 4) (s : State) :
    Host.Outcome State Fault Refusal :=
  atomOp 0x480 (.atom h d a b ofs scope order ty aop) h (some d) a ofs order.toNat scope.toNat ty (b.rng (intN ty)) (some 1)
    (hostAtomicBad aop.toNat ty) (aopPerf 0x480 true b scope ty aop) s

/-- `RED` (R163). -/
def execRed (h : Ctl) (a b : Src) (ofs : BitVec 16) (scope order ty : BitVec 3) (aop : BitVec 4) (s : State) :
    Host.Outcome State Fault Refusal :=
  atomOp 0x482 (.red h a b ofs scope order ty aop) h none a ofs order.toNat scope.toNat ty (b.rng (intN ty)) none
    (hostAtomicBad aop.toNat ty) (aopPerf 0x482 false b scope ty aop) s

/-- The compare and swap of one lane: the group holds the compare value, then the new one (R163). -/
def casNew (ty : BitVec 3) (old g : Nat) : Option Nat := if old = g % 2 ^ intW ty then some (g / 2 ^ intW ty) else none

/-- `ACAS` as it is performed (R163, R165). -/
def acasPerf (b : Src) (scope ty : BitVec 3) (i : Iss) (x : Wave) (ea : Nat → W64) (ps : List (Nat × Place)) (s : St) : Perf :=
  s.atomPerf 0x481 i scope.toNat (tySize ty) true ea (fun l => x.group l b.o.idx (2 * intN ty)) (fun bs old => combine (casNew ty) old bs) ps

/-- `ACAS` (R163). -/
def execAcas (h : Ctl) (d : Opnd) (a b : Src) (ofs : BitVec 16) (scope order ty : BitVec 3) (s : State) :
    Host.Outcome State Fault Refusal :=
  atomOp 0x481 (.acas h d a b ofs scope order ty) h (some d) a ofs order.toNat scope.toNat ty (b.rng (2 * intN ty)) (some 2) false
    (acasPerf b scope ty) s

end Sys2Proof.Machine
end

