-- ==== Sys2Proof/Machine/Queue.lean ====
section
/-! DEFINITION. Queues and sharing groups (R166 to R172). -/

namespace Sys2Proof.Machine

/-! ### The queue header (R166) -/

/-- TAIL. -/
def hdrTail (h : Nat) : Nat := field h 0 64
/-- HEAD. -/
def hdrHead (h : Nat) : Nat := field h 64 64
/-- N = 2^LOG2N. DESIGN CHOICE (log 47): a stored LOG2N above 24, which R166 does not allow, counts as 24. -/
def hdrN (h : Nat) : Nat := 2 ^ min 24 (field h 128 6)
/-- RING. -/
def hdrRing (h : Nat) : Nat := field h 134 58 * 64
/-- SZ. -/
def hdrSz (h : Nat) : Nat := field h 192 2
/-- EDGE. -/
def hdrEdge (h : Nat) : Bool := field h 200 1 = 1
/-- Occupancy. -/
def hdrOcc (h : Nat) : Nat := (hdrTail h + 2 ^ 64 - hdrHead h) % 2 ^ 64

/-- Replaces a field of a number. -/
def setField (x lo len v : Nat) : Nat := x - field x lo len * 2 ^ lo + v % 2 ^ len * 2 ^ lo

/-- A header as it is written back: its reserved bits are 0 (R5). -/
def hdrClean (h : Nat) : Nat := field h 0 194 + 2 ^ 200 * field h 200 1 + 2 ^ 224 * field h 224 64

/-- The core through which a place's home slice reads and writes. DESIGN CHOICE (log 47): the spec names no home slice for a header in a scratchpad;
the queue runs at the core that owns the scratchpad. -/
def Place.homeCore : Place → Nat
  | .dev pa _ => 72 * homeDie pa
  | .scratch k _ => k / 64
  | .host _ => 0

/-- A queue access drops the park of the line it touches (R149). -/
def St.homeLine (s : St) (p : Place) : St :=
  match p with
  | .dev pa _ => s.withD (·.goHome (lineOf pa))
  | _ => s

/-- Reads bytes at the home slice, whose die owns the line from then on: the latest in its coherence order (R166). -/
def St.homeRead (s : St) (p : Place) (n : Nat) : Nat × St :=
  let s := s.homeLine p
  match p with
  | .dev pa _ => (s.rdN pa n, s.withD (·.own (homeDie pa) (lineOf pa)))
  | p => s.load p.homeCore p n

/-- A core's request at a header's home slice carries its die's clock, and the answer the clock that stands there (R276, R281). -/
def St.meetQueue (s : St) (core : Nat) (p : Place) : St := s.withD (·.meetLine (dieOf core) (lineOf (p.key s.d)))

/-- Writes bytes at the home slice. -/
def St.homeWrite (s : St) (p : Place) (n v : Nat) : St := (s.homeLine p).store p.homeCore p n v

/-- The place of slot i of a ring: none where the ring does not translate. DESIGN CHOICE (log 47): R168 makes slot accesses and names no check of
the permissions of the ring's pages; the model checks none. -/
def St.slotPlace (s : St) (asid hdr i : Nat) : Option Place :=
  s.ctxPlace asid (hdrRing hdr + i % hdrN hdr * (8 * 2 ^ hdrSz hdr))

/-- How one request ends: the value it completes with and the slot it wrote, a wait, or an error. -/
inductive QRes where
  | done (v : Nat) (wrote : Option Place)
  | wait
  | error (kind : BitVec 8)

/-- The error of a ring slot that cannot be reached. The spec names none: a free value (log 5). -/
def St.ringError (s : St) : BitVec 8 × St := let r := s.fresh; (r.1.setWidth 8, r.2)

/-- One enqueue at a header, if there is room (R168). A slot in host memory cannot be written while the link is DOWN (R146). -/
def St.enqTry (s : St) (asid : Nat) (hp : Place) (data : Nat) : QRes × St :=
  let r := s.homeRead hp 64
  let h := r.1
  if hdrN h ≤ hdrOcc h then (.wait, r.2)
  else match r.2.slotPlace asid h (hdrTail h) with
    | none => let e := r.2.ringError; (.error e.1, e.2)
    | some p =>
      match r.2.writeErr p with
      | some k => (.error k, r.2)
      | none =>
        let s := r.2.homeWrite p (8 * 2 ^ hdrSz h) data
        let s := s.homeWrite hp 64 (hdrClean (setField h 0 64 (hdrTail h + 1)))
        (.done (hdrTail h % 2 ^ 31) (some p), s)

/-- One dequeue at a header, if it is not empty: status and data, the status lowest (R168). DESIGN CHOICE (log 47): one that meets poison in its slot
completes with the error and leaves HEAD. -/
def St.deqTry (s : St) (asid : Nat) (hp : Place) : QRes × St :=
  let r := s.homeRead hp 64
  let h := r.1
  if hdrOcc h = 0 then (.wait, r.2)
  else match r.2.slotPlace asid h (hdrHead h) with
    | none => let e := r.2.ringError; (.error e.1, e.2)
    | some p =>
      match r.2.readErr p with
      | some k => (.error k, r.2)
      | none =>
        let t := r.2.homeRead p (8 * 2 ^ hdrSz h)
        let s := t.2.homeWrite hp 64 (hdrClean (setField h 64 64 (hdrHead h + 1)))
        (.done (hdrHead h % 2 ^ 31 + 2 ^ 32 * t.1) none, s)

/-- Adds to WENQ or WDEQ. -/
def St.countWait (s : St) (hp : Place) (enq up : Bool) : St :=
  let r := s.homeRead hp 64
  let lo := if enq then 224 else 256
  let v := field r.1 lo 32
  r.2.homeWrite hp 64 (hdrClean (setField r.1 lo 32 (if up then v + 1 else v + 2 ^ 32 - 1)))

/-! ### Waiting requests -/

/-- A lane's request is served: its value stands unless the operation has an error, and the operation completes when no request of it waits. -/
def Device.served (d : Device) (q : QWait) (v : Option Nat) (err : Option (BitVec 8)) : Device :=
  let more := d.qwaits.any (fun p => p.uid == q.uid && p.op == q.op)
  d.updOp q.uid q.op (fun o => { o with
    vals := (match v with
      | some v => if o.err.isSome then o.vals else o.vals.put q.lane v
      | none => o.vals)
    err := o.err.or (err.map (fun k => mkDetail k o.opc q.va))
    done := !more })

/-- A distributor's request is served (R330): the dequeued slot of `n` bytes, with a bit above its end, waits for the entry's binding; an `OUTQ`
enqueue is made. -/
def Device.servedUnit (d : Device) (q : QWait) (v n : Nat) : Device :=
  if q.enq then d.setBlock q.op { d.block q.op with outq := false }
  else
    let slot := field (d.binds.get 0 q.op).toNat 112 12
    let l := d.launch slot
    d.setLaunch slot { l with inq := l.inq.put q.op (some (v / 2 ^ 32 + 2 ^ (8 * n))) }

/-- The distributor has a request for a block's enqueue, or for an entry's dequeue, in a queue's order (R330). -/
def Device.unitAsked (d : Device) (enq : Bool) (k : Nat) : Bool := d.qwaits.any (fun q => q.uid == 0 && q.enq == enq && q.op == k)

/-- The requests of a distributor for a block or an entry are gone. -/
def Device.unitGone (d : Device) (enq : Bool) (k : Nat) : Device :=
  { d with qwaits := d.qwaits.filter (fun q => !(q.uid == 0 && q.enq == enq && q.op == k)) }

/-- The first waiting request of a header that can be served, strictly in the order of its kind (R168). -/
def Device.nextWait (d : Device) (key occ : Nat) : Option QWait :=
  d.qwaits.find? (fun q => q.hdr == key && (if q.enq then hdrOcc occ < hdrN occ else hdrOcc occ != 0))

/-- Serves one waiting request (R168). The core of the waiting wave gets the header's clock with the answer. -/
def St.serveOne (s : St) (hp : Place) : Option St :=
  let key := hp.key s.d
  let h := (s.homeRead hp 64).1
  match s.d.nextWait key h with
  | none => none
  | some q =>
    let s := s.withD fun d => { d with qwaits := d.qwaits.erase q }
    let core := if q.uid = 0 then some (q.op / 64) else (s.d.byUid q.uid).map (fun e => e.1 / 64)
    let s := match core with
      | some c => s.meetQueue c hp
      | none => s.withD fun d => d.oweClk q.uid (d.lineClk (lineOf key))
    let r := if q.enq then s.enqTry q.asid hp q.data else s.deqTry q.asid hp
    if q.uid = 0 then some (r.2.withD fun d => match r.1 with
      | .done v _ => d.servedUnit q v (8 * 2 ^ hdrSz h)
      | _ => d)
    else
      let s := r.2.countWait hp q.enq false
      some (s.withD fun d => match r.1 with
        | .done v p => (d.updWave q.uid (·.landWrite q.op (p.map (·.isHost)))).served q (some v) none
        | .error k => (d.updWave q.uid (·.landWrite q.op none)).served q none (some k)
        | .wait => d)

/-- Serves waiting requests in arrival order, as long as one can be served. -/
def St.serve (s : St) (hp : Place) : Nat → St
  | 0 => s
  | n + 1 => match s.serveOne hp with
    | some t => t.serve hp n
    | none => s

/-- Serves every request that waits at a header. -/
def St.serveAll (s : St) (hp : Place) : St := s.serve hp (s.d.qwaits.length + 1)

/-- A distributor's request enters the order of a header's requests and is served in its turn (R168, R330). -/
def St.unitAsk (s : St) (hp : Place) (asid : Nat) (enq : Bool) (k data : Nat) : St :=
  (s.withD fun d => { d with qwaits := d.qwaits ++ [⟨hp.key d, hp, asid, enq, 0, k, 0, data, 0, 0, 0⟩] }).serveAll hp

/-- The lanes whose place is host memory. -/
def hostPlaces (ps : List (Nat × Place)) : List (Nat × Place) :=
  ps.filter (fun p => match p.2 with
    | .host _ => true
    | _ => false)

/-- One lane's request at its header (R168): `ea` gives a lane's address, `arg` its data. Slots written count as writes of the wave, and so do
those that a blocked `ENQ` still has to write (R161, R274). -/
def St.queueLane (i : Iss) (uid : Nat) (opc : BitVec 12) (ea : Nat → W64) (sz : BitVec 2) (blk enq : Bool) (blocks : Lanes) (arg : Nat → Nat)
    (t : Perf) (p : Nat × Place) : Perf :=
  let fail (k : BitVec 8) (s : St) : Perf := { t with err := t.err.or (some (mkDetail k opc (ea p.1))), st := s }
  match t.st.readErr p.2 with
  | some k => fail k t.st
  | none =>
    let q := (t.st.meetQueue i.core p.2).homeRead p.2 64
    if hdrSz q.1 ≠ sz.toNat then fail 4 q.2
    else
      let r := if enq then q.2.enqTry i.asid p.2 (arg p.1) else q.2.deqTry i.asid p.2
      let va := (ea p.1).toNat
      match r.1 with
      | .done v w => { t with vals := t.vals.put p.1 v, ws := t.ws ++ w.toList.map (fun p => (va, p)), st := r.2 }
      | .error k => fail k r.2
      | .wait =>
        if blk then
          let w : QWait := ⟨p.2.key t.st.d, p.2, i.asid, enq, uid, i.opid, p.1, arg p.1, 8 * 2 ^ sz.toNat, ea p.1, blocks⟩
          let s := (r.2.countWait p.2 enq true).withD fun d => { d with qwaits := d.qwaits ++ [w] }
          { t with wait := true, later := if enq then t.later ++ [(va, p.2)] else t.later, st := s }
        else { t with vals := t.vals.put p.1 0x80000000, st := r.2 }

/-- `ENQ` and `DEQ` as they are performed (R168): lanes in ascending order, each at its header; then the requests that waited there and can go on. -/
def queuePerf (opc : BitVec 12) (sz : BitVec 2) (order : BitVec 3) (blk enq : Bool) (arg : Wave → Nat → Nat) (i : Iss) (x : Wave) (ea : Nat → W64)
    (ps : List (Nat × Place)) (s : St) : Perf :=
  let r := ps.foldl (St.queueLane i x.uid opc ea sz blk enq (acquires order.toNat i.act) (arg x)) ⟨[], none, false, [], [], false, s⟩
  { r with st := (ps.map (·.2)).eraseDups.foldl (fun s p => s.serveAll p) r.st }

/-- The checks of a queue instruction: both permissions, and no header in host memory (R146, R166). -/
def St.headers (s : St) (i : Iss) (ea : Nat → W64) : Except Res (List (Nat × Place) × St) :=
  match s.checks i (lanesOf i.act) ea 64 64 .both with
  | .error r => .error r
  | .ok (ps, s) =>
    match hostPlaces ps with
    | (l, p) :: r => .error (memRes (.plain 14) (ea l) .both (maskOfList (((l, p) :: r).map (·.1))) 0)
    | [] => .ok (ps, s)

/-- `ENQ` and `DEQ` (R168): the checks, then the access. ORDER orders the wave's other accesses around the queue operation (R168, R275). -/
def queueOp (opc : BitVec 12) (ins : Instr) (h : Ctl) (d : Opnd) (dn : Nat) (a : Src) (srcs : List (Nat × Nat × Bool)) (ofs : BitVec 16)
    (order scope : Nat) (perf : Iss → Wave → (Nat → W64) → List (Nat × Place) → St → Perf) (s : State) : Host.Outcome State Fault Refusal :=
  issue opc h { Req.none with srcs := a.rng 2 ++ srcs, dsts := d.rng dn } (fun i s =>
    let x := s.d.wave i.w
    let ea := a.ea ofs x
    match s.headers i ea with
    | .error r => r
    | .ok (ps, s) => s.access i x ins order scope 64 true true ea ps (some (d.dest dn)) (i.act != 0) (perf i x ea ps)) s

/-- The registers of a slot (R168). -/
def slotRegs (sz : BitVec 2) : Nat := 2 * 2 ^ sz.toNat

/-- `ENQ` as it is performed. -/
def enqPerf (b : Src) (order : BitVec 3) (sz : BitVec 2) (blk : Bool) : Iss → Wave → (Nat → W64) → List (Nat × Place) → St → Perf :=
  queuePerf 0x4C0 sz order blk true (fun x l => x.group l b.o.idx (slotRegs sz))

/-- `ENQ` (R168). -/
def execEnq (h : Ctl) (d : Opnd) (a b : Src) (ofs : BitVec 16) (scope order : BitVec 3) (sz : BitVec 2) (blk : Bool) (s : State) :
    Host.Outcome State Fault Refusal :=
  queueOp 0x4C0 (.enq h d a b ofs scope order sz blk) h d 1 a (b.rng (slotRegs sz)) ofs order.toNat scope.toNat (enqPerf b order sz blk) s

/-- `DEQ` as it is performed. -/
def deqPerf (order : BitVec 3) (sz : BitVec 2) (blk : Bool) : Iss → Wave → (Nat → W64) → List (Nat × Place) → St → Perf :=
  queuePerf 0x4C1 sz order blk false (fun _ _ => 0)

/-- `DEQ` (R168). -/
def execDeq (h : Ctl) (d : Opnd) (a : Src) (ofs : BitVec 16) (scope order : BitVec 3) (sz : BitVec 2) (blk : Bool) (s : State) :
    Host.Outcome State Fault Refusal :=
  queueOp 0x4C1 (.deq h d a ofs scope order sz blk) h d (1 + slotRegs sz) a [] ofs order.toNat scope.toNat (deqPerf order sz blk) s

/-- A waiting request is reset (R167, R331): a lane's completes with status 0x8000_0000 and an error, the other lanes of its operation with 0, and the
operation is complete when no other request of it waits. A distributor's dequeue is made anew, its enqueue is over. -/
def Device.resetWait (d : Device) (q : QWait) : Device :=
  if q.uid = 0 then (if q.enq then d.servedUnit q 0 0 else d)
  else
    let more := d.qwaits.any (fun p => p.uid == q.uid && p.op == q.op)
    (d.updWave q.uid (·.landWrite q.op none)).updOp q.uid q.op (fun o => { o with
      vals := (if o.err.any (·.kind == 3) then o.vals else []).put q.lane 0x80000000
      err := some (mkDetail 3 o.opc q.va)
      done := !more })

/-- `QINIT` at one header (R167). -/
def St.qinitAt (s : St) (hp : Place) (ring : W64) (sz : Nat) : St :=
  let r := s.homeRead hp 64
  let key := hp.key r.2.d
  let h := (if hdrEdge r.1 then 2 ^ 200 else 0) + 2 ^ 192 * sz + 2 ^ 134 * (ring.toNat / 64) + 2 ^ 128 * (ring.toNat % 64)
  let waiting := r.2.d.qwaits.filter (·.hdr == key)
  let s := r.2.withD fun d => waiting.foldl Device.resetWait { d with qwaits := d.qwaits.filter (·.hdr != key) }
  s.homeWrite hp 64 h

/-- `QINIT` (R167). DESIGN CHOICE (log 47): lanes at one header act in ascending order, so that the highest one's `xb` stands. -/
def execQinit (h : Ctl) (a b : Src) (ofs : BitVec 16) (sz : BitVec 2) (s : State) : Host.Outcome State Fault Refusal :=
  issue 0x4C2 h { Req.none with srcs := a.rng 2 ++ b.rng 2 } (fun i s =>
    let x := s.d.wave i.w
    let ea := a.ea ofs x
    match s.checks i (lanesOf i.act) ea 64 64 .both with
    | .error r => r
    | .ok (ps, s) =>
      let big := ps.filter (fun p => 24 < (b.x x p.1).toNat % 64)
      if !big.isEmpty then ctrlRes 17 0 (maskOfList (big.map (·.1))) 0
      else match hostPlaces ps with
        | (l, p) :: r => memRes (.plain 14) (ea l) .both (maskOfList (((l, p) :: r).map (·.1))) 0
        | [] =>
          s.boundFirst i x ea 64 ps
            (.ok { Eff.plain (ps.foldl (fun s p => s.qinitAt p.2 (b.x x p.1) sz.toNat) s) with pub := i.act != 0 })) s

/-- What `QSTAT` answers for a header: the occupancy and the room (R169). -/
def qstatVal (hdr : Nat) : Nat := hdrOcc hdr % 2 ^ 32 + 2 ^ 32 * ((hdrN hdr + 2 ^ 32 - hdrOcc hdr % 2 ^ 32) % 2 ^ 32)

/-- The answers of `QSTAT` (R169): each header at one point of its order. -/
def St.qstats (s : St) (i : Iss) (ps : List (Nat × Place)) : Tab Nat × St :=
  ps.foldl (fun t p =>
    let q := (t.2.meetQueue i.core p.2).homeRead p.2 64
    (t.1.put p.1 (qstatVal q.1), q.2)) ([], s)

/-- `QSTAT` (R169). -/
def execQstat (h : Ctl) (d : Opnd) (a : Src) (ofs : BitVec 16) (s : State) : Host.Outcome State Fault Refusal :=
  issue 0x4C3 h { Req.none with srcs := a.rng 2, dsts := d.rng 2 } (fun i s =>
    let x := s.d.wave i.w
    let ea := a.ea ofs x
    match s.headers i ea with
    | .error r => r
    | .ok (ps, s) =>
      let r := s.qstats i ps
      s.boundFirst i x ea 64 ps (.ok { Eff.plain r.2 with out := .long (d.dest 2) r.1 true (s.readErrs 0x4C3 ea ps) false })) s

/-! ### Sharing groups -/

/-- `GJOIN` (R171): nothing for a member or a formed block. -/
def execGjoin (h : Ctl) (s : State) : Host.Outcome State Fault Refusal :=
  issue 0x500 h Req.none (fun i s =>
    .ok (Eff.plain (if i.act = 0 then s else s.withD fun d =>
      let b := d.block i.blk
      d.setBlock i.blk (if b.formed || b.member then b else { b with member := true })))) s

/-- `GLEAVE` (R171): the leaving takes effect when the accepted peer accesses have completed. -/
def execGleave (h : Ctl) (s : State) : Host.Outcome State Fault Refusal :=
  issue 0x501 h Req.none (fun i s =>
    .ok (Eff.plain (if i.act = 0 then s else s.withD fun d =>
      let b := d.block i.blk
      d.setBlock i.blk (if b.member then { b with leaving := true } else b)))) s

/-- The bound member of a block's group with a member index (R12, R170, R172). -/
def Device.memberOf (d : Device) (blk m : Nat) : Option Nat :=
  let b := d.block blk
  let l := d.launch b.slot
  let k := l.los l.gb - l.los l.bb
  if b.formed || 2 ^ k ≤ m then none
  else
    let t := b.index / 2 ^ k * 2 ^ k + m
    (d.blocks.find? (fun e => e.2.live && e.1 != blk && e.2.slot == b.slot && !e.2.formed && e.2.index == t && e.2.member)).map (·.1)

/-- `GMAP` (R172). -/
def execGmap (h : Ctl) (a : Src) (slot : BitVec 6) (s : State) : Host.Outcome State Fault Refusal :=
  issue 0x502 h { Req.none with srcs := a.rng 1 } (fun i s =>
    let x := s.d.wave i.w
    .ok (Eff.plain (if i.act = 0 then s else s.withD fun d =>
      let b := d.block i.blk
      let t := d.memberOf i.blk (a.w x (lowest i.act)).toNat
      d.setBlock i.blk { b with windows := b.windows.put slot.toNat (t.map (fun k => ⟨k / 64, k % 64, (d.block k).gen⟩)) }))) s

end Sys2Proof.Machine
end

