-- ==== Sys2Proof/Machine/Threads.lean ====
section
/-! DEFINITION. Creating and ending threads, the register pool, and the segment query (R200 to R208). -/

namespace Sys2Proof.Machine

/-- The fault of one lane's entry pair: CTRL with its target, or MEM at the task-type entry. -/
inductive EntErr where
  | illegal
  | fetch (t : W64)
  | mem (m : MErr) (ea : W64) (kind : Nat)

/-- Its cause (R201). -/
def EntErr.cause : EntErr → Nat
  | .illegal => 17
  | .fetch _ => 18
  | .mem m _ _ => m.cause

/-- The fault. -/
def EntErr.res (e : EntErr) (lanes : Lanes) : Res :=
  match e with
  | .illegal => ctrlRes 17 0 lanes 0
  | .fetch t => ctrlRes 18 t lanes 0
  | .mem m ea k => memRes m ea .read lanes k

/-- The address that an entry pair names: itself, or ENTRY of its task-type entry, read before issue (R175, R201). -/
def St.entryOf (s : St) (i : Iss) (e : W64) : Except EntErr Nat :=
  let tti := field e.toNat 48 16
  let l := s.d.launch i.slot
  let addr : Except EntErr Nat :=
    if tti = 0 then .ok (e.toNat % 2 ^ 48)
    else if l.ttn ≤ tti then .error .illegal
    else
      let ea := BitVec.ofNat 64 (l.ttbase + 32 * tti)
      match s.check i.blk ea 32 32 .read true with
      | .error m => .error (.mem m ea 0)
      | .ok p => match s.readErr p with
        | some k => .error (.mem (.plain 29) ea k.toNat)
        | none => .ok (field (s.load i.core p 32).1 0 48)
  match addr with
  | .error x => .error x
  | .ok a => if a % 4 ≠ 0 then .error (.fetch (BitVec.ofNat 64 a)) else .ok a

/-- Where the task-type entry of a lane's entry pair stands, if it names one, and in memory (R201). -/
def St.tableEa (s : St) (i : Iss) (e : W64) : Option W64 :=
  let tti := field e.toNat 48 16
  let ea := BitVec.ofNat 64 ((s.d.launch i.slot).ttbase + 32 * tti)
  match s.locate i.blk ea .read with
  | .ok p => if tti = 0 || p.isScratch then none else some ea
  | .error _ => none

/-- The task-type entries have been read before issue, with fetch suspended as for a memory instruction (R146, R201). -/
def St.tableRead (s : St) (i : Iss) (e : Nat → W64) : St :=
  s.walked i (fun l => (s.tableEa i (e l)).getD 0) ((lanesOf i.act).filter (fun l => (s.tableEa i (e l)).isSome))

/-- The work identifier that a lane's record carries: its register pair, or its own (R202). -/
def spawnWork (wsrc : Option Src) (x : Wave) (l : Nat) : W64 :=
  match wsrc with
  | some v => v.x x l
  | none => (x.thread l).workid

/-- The payload that a lane's record carries (R202). -/
def spawnWords (b : Option Src) (nw : Nat) (x : Wave) (l : Nat) : List W32 :=
  match b with
  | some b => (List.range nw).map (fun k => x.reg l (b.o.idx + k))
  | none => []

/-- The record of a lane, whose entry is at `addr` (R199, R202). -/
def spawnRec (i : Iss) (x : Wave) (kind : Nat) (a : Src) (b wsrc : Option Src) (nw : BitVec 4) (prio : BitVec 2) (idem : Bool) (l addr : Nat) :
    BitVec 512 :=
  mkRec addr (field (a.x x l).toNat 48 16) (spawnWork wsrc x l).toNat i.slot kind idem prio.toNat 0 (spawnWords b nw.toNat x l)

/-- `SPAWN` and `CONT` (R201 to R203): every lane's checks, then a record for each lane. -/
def spawnOp (opc : BitVec 12) (kind : Nat) (ends : Bool) (h : Ctl) (a : Src) (b wsrc : Option Src) (tgt : BitVec 2) (nw : BitVec 4)
    (prio : BitVec 2) (idem : Bool) (s : State) : Host.Outcome State Fault Refusal :=
  issue opc h { Req.none with srcs := a.rng 2 ++ srcRng b nw.toNat ++ srcRng wsrc 2 } (fun i s =>
    let x := s.d.wave i.w
    let es := (lanesOf i.act).map (fun l => (l, s.entryOf i (a.x x l)))
    match firstBad (failures es) EntErr.cause with
    | some (_, e, m) => e.res m
    | none =>
      let s := (successes es).foldl (fun s r =>
        let rcd := spawnRec i x kind a b wsrc nw prio idem r.1 r.2
        s.send i.w (s.targetCore i.core i.asid tgt.toNat rcd) false rcd) (s.tableRead i (a.x x))
      let s := if ends then s.withD (fun d => d.setWave i.w ((lanesOf i.act).foldl (fun x l => x.endLane l) (d.wave i.w))) else s
      .ok { Eff.plain s with pub := i.act != 0 }) s

/-- `SPAWN` (R201, R202). -/
def execSpawn (h : Ctl) (a : Src) (b wsrc : Option Src) (_wid : Bool) (tgt : BitVec 2) (nw : BitVec 4) (prio : BitVec 2) (idem : Bool)
    (s : State) : Host.Outcome State Fault Refusal :=
  spawnOp 0x300 1 false h a b wsrc tgt nw prio idem s

/-- `CONT` (R203). -/
def execCont (h : Ctl) (a : Src) (b wsrc : Option Src) (_wid : Bool) (tgt : BitVec 2) (nw : BitVec 4) (prio : BitVec 2) (idem : Bool)
    (s : State) : Host.Outcome State Fault Refusal :=
  spawnOp 0x301 2 true h a b wsrc tgt nw prio idem s

/-- The lanes that leave a path group at a `SPLIT`: the smaller side, where both sides have a lane (R204). -/
def splitLeaves (i : Iss) (p : Nat → Bool) : List Nat :=
  let t := (lanesOf i.act).filter p
  let f := (lanesOf i.act).filter (fun l => !p l)
  if t.isEmpty || f.isEmpty then [] else if t.length ≤ f.length then t else f

/-- Where the lanes that leave a `SPLIT` go on (R204). -/
def splitTo (i : Iss) (p : Nat → Bool) (target : W64) : W64 :=
  if ((lanesOf i.act).filter p).length ≤ ((lanesOf i.act).filter (fun l => !p l)).length then target else i.ba.setWidth 64 + 12

/-- One lane leaves: it ends here, and its record goes to the core's own Posy (R204). -/
def St.splitLane (s : St) (i : Iss) (x : Wave) (live : BitVec 11) (addr : W64) (l : Nat) : St :=
  let b := s.d.block i.blk
  let r := mkRec addr.toNat 0 (x.thread l).workid.toNat i.slot 3 b.idem b.prio 0 (livePayload x l live)
  (s.withD (fun d => d.setWave i.w ((d.wave i.w).endLane l))).send i.w i.core false r

/-- `SPLIT` (R204). DESIGN CHOICE (log 61): of its three checks those of the split state come first; a target address at or above 2^57 drops its
bits 63:57, as a stored code address does. -/
def execSplit (h : Ctl) (a : Src) (disp : BitVec 20) (live : BitVec 11) (s : State) : Host.Outcome State Fault Refusal :=
  issue 0x302 h Req.none (fun i s =>
    let x := s.d.wave i.w
    let lanes := lanesOf i.act
    let target := i.ba.setWidth 64 + 4 * disp.signExtend 64
    let p := a.o.valP x
    let leave := splitLeaves i p
    let tX := splitTo i p target
    let deep := lanes.filter (fun l => let th := x.thread l; !th.rs.isEmpty || th.rsd != 0 || !th.ls.isEmpty)
    let late := (List.range 11).find? (fun k => live.getLsbD k && !lanes.isEmpty && x.pending (k, 1))
    if !deep.isEmpty then ctrlRes 23 0 (maskOfList deep) 0
    else if !leave.isEmpty && 2 ^ 48 ≤ tX.toNat then ctrlRes 23 0 (maskOfList leave) 0
    else match late with
      | some k => .trap 2 (regV0 k i.act) 0 0 0
      | none =>
        .ok { Eff.plain (leave.foldl (fun s l => s.splitLane i x live tX l) s) with
          next := fun l => if leave.contains l then none else some (if p l then addrOf target else i.ba + 12)
          pub := i.act != 0 }) s

/-! ### The register pool (R205 to R207) -/

/-- A result in the pipe without the registers from `n` on (R206). -/
def PipeEnt.upTo (e : PipeEnt) (n : Nat) : PipeEnt :=
  match e.dst with
  | .w r k => if n ≤ r then { e with dst := .none } else if n < r + k then { e with dst := .w r (n - r) } else e
  | _ => e

/-- `RGIVE` (R206). DESIGN CHOICE (log 62): in handler mode the results of the pipe that the trap frame keeps stay as they are; each still finds
its register given back, or claimed again, as it lands. -/
def execRgive (h : Ctl) (nb : BitVec 6) (s : State) : Host.Outcome State Fault Refusal :=
  issue 0x303 h Req.none (fun i s =>
    let x := s.d.wave i.w
    let n := 8 * nb.toNat
    let late := ((List.range (x.alloc - n)).map (· + n)).find? (fun r => x.pending (r, 1))
    if i.act = 0 || x.alloc ≤ n then .ok (Eff.plain s)
    else match late with
      | some r => .trap 3 (regV0 r i.act) 0 0 0
      | none =>
        let b := s.d.block i.blk
        let q := x.widx % 4
        let y := { x with alloc := n, pipe := x.pipe.map (·.upTo n), bad := x.bad.filter (·.2 < n) }
        .ok (Eff.plain (s.withD fun d => (d.setWave i.w y).setBlock i.blk { b with pool := b.pool.upd 0 q (· + (x.alloc - n)) }))) s

/-- Registers above the old allocation read 0, and no word of them is uncorrectable (R207, R319). -/
def Wave.grow (x : Wave) (n : Nat) : Wave :=
  { x with
    alloc := n, regs := x.regs.filter (fun e => e.1 % 256 < x.alloc || n ≤ e.1 % 256)
    bad := x.bad.filter (fun b => b.2 < x.alloc || n ≤ b.2) }

/-- An earlier claim of the block on the same pool still waits (R207). -/
def Device.claims (d : Device) (blk q order : Nat) : Bool :=
  d.waves.any (fun e => e.2.live && e.2.blk == blk && e.2.widx % 4 == q && (match e.2.wait with
    | .rclaim _ o => decide (o < order)
    | _ => false))

/-- Takes registers from the pool for a wave, if it holds them. -/
def Device.claim (d : Device) (w n : Nat) : Option Device :=
  let x := d.wave w
  let b := d.block x.blk
  let q := x.widx % 4
  if b.pool.get 0 q < n - x.alloc then none
  else some ((d.setWave w (x.grow n)).setBlock x.blk { b with pool := b.pool.upd 0 q (· - (n - x.alloc)) })

/-- `RCLAIM` (R207): the wave waits until the pool serves it, in issue order. -/
def execRclaim (h : Ctl) (nb : BitVec 6) (s : State) : Host.Outcome State Fault Refusal :=
  issue 0x304 h Req.none (fun i s =>
    let x := s.d.wave i.w
    let n := 8 * nb.toNat
    let q := x.widx % 4
    let b := s.d.block i.blk
    let others := (s.d.waves.filter (fun e => e.2.live && e.2.blk == i.blk && e.1 != i.w && e.2.widx % 4 == q)).length
    if i.act = 0 || n ≤ x.alloc then .ok (Eff.plain s)
    else if b.bq.get 0 q < n + 8 * others then ctrlRes 25 0 i.act n
    else
      let wait : Res := .ok { Eff.plain s with waits := some (.rclaim n s.d.turns) }
      if s.d.claims i.blk q s.d.turns then wait
      else match s.d.claim i.w n with
        | some d => .ok (Eff.plain { s with d := d })
        | none => wait) s

/-! ### The segment query (R208) -/

/-- What `SEGQ` answers for an address, from the die's copy of the map (R383); none when there is none to read. -/
def Device.segWord (d : Device) (core slot a : Nat) : Option Nat :=
  let l := d.launch slot
  if !l.travel then some 0
  else if l.map.isNone then none
  else match d.segOf slot a with
    | none => some 0
    | some (i, e) =>
      let pins := segPins e
      let near := match nearest core pins with
        | some c => coreId c
        | none => 0
      some (2 ^ 31 + 2 ^ 28 * (pins.length - 1) + (if pins.isEmpty then 2 ^ 25 else 0) + 2 ^ 16 * near +
        (if pins.contains core then 2 ^ 12 else 0) + i % 4096)

/-- `SEGQ` (R208). -/
def execSegq (h : Ctl) (d : Opnd) (a : Src) (s : State) : Host.Outcome State Fault Refusal :=
  issue 0x305 h { Req.none with srcs := a.rng 2, dsts := d.rng 1 } (fun i s =>
    let x := s.d.wave i.w
    let va := a.x x (lowest i.act)
    match (if i.act = 0 then some 0 else s.d.segWord i.core i.slot va.toNat) with
    | some v => .ok { Eff.plain s with out := .long (d.dest 1) (valsOf i.act (fun _ => v)) true none false }
    | none => .ok { Eff.plain s with out := .long (d.dest 1) [] true (some (mkDetail 12 0x305 va)) false }) s

end Sys2Proof.Machine
end

