-- ==== Sys2Proof/Machine/Posy.lean ====
section
/-! DEFINITION. The Posy: records reach a core, gather into forming waves, overflow into rings and the spill area (R174, R176, R336, R337,
R387 to R391, R440). -/

namespace Sys2Proof.Machine

/-! ### Overflow rings -/

/-- The header of the cold ring among a launch's headers (R337). -/
def coldRing : Nat := 288

/-- A physical address that Foxglove uses. DESIGN CHOICE (log 10): OVB, and the rings its headers name, are physical addresses. -/
def physPlace (a : Nat) : Place := if isHost a then .host a else .dev (canonical a) 0

/-- The place of a launch's header c (R337). -/
def St.ringHead (s : St) (slot c : Nat) : Place := physPlace ((s.d.launch slot).ovb.toNat + 64 * c)

/-- A header's contents. -/
def St.ringHdr (s : St) (slot c : Nat) : Nat := (s.homeRead (s.ringHead slot c) 64).1

/-- Records in a ring; 0 when the header holds none. -/
def St.ringOcc (s : St) (slot c : Nat) : Nat :=
  let h := s.ringHdr slot c
  if hdrRing h = 0 then 0 else hdrOcc h

/-- A slot of a ring. -/
def ringSlot (h i : Nat) : Place := physPlace (hdrRing h + i % hdrN h * 64)

/-- A non-blocking enqueue of a record (R390), which leaves the clock of a die with the slot (R281); none where there is no ring, or no room. -/
def St.ringPut (s : St) (die slot c : Nat) (r : BitVec 512) : Option St :=
  let h := s.ringHdr slot c
  if hdrRing h = 0 || hdrN h ≤ hdrOcc h then none
  else
    let s := (s.meetQueue (72 * die) (ringSlot h (hdrTail h))).homeWrite (ringSlot h (hdrTail h)) 64 r.toNat
    some (s.homeWrite (s.ringHead slot c) 64 (hdrClean (setField h 0 64 (hdrTail h + 1))))

/-- The record at the head of a ring, and the state without it. -/
def St.ringTake (s : St) (slot c : Nat) : Option (BitVec 512 × St) :=
  let h := s.ringHdr slot c
  if s.ringOcc slot c = 0 then none
  else
    let r := s.homeRead (ringSlot h (hdrHead h)) 64
    some (BitVec.ofNat 512 r.1, r.2.homeWrite (s.ringHead slot c) 64 (hdrClean (setField h 64 64 (hdrHead h + 1))))

/-! ### Forming waves -/

/-- Records discarded, counted and reported to Foxglove with their slot and TTI (R174, R440). -/
def Device.discardRecs (d : Device) (rs : List (BitVec 512)) : Device :=
  { d with discards := d.discards + rs.length, logs := d.logs ++ rs.map (fun r => (recSlot r, recTti r)) }

/-- The place in `forms` of the i-th wave of a core. -/
def Device.formAt (d : Device) (core i : Nat) : Option (Nat × Form) :=
  let ks := (List.range d.forms.length).filterMap (fun k => match d.forms[k]? with
    | some f => if f.core == core then some (k, f) else none
    | none => none)
  ks[i]?

/-- A record joins the wave: it has the wave's key, a lane is free, and the wave is not released, or waits for its task-type entry
(R176, R336, R440). -/
def Form.joins (f : Form) (core : Nat) (r : BitVec 512) : Bool :=
  f.core == core && f.recs.length < 32 && f.recs.any (fun q => recKey q == recKey r) && (!f.released || (recTti r != 0 && f.entry.isNone))

/-- The Posy has room and a key for a record (R336). -/
def Device.posyTakes (d : Device) (core : Nat) (r : BitVec 512) : Bool :=
  d.posyCount core < 256 &&
    (d.forms.any (fun f => f.joins core r) || (d.forms.filter (fun f => f.core == core && !f.released)).length < 32)

/-- Foxglove is told that a released wave of a launch waits on a core for an offer (R336). -/
def Device.tellOffer (d : Device) (slot core : Nat) : Device :=
  { d with offersDue := if d.offersDue.contains (slot, core) then d.offersDue else d.offersDue ++ [(slot, core)] }

/-- The Posy takes a record: into the first wave it joins, or a new one; a wave of 32 lanes is released (R176). -/
def Device.posyPut (d : Device) (core : Nat) (r : BitVec 512) : Device :=
  match (List.range d.forms.length).find? (fun k => d.forms[k]?.any (fun f => f.joins core r)) with
  | some k =>
    let full := (d.forms[k]?.map (·.recs.length)).getD 0 == 31
    let d := { d with forms := d.forms.modify k (fun f => { f with recs := f.recs ++ [r], released := f.released || full }) }
    if full then d.tellOffer (recSlot r) core else d
  | none => { d with forms := d.forms ++ [⟨core, [r], d.clock.toNat, false, none, false⟩] }

/-- The bytes that are free in a die's spill area. DESIGN CHOICE (log 65): its size is Foxglove's. -/
def Device.spillFree (d : Device) (die : Nat) : Nat := Config.spillBytes - 64 * (d.spill.filter (·.1 == die)).length

/-- Foxglove suspends a launch: its blocks are to be saved at once, and none is offered (R391). -/
def Device.suspendNow (d : Device) (slot : Nat) : Device :=
  let d := d.setLaunch slot { d.launch slot with suspended := true }
  { d with blocks := d.blocks.map (fun b =>
      if b.2.live && b.2.slot == slot then (b.1, { b.2 with preq := true, deadline := d.clock }) else b) }

/-- The spill step: the record waits in a die's spill area and Foxglove is told (R390), which suspends the launch when less than 288 KiB of the area
is left free (R391). -/
def Device.spillRec (d : Device) (die slot core : Nat) (r : BitVec 512) : Device :=
  let d := { d with
    spill := d.spill ++ [(die, core, r)]
    overflowDue := if d.overflowDue.contains (slot, core) then d.overflowDue else d.overflowDue ++ [(slot, core)] }
  if d.spillFree die < 294912 then d.suspendNow slot else d

/-- The second and third steps of a delivery (R390): the ring, then the spill area of the die that the record has reached. -/
def St.toRing (s : St) (die core : Nat) (r : BitVec 512) : St :=
  match s.ringPut die (recSlot r) core r with
  | some t => t
  | none => s.withD (·.spillRec die (recSlot r) core r)

/-- THE DELIVERY OF A RECORD BOUND FOR A CORE (R390). -/
def St.deliverRec (s : St) (core : Nat) (r : BitVec 512) : St :=
  if s.ringOcc (recSlot r) core = 0 && s.d.posyTakes core r then s.withD (·.posyPut core r) else s.toRing (dieOf core) core r

/-- Where a hop record goes that has reached a core which no longer pins its segment (R390): a current replica, or none for the cold
ring. -/
def Device.forwardTo (d : Device) (core : Nat) (r : BitVec 512) : Option Nat :=
  match d.segOf (recSlot r) (recAddr r) with
  | none => none
  | some (_, e) => d.replica core (recSlot r) (d.aqt (recSlot r)) e

/-- A record may leave its sender (R202, R281); one that comes from no wave waits for nothing. -/
def Device.transitDue (d : Device) (t : Transit) : Bool := t.uid == 0 || d.leaves t.uid t.need t.before

/-- Puts a record after those of its sending core and of lower ones. -/
def Transit.insert (t : Transit) : List Transit → List Transit
  | [] => [t]
  | u :: us => if t.src < u.src then t :: u :: us else u :: t.insert us

/-- The records that may reach their cores: the lower sending core's first, and those of one core as it sent them (R393, R417). -/
def Device.arrivals (d : Device) : List Transit :=
  (d.transit.filter (fun t => t.rank.isNone && d.transitDue t)).foldl (fun ts t => t.insert ts) []

/-- A core has taken a hop record of a launch in this period (R386). -/
def Device.hopIn (d : Device) (slot core : Nat) : Device :=
  if d.hopsIn.contains (slot, core) then d else { d with hopsIn := d.hopsIn ++ [(slot, core)] }

/-- A record reaches a core of a TRAVEL launch that does not pin its segment, for the first time (R390). -/
def Device.strays (d : Device) (t : Transit) : Bool :=
  (d.launch (recSlot t.rcd)).travel && !t.forwarded && !d.staysOn t.core (recSlot t.rcd) (recAddr t.rcd)

/-- The clock with which a record arrives: its sender's as it left, which is after everything that it waited for (R202, R281). -/
def Device.sentClk (d : Device) (t : Transit) : Tab Nat :=
  if t.src < Config.cores then (List.range 4).map (fun k => (k, max (t.vc.get 0 k) (d.clkOf (dieOf t.src) k))) else t.vc

/-- The i-th record in transit that may leave reaches its core (R202, R390). -/
def St.recArrive (s : St) (i : Nat) : Option St :=
  match s.d.arrivals[i]? with
  | none => none
  | some t =>
    let s := s.withD fun d => ({ d with transit := d.transit.erase t }).takeClk (dieOf t.core) (d.sentClk t)
    let slot := recSlot t.rcd
    if !(s.d.launch slot).used || (s.d.launch slot).aborted then some (s.withD (·.discardRecs [t.rcd]))
    else if t.cold then some (s.toRing (dieOf t.core) coldRing t.rcd)
    else if t.toRing then some (s.toRing (dieOf t.core) t.core t.rcd)
    else if s.d.strays t then
      match s.d.forwardTo t.core t.rcd with
      | some c => some (s.withD fun d => { d with transit := d.transit ++ [{ t with core := c, src := t.core, forwarded := true }] })
      | none => some (s.toRing (dieOf t.core) coldRing t.rcd)
    else some ((if recKind t.rcd = 4 then s.withD (·.hopIn slot t.core) else s).deliverRec t.core t.rcd)

/-- `POSY_RECORD_ARRIVAL` (R390). -/
def execPosyRecordArrival (i : Nat) (s : State) : Host.Outcome State Fault Refusal := event s (fun s => s.recArrive i)

/-- `FORM_TIMEOUT` (R336): FTIME nanoseconds since the oldest record, at 1.7 cycles each; the release of fewer than 32 lanes counts. -/
def execFormTimeout (core i : Nat) (s : State) : Host.Outcome State Fault Refusal :=
  event s (fun s =>
    match s.d.formAt core i with
    | none => none
    | some (k, f) =>
      let l := s.d.launch (recSlot (f.recs.headD 0))
      if f.released || 10 * (s.d.clock.toNat - f.since) < 17 * l.ftime then none
      else some (s.withD fun d => (({ d with forms := d.forms.modify k (fun f => { f with released := true }) }).tellOffer
        (recSlot (f.recs.headD 0)) core).pmc l.asid core 13 1))

/-- The task-type entry of a wave, as the Posy reads it: none where a translation or a permission fails, an error kind for poison or the
Dunvia Link (R440). -/
def St.taskEntry (s : St) (core asid va : Nat) : Option (Nat ⊕ BitVec 8) :=
  match s.translate (sliceOf core) asid va with
  | .error _ => none
  | .ok (pa, pte, _) =>
    if 2 ^ 57 ≤ va || !permits pte .read then none
    else
      let p := if isHost pa then Place.host pa else .dev (canonical pa) pte
      match s.readErr p with
      | some k => some (.inr k)
      | none => some (.inl (s.load core p 32).1)

/-- `TASK_TYPE_READ` (R440). `resolved` is Foxglove's answer for a read that failed: the read is made again, or the records go. -/
def execTaskTypeRead (core i : Nat) (resolved : Bool) (s : State) : Host.Outcome State Fault Refusal :=
  event s (fun s =>
    match s.d.formAt core i with
    | none => none
    | some (k, f) =>
      let r := f.recs.headD 0
      let l := s.d.launch (recSlot r)
      let drop := s.withD fun d => ({ d with forms := d.forms.eraseIdx k }).discardRecs f.recs
      if recTti r = 0 || f.entry.isSome then none
      else if l.ttn ≤ recTti r || (f.failed && !resolved) then some drop
      else match s.taskEntry core l.asid (l.ttbase + 32 * recTti r) with
        | none => some (s.withD fun d => { d with forms := d.forms.modify k (fun f => { f with failed := true }) })
        | some (.inr _) => some drop
        | some (.inl e) =>
          let entry := (field e 64 9, field e 80 32, BitVec.ofNat 16 (field e 112 16))
          some (s.withD fun d => { d with forms := d.forms.modify k (fun f => { f with entry := some entry, failed := false }) }))

/-- `OVERFLOW_RING_DRAIN` (R390): the Posy takes the record at the head of its ring when it has room; a malformed one is discarded
(R174). -/
def execOverflowRingDrain (core slot : Nat) (s : State) : Host.Outcome State Fault Refusal :=
  event s (fun s => match s.ringTake slot core with
    | none => none
    | some (r, t) =>
      if Config.cores ≤ core then none
      else if recBad r then some (t.withD (·.discardRecs [r]))
      else if s.d.posyTakes core r then
        some ((t.meetQueue core (ringSlot (s.ringHdr slot core) (hdrHead (s.ringHdr slot core)))).withD (·.posyPut core r))
      else none)

/-- The records of a ring, in order. -/
def St.ringAll (s : St) (slot c : Nat) : Nat → List (BitVec 512)
  | 0 => []
  | n + 1 => match s.ringTake slot c with
    | none => []
    | some (r, t) => r :: t.ringAll slot c n

/-- Writes records into a ring's slots from slot `i` on. -/
def St.ringFill (s : St) (h : Nat) : Nat → List (BitVec 512) → St
  | _, [] => s
  | i, r :: rs => (s.homeWrite (ringSlot h i) 64 r.toNat).ringFill h (i + 1) rs

/-- Spilled records move into their ring as long as it has room. -/
def St.unspill (s : St) (slot core : Nat) : List (Nat × Nat × BitVec 512) → St
  | [] => s
  | e :: es =>
    if e.2.1 == core && recSlot e.2.2 == slot then
      match s.ringPut e.1 slot core e.2.2 with
      | some t => (t.withD fun d => { d with spill := d.spill.erase e }).unspill slot core es
      | none => s.unspill slot core es
    else s.unspill slot core es

/-- A ring's slots lie on its core's own channel, through the direct window; the cold ring's lie in device memory (R337). -/
def ringOk (c base log2n : Nat) : Bool :=
  let stop := base + 64 * 2 ^ log2n
  let lo := 0x0080_0000_0000 + c * 2 ^ 30
  base % 64 = 0 && (if c = coldRing then base != 0 && !isHost stop && !isReserved base else lo ≤ base && stop ≤ lo + 2 ^ 30)

/-- `OVERFLOW_EXTEND` (R391): Foxglove builds a larger ring of 2^log2n slots at an address, moves the waiting records into it, rewrites the
header and moves the spilled records in. -/
def execOverflowExtend (slot core : Nat) (base : W64) (log2n : Nat) (s : State) : Host.Outcome State Fault Refusal :=
  event s (fun s =>
    let h := s.ringHdr slot core
    if !s.d.overflowDue.contains (slot, core) || !ringOk core base.toNat log2n || 24 < log2n || (hdrRing h ≠ 0 && 2 ^ log2n ≤ hdrN h) then none
    else
      let rs := s.ringAll slot core (s.ringOcc slot core)
      let h' := rs.length + 2 ^ 128 * log2n + 2 ^ 134 * (base.toNat / 64) + 2 ^ 192 * 3
      let s := (s.ringFill h' 0 rs).homeWrite (s.ringHead slot core) 64 h'
      let s := s.unspill slot core s.d.spill
      some (s.withD fun d =>
        if d.spill.any (fun e => e.2.1 == core && recSlot e.2.2 == slot) then d
        else
          let d := { d with overflowDue := d.overflowDue.filter (· != (slot, core)) }
          -- a suspended launch is offered again once its spilled records have been drained (R391)
          if d.spill.any (fun e => recSlot e.2.2 == slot) then d else d.setLaunch slot { d.launch slot with suspended := false }))

/-- The occupancy of a core for a launch: its records in the Posy and in the core's ring (R388). -/
def St.occupancy (s : St) (core slot : Nat) : Nat :=
  ((s.d.forms.filter (·.core == core)).map (fun f => (f.recs.filter (fun r => recSlot r == slot)).length)).sum + s.ringOcc slot core

/-- `OCCUPANCY_REPORT` (R388): one below AQT ends a period's claim to another replica (R386). -/
def execOccupancyReport (core slot : Nat) (s : State) : Host.Outcome State Fault Refusal :=
  event s (fun s => if (s.d.launch slot).used then some (s.withD fun d => { d with
      occ := d.occ.put (4096 * core + slot) (s.occupancy core slot)
      cool := if s.occupancy core slot < s.d.aqt slot && !d.cool.contains (core, slot) then d.cool ++ [(core, slot)] else d.cool })
    else none)

/-- The records of the cold ring, the first `n`, whose segments have a replica go to its first core, with the clock that stands with the ring's slot;
malformed ones are discarded (R174, R281, R386, R390); the others stay in order. DESIGN CHOICE (log 59): the spec does not say how they leave the
ring. -/
def St.thaw (s : St) (slot : Nat) : Nat → St
  | 0 => s
  | n + 1 => match s.ringTake slot coldRing with
    | none => s
    | some (r, t) =>
      if recBad r then (t.withD (·.discardRecs [r])).thaw slot n
      else match ((s.d.segOf slot (recAddr r)).map (fun e => segPins e.2)).getD [] with
      | c :: _ => (((t.meetQueue (72 * dieOf c) (ringSlot (s.ringHdr slot coldRing) (hdrHead (s.ringHdr slot coldRing)))).withD
          (·.hopIn slot c)).deliverRec c r).thaw slot n
      | [] => (t.toRing 0 coldRing r).thaw slot n

end Sys2Proof.Machine
end

