-- ==== Sys2Proof/Machine/Engine.lean ====
section
/-! DEFINITION. Byte-count barriers, tiles and copies: the instructions and the copy request engine (R211 to R227, R367 to R373). -/

namespace Sys2Proof.Machine

/-- EA of the lowest active lane, for an instruction that acts for the wave (R211). -/
def waveEa (a : Src) (ofs : BitVec 16) (i : Iss) (x : Wave) : W64 := a.ea ofs x (lowest i.act)

/-- Every active lane gets one value. -/
def forAll (i : Iss) (v : Nat) : Tab Nat := valsOf i.act (fun _ => v)

/-! ### Byte-count barriers (R221 to R223) -/

/-- The object at a window address, or the check that fails: misaligned, or not in the window area (R222). -/
def St.barrierChk (s : St) (i : Iss) (ea : W64) (a : Acc) : Except MErr Place :=
  match s.check i.blk ea 16 16 a true with
  | .ok (.scratch k o) => .ok (.scratch k o)
  | .ok _ => .error (.plain 11)
  | .error e => .error (if e.cause = 9 || e.cause = 10 then .plain 11 else e)

/-- The object of an instruction that acts for the wave. -/
def St.barrierAt (s : St) (i : Iss) (ea : W64) (a : Acc) : Except Res Place :=
  (s.barrierChk i ea a).mapError (fun e => memRes e ea a i.act 0)

/-- PEND, PHASE, ERR, INIT. -/
def objPend (o : Nat) : Nat := field o 0 32
/-- PHASE. -/
def objPhase (o : Nat) : Nat := field o 64 16
/-- ERR. -/
def objErr (o : Nat) : Bool := field o 80 1 = 1
/-- INIT. -/
def objInit (o : Nat) : Nat := field o 96 32

/-- DEC (R223) on an object. -/
def objDec (o n : Nat) : Nat :=
  if n = 0 then o
  else
    let ovr := objPend o < n
    let o := if ovr then setField o 80 1 1 else o
    let pend := objPend o - min n (objPend o)
    if pend = 0 then setField (setField o 0 32 (objInit o)) 64 16 (objPhase o + 1) else setField o 0 32 pend

/-- An object as an engine reads and writes it back: its reserved bits are 0 (R5). -/
def objClean (o : Nat) : Nat := field o 0 32 + 2 ^ 64 * field o 64 17 + 2 ^ 96 * field o 96 32

/-- What `BWAIT` writes: PHASE + ERR × 2^16 (R223). -/
def objWord (o : Nat) : Nat := objPhase o + if objErr o then 2 ^ 16 else 0

/-- Completes the waits on an object whose phase has passed (R223). -/
def St.bwake (s : St) (key : Nat) : St :=
  let o := s.rdN key 16
  let go := s.d.bwaits.filter (fun b => b.obj == key && objPhase o != b.phase.toNat)
  -- a wait on another die's object takes that die's clock with its answer (R277)
  let home := (key - 2 ^ 52) / 2 ^ 20
  let s := go.foldl (fun s b => match s.d.byUid b.uid with
    | some (w, _) => s.withD (·.meetDie (dieOf (w / 64)) (dieOf home))
    | none => s.withD fun d => d.oweClk b.uid (d.clkVec (dieOf home))) s
  s.withD fun d => go.foldl (fun d b => d.updOp b.uid b.op (fun p => { p with
      vals := (lanesOf p.lanes).map (fun l => (l, objWord o))
      done := true
      err := if objErr o then some (mkDetail 11 p.opc b.va) else p.err }))
    { d with bwaits := d.bwaits.filter (fun b => !(b.obj == key && objPhase o != b.phase.toNat)) }

/-- The error of an object whose line is poisoned: what changes or reads it completes with it (R320). -/
def St.objErr (s : St) (key : Nat) : Option (BitVec 8) := if s.d.poison.contains (lineOf key) then some 1 else none

/-- Changes an object at its scratchpad ALU; one in a poisoned line is not written (R320). DESIGN CHOICE (log 48): R44 lets an object that an ordinary
store changes while bytes are outstanding act by its old or new contents; it acts as it stands. -/
def St.objUpd (s : St) (key : Nat) (f : Nat → Nat) : St :=
  if (s.objErr key).isSome then s else (s.wrN key 16 (objClean (f (objClean (s.rdN key 16))))).bwake key

/-- `BINIT` (R223). -/
def execBinit (h : Ctl) (a b : Src) (ofs : BitVec 16) (s : State) : Host.Outcome State Fault Refusal :=
  issue 0x640 h { Req.none with srcs := a.rng 2 ++ b.rng 1 } (fun i s =>
    let x := s.d.wave i.w
    if i.act = 0 then .ok { Eff.plain s with out := .long .none [] true none false }
    else
      let n := (b.w x (lowest i.act)).toNat
      let ea := waveEa a ofs i x
      match s.barrierAt i ea .write with
      | .error r => r
      | .ok p =>
        if n = 0 then ctrlRes 17 0 i.act 0
        else
          let t := (s.meetAt i.core p).objUpd (p.key s.d) (fun o => setField (setField (setField o 0 32 n) 80 1 0) 96 32 n)
          s.boundFirst i x (fun _ => ea) 16 [(lowest i.act, p)]
            (.ok { Eff.plain t with out := .long .none [] true ((s.objErr (p.key s.d)).map (fun k => mkDetail k 0x640 ea)) false })) s

/-- The scope that reaches from a core to the scratchpad of a block (R223): 1 the core itself, 2 its cluster, 3 its die, 4 the package. -/
def reach (core blk : Nat) : Nat :=
  if blk / 64 = core then 1 else if sliceOf (blk / 64) = sliceOf core then 2 else if dieOf (blk / 64) = dieOf core then 3 else 4

/-- The widest scope that the lanes of a `BARR` need. -/
def reachOf (core : Nat) (ps : List (Nat × Place)) : Nat :=
  ps.foldl (fun m p => match p.2 with
    | .scratch k _ => max m (reach core k)
    | _ => m) 1

/-- `BARR` as it is performed (R223): lanes in ascending order. -/
def barrPerf (b : Src) (i : Iss) (x : Wave) (ea : Nat → W64) (ps : List (Nat × Place)) (s : St) : Perf :=
  ⟨[], s.readErrs 0x641 ea ps, false, [], [], false, ps.foldl (fun s p => (s.meetAt i.core p.2).objUpd (p.2.key s.d) (fun o => objDec o (b.w x p.1).toNat)) s⟩

/-- The objects of the lanes of a `BARR`, or its fault (R222, R350). -/
def St.barrs (s : St) (i : Iss) (ea : Nat → W64) : Except Res (List (Nat × Place)) :=
  let rs := (lanesOf i.act).map (fun l => (l, s.barrierChk i (ea l) .write))
  match failures rs with
  | (l, e) :: bad => .error (memRes e (ea l) .write (maskLanes (fun j => ((l, e) :: bad).any (fun b => b.1 == j && b.2.cause == e.cause))) 0)
  | [] => .ok (successes rs)

/-- `BARR` (R223): a release at the scope that reaches the object's scratchpad. -/
def execBarr (h : Ctl) (a b : Src) (ofs : BitVec 16) (s : State) : Host.Outcome State Fault Refusal :=
  issue 0x641 h { Req.none with srcs := a.rng 2 ++ b.rng 1 } (fun i s =>
    let x := s.d.wave i.w
    let ea := a.ea ofs x
    match s.barrs i ea with
    | .error r => r
    | .ok ps => s.access i x (.barr h a b ofs) 2 (reachOf i.core ps) 16 false true ea ps (some .none) false (barrPerf b i x ea ps)) s

/-- `BWAIT` (R223). -/
def execBwait (h : Ctl) (d : Opnd) (a b : Src) (ofs : BitVec 16) (s : State) : Host.Outcome State Fault Refusal :=
  issue 0x642 h { Req.none with srcs := a.rng 2 ++ b.rng 1, dsts := d.rng 1 } (fun i s =>
    let x := s.d.wave i.w
    let ea := waveEa a ofs i x
    if i.act = 0 then .ok { Eff.plain s with out := .long (d.dest 1) [] true none false }
    else
      let ph := (b.w x (lowest i.act)).setWidth 16
      match s.barrierAt i ea .read with
      | .error r => r
      | .ok p =>
        let key := p.key s.d
        let o := objClean (s.rdN key 16)
        let t := s.meetAt i.core p
        s.boundFirst i x (fun _ => ea) 16 [(lowest i.act, p)] (
          if (s.objErr key).isSome then
            .ok { Eff.plain t with out := .long (d.dest 1) [] true ((s.objErr key).map (fun k => mkDetail k 0x642 ea)) false }
          else if objPhase o ≠ ph.toNat then
            .ok { Eff.plain t with
              out := .long (d.dest 1) (forAll i (objWord o)) true (if objErr o then some (mkDetail 11 0x642 ea) else none) false }
          else
            let s := s.withD fun d => { d with bwaits := d.bwaits ++ [⟨key, ph, x.uid, i.opid, ea⟩] }
            .ok { Eff.plain s with out := .long (d.dest 1) [] false none false })) s

/-- `BTST` (R223). -/
def execBtst (h : Ctl) (d : Opnd) (a : Src) (ofs : BitVec 16) (s : State) : Host.Outcome State Fault Refusal :=
  issue 0x643 h { Req.none with srcs := a.rng 2, dsts := d.rng 2 } (fun i s =>
    let x := s.d.wave i.w
    let ea := waveEa a ofs i x
    if i.act = 0 then .ok { Eff.plain s with out := .long (d.dest 2) [] true none false }
    else match s.barrierAt i ea .read with
      | .error r => r
      | .ok p =>
        let o := objClean (s.rdN (p.key s.d) 16)
        s.boundFirst i x (fun _ => ea) 16 [(lowest i.act, p)]
          (.ok { Eff.plain (s.meetAt i.core p) with
            out := .long (d.dest 2) (forAll i (objPend o + 2 ^ 32 * objWord o)) true ((s.objErr (p.key s.d)).map (fun k => mkDetail k 0x643 ea)) false })) s

/-! ### Tiles (R224 to R227) -/

/-- A tile of a block. -/
def Block.tile (b : Block) (t : Nat) : Tile := b.tiles.get Tile.free t
/-- Changes a tile. -/
def Block.updTile (b : Block) (t : Nat) (f : Tile → Tile) : Block := { b with tiles := b.tiles.put t (f (b.tile t)) }
/-- Changes a tile of a block of the device. -/
def Device.updTile (d : Device) (k t : Nat) (f : Tile → Tile) : Device := d.setBlock k ((d.block k).updTile t f)

/-- A copy or a matrix operation ends a read of a tile; a draining tile with none left is EMPTY and its `TREL` retires (R226). -/
def Device.nrdDown (d : Device) (k t : Nat) : Device :=
  let b := d.block k
  let x := b.tile t
  let n := x.nrd - 1
  let empty := n = 0 && x.state = 3
  let d := d.setBlock k (b.updTile t (fun x => { x with nrd := n, state := if empty then 0 else x.state }))
  if empty then
    { d with waves := d.waves.map (fun e =>
        if e.2.blk == k then (e.1, { e.2 with ops := e.2.ops.map (fun o =>
          if o.opc == 0x646 && !o.done && o.vals.get 0 0 == t then { o with done := true } else o) })
        else e) }
  else d

/-- A copy ends its landing in a tile; when none lands the tile is READY (R227). -/
def Device.nfillDown (d : Device) (k t : Nat) : Device :=
  d.updTile k t (fun x => { x with nfill := x.nfill - 1, state := if x.nfill ≤ 1 && x.state = 1 then 2 else x.state })

/-- A copy begins to land in a tile (R227). -/
def Device.nfillUp (d : Device) (k t : Nat) : Device := d.updTile k t (fun x => { x with nfill := x.nfill + 1, state := 1 })

/-- A tile index at or beyond the grant (R224). The record's specifier is not stated: a free value (log 5). -/
def St.tileRange (s : St) (i : Iss) (t : Nat) : Option Res :=
  if t < (s.d.block i.blk).tileN then none
  else some (.trap 1 (BitVec.ofNat 64 ((Config.freeValue s.d.free).toNat % 512 + 2 ^ 32 * i.act.toNat)) 0 0 0)

/-- A tile-state fault of an instruction that names a tile by its entry. -/
def tileFault (i : Iss) (t st : Nat) : Res := memRes ⟨15, 7, 0, t, st⟩ 0 .read i.act 0

/-- `TDECL` (R226). -/
def execTdecl (h : Ctl) (a b : Src) (rdy : Bool) (tile : BitVec 6) (s : State) : Host.Outcome State Fault Refusal :=
  issue 0x644 h { Req.none with srcs := a.rng 1 ++ b.rng 1 } (fun i s =>
    let x := s.d.wave i.w
    let done (s : St) : Res := .ok { Eff.plain s with out := .long .none [] true none false }
    if i.act = 0 then done s
    else
      let k := s.d.block i.blk
      let t := tile.toNat
      let base := (a.w x (lowest i.act)).toNat
      let size := (b.w x (lowest i.act)).toNat
      match s.tileRange i t with
      | some r => r
      | none =>
        let old := k.tile t
        if old.state = 1 || old.state = 3 || old.nrd ≠ 0 then tileFault i t old.state
        else if base % 64 ≠ 0 || size % 64 ≠ 0 ||
            (size ≠ 0 && k.tiles.any (fun e => e.1 != t && e.2.size != 0 && base < e.2.base + e.2.size && e.2.base < base + size)) then
          ctrlRes 17 0 i.act 0
        else if k.scrsz < base + size then memRes (.plain 11) 0 .read i.act 0
        else done (s.withD (·.updTile i.blk t (fun _ => ⟨if rdy then 2 else 0, 0, 0, size, base⟩)))) s

/-- The 64-bit value of an entry (R224). -/
def Tile.word (t : Tile) : Nat :=
  2 ^ 62 * t.state + 2 ^ 48 * (t.nrd % 256) + 2 ^ 40 * (t.nfill % 256) + 2 ^ 20 * (t.size % 2 ^ 20) + t.base % 2 ^ 20

/-- `TSTAT` (R226). -/
def execTstat (h : Ctl) (d : Opnd) (tile : BitVec 6) (s : State) : Host.Outcome State Fault Refusal :=
  issue 0x645 h { Req.none with dsts := d.rng 2 } (fun i s =>
    match (if i.act = 0 then none else s.tileRange i tile.toNat) with
    | some r => r
    | none =>
      .ok { Eff.plain s with out := .long (d.dest 2) (forAll i ((s.d.block i.blk).tile tile.toNat).word) true none false }) s

/-- `TREL` (R226). -/
def execTrel (h : Ctl) (tile : BitVec 6) (s : State) : Host.Outcome State Fault Refusal :=
  issue 0x646 h Req.none (fun i s =>
    let t := tile.toNat
    if i.act = 0 then .ok { Eff.plain s with out := .long .none [] true none false }
    else match s.tileRange i t with
      | some r => r
      | none =>
        let x := (s.d.block i.blk).tile t
        if x.state ≠ 2 then tileFault i t x.state
        else
          let s := s.withD (·.updTile i.blk t (fun x => { x with state := if x.nrd = 0 then 0 else 3 }))
          .ok { Eff.plain s with out := .long .none [(0, t)] (x.nrd = 0) none false }) s

/-! ### The copy record (R213) -/

/-- A field of a copy record. -/
def Copy.f (c : Copy) (lo len : Nat) : Nat := field c.rcd.toNat lo len

/-- Two's complement of 32 bits as 64. -/
def sx32 (v : Nat) : Nat := if v < 2 ^ 31 then v else v + (2 ^ 64 - 2 ^ 32)

/-- Rows and their length. -/
def Copy.rows (c : Copy) : Nat := c.f 148 12 + 1
/-- Row length. -/
def Copy.rowlen (c : Copy) : Nat := c.f 128 20 + 1
/-- BEN. -/
def Copy.ben (c : Copy) : Bool := c.f 255 1 = 1
/-- FEN. -/
def Copy.fen (c : Copy) : Bool := c.kind ≠ 3 && c.f 447 1 = 1
/-- RSET. -/
def Copy.rset (c : Copy) : W64 := BitVec.ofNat 64 (c.f 256 64)
/-- MCMASK. -/
def Copy.mcmask (c : Copy) : Nat := if c.kind = 3 then c.f 320 64 else 0

/-- The window base of a block's context. -/
def Device.winBase (d : Device) (blk : Nat) : Nat := (d.ctx (d.block blk).asid).window.toNat

/-- The window slot and offset of an address, when it lies in the window area. -/
def Device.slotOf (d : Device) (blk va : Nat) : Option (Nat × Nat) :=
  let w := d.winBase blk
  if w ≤ va && va < w + 2 ^ 26 then some ((va - w) / 2 ^ 20, (va - w) % 2 ^ 20) else none

/-- Index r of the list of a `GATH` or `SCAT`, the one of the current row as it has been read (R216); none where it cannot be read. -/
def St.copyIdx (s : St) (c : Copy) (r : Nat) : Option Nat :=
  if r = c.row && c.idxv.isSome then c.idxv
  else match s.locate c.blk (BitVec.ofNat 64 (c.f 448 64 + 4 * r)) .read with
  | .ok p => some (s.loadFar c.core p 4).1
  | .error _ => none

/-- The address of index r of the list. -/
def Copy.idxVa (c : Copy) (r : Nat) : Nat := (c.f 448 64 + 4 * r) % 2 ^ 64

/-- The source of row r (R215, R216). -/
def St.copySrc (s : St) (c : Copy) (r : Nat) : Option Nat :=
  let k := if c.kind = 1 then s.copyIdx c r else some r
  k.map (fun k => (c.f 0 64 + k * sx32 (c.f 160 32)) % 2 ^ 64)

/-- The destination of row r; for `MCAST`, the offset in each reached slot. -/
def St.copyDst (s : St) (c : Copy) (r : Nat) : Option Nat :=
  let k := if c.kind = 2 then s.copyIdx c r else some r
  k.map (fun k => (c.f 64 64 + k * sx32 (c.f 192 32)) % 2 ^ 64)

/-- How a range of a scratchpad lies to a block's tiles: outside all, wholly in one, or straddling. -/
inductive Lie where
  | outside
  | inside (t : Nat)
  | straddles
deriving DecidableEq, Repr

/-- The tiles that some ranges (offset, length) meet. -/
def Block.lie (b : Block) (rs : List (Nat × Nat)) : Lie :=
  let met := b.tiles.filter (fun e => e.2.size != 0 && rs.any (fun r => r.1 < e.2.base + e.2.size && e.2.base < r.1 + r.2))
  match met with
  | [] => .outside
  | (t, x) :: more =>
    if more.isEmpty && rs.all (fun r => x.base ≤ r.1 && r.1 + r.2 ≤ x.base + x.size) then .inside t else .straddles

/-- The parts of a range of virtual addresses that lie in the block's window: reached block, offset, length. -/
def Device.pieces (d : Device) (blk : Nat) : Nat → Nat → Nat → List (Nat × Nat × Nat)
  | 0, _, _ => []
  | fuel + 1, a, n =>
    if n = 0 then []
    else
      let base := d.winBase blk
      match d.slotOf blk a with
      | some (k, o) =>
        let m := min n (2 ^ 20 - o)
        let rest := d.pieces blk fuel (a + m) (n - m)
        match d.window blk k with
        | some b => (b, o, m) :: rest
        | none => rest
      | none => if a < base && base < a + n then d.pieces blk fuel base (n - (base - a)) else []

/-- The parts of some rows, by their addresses, that lie in the block's window. -/
def Device.rowPieces (d : Device) (blk n len : Nat) (at' : Nat → Option Nat) : List (Nat × Nat × Nat) :=
  (List.range n).flatMap (fun r => match at' r with
    | some a => d.pieces blk 4 a len
    | none => [])

/-- The field checks of R214 and R218 that raise the illegal-operand fault. -/
def Copy.illegal (c : Copy) (pe : Bool) : Bool :=
  let fen := c.f 447 1 = 1
  let ty := c.f 440 3
  c.f 250 5 != 0 || c.f 224 4 != 0 || !setOk c.rset ||
    (if c.kind = 1 || c.kind = 2 then c.f 448 2 != 0 else c.f 448 64 != 0) ||
    (match c.kind with
     | 2 => c.f 320 128 != 0
     | 3 => c.f 384 64 != 0 || c.f 84 44 != 0 || c.f 244 6 != 0
     | _ =>
       if !fen then c.f 320 128 != 0
       else !pe || c.f 416 12 != 0 || 5 < ty || (c.f 439 1 = 1 && 2 ≤ ty) || (ty = 5 && c.f 443 1 = 1) ||
         (c.f 446 1 = 1 && (2 ≤ ty || c.f 428 10 != 7 || c.f 438 1 = 1)))

/-- Window slots that a record names (R214). -/
def St.copySlots (s : St) (c : Copy) : List Nat :=
  let dst := if c.kind = 3 then [] else match s.d.slotOf c.blk (c.f 64 64) with
    | some (k, _) => [k]
    | none => []
  let bar := if c.ben then [c.f 244 6] else []
  let mc := (List.range 64).filter (fun k => c.mcmask / 2 ^ k % 2 = 1)
  (dst ++ bar ++ mc).filter (· != 0)

/-- The parts of the destination that lie in the block's own scratchpad, as ranges (R214). -/
def St.copyOwn (s : St) (c : Copy) : List (Nat × Nat) :=
  match c.kind with
  | 2 => []
  | 3 => if c.mcmask % 2 = 1 then (List.range c.rows).map (fun r => ((s.copyDst c r).getD 0, c.rowlen)) else []
  | _ => ((s.d.rowPieces c.blk c.rows c.rowlen (s.copyDst c)).filter (·.1 == c.blk)).map (·.2)

/-- The sources that are checked against tiles at issue: the rows of `CPY`, `SCAT`, `MCAST`, and the index list of `GATH`, `SCAT` (R438). -/
def St.copyReads (s : St) (c : Copy) : List (Nat × Nat × Nat) × List (Nat × Nat × Nat) :=
  (if c.kind = 1 then [] else s.d.rowPieces c.blk c.rows c.rowlen (s.copySrc c),
   if c.kind = 1 || c.kind = 2 then s.d.pieces c.blk 4 (c.f 448 64) (4 * c.rows) else [])

/-- The tiles of a block that some ranges meet. -/
def Block.met (b : Block) (rs : List (Nat × Nat)) : List (Nat × Tile) :=
  b.tiles.filter (fun e => e.2.size != 0 && rs.any (fun r => r.1 < e.2.base + e.2.size && e.2.base < r.1 + r.2))

/-- Outstanding operations of a core's tile (R230). -/
def Device.tileDepth (d : Device) (core t : Nat) : Nat :=
  (d.mats.filter (fun m => m.core == core && (m.tile == t || m.tile2 == some t))).length

/-- A destination outside the block's scratchpad: some row leaves slot 0 (R359). -/
def St.copyOut (s : St) (c : Copy) : Bool :=
  let base := s.d.winBase c.blk
  if c.kind = 3 then c.mcmask / 2 != 0
  else (List.range c.rows).any (fun r => match s.copyDst c r with
    | some a => a < base || base + 2 ^ 20 < a + c.rowlen
    | none => true)

/-- The word of the `MMA` or `MMAP` that a chained command is equal to, with `w0` for its operand registers (R355). -/
def chainWord (c : Copy) (tok : Nat) : BitVec 96 :=
  let h : Ctl := ⟨false, 7, 0, some (BitVec.ofNat 4 tok), none, false⟩
  let m := BitVec.ofNat 30 (c.f 440 3 * 2 ^ 17 + c.f 439 1 * 2 ^ 16 + c.f 428 10 * 2 ^ 6 + c.f 438 1 * 2 ^ 5)
  (fieldsOf (if c.f 446 1 = 1 then 0x681 else 0x680) h (Opnd.acc (BitVec.ofNat 3 (c.f 443 3))).dBits 0 0 m).word

/-- The chained command of a record as an operation in its tile's order (R218). -/
def St.chainOp (s : St) (c : Copy) (tok : Nat) : MatOp :=
  let base := s.d.winBase c.blk
  let t := (s.d.block c.blk).accB + c.f 443 3
  { id := s.d.idn, core := c.core, blk := c.blk, uid := c.uid, op := c.op, tok := tok, kind := c.f 446 1, tile := t,
    tile2 := if c.f 440 3 = 5 then some (t + 1) else none, ty := c.f 440 3, be5 := c.f 439 1 = 1, kq := c.f 428 10,
    za := c.f 438 1 = 1, xa := BitVec.ofNat 64 (base + c.f 320 32), xb := BitVec.ofNat 64 (base + c.f 352 32),
    c := BitVec.ofNat 32 (c.f 384 32), row := 0, started := false, ended := false, chain := some c.id, go := false, lanes := 0, data := [], reads := [], start := 0, r0 := 0, word := chainWord c tok, need := 0, wrote := [] }

/-- The copy that a record at an offset of the block's scratchpad describes, as its instruction issues it. DESIGN CHOICE (log 48): R44 lets a record
that software changes while the copy is outstanding act by its old or new words; the copy goes on with the record as it stood at the issue. -/
def St.copyOf (s : St) (i : Iss) (x : Wave) (kind o : Nat) : Copy :=
  { id := s.d.idn + 1, core := i.core, blk := i.blk, uid := x.uid, op := i.opid, kind := kind
    rcd := BitVec.ofNat 512 (s.rdN (scratchBase i.core + (s.d.block i.blk).scrb + o) 64), ofs := o
    active := false, row := 0, seg := 0, idxv := none, bytes := 0, fbk := 0, parked := [], landed := false, err := none, walk := none
    deliveries := [], sentAt := 0, fills := [], reads := [], rowRead := none, wrote := [], chained := false, prio := (s.d.block i.blk).prio, need := x.wseq }

/-- How the copy's destination in its own block lies to the tiles. -/
def St.copyLie (s : St) (c : Copy) : Lie :=
  (s.d.block c.blk).lie (s.copyOwn c)

/-- The tile that a copy lands in. -/
def St.copyInto (s : St) (c : Copy) : Option Nat :=
  match s.copyLie c with
  | .inside t => some t
  | _ => none

/-- The tiles that some parts of scratchpads meet, with their blocks and states. -/
def Device.tilesMet (d : Device) (ps : List (Nat × Nat × Nat)) : List (Nat × Nat × Nat) :=
  (ps.flatMap (fun r => ((d.block r.1).met [r.2]).map (fun t => (r.1, t.1, t.2.state)))).eraseDups

/-- The tiles that a copy reads, with their blocks and states. -/
def St.copyTiles (s : St) (c : Copy) : List (Nat × Nat × Nat) :=
  let r := s.copyReads c
  s.d.tilesMet r.1 ++ s.d.tilesMet r.2

/-- The checks of R214 on a record, in its order, and the wait for a place in a tile's queue. -/
def St.copyCheck (s : St) (i : Iss) (c : Copy) (ea : W64) : Option Res :=
  let b := s.d.block i.blk
  if c.illegal i.h.post.isSome then some (ctrlRes 17 0 i.act 0)
  else if (s.copySlots c).any (fun k => (s.d.window i.blk k).isNone) then some (memRes (.plain 12) ea .write i.act 0)
  else if s.copyLie c == .straddles then some (ctrlRes 17 0 i.act 0)
  else match (s.copyInto c).filter (fun t => 2 ≤ (b.tile t).state) with
    | some t => some (memRes ⟨15, 7, 0, t, (b.tile t).state⟩ ea .write i.act 0)
    | none =>
      match (s.copyTiles c).find? (fun r => r.2.2 != 2) with
      | some r => some (memRes ⟨15, 7, 0, r.2.1, r.2.2⟩ ea .read i.act 0)
      | none =>
        let acc := c.f 443 3
        let two := c.f 440 3 = 5
        if c.ben && c.kind ≠ 3 && c.f 244 6 = 0 && b.scrsz < c.f 224 20 + 16 then some (memRes (.plain 11) ea .write i.act 0)
        else if c.fen && b.accN ≤ acc + (if two then 1 else 0) then
          some (.trap 1 (regV0 (0x134 + acc + (if b.accN ≤ acc then 0 else 1)) i.act) 0 0 0)
        else if c.fen && (16 ≤ s.d.tileDepth i.core (b.accB + acc) || (two && 16 ≤ s.d.tileDepth i.core (b.accB + acc + 1))) then
          some (.hold s (.tileq acc))
        else none

/-- The deliveries of a copy: the windows that it sends to, as they stand at issue (R217). -/
def St.copySends (s : St) (i : Iss) (c : Copy) : List (Nat × Delivery) :=
  let b := s.d.block i.blk
  ((List.range 64).filter (fun k => c.mcmask / 2 ^ k % 2 = 1)).map (fun k =>
    (k, .sent (if k = 0 then ⟨i.core, i.blk % 64, b.gen⟩ else ((b.windows.get none k).getD ⟨0, 0, 0⟩))))

/-- The copy takes its slot: its tiles count it, its report begins anew, its chained command takes its place (R217 to R220, R227). -/
def St.copyTake (s : St) (i : Iss) (c : Copy) : St :=
  let rd := (s.copyTiles c).map (fun r => (r.1, r.2.1))
  let fl := (s.copyInto c).toList.map (fun t => (i.blk, t))
  let c := { c with chained := c.fen, fills := fl, reads := rd, deliveries := s.copySends i c }
  let m := s.chainOp c ((i.h.post.map (·.toNat)).getD 0)
  s.withD fun d =>
    let d := rd.foldl (fun d r => d.updTile r.1 r.2 (fun t => { t with nrd := t.nrd + 1 })) d
    let d := fl.foldl (fun d r => d.nfillUp r.1 r.2) d
    let b := d.block i.blk
    let d := d.setBlock i.blk { b with reports := b.reports.put c.ofs (some ⟨c.id, 0, false, false, 0, 0⟩) }
    { d with copies := d.copies ++ [c], idn := d.idn + 2, mats := if c.fen then d.mats ++ [m] else d.mats }

/-- `CPY`, `GATH`, `SCAT`, `MCAST` (R212 to R219): the record is read, the checks of R214 are made, and the copy takes a slot. -/
def copyOp (opc : BitVec 12) (kind : Nat) (h : Ctl) (a : Src) (ofs : BitVec 16) (s : State) : Host.Outcome State Fault Refusal :=
  issue opc h { Req.none with srcs := a.rng 2 } (fun i s =>
    let x := s.d.wave i.w
    let ea := waveEa a ofs i x
    if i.act = 0 then .ok { Eff.plain s with out := .long .none [] true none false }
    else if ea.toNat % 64 ≠ 0 then memRes (.plain 8) ea .read i.act 0
    else if 2 ^ 57 ≤ ea.toNat then memRes (.plain 9) ea .read i.act 0
    else match s.d.slotOf i.blk ea.toNat with
      | some (0, o) =>
        if (s.d.block i.blk).scrsz < o + 64 then memRes (.plain 11) ea .read i.act 0
        else if (s.readErr (.scratch i.blk o)).isSome then
          -- the engine's read of a record in a poisoned line completes the copy with an error (R320)
          .ok { Eff.plain s with out := .long .none [] true ((s.readErr (.scratch i.blk o)).map (fun k => mkDetail k opc ea)) false }
        else if 128 ≤ (s.d.copies.filter (·.core == i.core)).length then .hold s .slot
        else
          let c := s.copyOf i x kind o
          match s.copyCheck i c ea with
          | some r => r
          | none => .ok { Eff.plain (s.copyTake i c) with out := .long .none [] false none false, pub := s.copyOut c }
      | _ => ctrlRes 17 0 i.act 0) s

/-- `CPY` (R215). -/
def execCpy (h : Ctl) (a : Src) (ofs : BitVec 16) (s : State) : Host.Outcome State Fault Refusal := copyOp 0x600 0 h a ofs s
/-- `GATH` (R216). -/
def execGath (h : Ctl) (a : Src) (ofs : BitVec 16) (s : State) : Host.Outcome State Fault Refusal := copyOp 0x601 1 h a ofs s
/-- `SCAT` (R216). -/
def execScat (h : Ctl) (a : Src) (ofs : BitVec 16) (s : State) : Host.Outcome State Fault Refusal := copyOp 0x602 2 h a ofs s
/-- `MCAST` (R217). -/
def execMcast (h : Ctl) (a : Src) (ofs : BitVec 16) (s : State) : Host.Outcome State Fault Refusal := copyOp 0x603 3 h a ofs s

/-- The four registers of `CPYQ` (R220). -/
def Report.words (r : Option Report) : Nat :=
  match r with
  | none => 0
  | some r => r.bytes % 2 ^ 32 +
      2 ^ 32 * (2 ^ 31 + (if r.done then 2 ^ 30 else 0) + (if r.err then 2 ^ 29 else 0) + min r.fbk 65535) + 2 ^ 64 * r.unreach.toNat

/-- `CPYQ` (R220). -/
def execCpyq (h : Ctl) (d : Opnd) (a : Src) (ofs : BitVec 16) (s : State) : Host.Outcome State Fault Refusal :=
  issue 0x604 h { Req.none with srcs := a.rng 2, dsts := d.rng 4 } (fun i s =>
    let x := s.d.wave i.w
    let b := s.d.block i.blk
    let ea := waveEa a ofs i x
    if i.act = 0 then .ok { Eff.plain s with out := .long (d.dest 4) [] true none false }
    else if ea.toNat % 64 ≠ 0 then memRes (.plain 8) ea .read i.act 0
    else if 2 ^ 57 ≤ ea.toNat then memRes (.plain 9) ea .read i.act 0
    else match s.d.slotOf i.blk ea.toNat with
      | some (0, o) =>
        if b.scrsz < o + 64 then memRes (.plain 11) ea .read i.act 0
        else .ok { Eff.plain s with out := .long (d.dest 4) (forAll i (Report.words (b.reports.get none o))) true none false }
      | _ => ctrlRes 17 0 i.act 0) s

/-! ### The copy request engine (R367 to R373) -/

/-- The copy of an identifier. -/
def Device.copy (d : Device) (id : Nat) : Option Copy := d.copies.find? (·.id == id)
/-- Replaces a copy. -/
def Device.setCopy (d : Device) (c : Copy) : Device := { d with copies := d.copies.map (fun x => if x.id == c.id then c else x) }

/-- The report of a copy's record follows it, as long as no later copy named the same record (R220). -/
def Device.reportCopy (d : Device) (c : Copy) (done : Bool) : Device :=
  let b := d.block c.blk
  let later := (b.reports.get none c.ofs).any (fun r => c.id < r.copy)
  if later || !b.live then d
  else
    let un := (c.deliveries.filter (fun e => e.2 == .missed)).foldl (fun m e => m + 2 ^ e.1) 0
    d.setBlock c.blk { b with reports := b.reports.put c.ofs (some ⟨c.id, c.bytes, done, done && c.err.isSome, c.fbk, BitVec.ofNat 64 un⟩) }

/-- The oldest waiting copy of a core becomes active, while fewer than 16 are, once the wave's earlier writes are acknowledged and its earlier
reads bound (R280, R368). -/
def St.copyActivate (s : St) (core : Nat) : Option St :=
  let mine := s.d.copies.filter (fun c => c.core == core && !s.d.stopped)
  if 16 ≤ (mine.filter (·.active)).length then none
  else match mine.find? (fun c => !c.active && !c.landed) with
    | some c => if s.d.acked c.uid c.need && s.d.bound c.uid c.op then some (s.withD fun d => d.setCopy { c with active := true, sentAt := d.clock.toNat }) else none
    | none => none

/-- A copy has no more to land: reads and fills of its tiles end (R227). -/
def Device.copyEnd (d : Device) (c : Copy) : Device :=
  let d := (c.reads ++ c.rowRead.toList).foldl (fun d r => d.nrdDown r.1 r.2) d
  let d := c.fills.foldl (fun d r => d.nfillDown r.1 r.2) d
  d.setCopy { c with active := false, landed := true, reads := [], fills := [], rowRead := none }

/-- The members that an `MCAST` reaches. -/
def Copy.reached (c : Copy) : List (Nat × Nat) := c.deliveries.filterMap (fun e => match e.2 with
  | .accepted b => some (e.1, b)
  | _ => none)

/-- The barrier object of a copy: none where it does not lie wholly inside the allocation of the block that it names (R219). -/
def St.copyBar (s : St) (c : Copy) : Option Place :=
  match s.d.window c.blk (c.f 244 6) with
  | none => none
  | some k => if (s.d.block k).scrsz < c.f 224 20 + 16 then none else some (.scratch k (c.f 224 20))

/-- The objects that a copy counts on: its own, or one in each member that it reaches (R217, R219). -/
def St.copyBars (s : St) (c : Copy) : List Place :=
  if !c.ben then []
  else if c.kind = 3 then c.reached.map (fun m => .scratch m.2 (c.f 224 20))
  else (s.copyBar c).toList

/-- An engine's change of an object: what it counts is visible at the object's die (R215, R280). -/
def St.barUpd (s : St) (core : Nat) (p : Place) (f : Nat → Nat) : St := (s.meetAt core p).objUpd (p.key s.d) f

/-- The bytes of a copy, or of each of its deliveries, that have not landed. -/
def Copy.left (c : Copy) : Nat := c.rows * c.rowlen - (c.row * c.rowlen + c.seg)

/-- The bytes that will never land are counted on the copy's objects, with ERR (R219). -/
def St.copyErr (s : St) (c : Copy) (n : Nat) : St :=
  (s.copyBars c).foldl (fun s p => s.barUpd c.core p (fun o => setField (objDec o n) 80 1 1)) s

/-- An error stops the copy (R219), and its chained command is not run. -/
def St.copyFail (s : St) (c : Copy) (e : Detail) : St :=
  let c := { c with err := some e, walk := none, chained := false }
  let s := s.withD fun d => { (d.copyEnd c) with mats := d.mats.filter (fun m => m.chain != some c.id) }
  s.copyErr c c.left

/-- The bytes of the segment that starts at an offset of a row: up to the next line boundary of its destination (R368). -/
def segLen (dst rowlen seg : Nat) : Nat := min (128 - (dst + seg) % 128) (rowlen - seg)

/-- The tile that a whole row lies in, none where it meets none; an error where it lies partly in one (R438). -/
def Device.rowLie (d : Device) (blk a len : Nat) : Except Unit (Option (Nat × Nat)) :=
  let ps := d.pieces blk 4 a len
  match ps with
  | [(b, o, m)] => match (d.block b).lie [(o, m)] with
    | .outside => .ok none
    | .straddles => .error ()
    | .inside t => if m = len then .ok (some (b, t)) else .error ()
  | _ => if ps.any (fun p => (d.block p.1).lie [p.2] != .outside) then .error () else .ok none

/-- What a row's destination meets in the tiles of a scratchpad, as the engine reaches it (R438): the tile to count, or an error. What lies in the
block's own scratchpad has been checked at issue, but for a `SCAT` (R214). -/
def St.rowTile (s : St) (c : Copy) (ds : Nat) : Except Unit (Option (Nat × Nat)) :=
  if c.kind ≠ 2 && (s.d.pieces c.blk 4 ds c.rowlen).all (·.1 == c.blk) then .ok none
  else match s.d.rowLie c.blk ds c.rowlen with
    | .error _ => .error ()
    | .ok none => .ok none
    | .ok (some (k, t)) =>
      if c.fills.contains (k, t) then .ok none
      else if 2 ≤ ((s.d.block k).tile t).state then .error () else .ok (some (k, t))

/-- Bytes that one operation has written, by line: a line written whole loses its poison (R320). -/
def St.markWrote (s : St) (t : Tab Nat) (key n : Nat) : Tab Nat × St :=
  let ln := lineOf key
  let m := t.get 0 ln ||| ((2 ^ n - 1) * 2 ^ (key % 128))
  (t.put ln m, if m = 2 ^ 128 - 1 then s.withD fun d => { d with poison := d.poison.filter (· != ln) } else s)

/-- The landing of some bytes of a segment at one place, with the park of its line (R369, R371). -/
def St.landAt (s : St) (c : Copy) (dva : Nat) (p : Place) (n v : Nat) : Copy × St :=
  let w := (s.storeAll c.core [(p, n, v)]).markWrote c.wrote (p.key s.d) n
  let c := { c with wrote := w.1 }
  let s := w.2
  match p with
  | .dev pa _ =>
    let ln := lineOf pa
    if c.parked.contains ln || setLvl c.rset = 5 then (c, s)
    else
      let b := s.d.block c.blk
      let r := s.d.place c.core b.asid b.slot ln (lineOf dva) c.rset
      ({ c with parked := c.parked ++ [ln], fbk := c.fbk + (if r.2.2 = 0 then 0 else 1) }, { s with d := r.1 })
  | _ => (c, s)

/-- What stops a copy's count on its barrier object: the object does not lie inside its member's scratchpad (R219), or its line is poisoned (R320). -/
def St.barErr (s : St) (c : Copy) : Option (BitVec 8) :=
  if !c.ben then none
  else match s.copyBar c with
    | some p => s.objErr (p.key s.d)
    | none => some 5

/-- Counts bytes on the copy's barrier object; one that cannot be counted on makes the copy end with an error: its bytes land, and its chained command
is not run (R219, R243). -/
def St.copyCount (s : St) (c : Copy) (n : Nat) : Copy × St :=
  match s.barErr c with
  | some k => ({ c with err := c.err.or (some (mkDetail k (BitVec.ofNat 12 (0x600 + c.kind)) 0)), chained := false },
      s.withD fun d => { d with mats := d.mats.filter (fun m => m.chain != some c.id) })
  | none => (c, if c.ben then (s.copyBar c).toList.foldl (fun s p => s.barUpd c.core p (fun o => objDec o n)) s else s)

/-- One segment of an `MCAST` lands in a member's scratchpad and is counted there (R217, R369). -/
def St.landMember (c : Copy) (o n v : Nat) (t : Copy × St) (k : Nat) : Copy × St :=
  let p := Place.scratch k o
  let w := (t.2.storeAll c.core [(p, n, v)]).markWrote t.1.wrote (p.key t.2.d) n
  ({ t.1 with wrote := w.1 }, if c.ben then w.2.barUpd c.core (.scratch k (c.f 224 20)) (fun b => objDec b n) else w.2)

/-- After a segment: the next one, the next row, or the end. -/
def Copy.next (c : Copy) (n : Nat) : Copy :=
  let c := { c with bytes := c.bytes + n }
  if c.rowlen ≤ c.seg + n then { c with seg := 0, row := c.row + 1, idxv := none } else { c with seg := c.seg + n }

/-- A row still to come lands in a tile of a block. -/
def St.landsAgain (s : St) (c : Copy) (k t : Nat) : Bool :=
  let x := (s.d.block k).tile t
  c.kind = 3 || (s.d.rowPieces c.blk (c.rows - c.row) c.rowlen (fun r => s.copyDst c (c.row + r))).any
    (fun p => p.1 == k && p.2.1 < x.base + x.size && x.base < p.2.1 + p.2.2)

/-- A row still to come is read from a tile of a block, or its index is. -/
def St.readsAgain (s : St) (c : Copy) (k t : Nat) : Bool :=
  let x := (s.d.block k).tile t
  ((if c.kind = 1 then [] else s.d.rowPieces c.blk (c.rows - c.row) c.rowlen (fun r => s.copySrc c (c.row + r))) ++
    (if c.kind = 1 || c.kind = 2 then s.d.pieces c.blk 4 (c.idxVa c.row) (4 * (c.rows - c.row)) else [])).any
    (fun p => p.1 == k && p.2.1 < x.base + x.size && x.base < p.2.1 + p.2.2)

/-- At the end of a row, tiles from which no other row is read are read no more, and tiles in which no other row lands are filled (R227, R438). -/
def St.rowEnd (s : St) (c : Copy) : Copy × St :=
  let full := c.fills.filter (fun f => !s.landsAgain c f.1 f.2)
  let done := c.reads.filter (fun f => !s.readsAgain c f.1 f.2)
  let s := s.withD fun d =>
    let d := (done ++ c.rowRead.toList).foldl (fun d r => d.nrdDown r.1 r.2) d
    full.foldl (fun d f => d.nfillDown f.1 f.2) d
  ({ c with rowRead := none, reads := c.reads.filter (fun f => !done.contains f), fills := c.fills.filter (fun f => !full.contains f) }, s)

/-- Ends a step of a copy. -/
def St.copyStep (s : St) (c : Copy) : St :=
  let t := if c.seg = 0 && c.row < c.rows then s.rowEnd c else (c, s)
  let s := t.2.withD fun d => if c.rows ≤ c.row then d.copyEnd t.1 else d.setCopy t.1
  s.withD (·.reportCopy t.1 false)

/-- The detail of an engine error. -/
def Copy.detail (c : Copy) (kind : BitVec 8) (va : Nat) : Detail := mkDetail kind (BitVec.ofNat 12 (0x600 + c.kind)) (BitVec.ofNat 64 va)

/-- A failed walk is passed to Foxglove; any other failure of an address fails the copy (R219, R370). -/
def St.copyAddr (s : St) (c : Copy) (va : Nat) (e : MErr) : St :=
  if e.cause = 9 || e.cause = 10 then s.withD (·.setCopy { c with walk := some (BitVec.ofNat 64 va) })
  else s.copyFail c (c.detail 5 va)

/-- The bytes of a source range, which may cross lines: the first failure, or the value (R317). -/
def St.srcBytes (s : St) (c : Copy) (va : Nat) : Nat → Except (Nat × MErr ⊕ BitVec 8) Nat
  | 0 => .ok 0
  | n + 1 =>
    match s.locate c.blk (BitVec.ofNat 64 va) .read with
    | .error e => .error (.inl (va, e))
    | .ok p =>
      match s.readErr p with
      | some k => .error (.inr k)
      | none => (s.srcBytes c (va + 1) n).map (fun v => (s.loadFar c.core p 1).1 + 256 * v)

/-- The lines of a source range are read: as `LDF` reads, with the clocks that come with them; a read of a parked line by an undeclared core counts
one park-serve event. The translations used stay in the slice's cache (R304, R317, R370). -/
def St.srcTouch (s : St) (c : Copy) (va n : Nat) : St :=
  let asid := (s.d.block c.blk).asid
  (if lineOf va = lineOf (va + n - 1) then [va] else [va, va + n - 1]).foldl (fun s a => match s.locate c.blk (BitVec.ofNat 64 a) .read with
    | .ok (.dev pa e) =>
      let s := if (s.undeclared c.core (.dev pa e)).isSome then s.withD (·.pmc asid c.core 11 1) else s
      ((s.loadFar c.core (.dev pa e) 1).2).cacheTlb (sliceOf c.core) asid a
    | .ok (.host pa) => (s.meetAt c.core (.host pa)).cacheTlb (sliceOf c.core) asid a
    | .ok p => s.meetAt c.core p
    | _ => s) s

/-- What the source row of a `GATH` meets in the tiles of a scratchpad (R438): the tile to count while it is read, or an error. -/
def St.rowSource (s : St) (c : Copy) (sr : Nat) : Except Unit (Option (Nat × Nat)) :=
  if c.kind ≠ 1 || c.rowRead.isSome then .ok none
  else match s.d.rowLie c.blk sr c.rowlen with
    | .error _ => .error ()
    | .ok none => .ok none
    | .ok (some (b, t)) => if ((s.d.block b).tile t).state = 2 then .ok (some (b, t)) else .error ()

/-- The row is counted in a tile that it is read from. -/
def St.countRow (s : St) (c : Copy) (t : Option (Nat × Nat)) : Copy × St :=
  match t with
  | none => (c, s)
  | some (b, t) => ({ c with rowRead := some (b, t) }, s.withD (·.updTile b t (fun x => { x with nrd := x.nrd + 1 })))

/-- What stops the read of a row's index: a failed walk or address, an error of the data (R219). -/
def St.idxStops (s : St) (c : Copy) : Option St :=
  if (c.kind ≠ 1 && c.kind ≠ 2) || c.idxv.isSome then none
  else
    let va := c.idxVa c.row
    match s.locate c.blk (BitVec.ofNat 64 va) .read with
    | .error e => some (s.copyAddr c va e)
    | .ok p => (s.readErr p).map (fun k => s.copyFail c (c.detail k va))

/-- A segment of a `CPY`, `GATH` or `SCAT` lands at its destination (R215, R216, R369 to R371). -/
def St.segmentAt (s : St) (c : Copy) (ds dva n v : Nat) : St :=
  match s.locate c.blk (BitVec.ofNat 64 dva) .write with
  | .error e => s.copyAddr c dva e
  | .ok p =>
    match s.writeErr p with
    | some k => s.copyFail c (c.detail k dva)
    | none =>
      let past := match p with
        | .scratch k o => decide ((s.d.block k).scrsz < o + n)
        | _ => false
      if past then s.copyFail c (c.detail 5 dva)
      else match s.rowTile c ds with
        | .error _ => s.copyFail c (c.detail 13 dva)
        | .ok t =>
          let s := (t.toList.foldl (fun s e => s.withD (·.nfillUp e.1 e.2)) s).cacheTlb (sliceOf c.core) (s.d.block c.blk).asid dva
          let r := s.landAt { c with fills := c.fills ++ t.toList } dva p n v
          let q := r.2.copyCount r.1 n
          q.2.copyStep (q.1.next n)

/-- A segment of an `MCAST` lands at every member that it reaches, in ascending slot order (R217, R372). -/
def St.segmentCast (s : St) (c : Copy) (dva n v : Nat) : St :=
  let r := (c.reached.map (·.2)).foldl (St.landMember c dva n v) (c, s)
  r.2.copyStep { (r.1.next n) with bytes := c.bytes + n * c.reached.length }

/-- The next segment of an active copy: its source is read, and it lands. -/
def St.segmentDo (s : St) (c : Copy) (sr ds : Nat) : St :=
  let dva := (ds + c.seg) % 2 ^ 64
  let n := segLen ds c.rowlen c.seg
  let sva := (sr + c.seg) % 2 ^ 64
  match s.rowSource c sr with
  | .error _ => s.copyFail c (c.detail 13 sr)
  | .ok t =>
    match s.srcBytes c sva n with
    | .error (.inl (va, e)) => s.copyAddr c va e
    | .error (.inr k) => s.copyFail c (c.detail k sva)
    | .ok v =>
      let s := if c.seg = 0 && (c.kind = 1 || c.kind = 2) then s.srcTouch c (c.idxVa c.row) 4 else s
      let r := (s.srcTouch c sva n).countRow c t
      if c.kind = 3 then r.2.segmentCast r.1 dva n v else r.2.segmentAt r.1 ds dva n v

/-- The next segment of an active copy lands (R215 to R217, R368 to R371). -/
def St.segmentLanded (s : St) (id : Nat) : Option St :=
  match s.d.copy id with
  | none => none
  | some c =>
    if !c.active || c.walk.isSome || s.d.stopped || c.rows ≤ c.row ||
        c.deliveries.any (fun e => match e.2 with
          | .sent _ => true
          | _ => false) then none
    else match s.idxStops c with
      | some t => some t
      | none =>
        let c := { c with idxv := if c.kind = 1 || c.kind = 2 then s.copyIdx c c.row else none }
        match s.copySrc c c.row, s.copyDst c c.row with
        | some sr, some ds => some (s.segmentDo c sr ds)
        | _, _ => none

/-- Foxglove has dealt with a failed walk of a copy (R370). -/
def St.walkDone (s : St) (id : Nat) (ok : Bool) : Option St :=
  match s.d.copy id with
  | some c => match c.walk with
    | some va => some (if ok then s.withD (·.setCopy { c with walk := none }) else s.copyFail c (c.detail 5 va.toNat))
    | none => none
  | none => none

/-- A member's scratchpad accepts or refuses a delivery as its first byte arrives (R217, R372). -/
def St.mcastAccept (s : St) (c : Copy) (w : Window) (own : Bool) : Option (Nat × Option Nat) :=
  let k := 64 * w.core + w.entry
  let b := s.d.block k
  if !(b.live && b.gen == w.gen && (own || (b.member && !b.leaving))) then none
  else
    let rs := (List.range c.rows).map (fun r => ((s.copyDst c r).getD 0, c.rowlen))
    if rs.any (fun r => b.scrsz < r.1 + r.2) || (c.ben && b.scrsz < c.f 224 20 + 16) then none
    else match b.lie rs with
      | .outside => some (k, none)
      | .straddles => none
      | .inside t => if 2 ≤ (b.tile t).state then none else some (k, some t)

/-- A delivery has been on its way for more than 8 µs (R372). -/
def St.late (s : St) (c : Copy) : Bool := 13600 < s.d.clock.toNat - c.sentAt

/-- One delivery of an active `MCAST` is settled; a late one is dropped (R217, R372). -/
def St.mcastDelivery (s : St) (id ws : Nat) : Option St :=
  match s.d.copy id with
  | none => none
  | some c =>
    match c.active, c.deliveries.lookup ws with
    | true, some (.sent w) =>
      match (if s.late c then none else s.mcastAccept c w (ws == 0)) with
      | none => some (s.withD (·.setCopy { c with deliveries := c.deliveries.put ws .missed }))
      | some (k, t) =>
        let counted := match t with
          | some t => c.fills.contains (k, t)
          | none => true
        let c := { c with
          deliveries := c.deliveries.put ws (.accepted k)
          fills := if counted then c.fills else c.fills ++ [(k, t.getD 0)] }
        some (s.withD fun d => (if counted then d else d.nfillUp k (t.getD 0)).setCopy c)
    | _, _ => none

/-- The operation of a wave has completed. -/
def Device.opDone (d : Device) (uid op : Nat) : Bool := (d.waveOf uid).any (fun x => x.ops.any (fun o => o.id == op && o.done))

/-- A copy completes (R219): its bytes have landed or it has failed, and its chained command has retired. It keeps its slot until it retires
(R367). -/
def St.copyComplete (s : St) (id : Nat) : Option St :=
  match s.d.copy id with
  | none => none
  | some c =>
    if !c.landed || c.chained || s.d.opDone c.uid c.op then none
    else
      let un := (c.deliveries.filter (fun e => e.2 == .missed)).foldl (fun m e => m + 2 ^ e.1) 0
      let err := if un ≠ 0 && c.err.isNone then some { (c.detail 8 0) with v3 := BitVec.ofNat 64 un } else c.err
      let c := { c with err := err }
      some (s.withD fun d => (((d.setCopy c).reportCopy c true).updOp c.uid c.op (fun o => { o with done := true, err := err })))

/-- The slot of a copy is free when it has retired (R367). -/
def Device.freeCopy (d : Device) (uid op : Nat) : Device := { d with copies := d.copies.filter (fun c => !(c.uid == uid && c.op == op)) }

end Sys2Proof.Machine
end

