-- ==== Sys2Proof/Machine/Late.lean ====
section
/-! DEFINITION. The accesses that the load-store units hold, as they are performed (R271, R275), and the errors that arise in the machine's
structures (R319, R435) and in what it receives (R396). -/

namespace Sys2Proof.Machine

/-! ### Held accesses -/

/-- A held access as it is performed, for what its issue knows now: the instructions that the load-store unit holds, each as it would have been
performed at its issue. -/
def Late.perf (l : Late) (i : Iss) : St → Perf :=
  let ea (k : Nat) : W64 := BitVec.ofNat 64 (l.va.get 0 k)
  match l.ins with
  | .ld _ _ _ _ scope order ty vec _ => ldPerf scope order ty vec i ea l.places
  | .ldf _ _ _ _ ty vec => ldfPerf ty vec i ea l.places
  | .st _ _ b _ _ _ ty vec _ => stPerf b ty vec i l.x ea l.places
  | .stn _ _ b _ _ _ ty n => stnPerf 0x402 false b ty n i l.x ea l.places
  | .stnReport _ _ _ b _ _ _ ty n => stnPerf 0x403 true b ty n i l.x ea l.places
  | .atom _ _ _ b _ scope _ ty aop => aopPerf 0x480 true b scope ty aop i l.x ea l.places
  | .red _ _ b _ scope _ ty aop => aopPerf 0x482 false b scope ty aop i l.x ea l.places
  | .acas _ _ _ b _ scope _ ty => acasPerf b scope ty i l.x ea l.places
  | .enq _ _ _ b _ _ order sz blk => enqPerf b order sz blk i l.x ea l.places
  | .deq _ _ _ _ _ order sz blk => deqPerf order sz blk i l.x ea l.places
  | .barr _ _ b _ => barrPerf b i l.x ea l.places
  | .tksav _ _ _ => tksavPerf i l.x ea l.places
  | _ => fun s => ⟨[], none, false, [], [], false, s⟩

/-- The writes of a held access once it is performed keep their numbers: those made wait for their acknowledgement, those that a waiting request
still has to make stay, the others are gone. -/
def Wave.landLate (x : Wave) (op : Nat) (r : Perf) : Wave :=
  let mine (o : OutW) : Bool := o.late && o.op == some op
  let made := r.ws.map (fun p => (p, false)) ++ r.later.map (fun p => (p, true))
  let new := ((x.outw.filter mine).zip made).map (fun e =>
    { e.1 with va := e.2.1.1, host := e.2.1.2.isHost, late := e.2.2, op := if e.2.2 || r.owed then some op else none })
  { x with outw := x.outw.filterMap (fun o => if mine o then new.find? (fun n => n.seq == o.seq) else some o) }

/-- An error of a held access whose operation has already retired, or that had none, is an untracked one (R146). -/
def Wave.lateErr (x : Wave) (op : Nat) (err : Option Detail) : Wave :=
  if err.isSome && !x.ops.any (·.id == op) then { x with untracked := x.untracked.or err, asyncDue := true } else x

/-- A held access is performed, at the core where its wave now stands. -/
def St.performLate (s : St) (l : Late) : St :=
  match s.d.byUid l.uid with
  | none => s
  | some (w, x) =>
    let s := s.withD fun d => { d with late := d.late.erase l }
    let r := l.perf { l.i with w := w, core := w / 64, blk := x.blk } s
    r.st.withD fun d => ((d.updWave l.uid (·.landLate l.i.opid r)).updOp l.uid l.i.opid (fun o => { o with
      vals := r.vals, err := r.err, done := !r.wait && !(r.owed && !r.ws.isEmpty) })).updWave l.uid (·.lateErr l.i.opid r.err)

/-- Nothing holds the access any more, and its wave is on a core: the accesses of a saved wave go on after its restore. -/
def St.lateReady (s : St) (l : Late) : Bool := (s.d.byUid l.uid).isSome && !s.behind l && !s.d.unreleased l

/-- The held accesses that nothing holds any more are performed, in the order of their issue (R271, R275). -/
def St.runLate (s : St) : St := s.d.late.foldl (fun s l => if s.lateReady l then s.performLate l else s) s

/-! ### Errors of the structures (R319, R435) -/

/-- SERC(i) counts an error: bits 31:0 the corrected ones, bits 63:32 the uncorrectable ones, which set EVT bit 2; a count saturates. -/
def Device.countError (d : Device) (i : Nat) (uncorrectable : Bool) : Device :=
  let v := (d.serc.get 0 i).toNat
  let lo := v % 2 ^ 32
  let hi := v / 2 ^ 32
  let up (n : Nat) : Nat := min (n + 1) (2 ^ 32 - 1)
  if uncorrectable then
    let ev : W64 := if up hi = hi then 0 else 4
    { d with
      serc := d.serc.put i (BitVec.ofNat 64 (lo + 2 ^ 32 * up hi))
      hreg := d.hreg.put 0x38 (d.hreg.get 0 0x38 ||| ev) }
  else { d with serc := d.serc.put i (BitVec.ofNat 64 (up lo + 2 ^ 32 * hi)) }

/-- The counter of a line's structure: a scratchpad, the L1 way or L2 slice of a park, the L2 of the die that owns it modified, the last-level
cache, or memory. -/
def Device.lineCounter (d : Device) (a : Nat) : Nat :=
  if 2 ^ 52 ≤ a then 16 * dieOf ((a - 2 ^ 52) / 2 ^ 20) + 5
  else
    let ln := lineOf a
    match d.parks.get none ln with
    | some p => match p.die with
      | some e => 16 * e + (if p.lvl = 0 then 2 else 3)
      | none => 64 + 3
    | none =>
      let o := d.owners.get 4 ln
      if o < 4 then 16 * o + 3 else match channelOf a with
        | some c => 16 * (c / 72) + 8
        | none => 64 + 8

/-- The header of a packet is malformed: TYPE 12 to 15, or a reserved bit that is not zero (R396). -/
def headerBad (h : BitVec 256) : Bool := 12 ≤ field h.toNat 200 4 || field h.toNat 0 88 != 0

/-- One error. A poisoned line carries its poison wherever it goes (R320). -/
def Device.upset (d : Device) (u : Upset) : Device :=
  match u with
  | .counted i f => d.countError i f
  | .line a =>
    let d := d.countError (d.lineCounter a) true
    { d with poison := if d.poison.contains (lineOf a) then d.poison else d.poison ++ [lineOf a] }
  | .reg uid l r =>
    match d.byUid uid with
    | some (w, x) => (d.countError (16 * dieOf (w / 64) + 6) true).setWave w { x with bad := x.bad ++ [(l, r)] }
    | none => d
  | .acc a =>
    let d := d.countError (16 * dieOf ((a - 2 ^ 53) / 2 ^ 20) + 7) true
    { d with badAcc := d.badAcc ++ [a] }
  | .packet h => if headerBad h then { d with discards := d.discards + 1 } else d

/-- The errors of the cycle that ends. -/
def Device.runUpsets (d : Device) : Device :=
  match d.upsets with
  | [] => d
  | us :: rest => us.foldl Device.upset { d with upsets := rest }

end Sys2Proof.Machine
end

