-- ==== Sys2Proof/Machine/Matrix.lean ====
section
/-! DEFINITION. The matrix unit: the instructions on accumulator tiles (R228 to R236), their operand ranges and checks, and the unit that
starts them, commits their rows and fails them (R83 to R86, R373 to R378). -/

namespace Sys2Proof.Machine

/-! ### Operand layouts -/

/-- Bytes of an element of a float type. -/
def fltSize (ty : Nat) : Nat := (fmtOf ty).width / 8

/-- The type of B: E4M3 or E5M2 by BE5 for TY 0 and 1, else TY (R229). -/
def MatOp.bty (m : MatOp) : Nat := if m.ty ≤ 1 then (if m.be5 then 1 else 0) else m.ty

/-- K (R231). -/
def MatOp.k (m : MatOp) : Nat := 16 * (m.kq + 1)

/-- Row count of the operation. -/
def MatOp.rows (m : MatOp) : Nat := if m.kind = 4 || m.kind = 5 then 1 else 128

/-- The tile row that its row number names. -/
def MatOp.rowIdx (m : MatOp) (i : Nat) : Nat := if m.kind = 4 || m.kind = 5 then m.c.toNat % 128 else i

/-- Row i of A, of a scale vector's bytes, or of the rows of `ACCLD` and `ACCST`: address and bytes. -/
def MatOp.aRow (m : MatOp) (i : Nat) : Nat × Nat :=
  match m.kind with
  | 0 | 1 => ((m.xa.toNat + 16 * (m.c.toNat % 2 ^ 16) * i) % 2 ^ 64, fltSize m.ty * m.k)
  | 2 => ((m.xa.toNat + 4 * i) % 2 ^ 64, 4)
  | 6 | 7 => ((m.xa.toNat + 16 * m.c.toNat * i) % 2 ^ 64, 512)
  | _ => (0, 0)

/-- Row k of B. -/
def MatOp.bRow (m : MatOp) (k : Nat) : Nat × Nat := ((m.xb.toNat + 16 * (m.c.toNat / 2 ^ 16) * k) % 2 ^ 64, 128 * fltSize m.bty)

/-- The ranges of an operation in memory, with their first address: A and B, the scale vector, or the rows moved. -/
def MatOp.operands (m : MatOp) : List (Nat × List (Nat × Nat)) :=
  match m.kind with
  | 0 | 1 => [(m.xa.toNat, (List.range 128).map m.aRow), (m.xb.toNat, (List.range m.k).map m.bRow)]
  | 2 => [(m.xa.toNat, [(m.xa.toNat, 512)])]
  | 6 | 7 => [(m.xa.toNat, (List.range 128).map m.aRow)]
  | _ => []

/-- How an operand meets the tiles of the scratchpads that it lies in: the tiles met, or none for a straddling operand. -/
def Device.operandTiles (d : Device) (blk : Nat) (rs : List (Nat × Nat)) : Option (List (Nat × Nat × Nat)) :=
  let ps := rs.flatMap (fun r => d.pieces blk 4 r.1 r.2)
  ((ps.map (·.1)).eraseDups).foldl (fun t b =>
    match t, (d.block b).lie ((ps.filter (·.1 == b)).map (·.2)) with
    | none, _ => none
    | some t, .outside => some t
    | some _, .straddles => none
    | some t, .inside k => some (t ++ [(b, k, ((d.block b).tile k).state)])) (some [])

/-- The tiles that the operands meet, each with its block and state, or none for a straddling operand. -/
def St.matTiles (s : St) (m : MatOp) : Option (List (Nat × Nat × Nat)) :=
  m.operands.foldl (fun t o => match t, s.d.operandTiles m.blk o.2 with
    | some t, some u => some (t ++ u)
    | _, _ => none) (some [])

/-! ### The instructions -/

/-- The checks of R228 on an operation's operands, in its order. -/
def St.matCheck (s : St) (i : Iss) (m : MatOp) : Option Res :=
  let acc : Acc := if m.kind = 7 then .write else .read
  let firsts := m.operands.map (·.1)
  match firsts.find? (fun a => a % 16 != 0) with
  | some a => some (memRes (.plain 8) (BitVec.ofNat 64 a) acc i.act 0)
  | none =>
    match firsts.findSome? (fun a => match s.locate i.blk (BitVec.ofNat 64 a) acc with
      | .error e => some (a, e)
      | .ok _ => none) with
    | some (a, e) => some (memRes e (BitVec.ofNat 64 a) acc i.act 0)
    | none =>
      match s.matTiles m with
      | none => some (ctrlRes 17 0 i.act 0)
      | some ts =>
        match ts.find? (fun t => t.2.2 != 2) with
        | some t => some (memRes ⟨15, 7, 0, t.2.1, t.2.2⟩ (BitVec.ofNat 64 (firsts.headD 0)) acc i.act 0)
        | none =>
          match firsts.find? (fun a => match s.locate i.blk (BitVec.ofNat 64 a) acc with
            | .ok (.host _) => true
            | _ => false) with
          | some a => some (memRes (.plain 14) (BitVec.ofNat 64 a) acc i.act 0)
          | none => none

/-- The operation with the fields that every instruction gives it. -/
def matOp (s : St) (i : Iss) (kind tile : Nat) : MatOp :=
  let x := s.d.wave i.w
  { id := s.d.idn, core := i.core, blk := i.blk, uid := x.uid, op := i.opid, tok := (i.h.post.map (·.toNat)).getD 0, kind := kind,
    tile := (s.d.block i.blk).accB + tile, tile2 := none, ty := 4, be5 := false, kq := 7, za := false, xa := 0, xb := 0, c := 0, row := 0,
    started := false, ended := false, chain := none, go := true, data := [], reads := [], start := 0, r0 := 0, lanes := i.act, word := s.d.iword, need := if kind = 3 || kind = 4 || kind = 5 then 0 else x.wseq, wrote := [] }

/-- The operation names the tile. -/
def MatOp.on (m : MatOp) (t : Nat) : Bool := m.tile == t || m.tile2 == some t

/-- The operation has still to write the element at an address: of a row that it has not committed (R231 to R235). -/
def MatOp.writes (m : MatOp) (a : Nat) : Bool :=
  let t := (a - tileBase m.core 0) / 65536
  let o := (a - tileBase m.core 0) % 65536
  match m.kind with
  | 0 | 1 | 3 | 6 => m.on t && decide (m.row ≤ (if m.ty = 5 then 64 * (t - m.tile) + o / 1024 else o / 512))
  | 2 => m.tile == t && decide (m.row ≤ o / 512)
  | 5 => m.tile == t && m.row == 0 && o / 512 == m.rowIdx 0 && m.lanes.getLsbD (o % 512 / 16)
  | _ => false

/-- The tiles whose elements the instruction reads, of the core, each with the rows it reads: all, or one (R230 to R235). -/
def MatOp.accReads (m : MatOp) : List (Nat × Nat × Nat) :=
  match m.kind with
  | 0 => if m.za then [] else (m.tile :: m.tile2.toList).map (fun t => (t, 0, 128))
  | 2 => (m.tile :: m.tile2.toList).map (fun t => (t, 0, 128))
  | 4 => [(m.tile, m.rowIdx 0, 1)]
  | 7 => [(m.tile, 0, 128)]
  | _ => []

/-- The uncorrectable elements in a range that an operation reads: all of it, or the columns of the active lanes (R235, R319). -/
def Device.badIn (d : Device) (m : MatOp) (lo n : Nat) : List Nat :=
  d.badAcc.filter (fun a => lo ≤ a && a < lo + n && (m.kind != 4 || m.lanes.getLsbD ((a - lo) / 16)))

/-- The first tile read that holds an uncorrectable element, with the lanes of such elements (R319, R346, R350). An element that an earlier operation
on the tile has still to write is not the one that is read (R230). -/
def Device.accBad (d : Device) (m : MatOp) : Option (Nat × Lanes) :=
  m.accReads.findSome? (fun t =>
    let lo := tileBase m.core t.1 + 512 * t.2.1
    let hit := (d.badIn m lo (512 * t.2.2)).filter (fun a => !d.mats.any (fun n => n.core == m.core && !n.ended && n.writes a))
    if hit.isEmpty then none
    else some (t.1, maskLanes (fun l => hit.any (fun a => (if m.ty = 5 then (a - lo) % 1024 / 32 else (a - lo) % 512 / 16) == l))))

/-- An `ACCST` stores outside slot 0 of the block's window (R359). -/
def MatOp.outside (m : MatOp) (base : Nat) : Bool :=
  m.kind == 7 && (List.range 128).any (fun i => decide (m.stRow i < base || base + 2 ^ 20 < m.stRow i + 512))

/-- THE FRAME OF A MATRIX INSTRUCTION (R228, R230): an uncorrectable element read (R319), partial mask, operand checks, queue depth; then the operation
takes its place; the rows of an `ACCST` count among the wave's unacknowledged writes from here on (R235). DESIGN CHOICE (log 52): R59 does not place the
data error of an accumulator; it comes first among these checks, after those of step 6. -/
def matrix (opc : BitVec 12) (h : Ctl) (q : Req) (dst : Dest) (mk : St → Iss → MatOp) (s : State) :
    Host.Outcome State Fault Refusal :=
  issue opc h q (fun i s =>
    let x := s.d.wave i.w
    if i.act = 0 then .ok { Eff.plain s with out := .long dst [] true none false }
    else match s.d.accBad (mk s i) with
    | some (t, lanes) => .trap 4 (regV0 (0x134 + (t - (s.d.block i.blk).accB)) i.act) (BitVec.ofNat 64 lanes.toNat) 0 0
    | none =>
    if i.act ≠ x.alive then ctrlRes 16 0 i.act 0
    else
      let m := mk s i
      match s.matCheck i m with
      | some r => r
      | none =>
        let b := s.d.block i.blk
        match (m.tile :: m.tile2.toList).find? (fun t => 16 ≤ s.d.tileDepth i.core t) with
        | some t => .hold s (.tileq (t - b.accB))
        | none =>
          let pub := m.outside (s.d.ctx i.asid).window.toNat
          let rd := if m.kind = 7 then [] else (((s.matTiles m).getD []).map (fun t => (t.1, t.2.1)))
          let s := s.withD fun d =>
            let d := rd.foldl (fun d r => d.updTile r.1 r.2 (fun t => { t with nrd := t.nrd + 1 })) d
            let d : Device := { d with mats := d.mats ++ [{ m with reads := rd }], idn := d.idn + 1 }
            if m.kind = 7 then d.setWave i.w ((d.wave i.w).addWrites (some i.opid) true ((List.range 128).map (fun k => (m.stRow k, .scratch i.blk 0))))
            else d
          .ok { Eff.plain s with out := .long dst [] false none false, pub := pub }) s

/-- The tiles an `MMA` names: two for FP64 (R232). -/
def mmaTiles (d : Opnd) (ty : BitVec 3) : List Nat := if ty.toNat = 5 then [d.idx, d.idx + 1] else [d.idx]

/-- `MMA` and `MMAP` (R231 to R233). -/
def mmaOp (opc : BitVec 12) (kind : Nat) (h : Ctl) (d : Opnd) (a b c : Src) (ty : BitVec 3) (be5 : Bool) (kq : BitVec 10) (za : Bool)
    (s : State) : Host.Outcome State Fault Refusal :=
  matrix opc h { Req.none with srcs := a.rng 2 ++ b.rng 2 ++ c.rng 1, tiles := mmaTiles d ty } .none (fun s i =>
    let x := s.d.wave i.w
    let l := lowest i.act
    let m := matOp s i kind d.idx
    { m with
      tile2 := if ty.toNat = 5 then some (m.tile + 1) else none, ty := ty.toNat, be5 := be5, kq := kq.toNat, za := za
      xa := a.x x l, xb := b.x x l, c := c.w x l }) s

/-- `MMA` (R231, R232). -/
def execMma (h : Ctl) (d : Opnd) (a b c : Src) (ty : BitVec 3) (be5 : Bool) (kq : BitVec 10) (za : Bool) (s : State) :
    Host.Outcome State Fault Refusal := mmaOp 0x680 0 h d a b c ty be5 kq za s

/-- `MMAP` (R233). -/
def execMmap (h : Ctl) (d : Opnd) (a b c : Src) (ty : BitVec 3) (be5 : Bool) (kq : BitVec 10) (za : Bool) (s : State) :
    Host.Outcome State Fault Refusal := mmaOp 0x681 1 h d a b c ty be5 kq za s

/-- A 32-bit operand as FP32: an inline constant is its value in that format (R52, R234). -/
def scaleBits (c : Src) (x : Wave) (l : Nat) : W32 :=
  match c.o with
  | .imm r => BitVec.ofNat 32 ((fmtOf 4).round 0 false (FVal.ofInt (immVal r)))
  | _ => c.w x l

/-- `ACCSC` (R234). -/
def execAccsc (h : Ctl) (d : Opnd) (a b c : Src) (s : State) : Host.Outcome State Fault Refusal :=
  matrix 0x682 h { Req.none with srcs := b.rng 2 ++ c.rng 1, tiles := [d.idx, a.o.idx] } .none (fun s i =>
    let x := s.d.wave i.w
    let l := lowest i.act
    let m := matOp s i 2 d.idx
    let p := (s.d.block i.blk).accB + a.o.idx
    { m with tile2 := if p = m.tile then none else some p, xa := b.x x l, c := scaleBits c x l }) s

/-- `ACCZ` (R235). -/
def execAccz (h : Ctl) (d : Opnd) (s : State) : Host.Outcome State Fault Refusal :=
  matrix 0x683 h { Req.none with tiles := [d.idx] } .none (fun s i => matOp s i 3 d.idx) s

/-- `ACCRD` (R230, R235). -/
def execAccrd (h : Ctl) (d : Opnd) (a b : Src) (s : State) : Host.Outcome State Fault Refusal :=
  matrix 0x684 h { Req.none with srcs := b.rng 1, dsts := d.rng 4, tiles := [a.o.idx], out := some a.o.idx } (d.dest 4) (fun s i =>
    { matOp s i 4 a.o.idx with c := b.w (s.d.wave i.w) (lowest i.act) }) s

/-- `ACCWR` (R235): the group is read at issue. -/
def execAccwr (h : Ctl) (d : Opnd) (a b : Src) (s : State) : Host.Outcome State Fault Refusal :=
  matrix 0x685 h { Req.none with srcs := a.rng 1 ++ b.rng 4, tiles := [d.idx] } .none (fun s i =>
    let x := s.d.wave i.w
    { matOp s i 5 d.idx with
      c := a.w x (lowest i.act)
      data := (lanesOf i.act).flatMap (fun l => (List.range 4).map (fun e => (4 * l + e, x.reg l (b.o.idx + e)))) }) s

/-- `ACCLD` (R235). -/
def execAccld (h : Ctl) (d : Opnd) (a : Src) (str : BitVec 16) (s : State) : Host.Outcome State Fault Refusal :=
  matrix 0x686 h { Req.none with srcs := a.rng 2, tiles := [d.idx] } .none (fun s i =>
    { matOp s i 6 d.idx with xa := a.x (s.d.wave i.w) (lowest i.act), c := str.setWidth 32 }) s

/-- `ACCST` (R230, R235). -/
def execAccst (h : Ctl) (a b : Src) (str : BitVec 16) (s : State) : Host.Outcome State Fault Refusal :=
  matrix 0x687 h { Req.none with srcs := b.rng 2, tiles := [a.o.idx], out := some a.o.idx } .none (fun s i =>
    { matOp s i 7 a.o.idx with xa := b.x (s.d.wave i.w) (lowest i.act), c := str.setWidth 32 }) s

/-! ### Reading operands -/

/-- What stops a row: an ERRKIND, and whether it is a translation that Foxglove may still resolve (R236, R375, R378). -/
structure RowErr where
  kind : Nat
  walk : Bool
  /-- The address concerned (R350). -/
  va : Nat

/-- The place of one 16-byte unit of an operand, translated at load pipe `p` (R375). -/
def St.unitAt (s : St) (m : MatOp) (p va : Nat) (a : Acc) : Except RowErr Place :=
  match s.locateBy (pipeOf m.core p) m.blk (BitVec.ofNat 64 va) a with
  | .error e => .error ⟨6, e.cause = 9, va⟩
  | .ok (.host _) => .error ⟨6, false, va⟩
  | .ok p => match (if a = .write then s.writeErr p else s.readErr p) with
    | some k => .error ⟨k.toNat, false, va⟩
    | none => .ok p

/-- `n` bytes of an operand from an address, in units of up to 16 bytes. -/
def St.unitsFrom (s : St) (m : MatOp) (pipe : Nat) : Nat → Nat → Nat → Except RowErr Nat
  | 0, _, _ => .ok 0
  | fuel + 1, va, n =>
    if n = 0 then .ok 0
    else
      let w := min n 16
      match s.unitAt m pipe va .read with
      | .error e => .error e
      | .ok p => (s.unitsFrom m pipe fuel ((va + w) % 2 ^ 64) (n - w)).map (fun v => (s.load m.core p w).1 + 2 ^ (8 * w) * v)

/-- A range of an operand. -/
def St.unitsOf (s : St) (m : MatOp) (pipe : Nat) (r : Nat × Nat) : Except RowErr Nat := s.unitsFrom m pipe (r.2 / 16 + 1) r.1 r.2

/-- Several ranges; the first failure stands. -/
def St.unitsAll (s : St) (m : MatOp) (pipe : Nat) : List (Nat × Nat) → Except RowErr (List Nat)
  | [] => .ok []
  | r :: rs => match s.unitsOf m pipe r with
    | .error e => .error e
    | .ok v => (s.unitsAll m pipe rs).map (v :: ·)

/-- The translation of a place outside the scratchpads stays in a load pipe's buffer (R375). -/
def St.keepPipe (s : St) (m : MatOp) (pipe va : Nat) (p : Place) : St :=
  if p.isScratch then s else s.cachePipe (pipeOf m.core pipe) (s.d.block m.blk).asid va

/-- The reads leave the lines with the core's die, and each line that is parked and read by an undeclared core counts one park-serve event
(R317, R375). -/
def St.unitsTouch (s : St) (m : MatOp) (pipe : Nat) (r : Nat × Nat) : St :=
  (linesIn r.1 r.2).foldl (fun s va => match s.unitAt m pipe (va % 2 ^ 64) .read with
    | .ok p =>
      let s := if (s.undeclared m.core p).isSome then s.withD (·.pmc (s.d.block m.blk).asid m.core 11 1) else s
      ((s.keepPipe m pipe (va % 2 ^ 64) p).load m.core p 1).2
    | .error _ => s) s

/-! ### Rows -/

/-- Element (i, j) of an FP32 tile of a core (R34). -/
def St.elem (s : St) (core t i j : Nat) : Nat := s.rdN (tileBase core t + 512 * i + 4 * j) 4

/-- Where FP64 element (i, j) of a pair lies (R232). -/
def elem64 (core t i j : Nat) : Nat := tileBase core (t + i / 64) + 1024 * (i % 64) + 8 * j

/-- The exact products of one K-block, with what precedes them (R84). -/
def products (fa fb : Fmt) (a : List Nat) (b : List Nat) : List FVal := (a.zip b).map (fun p => (fa.value p.1).mul (fb.value p.2))

/-- The sums over K-blocks of a length, each rounded once to FP32 (R83, R84); structural on the number of blocks. -/
def blockSums (len : Nat) : Nat → Nat → List FVal → Nat
  | 0, acc, _ => acc
  | n + 1, acc, ps => blockSums len n ((fmtOf 4).round 0 false (FVal.sum 0 ((fmtOf 4).value acc :: ps.take len))) (ps.drop len)

/-- The K-block length of an input format (R83). -/
def kBlock (ty : Nat) : Nat := if ty ≤ 1 then 128 else if ty ≤ 3 then 64 else if ty = 4 then 16 else 1

/-- The elements of a row of `n` elements of a type. -/
def elemsOf (ty n v : Nat) : List Nat := (List.range n).map (fun k => field v ((fmtOf ty).width * k) (fmtOf ty).width)

/-- The load pipe that carries row i of `ACCLD` or `ACCST`: DESIGN CHOICE (log 66), the two take the rows in turn (R375). -/
def rowPipe (i : Nat) : Nat := i % 2

/-- The new value of row i as (address, bytes, value) triples of the tile, from the state before it (R231 to R235). -/
def St.rowNew (s : St) (m : MatOp) (i : Nat) : Except RowErr (List (Nat × Nat × Nat)) :=
  let at' (j : Nat) := tileBase m.core m.tile + 512 * m.rowIdx i + 4 * j
  let cols (f : Nat → Nat) : List (Nat × Nat × Nat) := (List.range 128).map (fun j => (at' j, 4, f j))
  match m.kind with
  | 0 | 1 =>
    match s.unitsOf m 0 (m.aRow i), s.unitsAll m 1 ((List.range m.k).map m.bRow) with
    | .error e, _ => .error e
    | _, .error e => .error e
    | .ok a, .ok bs =>
      let fa := fmtOf m.ty
      let fb := fmtOf m.bty
      let as := elemsOf m.ty m.k a
      let col (j : Nat) := bs.map (fun r => field r (fb.width * j) fb.width)
      if m.ty = 5 then
        .ok ((List.range 128).map (fun j =>
          let c0 := if m.za then 0 else s.rdN (elem64 m.core m.tile i j) 8
          (elem64 m.core m.tile i j, 8, (as.zip (col j)).foldl (fun c p => (fmtOf 5).ffma 0 false p.1 p.2 c) c0)))
      else if m.kind = 1 then .ok (cols (fun j => (fmtOf 4).round 0 false (FVal.sum 0 (products fa fb as (col j)))))
      else
        let len := kBlock m.ty
        .ok (cols (fun j => blockSums len ((m.k + len - 1) / len) (if m.za then 0 else s.elem m.core m.tile i j) (products fa fb as (col j))))
  | 2 => match s.unitsOf m 0 (m.aRow i) with
    | .error e => .error e
    | .ok sa =>
      let f := fmtOf 4
      let v := f.fmul 0 false sa m.c.toNat
      .ok (cols (fun j => f.ffma 0 false (s.elem m.core (m.tile2.getD m.tile) i j) v (s.elem m.core m.tile i j)))
  | 3 => .ok (cols (fun _ => 0))
  | 5 => .ok ((cols (fun j => (m.data.get 0 j).toNat)).filter (fun e => m.lanes.getLsbD ((e.1 - at' 0) / 16)))
  | 6 => match s.unitsOf m (rowPipe i) (m.aRow i) with
    | .error e => .error e
    | .ok v => .ok (cols (fun j => field v (32 * j) 32))
  | _ => .ok []

/-- The stores of row i of an `ACCST` (R235, R375). -/
def St.rowStores (s : St) (m : MatOp) (i : Nat) : Except RowErr (List (Place × Nat × Nat)) :=
  (List.range 32).foldr (fun u t => match t, s.unitAt m (rowPipe i) ((m.stRow i + 16 * u) % 2 ^ 64) .write with
    | .ok t, .ok p => .ok ((p, 16, s.rdN (tileBase m.core m.tile + 512 * i + 16 * u) 16) :: t)
    | .error e, .ok _ => .error e
    | _, .error e => .error e) (.ok [])

/-- The accumulator elements that the next row of an operation reads: address and bytes (R231 to R235). -/
def MatOp.rowReads (m : MatOp) : List (Nat × Nat) :=
  match m.kind with
  | 0 => if m.za then [] else if m.ty = 5 then [(elem64 m.core m.tile m.row 0, 1024)] else [(tileBase m.core m.tile + 512 * m.row, 512)]
  | 2 => (m.tile :: m.tile2.toList).map (fun t => (tileBase m.core t + 512 * m.row, 512))
  | 4 => [(tileBase m.core m.tile + 512 * m.rowIdx 0, 512)]
  | 7 => [(tileBase m.core m.tile + 512 * m.row, 512)]
  | _ => []

/-- The next row reads an element that cannot be corrected. -/
def Device.rowBad (d : Device) (m : MatOp) : Bool := m.rowReads.any (fun r => !(d.badIn m r.1 r.2).isEmpty)

/-- What stops the next row of an operation. DESIGN CHOICE (log 66): an accumulator element that has become uncorrectable since the issue ends the
operation with ERRKIND 1 at the row that reads it (R319). -/
def St.rowErr (s : St) (m : MatOp) : Option RowErr :=
  let err {α : Type} : Except RowErr α → Option RowErr
    | .error e => some e
    | .ok _ => none
  if s.d.rowBad m then some ⟨1, false, 0⟩
  else match m.kind with
  | 0 | 1 => (err (s.unitsOf m 0 (m.aRow m.row))).or (err (s.unitsAll m 1 ((List.range m.k).map m.bRow)))
  | 2 => err (s.unitsOf m 0 (m.aRow m.row))
  | 6 => err (s.unitsOf m (rowPipe m.row) (m.aRow m.row))
  | 7 => err (s.rowStores m m.row)
  | _ => none

/-! ### The unit -/

/-- Step cycles Kc (R376). -/
def MatOp.kc (m : MatOp) : Nat :=
  match m.kind with
  | 0 => (if m.ty ≤ 1 then 1 else if m.ty ≤ 3 then 2 else if m.ty = 4 then 8 else 16) * m.k
  | 1 => 128
  | 4 | 7 => 4
  | 6 => 2
  | _ => 1

/-- Two operations share a tile. -/
def MatOp.shares (m n : MatOp) : Bool := n.on m.tile || (match m.tile2 with
  | some t => n.on t
  | none => false)

/-- Every operation before it on its tiles has committed its last row (R230, R374). -/
def Device.atHead (d : Device) (m : MatOp) : Bool :=
  (d.mats.takeWhile (fun n => n.id != m.id)).all (fun n => n.core != m.core || !n.shares m || n.ended)

/-- Replaces an operation. -/
def Device.setMat (d : Device) (m : MatOp) : Device := { d with mats := d.mats.map (fun x => if x.id == m.id then m else x) }

/-- A chained command's conditions are tested (R218, R373): it may start, waits, or makes its copy fail. -/
def St.chainedStart (s : St) (core tile : Nat) : Option St :=
  match s.d.mats.find? (fun m => m.core == core && m.on tile && !m.ended) with
  | none => none
  | some m =>
    match m.chain.bind s.d.copy with
    | none => none
    | some c =>
      if m.go || !c.landed || !s.d.atHead m || s.d.stopped then none
      else match s.matTiles m with
        | none => some (s.copyFail c (c.detail 7 0))
        | some ts =>
          if ts.any (fun t => t.2.2 == 0 || t.2.2 == 3) then some (s.copyFail c (c.detail 7 0))
          else if ts.any (fun t => t.2.2 == 1) then none
          else some (s.withD fun d =>
            let d := ts.foldl (fun d t => d.updTile t.1 t.2.1 (fun x => { x with nrd := x.nrd + 1 })) d
            d.setMat { m with go := true, reads := ts.map (fun t => (t.1, t.2.1)) })

/-- The cycle has come in which the next row may commit (R376, R377). -/
def MatOp.due (m : MatOp) (now : Nat) : Bool := m.start + m.kc + 7 + (m.row - m.r0) ≤ now

/-- A load pipe of the core waits for a walk, which stops its whole array (R376). -/
def St.arrayStalled (s : St) (core : Nat) : Bool :=
  s.d.mats.any (fun m => m.core == core && m.started && !m.ended && m.due s.d.clock.toNat && (s.rowErr m).any (·.walk))

/-- A cycle in which an array is stalled moves its later commits by one (R376). -/
def St.stallArrays (s : St) : St :=
  let cs := ((s.d.mats.map (·.core)).eraseDups).filter s.arrayStalled
  if cs.isEmpty then s
  else s.withD fun d => { d with
    mats := d.mats.map (fun m => if cs.contains m.core && m.started && !m.ended then { m with start := m.start + 1 } else m) }

/-- The operation reads and writes no memory, or its copy has waited for what it reads. -/
def MatOp.selfFed (m : MatOp) : Bool := m.kind == 3 || m.kind == 4 || m.kind == 5 || m.chain.isSome

/-- The unit starts its oldest operation that can start, when the array is free for it (R374, R376): one that reads or writes memory begins once
the wave's earlier writes are acknowledged and its earlier reads bound (R280). -/
def St.matStart (s : St) (core : Nat) : Option St :=
  let now := s.d.clock.toNat
  let mine := s.d.mats.filter (·.core == core)
  if s.d.stopped || mine.any (fun m => m.started && !m.ended && now < m.start + m.kc) || s.arrayStalled core then none
  else match mine.find? (fun m => !m.started && !m.ended && m.go && s.d.atHead m &&
      (m.selfFed || (s.d.acked m.uid m.need && s.d.bound m.uid m.op))) with
    | some m => some (s.withD (·.setMat { m with started := true, start := now, r0 := m.row }))
    | none => none

/-- An operation has committed its last row or failed: its reads end, and so do the stores that an `ACCST` will not make; it stays on its tile until it
retires, a chained command with its copy (R219, R226, R230, R381). -/
def Device.matEnd (d : Device) (m : MatOp) (err : Option Detail) : Device :=
  let d := (m.reads.foldl (fun d r => d.nrdDown r.1 r.2) d).setMat { m with ended := true, reads := [] }
  match m.chain with
  | some c => match d.copy c with
    | some c => d.setCopy { c with chained := false, err := c.err.or err }
    | none => d
  | none =>
    let d := if m.kind = 7 then d.updWave m.uid (fun x => { x with outw := x.outw.filter (fun o => !(o.late && o.op == some m.op)) }) else d
    d.updOp m.uid m.op (fun o => { o with done := true, err := o.err.or err })

/-- The value that `ACCRD` carries out for its lanes: w(D+e) of lane l is element 4l + e (R235). -/
def St.readOut (s : St) (m : MatOp) : Tab Nat :=
  (List.range 32).map (fun l => (l, s.rdN (tileBase m.core m.tile + 512 * m.rowIdx 0 + 16 * l) 16))

/-- A row has committed; the last one ends the operation. -/
def St.rowDone (s : St) (m : MatOp) : St :=
  let m := { m with row := m.row + 1 }
  s.withD (fun d => if m.row < m.rows then d.setMat m else (d.setMat m).matEnd m none)

/-- The next row of the operation at the head of a tile commits (R35, R376, R377). -/
def St.rowCommit (s : St) (core tile : Nat) : Option St :=
  match s.d.mats.find? (fun m => m.core == core && m.on tile && m.started && !m.ended) with
  | none => none
  | some m =>
    if !m.due s.d.clock.toNat || s.d.stopped || s.d.rowBad m || s.arrayStalled core then none
    else
      if m.kind = 7 then match s.rowStores m m.row with
        | .error _ => none
        | .ok ws =>
          let s := (s.storeAll core ws).withD (·.updWave m.uid (·.landWrite m.op (some false)))
          let s := (linesIn (m.stRow m.row) 512).foldl (fun s va => match s.unitAt m (rowPipe m.row) (va % 2 ^ 64) .write with
            | .ok p => s.keepPipe m (rowPipe m.row) (va % 2 ^ 64) p
            | .error _ => s) s
          let t := ws.foldl (fun (t : Tab Nat × St) w => t.2.markWrote t.1 (w.1.key t.2.d) 16) (m.wrote, s)
          some (t.2.rowDone { m with wrote := t.1 })
      else if m.kind = 4 then
        let v := s.readOut m
        some ((s.withD (·.updOp m.uid m.op (fun o => { o with vals := v }))).rowDone m)
      else match s.rowNew m m.row with
        | .error _ => none
        | .ok es =>
          let s := (es.foldl (fun s e => s.wrN e.1 e.2.1 e.2.2) s).withD fun d => { d with
            badAcc := d.badAcc.filter (fun a => !es.any (fun e => e.1 ≤ a && a < e.1 + e.2.1)) }
          let s := s.unitsTouch m (if m.kind = 6 then rowPipe m.row else 0) (m.aRow m.row)
          -- B is read once in a run
          let s := if m.kind ≤ 1 && m.row = m.r0 then ((List.range m.k).map m.bRow).foldl (fun s r => s.unitsTouch m 1 r) s else s
          some (s.rowDone m)

/-- A line or a page fails the operation at the first row that would read or write it (R236, R375, R378): ERRKIND 1, 2, or 6, the last
once Foxglove has not been able to resolve it. -/
def St.matError (s : St) (core tile kind : Nat) : Option St :=
  match s.d.mats.find? (fun m => m.core == core && m.on tile && m.started && !m.ended) with
  | none => none
  | some m =>
    match s.rowErr m with
    | none => none
    | some e =>
      if e.kind ≠ kind then none
      else
        let opc : BitVec 12 := match m.chain.bind s.d.copy with
          | some c => BitVec.ofNat 12 (0x600 + c.kind)
          | none => BitVec.ofNat 12 (0x680 + m.kind)
        let det : Detail := { mkDetail (BitVec.ofNat 8 kind) opc (BitVec.ofNat 64 e.va) with
          v3 := BitVec.ofNat 64 (m.tile - (s.d.block m.blk).accB + 2 ^ 8 * m.row) }
        let t := s.withD (·.matEnd m (some det))
        -- a chained command that fails is an error of its copy, which its barrier shows (R219)
        some (match m.chain.bind s.d.copy with
          | some c => t.copyErr c 0
          | none => t)

/-- The rows of a tile whose commit the cycle has come for are committed, as far as nothing stops them (R377). -/
def St.commitDue (s : St) (core tile : Nat) : Nat → St
  | 0 => s
  | n + 1 => match s.rowCommit core tile with
    | some t => t.commitDue core tile n
    | none => s

/-- The errors of the rows to commit that need no resolving: what a cycle may report (R375, R378). -/
def St.matErrors (s : St) : List (Nat × Nat × Nat) :=
  (s.d.mats.filter (fun m => m.started && !m.ended && m.due s.d.clock.toNat)).filterMap (fun m => match s.rowErr m with
    | some e => if e.walk then none else some (m.core, m.tile, e.kind)
    | none => none)

end Sys2Proof.Machine
end

