-- ==== Sys2Proof/Machine/Binding.lean ====
section
/-! DEFINITION. Distribution, slot tables and binding: how blocks and formed waves come onto a core, start, end and leave it (R10, R13, R19,
R177, R296, R323, R327 to R335, R366, R372). -/

namespace Sys2Proof.Machine

/-! ### Bind records (R332) -/

/-- A field of a bind record. -/
def BindRec.f (r : BindRec) (lo len : Nat) : Nat := field r.toNat lo len
/-- STATE: 0 FREE, 1 OFFER, 2 GRANT, 3 BOUND. -/
def BindRec.state (r : BindRec) : Nat := r.f 126 2
/-- QB. -/
def BindRec.qb (r : BindRec) : Nat := r.f 124 2
/-- SLOT. -/
def BindRec.slot (r : BindRec) : Nat := r.f 112 12
/-- CLASS. -/
def BindRec.cls (r : BindRec) : Nat := r.f 108 4
/-- REPEAT. -/
def BindRec.repeat (r : BindRec) : Bool := r.f 63 1 = 1
/-- GRANTED. -/
def BindRec.granted (r : BindRec) : Bool := r.f 62 1 = 1
/-- First and count of accumulator tiles, of tile-table entries, of 64 KiB units of scratchpad. -/
def BindRec.ranges (r : BindRec) : List (Nat × Nat) := [(r.f 105 3, r.f 101 4), (r.f 95 6, r.f 88 7), (r.f 84 4, r.f 80 4)]
/-- The record in another state, with a launch slot. -/
def BindRec.tgt (r : BindRec) (state slot : Nat) : BindRec := BitVec.ofNat 128 (setField (setField r.toNat 126 2 state) 112 12 slot)

/-- Entry e of a core's slot table. -/
def Device.bind (d : Device) (core e : Nat) : BindRec := d.binds.get 0 (64 * core + e)
/-- Writes an entry. -/
def Device.setBind (d : Device) (core e : Nat) (r : BindRec) : Device := { d with binds := d.binds.put (64 * core + e) r }

/-- The entry goes back to GRANT or FREE (R333); a GRANT serves no slot. -/
def BindRec.idle (r : BindRec) : BindRec := if r.granted then BitVec.ofNat 128 (setField (r.tgt 2 0).toNat 62 1 0) else 0

/-! ### A launch's blocks (R323, R328, R329) -/

/-- A block index of a launch that no block has. -/
def Launch.noBlock (l : Launch) : Nat := 2 ^ (l.tw - l.los l.bb)
/-- The blocks that a die's distributor still owns: the next one not returned, and the returned ones. -/
def Launch.nextOf (l : Launch) (die : Nat) : Option Nat :=
  let fresh := match l.nextBlock die 64 (l.lo.get 0 die) with
    | some b => if b < l.hi.get 0 die then [b] else []
    | none => []
  let all := fresh ++ (l.back.filter (·.1 == die)).map (·.2)
  all.foldl (fun m b => match m with
    | none => some b
    | some c => some (min b c)) none
/-- The highest block that a die's distributor still owns. -/
def Launch.lastOf (l : Launch) (die : Nat) : Option Nat :=
  let h := l.hi.get 0 die
  let fresh := match (if h = 0 then none else l.prevBlock die 64 (h - 1)) with
    | some b => if l.lo.get 0 die ≤ b then [b] else []
    | none => []
  let all := fresh ++ (l.back.filter (·.1 == die)).map (·.2)
  all.foldl (fun m b => match m with
    | none => some b
    | some c => some (max b c)) none
/-- A block leaves its distributor. -/
def Launch.take (l : Launch) (die b : Nat) (high : Bool) : Launch :=
  if l.back.contains (die, b) then { l with back := l.back.erase (die, b) }
  else if high then { l with hi := l.hi.put die b } else { l with lo := l.lo.put die (b + 1) }
/-- Some block is still to be handed out. -/
def Launch.hasBlocks (l : Launch) : Bool := (List.range 4).any (fun d => (l.nextOf d).isSome)
/-- The launch takes part in distribution and binding. -/
def Launch.open (l : Launch) : Bool := l.used && l.admitted && !l.suspended && !l.aborted

/-- A TRAVEL launch's blocks are offered only on cores that pin the segment of ENTRY (R385). -/
def Device.mayServe (d : Device) (core slot : Nat) : Bool :=
  let l := d.launch slot
  !l.travel || d.staysOn core slot l.entry

/-- A core pins a segment of a launch (R383). -/
def Device.pinsFor (d : Device) (core slot : Nat) : Bool := (d.mapEntries slot).any (fun e => (segPins e).contains core)

/-- A launch goes before another on one core (R328). -/
def Launch.beforeOf (l m : Launch) : Bool := m.prio < l.prio || (m.prio == l.prio && l.adm < m.adm)

/-- Another OFFER entry of the core waits for a block of a launch that goes first. -/
def Device.outranked (d : Device) (core slot : Nat) (has : Launch → Bool) : Bool :=
  d.binds.any (fun e =>
    let l := d.launch e.2.slot
    e.1 / 64 == core && e.2.state == 1 && e.2.slot != slot && l.open && l.handed.get none e.1 == none && has l && l.beforeOf (d.launch slot))

/-- `BLOCK_HANDOUT` (R328): the core's distributor gives its next block to an OFFER entry. -/
def execBlockHandout (core entry : Nat) (s : State) : Host.Outcome State Fault Refusal :=
  event s (fun s =>
    let r := s.d.bind core entry
    let l := s.d.launch r.slot
    let die := dieOf core
    if r.state ≠ 1 || !l.open || (l.handed.get none (64 * core + entry)).isSome || !s.d.mayServe core r.slot || s.d.stopped then none
    else match l.nextOf die with
      | none => none
      | some b =>
        if s.d.outranked core r.slot (fun l => (l.nextOf die).isSome) then none
        else some (s.withD (·.setLaunch r.slot { (l.take die b false) with handed := l.handed.put (64 * core + entry) (some b) })))

/-- `STEAL` (R329): a distributor without blocks takes the highest of the first other die that has one. -/
def execSteal (core entry : Nat) (s : State) : Host.Outcome State Fault Refusal :=
  event s (fun s =>
    let r := s.d.bind core entry
    let l := s.d.launch r.slot
    let die := dieOf core
    if r.state ≠ 1 || !l.open || (l.handed.get none (64 * core + entry)).isSome || !s.d.mayServe core r.slot || (l.nextOf die).isSome ||
        s.d.stopped then none
    else match [1, 2, 3].findSome? (fun k => (l.lastOf ((die + k) % 4)).map (fun b => ((die + k) % 4, b))) with
      | none => none
      | some (v, b) => some (s.withD (·.setLaunch r.slot { (l.take v b true) with handed := l.handed.put (64 * core + entry) (some b) })))

/-- `INQ_DEQUEUE` (R330): a slot of INQ is dequeued at its home slice for the block handed to an entry, as an acquire at package scope; the
data is kept with the entry, below a leading one that marks its length. DESIGN CHOICE (log 49): data that an entry did not use serves the die's next
request. -/
def execInqDequeue (core entry : Nat) (s : State) : Host.Outcome State Fault Refusal :=
  event s (fun s =>
    let r := s.d.bind core entry
    let l := s.d.launch r.slot
    let k := 64 * core + entry
    if r.state ≠ 1 || !l.open || l.inqA = 0 || (l.handed.get none k).isNone || (l.inq.get none k).isSome || s.d.unitAsked false k then none
    else match l.spare.find? (·.1 == dieOf core) with
      | some e => some (s.withD (·.setLaunch r.slot { l with spare := l.spare.erase e, inq := l.inq.put k (some e.2) }))
      | none => (s.ctxPlace l.asid l.inqA).map (fun hp => s.unitAsk hp l.asid false k 0))

/-! ### Demands and resources (R334) -/

/-- What a block or a formed wave takes: the waves it has, registers of each, accumulator tiles, tile-table entries, scratchpad bytes, and a
frame. -/
structure Demand where
  waves : List Nat
  regs : Nat
  accn : Nat
  tte : Nat
  scr : Nat
  frame : Bool

/-- The lanes of a wave that start (R13). -/
def Launch.starts (l : Launch) (b w : Nat) : List Nat :=
  (List.range 32).filter (fun k => l.within (b * 2 ^ l.los l.bb + 32 * w + k) 0 l.nf)

/-- The demand of block b. -/
def Launch.demand (l : Launch) (b : Nat) : Demand :=
  ⟨(List.range l.waves).filter (fun w => !(l.starts b w).isEmpty), 8 * l.regq, l.accn, l.tte, l.scr, l.framed⟩

/-- The demand of a formed wave: its task-type entry's registers and scratchpad when TTI ≠ 0 (R177). DESIGN CHOICE (log 64): an entry's REG or SCR
that is outside what R175 gives them is taken as it stands. -/
def Launch.formDemand (l : Launch) (f : Form) : Demand :=
  match f.entry with
  | some (r, c, _) => ⟨[0], r, l.accn, l.tte, c, l.framed⟩
  | none => ⟨[0], 8 * l.regq, l.accn, l.tte, l.scr, l.framed⟩

/-- Registers of a quarter of a core that no bound block holds (R205, R334). -/
def Device.freeRegs (d : Device) (core q : Nat) : Nat :=
  1024 - ((d.blocks.filter (fun e => e.1 / 64 == core && e.2.live)).map (fun e => e.2.bq.get 0 ((q + 4 - e.2.qb) % 4))).sum

/-- Free wave slots of a quarter, lowest first. -/
def Device.freeSlots (d : Device) (core q : Nat) : List Nat :=
  ((List.range 16).map (fun i => 64 * core + 16 * q + i)).filter (fun k => !(d.wave k).live)

/-- The lowest frame of a launch that no block holds; none when all are taken. -/
def Launch.freeFrame (l : Launch) : Option Nat := (List.range (min l.stkn (l.frames.length + 1))).find? (fun f => !l.frames.contains f)

/-- BQ(j) of a demand. -/
def Demand.bq (m : Demand) (j : Nat) : Nat := m.regs * (m.waves.filter (· % 4 == j)).length

/-- The entry fits the demand (R334). -/
def Device.fits (d : Device) (core : Nat) (r : BindRec) (l : Launch) (m : Demand) : Bool :=
  m.accn ≤ r.f 101 4 && m.tte ≤ r.f 88 7 && m.scr ≤ 65536 * r.f 80 4 && (!m.frame || l.freeFrame.isSome) &&
    (List.range 4).all (fun j =>
      let q := (r.qb + j) % 4
      m.bq j ≤ d.freeRegs core q && (m.waves.filter (· % 4 == j)).length ≤ (d.freeSlots core q).length)

/-! ### The L1 of a core after a binding (R296, R311) -/

/-- One CORE park is placed again under the new size: it stays in its new set, or falls back from CLUSTER; the steps are charged to its core
(R309 to R311, R342). -/
def Device.replaceOne (d : Device) (core : Nat) (e : Nat × Park) : Device :=
  let p := e.2
  if d.hasRoom p.asid p.quota 0 p.loc e.1 p.vline then { d with parks := d.parks.put e.1 (some p) }
  else
    let r := d.placeFrom p.asid p.quota e.1 p.vline 4 (widen p.set) 1
    let d := r.1.pmc p.asid core 10 r.2.2
    -- a park that moves keeps its place in the order
    match d.parks.get none e.1 with
    | some q => { d with parks := d.parks.put e.1 (some { q with order := p.order }) }
    | none => d

/-- CORE parks of a core, earliest first. -/
def Device.coreParks (d : Device) (core : Nat) : List (Nat × Park) :=
  let ps := d.parks.filterMap (fun e => match e.2 with
    | some p => if p.lvl = 0 && p.loc = coreId core then some (e.1, p) else none
    | none => none)
  ps.mergeSort (fun a b => a.2.order ≤ b.2.order)

/-- At a binding the core's SRAM is split anew; when the L1 takes another size, its CORE parks are re-indexed (R296). -/
def Device.resizeL1 (d : Device) (core : Nat) : Device :=
  let n := d.scratchUsed core
  if d.split.get 0 core = n then d
  else
    let ps := d.coreParks core
    let d := { d with split := d.split.put core n, parks := d.parks.filter (fun e => !ps.any (fun p => p.1 == e.1)) }
    ps.foldl (fun d p => d.replaceOne core p) d

/-! ### Binding -/

/-- A thread as a launch starts it (R19, R323, R387). -/
def Launch.thread (l : Launch) (frame w lane b : Nat) : Thread :=
  let id := BitVec.ofNat 64 (b * 2 ^ l.los l.bb + 32 * w + lane)
  { Thread.idle with
    pc := BitVec.ofNat 57 l.entry, st := .run, workid := id
    stkptr := if l.travel then l.travelTop id else l.stackTop frame w lane }

/-- A thread formed from a record (R19, R177, R387). -/
def Launch.formed (l : Launch) (frame lane : Nat) (r : BitVec 512) : Thread :=
  let hop := recKind r = 4
  { Thread.idle with
    pc := BitVec.ofNat 57 (recAddr r), st := .run, workid := recWork r
    stkptr := if hop && l.stksz = 0 then 0 else if l.travel then l.travelTop (recWork r) else l.stackTop frame 0 lane
    arriving := hop && l.stksz != 0 }

/-- A wave of a block with its threads. -/
def startedWave (uid blk w regs : Nat) (role : Nat) (prio : Nat) (thr : Tab Thread) : Wave :=
  { Wave.empty with live := true, uid := uid, blk := blk, widx := w, alloc := regs, role := BitVec.ofNat 32 role, thr := thr, priority := prio }

/-- Puts the waves of a block into free slots of their quarters, the lowest first. DESIGN CHOICE (log 9): the spec does not say which. -/
def Device.placeWaves (d : Device) (core qb : Nat) : List Wave → Device
  | [] => d
  | x :: xs =>
    match d.freeSlots core ((qb + x.widx) % 4) with
    | k :: _ => ({ (d.setWave k { x with uid := d.uidn }) with uidn := d.uidn + 1 }).placeWaves core qb xs
    | [] => d.placeWaves core qb xs

/-- The parts of a binding that a launch block and a formed wave share: the block, its generation, its waves, its frame, the entry, the
L1 (R334, R372). -/
def Device.bindBlock (d : Device) (core e : Nat) (b : Block) (m : Demand) (ws : List Wave) : Device :=
  let r := d.bind core e
  let l := d.launch r.slot
  let frame := if m.frame then l.freeFrame else none
  let gen := d.gens.get 0 core + 1
  let b := { b with
    live := true, slot := r.slot, asid := l.asid, frame := frame, qb := r.qb, waves := m.waves.length, scrb := 65536 * r.f 84 4, scrsz := m.scr
    gen := gen, tileN := m.tte, accB := r.f 105 3, accN := m.accn, since := d.clock.toNat
    bq := (List.range 4).map (fun j => (j, m.bq j)) }
  let d := { d with gens := d.gens.put core gen }
  let d := d.setLaunch r.slot { l with out := l.out + 1, frames := l.frames ++ frame.toList }
  let d := (d.setBlock (64 * core + e) b).setBind core e (r.tgt 3 r.slot)
  let d := d.placeWaves core r.qb (ws.map (fun x => { x with blk := 64 * core + e }))
  d.resizeL1 core

/-- The oldest released formed wave of a core that an entry can take, with its place in `forms` (R334, R336). -/
def Device.formFor (d : Device) (core e : Nat) : Option (Nat × Form) :=
  let r := d.bind core e
  let l := d.launch r.slot
  (List.range d.forms.length).findSome? (fun k => match d.forms[k]? with
    | some f =>
      let q := f.recs.headD 0
      if f.core == core && f.released && recSlot q == r.slot && (recTti q == 0 || f.entry.isSome) && d.fits core r l (l.formDemand f) then some (k, f)
      else none
    | none => none)

/-- Binds a formed wave (R177, R440). -/
def Device.bindForm (d : Device) (core e k : Nat) (f : Form) : Device :=
  let r := d.bind core e
  let l := d.launch r.slot
  let m := l.formDemand f
  let flags := match f.entry with
    | some (_, _, x) => x.toNat
    | none => 1
  let prio := max ((f.recs.map recPrio).foldl max 0) (match f.entry with
    | some _ => field flags 1 2
    | none => 0)
  let idem := f.recs.all recIdem && flags % 2 = 1
  let frame := (if m.frame then l.freeFrame else none).getD 0
  let lanes := (List.range f.recs.length).zip f.recs
  let x := startedWave 0 0 0 m.regs 0 prio (lanes.map (fun p => (p.1, l.formed frame p.1 p.2)))
  let x := lanes.foldl (fun x p =>
    let x := (List.range 11).foldl (fun x i => if i < m.regs then x.setReg p.1 i (recWord p.2 i) else x) x
    (List.range 7).foldl (fun x i => x.setPred p.1 i (recPred p.2 / 2 ^ i % 2 == 1)) x) x
  let b := { Block.empty with
    formed := true, prio := prio, idem := idem, recs := if idem then f.recs else []
    reduces := (f.recs.filter (fun q => recKind q == 6)).map (fun q => ((recWord q 7).toNat, (recWord q 9).toNat)) }
  let d := { d with forms := d.forms.eraseIdx k }
  let more := d.forms.any (fun g => g.core == core && g.released && recSlot (g.recs.headD 0) == r.slot)
  ({ d with offersDue := if more then d.offersDue else d.offersDue.filter (· != (r.slot, core)) }).bindBlock core e b m [x]

/-- Binds a block of a launch: the INQ data stands in the first bytes of its scratchpad (R323, R330). -/
def St.bindLaunch (s : St) (core e b : Nat) : St :=
  let r := s.d.bind core e
  let l := s.d.launch r.slot
  let m := l.demand b
  let frame := (if m.frame then l.freeFrame else none).getD 0
  let ws := m.waves.map (fun w =>
    startedWave 0 0 w m.regs (l.role w) l.prio ((l.starts b w).map (fun k => (k, l.thread frame w k b))))
  let blk := { Block.empty with index := b, prio := l.prio, idem := l.idem }
  let key := 64 * core + e
  let s := match l.inq.get none key with
    | some v => s.wrN (scratchBase core + 65536 * r.f 84 4) (Nat.log2 v / 8) (v % 2 ^ Nat.log2 v)
    | none => s
  s.withD fun d =>
    let l := d.launch r.slot
    (d.setLaunch r.slot { l with handed := l.handed.del key, inq := l.inq.del key }).bindBlock core e blk m ws

/-- A block has been bound or restored on the core in this cycle: a core binds at most one (R372). -/
def Device.boundNow (d : Device) (core : Nat) : Bool := d.blocks.any (fun e => e.1 / 64 == core && e.2.live && e.2.since == d.clock.toNat)

/-- The binding of an entry, when it can be made, at full power (R334, R372, R430): an OFFER entry takes the oldest formed wave that it fits, else the block handed to it. -/
def St.bindEntry (s : St) (core entry : Nat) : Option St :=
  let r := s.d.bind core entry
  let l := s.d.launch r.slot
  let key := 64 * core + entry
  if r.state ≠ 1 || !l.open || s.d.stopped || s.d.power ≠ 0 || Config.cores ≤ core || 64 ≤ entry || s.d.boundNow core then none
  else
    -- the launch's threads are causally after what its enqueuer did (R281)
    let s := s.withD (·.takeClk (dieOf core) l.vc)
    match s.d.formFor core entry with
    | some (k, f) => some (s.withD (·.bindForm core entry k f))
    | none => match l.handed.get none key with
      | none => none
      | some b =>
        if (l.inqA ≠ 0 && (l.inq.get none key).isNone) || !s.d.fits core r l (l.demand b) then none
        else some (s.bindLaunch core entry b)

/-! ### Foxglove's writes of entries (R332, R333) -/

/-- Two ranges meet; an empty one meets none. -/
def rangesMeet (a b : Nat × Nat) : Bool := a.2 != 0 && b.2 != 0 && a.1 < b.1 + b.2 && b.1 < a.1 + a.2

/-- A record's ranges lie within the core's resources: 8 tiles, 64 entries, 11 units of scratchpad. -/
def BindRec.within (r : BindRec) : Bool :=
  (r.ranges.zip [8, 64, 11]).all (fun p => p.1.1 + p.1.2 ≤ p.2)

/-- An entry serves its launch no longer: a block handed to it goes back to its distributor, and so does slot data dequeued for it (log 49). -/
def Device.handBack (d : Device) (core entry : Nat) : Device :=
  let key := 64 * core + entry
  let slot := (d.bind core entry).slot
  let l := d.launch slot
  match l.handed.get none key with
  | none => d
  | some b => (d.setLaunch slot { l with
      handed := l.handed.del key, back := l.back ++ [(dieOf core, b)]
      inq := l.inq.del key, spare := l.spare ++ (l.inq.get none key).toList.map (fun v => (dieOf core, v)) }).unitGone false key

/-- Foxglove writes an OFFER for a TRAVEL launch on cores that pin a segment of it only, with REPEAT = 1 (R385). -/
def Device.offerOk (d : Device) (core : Nat) (r : BindRec) : Bool :=
  !(r.state == 1 && (d.launch r.slot).travel) || (d.pinsFor core r.slot && r.repeat)

/-- A record as an entry holds it: its reserved bits 79:64 and 61:0 are zero (R5, R332). -/
def BindRec.clean (r : BindRec) : BindRec := BitVec.ofNat 128 (2 ^ 80 * r.f 80 48 + 2 ^ 62 * r.f 62 2)

/-- A record that Foxglove writes into an entry takes effect: the entry holds the STATE it expects and is not BOUND, no other entry's ranges meet
its own, and the core has its resources (R333). -/
def Device.bindWritable (d : Device) (core entry : Nat) (expect : BitVec 2) (rec : BitVec 128) : Bool :=
  let old := d.bind core entry
  let others := d.binds.filter (fun e => e.1 / 64 == core && e.1 != 64 * core + entry && e.2.state != 0)
  let clash := others.any (fun e => (BindRec.ranges e.2).zip (BindRec.ranges rec) |>.any (fun p => rangesMeet p.1 p.2))
  core < Config.cores && entry < 64 && old.state == expect.toNat && old.state != 3 && BindRec.state rec != 3 && !clash && BindRec.within rec

/-- Foxglove's write of an entry, which reads the outcome (R333). -/
def Device.writeBind (d : Device) (core entry : Nat) (expect : BitVec 2) (rec : BitVec 128) : Device :=
  if d.bindWritable core entry expect rec then
    { ((if (d.bind core entry).state = 1 then d.handBack core entry else d).setBind core entry (BindRec.clean rec)) with bindOut := some true }
  else { d with bindOut := some false }

/-- `BIND_RECORD_WRITE` (R333). A binding of the same entry that is still to come in this cycle comes first (R344). -/
def execBindRecordWrite (core entry : Nat) (expect : BitVec 2) (rec : BitVec 128) (s : State) : Host.Outcome State Fault Refusal :=
  event s (fun s =>
    if !s.d.offerOk core rec then none
    else if s.d.agenda.contains (.blockBind core entry) then some (s.withD fun d => { d with bindDue := d.bindDue ++ [(core, entry, expect, rec)] })
    else some (s.withD (·.writeBind core entry expect rec)))

/-- The writes of an entry that a binding of this cycle came before (R344). -/
def Device.lateBinds (d : Device) (core entry : Nat) : Device :=
  let mine := d.bindDue.filter (fun e => e.1 == core && e.2.1 == entry)
  mine.foldl (fun d e => d.writeBind core entry e.2.2.1 e.2.2.2) { d with bindDue := d.bindDue.filter (fun e => !mine.contains e) }

/-- `BLOCK_BIND` (R334); then the writes that it came before (R344). -/
def execBlockBind (core entry : Nat) (s : State) : Host.Outcome State Fault Refusal :=
  event s (fun s =>
    let due := s.d.bindDue.any (fun e => e.1 == core && e.2.1 == entry)
    match s.bindEntry core entry with
    | some t => some (if due then t.withD (·.lateBinds core entry) else t)
    | none => if due then some (s.withD (·.lateBinds core entry)) else none)

/-! ### Ends -/

/-- The block's live waves. -/
def Device.wavesOf (d : Device) (k : Nat) : List (Nat × Wave) := d.waves.filter (fun e => e.2.live && e.2.blk == k)

/-- A wave's registers go to its block's pool and its slot is free; writes that are not acknowledged yet stay outstanding (R10, R205, R274). -/
def Device.dropWave (d : Device) (w : Nat) : Device :=
  let x := d.wave w
  let b := d.block x.blk
  let d := d.setBlock x.blk { b with pool := b.pool.upd 0 (x.widx % 4) (· + x.alloc), ended := b.ended ++ [x.uid] }
  { d with waves := d.waves.del w, orphans := if x.outw.isEmpty then d.orphans else d.orphans.put x.uid x.outw }

/-- The binding of a launch's collective. -/
def Device.bidOf (d : Device) (slot : Nat) : Option (Nat × Binding) :=
  match (d.launch slot).bid with
  | none => none
  | some k => match d.bindings.lookup k with
    | some b => some (k, b)
    | none => none

/-- A block of reduce records has ended: its chunk's OUT may be taken, or is discarded when its view is gone (R405, R411). -/
def Device.reduceEnded (d : Device) (b : Block) : Device :=
  b.reduces.foldl (fun d r => match d.bidOf b.slot with
    | none => { d with discards := d.discards + 1 }
    | some (k, x) =>
      let c := x.chunks.get Chunk.fresh r.1
      if x.tag.toNat = r.2 && c.reducing then { d with bindings := d.bindings.put k { x with chunks := x.chunks.put r.1 { c with reduced := true } } }
      else { d with
        discards := d.discards + 1
        bindings := d.bindings.put k { x with discards := x.discards + 1 } }) d

/-- AUTOF of the launch's binding (R412): f + 1, 0 for none. -/
def Binding.autof (x : Binding) : Nat := field x.rcd.toNat 469 3

/-- The last wave of a block has ended: what it still owes before its slot is free (R330, R412). -/
def Device.blockOver (d : Device) (k : Nat) : Device :=
  let b := d.block k
  let l := d.launch b.slot
  let owes := !b.left && !b.formed && !l.aborted
  let auto := owes && (match d.bidOf b.slot with
    | some (_, x) => x.autof != 0
    | none => false)
  d.setBlock k { b with outq := owes && l.outqA != 0, auto := auto }

/-- `WAVE_END` (R10): all threads DONE, every operation retired. DEDUCED (log 32): an access that the load-store unit still holds keeps the wave on
its core. -/
def execWaveEnd (w : Nat) (s : State) : Host.Outcome State Fault Refusal :=
  event s (fun s =>
    let x := s.d.wave w
    if !x.live || x.alive ≠ 0 || !x.ops.isEmpty || x.frame.isSome || x.leaving || s.d.late.any (·.uid == x.uid) then none
    else some (s.withD fun d =>
      let d := d.dropWave w
      if (d.wavesOf x.blk).isEmpty then d.blockOver x.blk else d))

/-- The writes of a block's ended waves are all acknowledged. -/
def Device.blockAcked (d : Device) (b : Block) : Bool := b.ended.all (fun u => (d.orphans.get [] u).isEmpty)

/-- `OUTQ_ENQUEUE` (R330): the block's slot, its index and zeros, enters OUTQ as a release at package scope that covers the block's writes; it waits
for room in the order of the header's requests. -/
def execOutqEnqueue (blk : Nat) (s : State) : Host.Outcome State Fault Refusal :=
  event s (fun s =>
    let b := s.d.block blk
    let l := s.d.launch b.slot
    let core := blk / 64
    if !b.live || !b.outq || b.auto || s.d.unitAsked true blk then none
    else
      let s := s.releaseOf core b.asid 4
      if !s.d.pushed core b.asid || !s.d.blockAcked b then some s
      else (s.ctxPlace l.asid l.outqA).map (fun hp => (s.meetQueue core hp).unitAsk hp l.asid true blk b.index))

/-- Every mapping to a block is revoked and its own slots 1 to 63 are cleared (R171). -/
def Device.revoke (d : Device) (k : Nat) : Device :=
  { d with blocks := d.blocks.map (fun e =>
      if e.1 == k then (e.1, { e.2 with windows := [], member := false, leaving := false })
      else (e.1, { e.2 with windows := e.2.windows.map (fun w => match w.2 with
        | some t => if 64 * t.core + t.entry == k then (w.1, none) else w
        | none => w) })) }

/-- The key by which what is saved with a block names the block itself: no block has it. -/
def ownKey : Nat := 64 * 288

/-- A place in the scratchpad of a block. -/
def Place.isIn (p : Place) (k : Nat) : Bool :=
  match p with
  | .scratch j _ => j == k
  | _ => false

/-- An address in `mem` lies in the scratchpad of a block. -/
def Device.inScratch (d : Device) (k a : Nat) : Bool :=
  let base := scratchBase (k / 64) + (d.block k).scrb
  base ≤ a && a < base + (d.block k).scrsz

/-- A peer's access that the block's scratchpad has accepted is not complete: a delivery, an access that a load-store unit holds, a wait at a barrier
or a queue (R171, R217). -/
def Device.peerBusy (d : Device) (k : Nat) : Bool :=
  let own (uid : Nat) : Bool := (d.byUid uid).any (·.2.blk == k)
  d.copies.any (fun c => c.blk != k && !c.landed && c.deliveries.any (fun e => e.2 == .accepted k)) ||
    d.saved.any (fun v => v.copies.any (fun c => !c.landed && c.deliveries.any (fun e => e.2 == .accepted k))) ||
    d.late.any (fun l => !own l.uid && l.places.any (·.2.isIn k)) || d.bwaits.any (fun b => !own b.uid && d.inScratch k b.obj) ||
    d.qwaits.any (fun q => !own q.uid && q.at'.isIn k)

/-- `GLEAVE_TAKES_EFFECT` (R171): every peer access that the block's scratchpad has accepted has completed. -/
def execGleaveTakesEffect (blk : Nat) (s : State) : Host.Outcome State Fault Refusal :=
  event s (fun s =>
    let b := s.d.block blk
    if !b.live || !b.leaving || s.d.peerBusy blk then none else some (s.withD (·.revoke blk)))

/-- The launch still has work for an entry of a core: blocks to hand out or handed to it, or waves that form there (R333); a core that pins a segment
of it keeps its OFFER (R385). -/
def Device.moreWork (d : Device) (core entry slot : Nat) : Bool :=
  let l := d.launch slot
  l.open && (l.hasBlocks || d.pinsFor core slot || (l.handed.get none (64 * core + entry)).isSome ||
    d.forms.any (fun f => f.core == core && recSlot (f.recs.headD 0) == slot))

/-- The entry of a block that has left goes to its next state (R333). -/
def Device.freeEntry (d : Device) (core entry : Nat) : Device :=
  let r := d.bind core entry
  if r.repeat && d.moreWork core entry r.slot then d.setBind core entry (r.tgt 1 r.slot)
  else (d.handBack core entry).setBind core entry r.idle

/-- The tiles in which a copy still counts: those it lands in, and those it reads. -/
def Copy.tilesIn (c : Copy) (k : Nat) : List Nat × List Nat :=
  ((c.fills.filter (·.1 == k)).map (·.2), ((c.reads ++ c.rowRead.toList).filter (·.1 == k)).map (·.2))

/-- The copy counts in no tile of a block any more. -/
def Copy.notIn (c : Copy) (k : Nat) : Copy :=
  { c with fills := c.fills.filter (·.1 != k), reads := c.reads.filter (·.1 != k), rowRead := c.rowRead.filter (·.1 != k) }

/-- The other blocks' copies, bound and saved. -/
def Device.peerCopies (d : Device) (k : Nat) : List Copy := d.copies.filter (·.blk != k) ++ d.saved.flatMap (·.copies)

/-- A block's scratchpad goes: copies of other blocks count in its tiles no more; what they have still to land there will not be reached (R172, R227). -/
def Device.peersGone (d : Device) (k : Nat) : Device :=
  let d := (d.peerCopies k).foldl (fun d c =>
    let t := c.tilesIn k
    t.2.foldl (fun d t => d.nrdDown k t) (t.1.foldl (fun d t => d.nfillDown k t) d)) d
  { d with
    copies := d.copies.map (fun c => if c.blk == k then c else c.notIn k)
    saved := d.saved.map (fun v => { v with copies := v.copies.map (·.notIn k) }) }

/-- The slot of a block is free (R333, R334): nobody reaches it any more; `ended` gives its frame back. -/
def Device.freeBlock (d : Device) (k : Nat) (ended : Bool) : Device :=
  let b := d.block k
  let l := d.launch b.slot
  let d := (d.peersGone k).revoke k
  let d := d.setLaunch b.slot (if ended then { l with
    out := l.out - 1, frames := l.frames.filter (fun f => some f != b.frame), lastEnd := some d.clock.toNat } else l)
  let d := { (d.unitGone true k) with blocks := d.blocks.del k, bwaits := d.bwaits.filter (fun w => !d.inScratch k w.obj) }
  d.freeEntry (k / 64) (k % 64)

/-- A block that leaves its core pushes the scope-local copies of its context in the cluster slice, and its scratchpad takes no new peer access
(R171, R366). -/
def St.leaveFirst (s : St) (k : Nat) : St :=
  let b := s.d.block k
  (s.releaseOf (k / 64) b.asid 4).withD fun d => d.setBlock k { d.block k with leaving := b.leaving || b.member }

/-- What a block waits for before its slot is free: the push, and the peer accesses that its scratchpad has accepted (R171, R361, R366). -/
def Device.mayFree (d : Device) (k : Nat) : Bool := d.pushed (k / 64) (d.block k).asid && !d.peerBusy k

/-- `BLOCK_LEAVE_PUSH` (R171, R330, R333, R366): the ended block's slot is free; a reduce block's once its writes are acknowledged, so that OUT may be
read (R411). -/
def execBlockLeavePush (blk : Nat) (s : State) : Host.Outcome State Fault Refusal :=
  event s (fun s =>
    let b := s.d.block blk
    if !b.live || !(s.d.wavesOf blk).isEmpty || b.outq || b.auto then none
    else
      let t := s.leaveFirst blk
      some (if t.d.mayFree blk && (b.reduces.isEmpty || t.d.blockAcked b) then t.withD fun d => (d.freeBlock blk true).reduceEnded b else t))

/-! ### The end of a launch -/

/-- Records that bear a launch's slot are still on their way: in transit, forming, in a ring or spilled. -/
def St.recordsOf (s : St) (slot : Nat) : Bool :=
  s.d.transit.any (fun t => t.rank.isNone && recSlot t.rcd == slot) || s.d.forms.any (fun f => recSlot (f.recs.headD 0) == slot) ||
    s.d.spill.any (fun e => recSlot e.2.2 == slot) || (List.range 289).any (fun c => s.ringOcc slot c != 0)

/-- Every block of the launch has ended, and every record has formed a wave that has ended (R327). -/
def St.launchOver (s : St) (slot : Nat) : Bool :=
  let l := s.d.launch slot
  l.used && l.admitted && l.out == 0 && (l.aborted || (!l.hasBlocks && l.back.isEmpty && l.handed.all (fun e => e.2.isNone))) &&
    !s.d.blocks.any (fun e => e.2.live && e.2.slot == slot) && !s.recordsOf slot

/-- The cores that pin a segment of a TRAVEL launch (R382). -/
def Device.pinsOf (d : Device) (slot : Nat) : List Nat := (d.mapEntries slot).flatMap segPins

/-- `LAUNCH_END` (R327, R333, R386, R418): the slot is free, OFFER entries of it go idle, its rings, its pins with what Foxglove notes of them, and its
registration for active messages are gone, and the host learns of it (R423). -/
def execLaunchEnd (slot : Nat) (s : State) : Host.Outcome State Fault Refusal :=
  event s (fun s =>
    if !s.launchOver slot then none
    else
      let l := s.d.launch slot
      let pins := s.d.pinsOf slot
      some (s.withD fun d =>
        let d := d.setLaunch slot Launch.free
        { d with
          binds := d.binds.map (fun e => if e.2.state == 1 && e.2.slot == slot then (e.1, BindRec.idle e.2) else e)
          -- an ISOLATED binding is remembered for a restart (R404)
          bindings := match l.bid with
            | some k => d.bindings.filter (fun e => e.1 != k || e.2.st == .isolated || e.2.slot != slot)
            | none => d.bindings
          partitions := d.partitions.map (fun e => if e.2.am == some slot then (e.1, { e.2 with am := none }) else e)
          overflowDue := d.overflowDue.filter (·.1 != slot)
          segs := d.segs.filter (fun e => !pins.contains e.1)
          cool := d.cool.filter (·.2 != slot), hopsIn := d.hopsIn.filter (·.1 != slot), extra := d.extra.filter (·.1 != slot)
          occ := d.occ.filter (fun e => e.1 % 4096 != slot)
          hreg := d.hreg.put 0x0038 ((d.hreg.get 0 0x0038) ||| 1) }))

end Sys2Proof.Machine
end

