-- ==== Sys2Proof/Machine/Launching.lean ====
section
/-! DEFINITION. Launch records as they are enqueued: the checks of R324 and R402, the launch queues (R209, R326), and `LAUNCH`. -/

namespace Sys2Proof.Machine

/-! ### The device's fabric rank and partitions -/

/-- The fabric rank of the device (R37, R422): all ones while the fabric is not trained. -/
def Device.rank (d : Device) : Nat :=
  if d.fabricUp then
    ((d.coords.getD 0 0 * 64 + d.coords.getD 1 0) * 16 + d.coords.getD 2 0) * 12 + d.coords.getD 3 0
  else 0xFFFFFFFF

/-- The partition of a context (R418). -/
def Device.partOf (d : Device) (asid : Nat) : Option Nat :=
  (d.partitions.find? (fun e => e.2.valid && e.2.asid == asid)).map (·.1)

/-! ### The checks of a launch record (R324) -/

/-- CODE 1: FPOS or LIMIT breaks R11 to R14. -/
def Launch.fposOk (l : Launch) : Bool :=
  let lo (i : Nat) := if i = 0 then 0 else if i < 6 then field l.fpos (7 * (i - 1)) 7 else l.tw
  1 ≤ l.nf && l.nf ≤ 6 && l.tw ≤ 64 && 5 ≤ lo 1 && 1 ≤ l.bb && l.bb ≤ l.gb && l.gb ≤ l.nf && l.los l.bb ≤ 10 &&
    (List.range l.nf).all (fun i => lo i ≤ lo (i + 1)) && (List.range 7).all (fun i => i < l.nf || lo i == l.tw) &&
    l.limit / 2 ^ l.tw == 0

/-- CODE 4: a reserved bit, or a field outside its range (R322). -/
def Launch.fieldsOk (l : Launch) : Bool :=
  field l.fpos 51 13 == 0 && [(660, 12), (710, 2), (742, 2), (747, 1), (767, 1), (785, 15), (836, 188)].all (fun r => l.f r.1 r.2 == 0) &&
    1 ≤ l.regq && l.regq ≤ 32 && l.scr % 65536 == 0 && l.scr ≤ 720896 && 1 ≤ l.ftime && l.ftime ≤ 1000000 && (l.ttn != 0 || l.ttbase == 0) &&
    (List.range 4).all (fun i => l.f (712 + 6 * i) 6 ≤ 32) && l.f 744 3 ≤ 4 && l.f 748 4 ≤ 8 && l.f 752 4 ≤ 8 && l.accn ≤ 8 &&
    l.tte ≤ 64 && l.ttn ≤ 65536 && l.stksz % 8 == 0 && l.segmap % 64 == 0

/-- CODE 6: the block fits one core. -/
def Launch.fits (l : Launch) : Bool :=
  let roles := (List.range 4).map (fun i => l.f (712 + 6 * i) 6)
  8 * l.regq * ((l.waves + 3) / 4) ≤ 1024 && (roles.all (· == 0) || l.waves ≤ roles.sum) && (l.inqA == 0 || l.scr != 0)

/-- A queue header that a launch may name as an edge (CODE 8). -/
def St.edgeOk (s : St) (asid va : Nat) : Bool :=
  va == 0 || (va % 64 == 0 &&
    (match s.ctxPlace asid va with
     | some (.dev _ _) => true
     | _ => false) &&
    (match s.ctxRead asid va 64 with
     | some h => field h 200 1 == 1
     | none => false))

/-- The bytes from an address are readable device memory, page by page. -/
def St.areaOk (s : St) (asid : Nat) : Nat → Nat → Nat → Bool
  | 0, _, n => n == 0
  | fuel + 1, va, n =>
    if n = 0 then true
    else match s.translate 0 asid va with
      | .error _ => false
      | .ok (pa, pte, size) =>
        let here := size - va % size
        permits pte .read && !isHost pa && s.areaOk asid fuel (va + here) (n - here)

/-- MB of R401. -/
def maskBytes (n : Nat) : Nat := ((n + 7) / 8 + 63) / 64 * 64

/-- The members that a binding record lists; none where the list cannot be read. -/
def St.memberList (s : St) (asid : Nat) (r : BitVec 1024) : Option (List Nat) :=
  (List.range (field r.toNat 364 20)).foldr (fun i t =>
    match t, s.ctxRead asid (field r.toNat 0 64 + 4 * i) 4 with
    | some t, some v => some (v :: t)
    | _, _ => none) (some [])

/-- The fields of a binding record that no memory shows (R401, R402). -/
def bindingOk (l : Launch) (r : BitVec 1024) : Bool :=
  let f (lo len : Nat) := field r.toNat lo len
  let nch := f 352 12 + 1
  let chsz := f 320 32
  let small := nch == 1 && chsz < 4096
  let reweight := f 468 1 == 1
  let auto := f 469 3
  f 472 552 == 0 && (auto == 0 || (l.bb ≤ auto - 1 && auto - 1 < l.nf)) &&
    (if reweight then f 464 4 == 0 && f 448 16 != 0 else f 464 4 != 0 && f 448 16 == 0) &&
    1 ≤ f 432 16 && f 432 16 < l.ttn && f 416 16 != 0 && f 384 32 != 0 && 2 ≤ f 364 20 && f 364 20 ≤ 786432 &&
    chsz != 0 && (if small then chsz % 64 == 0 else chsz % 4096 == 0) && (auto != 0 || f 256 64 == 0) && f 192 64 % 64 == 0 &&
    f 128 64 % 4096 == 0 && f 64 64 % (if small then 64 else 4096) == 0 && f 0 64 % 4 == 0

/-- CODE 9 does not hold: the binding is accepted (R402, R418, R422). -/
def St.collOk (s : St) (asid : Nat) (l : Launch) : Bool :=
  l.collA == 0 || (l.collA % 128 == 0 && s.d.fabricUp && (s.d.partOf asid).isSome &&
    (match s.ctxPlace asid l.collA, s.ctxRead asid l.collA 128 with
     | some (.dev _ _), some n =>
       let r := BitVec.ofNat 1024 n
       let f (lo len : Nat) := field n lo len
       let nch := f 352 12 + 1
       let mb := maskBytes (f 364 20)
       let area (va n : Nat) := s.areaOk asid (n / 65536 + 2) va n
       bindingOk l r && area (f 0 64) (4 * f 364 20) && area (f 64 64) (nch * f 320 32) &&
         area (f 128 64) (3 * nch * f 320 32 + 2 * nch * mb) && area (f 192 64) (nch * mb) &&
         (match s.memberList asid r with
          | some ms => ms.eraseDups.length == ms.length && ms.contains s.d.rank
          | none => false)
     | _, _ => false))

/-- CODE 13 does not hold: no module that is not READY holds ENTRY. -/
def Device.moduleOk (d : Device) (asid entry : Nat) : Bool :=
  !(d.ctx asid).modules.any (fun e => e.2.state != 0 && e.2.state != 2 && e.2.base.toNat ≤ entry && entry < e.2.base.toNat + e.2.size)

/-- The first check that a record fails, in the order of R324; 0 when it passes. -/
def St.launchCode (s : St) (asid q : Nat) (rd : Option (BitVec 1024)) : Nat :=
  if 64 ≤ (s.d.lqs.get [] q).length then 2
  else if 4096 ≤ (s.d.launches.filter (·.2.used)).length then 3
  else match rd with
    | none => 10
    | some r =>
      let l : Launch := { Launch.free with rcd := r }
      if !l.fposOk then 1
      else if !l.fieldsOk then 4
      else if 2 ^ 57 ≤ l.entry || l.entry % 4 != 0 then 5
      else if !l.fits then 6
      else if l.travel != (l.segmap != 0) then 7
      else if !(s.edgeOk asid l.inqA && s.edgeOk asid l.outqA) then 8
      else if !s.collOk asid l then 9
      else if l.ttn != 0 && (l.ttbase == 0 || l.ttbase % 32 != 0) then 11
      else if (l.stkn == 0) != (l.stksz == 0) then 12
      else if !s.d.moduleOk asid l.entry then 13 else 0

/-- The lowest free launch slot. DESIGN CHOICE (log 9): the spec does not say which. -/
def Device.freeSlot (d : Device) : Nat := ((List.range 4096).find? (fun k => !(d.launch k).used)).getD 0

/-- LAUNCH_ENQUEUE (R324, R326): the status of R209, and the state with the record in its queue when it passes. -/
def St.enqueue (s : St) (asid q : Nat) (rd : Option (BitVec 1024)) : Nat × St :=
  let code := s.launchCode asid q rd
  if code ≠ 0 then (2 ^ 31 + 2 ^ 24 * code, s)
  else
    let k := s.d.freeSlot
    let l : Launch := { Launch.free with
      used := true, rcd := rd.getD 0, asid := asid, seq := s.d.lseq, prev := s.d.lqLast.get none q, queue := q }
    (k, s.withD fun d => { (d.setLaunch k l) with lqs := d.lqs.put q (d.lqs.get [] q ++ [⟨k⟩]), lseq := d.lseq + 1, lqLast := d.lqLast.put q (some d.lseq) })

/-! ### `LAUNCH` -/

/-- Reads the record at a place and enqueues it: a read that fails gives CODE 10. -/
def St.enqueueAt (s : St) (core asid q : Nat) (p : Place) : Nat × St :=
  if (s.readErr p).isSome then s.enqueue asid q none
  else
    let r := s.load core p 128
    let e := r.2.enqueue asid q (some (BitVec.ofNat 1024 r.1))
    -- the launch's threads are causally after the issuing wave's accesses (R281)
    (e.1, if e.1 < 4096 then e.2.withD (fun d => d.setLaunch e.1 { d.launch e.1 with vc := d.clkVec (dieOf core) }) else e.2)

/-- A `LAUNCH` is carried out (R209). -/
def St.launchNow (s : St) (r : LReq) : St :=
  let e := s.enqueueAt r.core r.asid r.queue r.place
  e.2.withD fun d => ({ d with lreqs := d.lreqs.erase r }).updOp r.uid r.op (fun o => { o with
    vals := (lanesOf o.lanes).map (fun l => (l, e.1)), done := true })

/-- The record may be read: the wave's earlier writes are acknowledged at package scope and its earlier reads bound; a record in a scratchpad is read
when its block is on a core (R209, R281). -/
def Device.launchDue (d : Device) (r : LReq) : Bool :=
  d.leaves r.uid r.need r.op && ((d.byUid r.uid).isSome || (match r.place with
    | .scratch _ _ => false
    | _ => true))

/-- A host's write to LQREC settles: the record at the address, in the context that LQASID(q) named at the write, is enqueued, and LQSTAT(q) holds the
outcome (R424). -/
def St.hostLaunch (s : St) (q a : Nat) (v : W64) : St :=
  let r := if v.toNat % 128 = 0 && v.toNat < 2 ^ 57 && (s.d.ctx a).live then (s.ctxRead a v.toNat 128).map (BitVec.ofNat 1024) else none
  let e := s.enqueue a q r
  e.2.withD fun d =>
    let rest := d.lqrecs.erase (q, a, v)
    { d with lqrecs := rest, hreg := d.hreg.put (0x200 + 8 * q) (if rest.any (·.1 == q) then 0xFFFFFFFF else BitVec.ofNat 64 e.1) }

/-- THE ENQUEUES OF A CYCLE (R326): those of the device, the lower core first, then for each queue the host's first unsettled write. -/
def St.runLaunches (s : St) : St :=
  let due := s.d.lreqs.filter s.d.launchDue
  let s := (List.range Config.cores).foldl (fun s c => (due.filter (·.core == c)).foldl (fun s r => s.launchNow r) s) s
  (List.range 16).foldl (fun s q => match s.d.lqrecs.lookup q with
    | some (a, v) => s.hostLaunch q a v
    | none => s) s

/-- `LAUNCH` (R209): the request of the wave, whose record is read when its writes are acknowledged. -/
def execLaunch (h : Ctl) (d : Opnd) (a : Src) (ofs : BitVec 16) (lq : BitVec 4) (s : State) : Host.Outcome State Fault Refusal :=
  issue 0x306 h { Req.none with srcs := a.rng 2, dsts := d.rng 1 } (fun i s =>
    let x := s.d.wave i.w
    let ea := a.ea ofs x (lowest i.act)
    if i.act = 0 then .ok { Eff.plain s with out := .long (d.dest 1) [] true none false }
    else match s.checks i (lanesOf i.act) (fun _ => ea) 128 128 .read with
      | .error r => r
      | .ok (ps, s) =>
        let r : LReq := ⟨x.uid, i.opid, lq.toNat, i.core, i.asid, (ps.headD (0, .host 0)).2, x.wseq⟩
        s.boundFirst i x (fun _ => ea) 128 ps
          (.ok { Eff.plain ((s.releaseOf i.core i.asid 4).withD fun d => { d with lreqs := d.lreqs ++ [r] }) with
            out := .long (d.dest 1) [] false none false, pub := true })) s

end Sys2Proof.Machine
end

