-- ==== Sys2Proof/Machine/Bindings.lean ====
section
/-! DEFINITION. The collective machinery beneath `COLL`: bindings, their memory areas, staging, the steps of an operation, finals and
completion (R401, R409 to R413). -/

namespace Sys2Proof.Machine

/-! ### The binding record (R401) -/

/-- A field of a binding record. -/
def Binding.f (x : Binding) (lo len : Nat) : Nat := field x.rcd.toNat lo len
/-- NCH. -/
def Binding.nch (x : Binding) : Nat := x.f 352 12 + 1
/-- CHSZ. -/
def Binding.chsz (x : Binding) : Nat := x.f 320 32
/-- MODE is REWEIGHT. -/
def Binding.reweight (x : Binding) : Bool := x.f 468 1 = 1
/-- MAXRST. -/
def Binding.maxrst (x : Binding) : Nat := x.f 464 4
/-- MB. -/
def Binding.mb (x : Binding) : Nat := maskBytes (x.f 364 20)
/-- IN of a chunk. -/
def Binding.inAt (x : Binding) (c : Nat) : Nat := x.f 128 64 + c * x.chsz
/-- ACC of a chunk. -/
def Binding.accAt (x : Binding) (c : Nat) : Nat := x.f 128 64 + (x.nch + c) * x.chsz
/-- OUT of a chunk. -/
def Binding.outAt (x : Binding) (c : Nat) : Nat := x.f 128 64 + (2 * x.nch + c) * x.chsz
/-- The mask of ACC of a chunk. -/
def Binding.accMaskAt (x : Binding) (c : Nat) : Nat := x.f 128 64 + 3 * x.nch * x.chsz + 2 * c * x.mb
/-- The mask of OUT of a chunk. -/
def Binding.outMaskAt (x : Binding) (c : Nat) : Nat := x.f 128 64 + 3 * x.nch * x.chsz + (2 * c + 1) * x.mb
/-- Chunk c's place in DST. -/
def Binding.dstAt (x : Binding) (c : Nat) : Nat := x.f 64 64 + c * x.chsz
/-- Chunk c's contributor mask. -/
def Binding.cmaskAt (x : Binding) (c : Nat) : Nat := x.f 192 64 + c * x.mb

/-- A chunk of the operation in progress. -/
def Binding.chunk (x : Binding) (c : Nat) : Chunk := x.chunks.get Chunk.fresh c
/-- Sets a chunk. -/
def Binding.setChunk (x : Binding) (c : Nat) (k : Chunk) : Binding := { x with chunks := x.chunks.put c k }
/-- Members of the view below this one. -/
def Binding.lower (x : Binding) : List Nat := x.view.filter (· < x.rank)
/-- The member next below, next above (R410, R413). -/
def Binding.below (x : Binding) : Option Nat := x.lower.getLast?
/-- The member next above. -/
def Binding.above (x : Binding) : Option Nat := x.view.find? (x.rank < ·)
/-- The view neighbours, cyclically (R403). -/
def Binding.neighbours (x : Binding) : List Nat :=
  ([x.below.or x.view.getLast?, x.above.or x.view.head?].filterMap id).eraseDups.filter (· != x.rank)
/-- The coordinator as this device decides it (R403). -/
def Binding.coord (x : Binding) : Nat := (x.view.find? (fun r => !x.suspects.contains r)).getD x.rank
/-- This device is the coordinator. -/
def Binding.leads (x : Binding) : Bool := x.coord == x.rank
/-! ### Packets (R396) -/

/-- DSTR. -/
def Packet.dst (p : Packet) : Nat := field p.hdr.toNat 236 20
/-- SRCR. -/
def Packet.src (p : Packet) : Nat := field p.hdr.toNat 216 20
/-- PART. -/
def Packet.part (p : Packet) : Nat := field p.hdr.toNat 204 12
/-- TYPE. -/
def Packet.type (p : Packet) : Nat := field p.hdr.toNat 200 4
/-- BID. -/
def Packet.bid (p : Packet) : Nat := field p.hdr.toNat 184 16
/-- TAG. -/
def Packet.tag (p : Packet) : W32 := BitVec.ofNat 32 (field p.hdr.toNat 152 32)
/-- OPSEQ. -/
def Packet.opseq (p : Packet) : W32 := BitVec.ofNat 32 (field p.hdr.toNat 120 32)
/-- CHUNK. -/
def Packet.chunk (p : Packet) : Nat := field p.hdr.toNat 108 12
/-- It belongs to a partition: AMSG, PARTIAL, FINAL, COMPLETE and AMACK do; the others use the control slots (R397). -/
def Packet.isData (p : Packet) : Bool := [0, 1, 2, 10, 11].contains p.type

/-- A header flit. -/
def headerOf (dst src part type bid : Nat) (tag opseq : W32) (chunk flits : Nat) : BitVec 256 :=
  BitVec.ofNat 256 (2 ^ 236 * (dst % 2 ^ 20) + 2 ^ 216 * (src % 2 ^ 20) + 2 ^ 204 * (part % 2 ^ 12) + 2 ^ 200 * (type % 16) + 2 ^ 184 * (bid % 2 ^ 16) +
    2 ^ 152 * tag.toNat + 2 ^ 120 * opseq.toNat + 2 ^ 108 * (chunk % 2 ^ 12) + 2 ^ 88 * (flits % 2 ^ 20))

/-- A packet of a binding between two of its members. DESIGN CHOICE (log 15): its payload is the mask, in MB bytes, and then the data. -/
def Binding.packet (x : Binding) (type src tgt : Nat) (tag opseq : W32) (chunk : Nat) (mask : List Nat) (data : List Byte) : Packet :=
  ⟨headerOf (x.members.getD tgt 0) (x.members.getD src 0) x.part type (x.f 416 16) tag opseq chunk
    (((if mask.isEmpty then 0 else x.mb) + data.length + 31) / 32), mask, data⟩

/-- A packet from a neighbour in the chain, as this device receives it (R410, R413). -/
def Binding.incoming (x : Binding) (type : Nat) (src : Option Nat) (tag opseq : W32) (chunk : Nat) (mask : List Nat) (data : List Byte) : Packet :=
  x.packet type (src.getD 0) x.rank tag opseq chunk mask data

/-- Sends a packet of a tag under the current operation. -/
def Binding.sendAs (x : Binding) (type tgt : Nat) (tag : W32) (chunk : Nat) (mask : List Nat) (data : List Byte) : Binding :=
  { x with sent := x.sent ++ [x.packet type x.rank tgt tag x.opseq chunk mask data] }

/-- Sends a packet under the current tag and operation. -/
def Binding.send (x : Binding) (type tgt chunk : Nat) (mask : List Nat) (data : List Byte) : Binding := x.sendAs type tgt x.tag chunk mask data
/-- One more discard. -/
def Binding.drop (x : Binding) : Binding := { x with discards := x.discards + 1 }

/-- The binding of a key, partition × 2^16 + BID. -/
def Device.binding (d : Device) (k : Nat) : Option Binding :=
  match d.bindings.lookup k with
  | some x => if x.live then some x else none
  | none => none
/-- Sets a binding. -/
def Device.setBinding (d : Device) (k : Nat) (x : Binding) : Device := { d with bindings := d.bindings.put k x }
/-- The partition of a key has a VALID entry (R418). -/
def Device.partValid (d : Device) (k : Nat) : Bool := (d.partitions.lookup (k / 65536)).any (·.valid)

/-- ST of a slot-table entry (R397). -/
def slotSt (e : BitVec 16) : Nat := field e.toNat 14 2
/-- PART. -/
def slotPart (e : BitVec 16) : Nat := field e.toNat 0 12
/-- The partition is being purged: the routers discard its flits (R400). -/
def Device.purges (d : Device) (part : Nat) : Bool := d.slotTabs.any (fun t => t.2.any (fun e => slotSt e == 2 && slotPart e == part))

/-- A packet that is discarded and counted. -/
def St.discard (s : St) : St := s.withD fun d => { d with discards := d.discards + 1 }

/-- An event at a binding: nothing where there is none. -/
def onBinding (k : Nat) (f : Binding → St → Option St) (s : State) : Host.Outcome State Fault Refusal :=
  event s (fun s => match s.d.binding k with
    | none => none
    | some x => f x s)

/-- The arrival of a packet of a binding: one whose partition has no VALID entry, or that no binding takes, is discarded and counted
(R418). -/
def St.packet (s : St) (k : Nat) (f : Binding → St → Option St) : Option St :=
  match (if s.d.partValid k then s.d.binding k else none) with
  | none => some s.discard
  | some x => f x s

/-- An event that such a packet makes. -/
def onPacket (k : Nat) (f : Binding → St → Option St) (s : State) : Host.Outcome State Fault Refusal := event s (fun s => s.packet k f)

/-- The arrival of a packet of data, in a slot of its partition: one of a partition that is being purged goes no further (R397, R400). -/
def onData (k : Nat) (f : Binding → St → Option St) (s : State) : Host.Outcome State Fault Refusal :=
  event s (fun s => if s.d.purges (k / 65536) then some s.discard else s.packet k f)

/-! ### Engine accesses to a binding's areas -/

/-- `n` bytes at a virtual address as the base die reads them; what cannot be read is a free value (log 5), and is told of. -/
def St.baseRead (s : St) (asid : Nat) : Nat → Nat → Nat → List Byte × St × Bool
  | 0, _, _ => ([], s, true)
  | fuel + 1, va, n =>
    if n = 0 then ([], s, true)
    else
      let k := min n (64 - va % 64)
      match s.ctxRead asid va k with
      | some v =>
        let r := s.baseRead asid fuel (va + k) (n - k)
        ((cellsOf 0 k v).map (·.2) ++ r.1, r.2)
      | none =>
        let r := (s.withD fun d => { d with free := d.free + k }).baseRead asid fuel (va + k) (n - k)
        ((List.range k).map (fun i => (Config.freeValue (s.d.free + i)).setWidth 8) ++ r.1, r.2.1, false)

/-- Bytes of a chunk-sized area. -/
def St.areaRead (s : St) (asid va n : Nat) : List Byte × St × Bool := s.baseRead asid (n / 64 + 2) va n

/-- A write of the base die to one line: every die reads the new bytes from here on (R299). -/
def St.baseLine (s : St) (line : Nat) (cells : List Host.Cell) : St :=
  let s := match s.d.parks.get none line with
    | some _ => s
    | none => s.withD (·.invalidate line)
  cells.foldl (fun s c => s.wr c.1 c.2) s

/-- Writes bytes at a virtual address of a context; a part that does not translate is not written. -/
def St.baseWrite (s : St) (asid : Nat) : Nat → Nat → List Byte → St
  | 0, _, _ => s
  | fuel + 1, va, bs =>
    if bs.isEmpty then s
    else
      let k := 128 - va % 128
      let here := bs.take k
      let s := match s.ctxPlace asid va with
        | some (.dev pa _) => s.baseLine (lineOf pa) (((List.range here.length).zip here).map (fun (e : Nat × Byte) => (pa + e.1, e.2)))
        | _ => s
      s.baseWrite asid fuel (va + k) (bs.drop k)

/-- Every part of a range of virtual addresses leads to device memory, where the base die writes it. -/
def St.baseOk (s : St) (asid : Nat) : Nat → Nat → Nat → Bool
  | 0, _, _ => true
  | fuel + 1, va, n =>
    if n = 0 then true
    else (match s.ctxPlace asid va with
      | some (.dev _ _) => true
      | _ => false) && s.baseOk asid fuel (va + min n (128 - va % 128)) (n - min n (128 - va % 128))

/-- Writes an area. -/
def St.areaWrite (s : St) (asid va : Nat) (bs : List Byte) : St := s.baseWrite asid (bs.length / 128 + 2) va bs

/-- A member mask as MB bytes, bit r for binding rank r. -/
def maskList (mb : Nat) (ms : List Nat) : List Byte :=
  (List.range mb).map (fun i => BitVec.ofNat 8 ((ms.filter (fun r => r / 8 == i)).foldl (fun n r => n ||| 2 ^ (r % 8)) 0))

/-! ### Retiring contributions (R238, R241, R413) -/

/-- A contribution completes with its values, or with an error. -/
def Device.endColl (d : Device) (c : CollOp) (v : Nat) (err : Option (BitVec 8)) : Device :=
  if c.uid = 0 then d
  else d.updOp c.uid c.op (fun o => { o with
    vals := (lanesOf o.lanes).map (fun l => (l, v)), done := true, err := o.err.or (err.map (fun k => mkDetail k o.opc c.src)) })

/-- Ends some contributions of a binding. -/
def Device.endColls (d : Device) (k : Nat) (which : CollOp → Bool) (v : Nat) (err : Option (BitVec 8)) : Device :=
  match d.binding k with
  | none => d
  | some x =>
    let d := (x.colls.filter which).foldl (fun d c => d.endColl c v err) d
    d.setBinding k { x with colls := x.colls.filter (fun c => !which c) }

/-- What `COLL` writes for a chunk: the tag when its final was written, the contributors, REW and RST (R238). -/
def Chunk.word (c : Chunk) : Nat :=
  match c.final with
  | none => 0
  | some (ms, tag) =>
    tag.toNat + 2 ^ 32 * (min ms.length 65535 + (if c.rew then 2 ^ 31 else 0) + (if c.rst then 2 ^ 30 else 0))

/-- Serves `ARRQ`s that wait, in arrival order, as long as the queue holds an entry (R241). -/
def Device.serveArr (d : Device) (k : Nat) : Nat → Device
  | 0 => d
  | n + 1 => match d.binding k with
    | none => d
    | some x => match x.arrq, x.queue with
      | (uid, op) :: ws, e :: es =>
        ((d.setBinding k { x with arrq := ws, queue := es }).updOp uid op (fun o => { o with
          vals := (lanesOf o.lanes).map (fun l => (l, e.toNat)), done := true })).serveArr k n
      | _, _ => d

/-- A chunk enters the arrived-tile queue, or is dropped and counted (R413). -/
def Device.arrive (d : Device) (k c : Nat) : Device :=
  match d.binding k with
  | none => d
  | some x =>
    if x.nch ≤ x.queue.length then d.setBinding k { x.drop with ovf := true }
    else
      let ch := x.chunk c
      let e := c + (if x.ovf then 2 ^ 28 else 0) + (if ch.rew then 2 ^ 29 else 0) + (if ch.rst then 2 ^ 30 else 0)
      (d.setBinding k { x with queue := x.queue ++ [BitVec.ofNat 32 e], ovf := false }).serveArr k (x.arrq.length + 1)

/-- Step 3 of R413 for a chunk: its contributions retire and it enters the queue. One whose final could not be written ends them with an error, and so
does one of an operation that is over without its final (R420). -/
def Device.retireChunk (d : Device) (k c : Nat) : Device :=
  match d.binding k with
  | none => d
  | some x =>
    let ch := x.chunk c
    let err := if ch.final.isNone then some 9 else ch.bad
    let d := d.endColls k (fun o => o.chunk == c && o.staged) (if err.isSome then 0 else ch.word) err
    if err.isSome then d else d.arrive k c

/-! ### Operations (R409) -/

/-- A coordinator begins to gather (R404). -/
def Binding.gatherFrom (x : Binding) (now : Nat) : Binding := if x.gather then x else { x with gather := true, gatherAt := now }

/-- The next operation begins at the device; at an operation boundary a coordinator takes up its candidates (R408, R409). -/
def Binding.nextOp (x : Binding) (now : Nat) : Binding :=
  let x := { x with opseq := x.opseq + 1, restarts := 0, chunks := [], began := now }
  if x.leads && !x.cands.isEmpty then x.gatherFrom now else x

/-- The device advances OPSEQ and passes COMPLETE up (R409). -/
def Device.advanceOp (d : Device) (k : Nat) : Device :=
  match d.binding k with
  | none => d
  | some x =>
    let d := if x.reweight then d else (List.range x.nch).foldl (fun d c => d.retireChunk k c) d
    match d.binding k with
    | none => d
    | some x =>
      let x := match x.above with
        | some r => x.send 10 r 0 [] []
        | none => x
      d.setBinding k (x.nextOp d.clock.toNat)

/-- Every chunk of the operation has its final. -/
def Binding.allFinal (x : Binding) : Bool := (List.range x.nch).all (fun c => (x.chunk c).final.isSome)

/-- A member has a chunk's final, received or produced: it forwards it and writes DST and CMASK; then step 3 in REWEIGHT mode. The lowest
member completes the operation with the last final (R409, R413). A final with no contributor carries only errors; one that cannot be written whole ends
its contributions with an error of a free kind (log 14). -/
def St.finalAt (s : St) (k c : Nat) (mask : List Nat) (data : List Byte) : St :=
  match s.d.binding k with
  | none => s
  | some x =>
    let x := match x.below with
      | some r => x.send 2 r c mask data
      | none => x
    let ok := mask.isEmpty || (s.baseOk x.asid (data.length / 128 + 2) (x.dstAt c) data.length && s.baseOk x.asid (x.mb / 128 + 2) (x.cmaskAt c) x.mb)
    let kind := (Config.freeValue s.d.free).setWidth 8
    let s := if mask.isEmpty then s
      else if !ok then s.withD fun d => { d with free := d.free + 1 }
      else (s.areaWrite x.asid (x.dstAt c) data).areaWrite x.asid (x.cmaskAt c) (maskList x.mb mask)
    let ch := x.chunk c
    let x := x.setChunk c { ch with
      final := some (mask, x.tag), out := some (ch.out.getD []), reducing := false, reduced := false, bad := if ok then none else some kind }
    s.withD fun d =>
      let d := d.setBinding k x
      let d := if mask.isEmpty then d.endColls k (fun o => o.chunk == c && o.staged) 0 (some 9)
        else if x.reweight then d.retireChunk k c else d
      if x.below.isNone && (d.binding k).any (·.allFinal) then d.advanceOp k else d

/-- The address of the reduce block's first instruction: ENTRY of task-type entry RTT (R411). -/
def St.reduceEntry (s : St) (x : Binding) : Nat :=
  match s.ctxRead x.asid ((s.d.launch x.slot).ttbase + 32 * x.f 432 16) 32 with
  | some e => field e 0 48
  | none => 0

/-- The reduce record of a chunk goes to the Posy that the distributor of die c mod 4 chooses (R411). -/
def St.sendReduce (s : St) (x : Binding) (c : Nat) (p own final : Bool) (count : Nat) : St :=
  let half (a : Nat) : List W32 := [BitVec.ofNat 32 a, BitVec.ofNat 32 (a / 2 ^ 32)]
  let words := half (if p then x.accAt c else 0) ++ half (if own then x.inAt c else 0) ++ half (x.outAt c) ++
    [BitVec.ofNat 32 x.chsz, BitVec.ofNat 32 c, BitVec.ofNat 32 (count % 2 ^ 20 + if final then 2 ^ 31 else 0), x.tag, BitVec.ofNat 32 x.rank]
  let r := mkRec (s.reduceEntry x) (x.f 432 16) c x.slot 6 false (s.d.launch x.slot).prio 0 words
  s.withD fun d => { d with
    transit := d.transit ++ [⟨r, d.anyCore (72 * (c % 4)) r, 0, 0, 0, none, none, false, false, false, (x.chunk c).vc, Config.cores, 0, false⟩] }

/-- The step of this member for a chunk, once its inputs are settled (R410). -/
def St.takeStep (s : St) (k c : Nat) : St :=
  match s.d.binding k with
  | none => s
  | some x =>
    let ch := x.chunk c
    let pSettled := x.below.isNone || ch.acc.isSome
    let xSettled := ch.staged || ch.flushed
    if x.st ≠ .normal || x.nch ≤ c || ch.out.isSome || ch.reducing || !pSettled || !xSettled then s
    else
      let pm := ch.acc.getD []
      let p := !pm.isEmpty
      let own := ch.staged && !ch.flushed
      let mask := if own then pm ++ [x.rank] else pm
      match x.above with
      | some r =>
        if p && own then
          (s.sendReduce x c p own false mask.length).withD (·.setBinding k (x.setChunk c { ch with reducing := true }))
        else if !p && !own then
          s.withD (·.setBinding k ((x.setChunk c { ch with out := some [] }).send 1 r c [] []))
        else
          let b := s.areaRead x.asid (if p then x.accAt c else x.inAt c) x.chsz
          let s := (b.2.1.areaWrite x.asid (x.outAt c) b.1).areaWrite x.asid (x.outMaskAt c) (maskList x.mb mask)
          s.withD (·.setBinding k ((x.setChunk c { ch with out := some mask }).send 1 r c mask b.1))
      | none =>
        if p || own then
          (s.sendReduce x c p own true mask.length).withD (·.setBinding k (x.setChunk c { ch with reducing := true }))
        else s.finalAt k c [] []

/-- Every step that may be taken. -/
def St.stepAll (s : St) (k : Nat) : St :=
  match s.d.binding k with
  | none => s
  | some x => (List.range x.nch).foldl (fun s c => s.takeStep k c) s

/-! ### Packets of a running collective (R406, R409) -/

/-- How a packet stands to the device: of an earlier tag or operation, of a later one, or of now. -/
inductive When where
  | past | later | now
deriving DecidableEq, Repr

/-- Where a packet's tag and operation stand (R406, R409); while a view is agreed packets wait for its outcome. -/
def Binding.when (x : Binding) (p : Packet) : When :=
  if p.tag.toNat < x.tag.toNat then .past
  else if x.tag.toNat < p.tag.toNat then .later
  else if p.opseq.toNat < x.opseq.toNat then .past
  else if x.st != .candidate && (x.opseq.toNat < p.opseq.toNat || x.st == .agree) then .later
  else .now

/-- A packet of now takes effect: 1 PARTIAL, 2 FINAL, 10 COMPLETE (R409, R410, R413). A second partial or final of a chunk is discarded. -/
def St.landNow (s : St) (k : Nat) (x : Binding) (p : Packet) : St :=
  let drop := s.withD (·.setBinding k x.drop)
  let ch := x.chunk p.chunk
  match p.type with
  | 1 =>
    if x.nch ≤ p.chunk || ch.acc.isSome || x.below.isNone then drop
    else
      let s := if p.mask.isEmpty then s
        else (s.areaWrite x.asid (x.accAt p.chunk) p.data).areaWrite x.asid (x.accMaskAt p.chunk) (maskList x.mb p.mask)
      (s.withD (·.setBinding k (x.setChunk p.chunk { ch with acc := some p.mask, landedAt := s.d.clock.toNat }))).takeStep k p.chunk
  | 2 => if x.nch ≤ p.chunk || ch.final.isSome then drop else s.finalAt k p.chunk p.mask p.data
  | _ => if x.below.isNone then drop else s.withD (·.advanceOp k)

/-- A packet arrives: an earlier one is discarded and counted, a later one held, at a candidate too (R406, R409). -/
def St.land (s : St) (k : Nat) (p : Packet) : St :=
  match s.d.binding k with
  | none => s
  | some x => match x.st, x.when p with
    | .isolated, _ | .candidate, .now | _, .past => s.withD (·.setBinding k x.drop)
    | _, .later => s.withD (·.setBinding k { x with held := x.held ++ [p] })
    | _, .now => s.landNow k x p

/-- Held packets whose time has come land, those whose time is past are discarded, in the order of their arrival. -/
def St.pump (s : St) (k : Nat) : Nat → St
  | 0 => s
  | n + 1 => match s.d.binding k with
    | none => s
    | some x => match x.held.find? (fun p => x.when p != .later) with
      | none => s
      | some p => ((s.withD (·.setBinding k { x with held := x.held.erase p })).land k p).pump k n

/-- A member that has become the lowest with every final written completes the operation (R409). -/
def Device.completeOp (d : Device) (k : Nat) : Device :=
  if (d.binding k).any (fun x => x.st == .normal && x.below.isNone && x.allFinal) then d.advanceOp k else d

/-- What follows a change of a binding: the steps that have become possible and the packets that were held. -/
def St.followUp (s : St) (k : Nat) : St :=
  let s := s.withD (·.completeOp k)
  let n := match s.d.binding k with
    | some x => x.held.length
    | none => 0
  ((s.stepAll k).pump k (n + 1)).stepAll k

end Sys2Proof.Machine
end

