-- ==== Sys2Proof/Machine/Collective.lean ====
section
/-! DEFINITION. The collective instructions, and what passes on the fabric in a running operation (R237 to R241, R409 to R416). -/

namespace Sys2Proof.Machine

/-! ### The instructions -/

/-- `COLL` (R238): a contribution to a chunk waits in the engine; outside the view it completes with an error (R408). -/
def execColl (h : Ctl) (d : Opnd) (a b : Src) (ofs : BitVec 16) (s : State) : Host.Outcome State Fault Refusal :=
  issue 0x700 h { Req.none with srcs := a.rng 2 ++ b.rng 1, dsts := d.rng 2 } (fun i s =>
    let x := s.d.wave i.w
    let ea := a.ea ofs x (lowest i.act)
    let c := (b.w x (lowest i.act)).toNat
    if i.act = 0 then .ok { Eff.plain s with out := .long (d.dest 2) [] true none true }
    else match s.d.bidOf i.slot with
      | none => ctrlRes 17 0 i.act 0
      | some (k, y) =>
        if y.nch ≤ c then ctrlRes 17 0 i.act 0
        else if y.st == .isolated || y.st == .candidate then
          .ok { Eff.plain s with out := .long (d.dest 2) [] true (some (mkDetail 9 0x700 ea)) true, pub := true }
        else
          let s := (s.releaseOf i.core i.asid 4).withD fun d =>
            d.setBinding k { y with colls := y.colls ++ [⟨x.uid, i.opid, c, ea, x.wseq, false, d.clkVec (dieOf i.core)⟩] }
          .ok { Eff.plain s with out := .long (d.dest 2) [] false none true, pub := true }) s

/-- `VIEWQ` (R239). -/
def execViewq (h : Ctl) (d : Opnd) (b : Src) (sl : Bool) (s : State) : Host.Outcome State Fault Refusal :=
  issue 0x701 h { Req.none with srcs := b.rng 1, dsts := d.rng 2 } (fun i s =>
    let x := s.d.wave i.w
    let n := (b.w x (lowest i.act)).toNat
    if i.act = 0 then .ok { Eff.plain s with out := .long (d.dest 2) [] true none false }
    else match s.d.bidOf i.slot with
      | none => ctrlRes 17 0 i.act 0
      | some (_, y) =>
        let v := if sl then (y.view.filter (fun r => r / 64 == n)).foldl (fun m r => m ||| 2 ^ (r % 64)) 0
          else y.tag.toNat + 2 ^ 32 * y.view.length
        .ok { Eff.plain s with out := .long (d.dest 2) (valsOf i.act (fun _ => v)) true none false }) s

/-- `ARRQ` (R241). -/
def execArrq (h : Ctl) (d : Opnd) (blk : Bool) (s : State) : Host.Outcome State Fault Refusal :=
  issue 0x703 h { Req.none with dsts := d.rng 1 } (fun i s =>
    let x := s.d.wave i.w
    let now (s : St) (v : Nat) : Res := .ok { Eff.plain s with out := .long (d.dest 1) (valsOf i.act (fun _ => v)) true none blk }
    if i.act = 0 then now s 0
    else match s.d.bidOf i.slot with
      | none => ctrlRes 17 0 i.act 0
      | some (k, y) => match y.queue with
        | e :: es => now (s.withD (·.setBinding k { y with queue := es })) e.toNat
        | [] =>
          if blk then
            .ok { Eff.plain (s.withD (·.setBinding k { y with arrq := y.arrq ++ [(x.uid, i.opid)] })) with
              out := .long (d.dest 1) [] false none true }
          else now s (2 ^ 31)) s

/-! ### Contributions -/

/-- The source of a contribution: `n` bytes from its address, in the scratchpad of its wave's block or in memory (R143, R238); the answer tells whether
they could be read. -/
def St.collRead (s : St) (asid : Nat) (c : CollOp) (n : Nat) : List Byte × St × Bool :=
  match s.d.byUid c.uid with
  | some (_, x) => match s.d.pieces x.blk 4 c.src.toNat n with
    | [] => s.areaRead asid c.src.toNat n
    | (k, o, m) :: _ =>
      let at' := scratchBase (k / 64) + (s.d.block k).scrb + o
      ((List.range n).map (fun i => s.rd (at' + i)), s, m == n && o + n ≤ (s.d.block k).scrsz &&
        (linesIn at' n).all (fun a => !s.d.poison.contains (lineOf a)))
  | none => s.areaRead asid c.src.toNat n

/-- The contributor's wave stands on a core, or is none any more: a saved one's scratchpad cannot be read (R238). -/
def Device.collHere (d : Device) (c : CollOp) : Bool := !d.saved.any (fun v => v.live && v.waves.any (·.uid == c.uid))

/-- The clock of a contributor as its bytes are read: after everything that it waited for (R281). -/
def Device.collClk (d : Device) (c : CollOp) : Tab Nat :=
  match d.byUid c.uid with
  | some (w, _) => (List.range 4).map (fun k => (k, max (c.vc.get 0 k) (d.clkOf (dieOf (w / 64)) k)))
  | none => c.vc

/-- Chunk c's IN takes no contribution of the operation in progress any more. -/
def Binding.inTaken (x : Binding) (c : Nat) : Bool := (x.chunk c).staged

/-- `COLL_STAGE` (R409, R415): the first contribution to a chunk is read into IN, or discarded when the step went on without it. -/
def execCollStage (bid chunk : Nat) (s : State) : Host.Outcome State Fault Refusal :=
  onBinding bid (fun x s =>
    match x.colls.find? (fun c => c.chunk == chunk && !c.staged) with
    | none => none
    | some c =>
      let ch := x.chunk chunk
      if !s.d.leaves c.uid c.need c.op || !s.d.collHere c || x.inTaken chunk || !(x.st == .normal || x.st == .agree) then none
      else
        let colls := x.colls.map (fun o => if o == c then { c with staged := true } else o)
        if ch.flushed then
          let s := s.withD (·.setBinding bid (({ x with colls := colls }.setChunk chunk { ch with staged := true }).drop))
          -- its final is already here: it retires with it
          some (if ch.final.isSome && x.reweight then
              s.withD (·.endColls bid (fun o => o.chunk == chunk && o.staged) ch.word (if ch.final.any (·.1.isEmpty) then some 9 else none))
            else s)
        else
          let b := s.collRead x.asid c x.chsz
          if !b.2.2 then
            -- the source cannot be read: the spec names no kind for it; a free value (log 5)
            let e := b.2.1.fresh
            some (e.2.withD fun d => (d.endColl c 0 (some (e.1.setWidth 8))).setBinding bid { x with colls := x.colls.erase c })
          else
            let s := b.2.1.areaWrite x.asid (x.inAt chunk) b.1
            some ((s.withD (·.setBinding bid ({ x with colls := colls }.setChunk chunk { ch with staged := true, vc := s.d.collClk c }))).takeStep bid chunk)) s

/-- `AUTO_CONTRIBUTION` (R412): once its writes are acknowledged, the block's field f selects the chunk; one at or above NCH is dropped, counted and reported. -/
def execAutoContribution (blk : Nat) (s : State) : Host.Outcome State Fault Refusal :=
  event s (fun s =>
    let b := s.d.block blk
    let l := s.d.launch b.slot
    let s := s.releaseOf (blk / 64) b.asid 4
    if !b.live || !b.auto then none
    else if !s.d.pushed (blk / 64) b.asid || !s.d.blockAcked b then some s
    else
      let s := s.withD (·.setBlock blk { b with auto := false })
      match s.d.bidOf b.slot with
      | none => some s
      | some (k, x) =>
        let c := l.fieldOf (b.index * 2 ^ l.los l.bb) (x.autof - 1)
        if x.nch ≤ c then some (s.withD fun d => { d with discards := d.discards + 1, logs := d.logs ++ [(b.slot, c)] })
        else if x.st == .isolated || x.st == .candidate then some s
        else some (s.withD (·.setBinding k { x with
          colls := x.colls ++ [⟨0, 0, c, BitVec.ofNat 64 (x.f 256 64 + c * x.chsz), 0, false, s.d.clkVec (dieOf (blk / 64))⟩] })))

/-! ### Packets and steps -/

/-- `PARTIAL` (R410): a partial lands in ACC. -/
def execPartialLand (bid : Nat) (tag opseq : BitVec 32) (chunk : Nat) (mask : List Nat) (data : List Byte) (s : State) :
    Host.Outcome State Fault Refusal :=
  onData bid (fun x s => some ((s.land bid (x.incoming 1 x.below tag opseq chunk mask data)).followUp bid)) s

/-- `FINAL` (R413). -/
def execFinalLand (bid : Nat) (tag opseq : BitVec 32) (chunk : Nat) (mask : List Nat) (data : List Byte) (s : State) :
    Host.Outcome State Fault Refusal :=
  onData bid (fun x s => some ((s.land bid (x.incoming 2 x.above tag opseq chunk mask data)).followUp bid)) s

/-- `COMPLETE` (R409). -/
def execComplete (bid : Nat) (tag opseq : BitVec 32) (s : State) : Host.Outcome State Fault Refusal :=
  onData bid (fun x s => some ((s.land bid (x.incoming 10 x.below tag opseq 0 [] [])).followUp bid)) s

/-- `REDUCE_BLOCK_END` (R411): the engine reads OUT of a reduce block that has ended, and sets its mask. -/
def execReduceBlockEnd (bid chunk : Nat) (s : State) : Host.Outcome State Fault Refusal :=
  onBinding bid (fun x s =>
    let ch := x.chunk chunk
    if !(ch.reducing && ch.reduced) || x.st != .normal then none
    else
      let mask := ch.acc.getD [] ++ (if ch.staged && !ch.flushed then [x.rank] else [])
      let b := s.areaRead x.asid (x.outAt chunk) x.chsz
      let s := b.2.1.areaWrite x.asid (x.outMaskAt chunk) (maskList x.mb mask)
      let x := x.setChunk chunk { ch with out := some mask, reducing := false, reduced := false }
      match x.above with
      | some r => some (s.withD (·.setBinding bid (x.send 1 r chunk mask b.1)))
      | none => some (((s.withD (·.setBinding bid x)).finalAt bid chunk mask b.1).followUp bid)) s

/-- STEPTO in cycles. -/
def Binding.stepCycles (x : Binding) : Nat := 1700 * x.f 448 16

/-- The step timer of a chunk, from the landing of P, or at the lowest member from the operation's begin, has run out (R415). -/
def Device.stepOver (d : Device) (x : Binding) (c : Nat) : Bool :=
  x.stepCycles ≤ d.clock.toNat - (if x.below.isNone then x.began else (x.chunk c).landedAt)

/-- In REWEIGHT mode a step goes on without a contribution that has not been staged when its timer runs out (R415). -/
def St.stepFlush (s : St) (bid chunk : Nat) (x : Binding) : Option St :=
  let ch := x.chunk chunk
  if !x.reweight || x.st != .normal || x.nch ≤ chunk || ch.staged || ch.flushed || ch.out.isSome || !(x.below.isNone || ch.acc.isSome) ||
      !s.d.stepOver x chunk then none
  else some ((s.withD (·.setBinding bid (x.setChunk chunk { ch with flushed := true }))).takeStep bid chunk |>.followUp bid)

/-- `STEP_TIMEOUT` (R415). -/
def execStepTimeout (bid chunk : Nat) (s : State) : Host.Outcome State Fault Refusal := onBinding bid (fun x s => s.stepFlush bid chunk x) s

/-- The step timers that run out in a cycle. -/
def St.runSteps (s : St) : St :=
  (s.d.bindings.filter (fun e => e.2.live && e.2.reweight)).foldl (fun s e => (List.range e.2.nch).foldl (fun s c => match s.d.binding e.1 with
    | some x => (s.stepFlush e.1 c x).getD s
    | none => s) s) s

/-! ### Abandonment (R416) -/

/-- Every contribution outstanding on the operation completes with error 9, and the device leaves the operation: with its tag or its state
it also leaves OPSEQ (log 14). `all` takes those of later operations too: a second contribution of a chunk whose first has been staged (R409). -/
def Device.abandon (d : Device) (k : Nat) (all : Bool) : Device :=
  match d.binding k with
  | none => d
  | some x =>
    let first (c : CollOp) : Bool := (x.colls.find? (fun o => o.chunk == c.chunk)) == some c
    let d := d.endColls k (fun c => all || c.staged || (first c && !(x.chunk c.chunk).staged)) 0 (some 9)
    match d.binding k with
    | none => d
    | some x => { (d.setBinding k (x.nextOp d.clock.toNat)) with abandons := d.abandons + 1 }

/-- A device leaves agreement or its view: ISOLATED (R404). -/
def Device.isolate (d : Device) (k : Nat) : Device :=
  let d := d.abandon k true
  match d.binding k with
  | none => d
  | some x => d.setBinding k { x with
      st := .isolated, held := [], discards := x.discards + x.held.length, prop := none, acks := [], gather := false }

/-- `ARRQ`s that wait on a binding whose launch is aborted end with error 9. -/
def Device.endArrq (d : Device) (k : Nat) : Device :=
  match d.binding k with
  | none => d
  | some x => x.arrq.foldl (fun d w => d.updOp w.1 w.2 (fun o => { o with done := true, err := o.err.or (some (mkDetail 9 o.opc 0)) }))
      (d.setBinding k { x with arrq := [] })

/-- `COLLECTIVE_ABANDON` (R416): at the host runtime's request. -/
def execCollectiveAbandon (bid : Nat) (s : State) : Host.Outcome State Fault Refusal :=
  onBinding bid (fun _ s => some ((s.withD (·.abandon bid false)).followUp bid)) s

end Sys2Proof.Machine
end

