-- ==== Sys2Proof/Machine/Views.lean ====
section
/-! DEFINITION. Membership views: heartbeats, suspicion, agreement, the install of a view, and rejoining (R403 to R408, R414). -/

namespace Sys2Proof.Machine

/-! ### Time (R1) -/

/-- 20 µs and 100 µs in cycles. -/
def beatCycles : Nat := 34000
/-- 100 µs in cycles. -/
def silentCycles : Nat := 170000
/-- 80 µs, in which a proposal is acknowledged (R404). -/
def ackCycles : Nat := 136000
/-- 160 µs, in which an acknowledged proposal is committed (R404). -/
def commitCycles : Nat := 272000

/-- Cycles since a time. -/
def Device.since (d : Device) (t : Nat) : Nat := d.clock.toNat - t

/-- A neighbour has been silent for 100 µs; before its first heartbeat the time runs from the view's start (log 14). -/
def Device.silent (d : Device) (x : Binding) (r : Nat) : Bool := silentCycles ≤ d.since (x.beats.get 0 r)

/-! ### Heartbeats -/

/-- `HEARTBEAT_SEND` (R403): the first as soon as the binding starts, then one every 20 µs; none while the fabric is not trained (R422). -/
def execHeartbeatSend (bid : Nat) (s : State) : Host.Outcome State Fault Refusal :=
  onBinding bid (fun x s =>
    let due := match x.beat with
      | none => true
      | some t => beatCycles ≤ s.d.since t
    if !due || !s.d.fabricUp then none
    else
      let x := x.neighbours.foldl (fun x r => x.send 3 r 0 [] []) x
      some (s.withD (·.setBinding bid { x with beat := some s.d.clock.toNat }))) s

/-- `HEARTBEAT` (R403). -/
def execHeartbeat (bid rank : Nat) (s : State) : Host.Outcome State Fault Refusal :=
  onPacket bid (fun x s => some (s.withD (·.setBinding bid { x with beats := x.beats.put rank s.d.clock.toNat }))) s

/-- A member is suspected: a coordinator gathers, another member tells the coordinator (R403, R404). -/
def Binding.suspect (x : Binding) (r now : Nat) : Binding :=
  let x := { x with suspects := if x.suspects.contains r then x.suspects else x.suspects ++ [r] }
  if x.leads then x.gatherFrom now else x

/-- A neighbour that has been silent is suspected (R403), during agreement too, where the coordinator may be the one that stopped (R419). -/
def St.beatLost (s : St) (bid rank : Nat) (x : Binding) : Option St :=
  if !(x.st == .normal || x.st == .agree) || !x.neighbours.contains rank || !s.d.silent x rank then none
  else
    let x := x.suspect rank s.d.clock.toNat
    some (s.withD (·.setBinding bid (if x.leads then x else x.send 4 x.coord 0 [rank] [])))

/-- `HEARTBEAT_TIMEOUT` (R403). -/
def execHeartbeatTimeout (bid rank : Nat) (s : State) : Host.Outcome State Fault Refusal := onBinding bid (fun x s => s.beatLost bid rank x) s

/-- `SUSPECT` (R404): it arrives at the device that its sender takes for the coordinator. -/
def execSuspect (bid rank : Nat) (s : State) : Host.Outcome State Fault Refusal :=
  onPacket bid (fun x s =>
    if !(x.st == .normal || x.st == .agree) || !x.view.contains rank || rank == x.rank then none
    else some (s.withD (·.setBinding bid (x.suspect rank s.d.clock.toNat)))) s

/-! ### Proposals (R404) -/

/-- The higher of two tags. -/
def later (a b : W32) : W32 := if a.toNat < b.toNat then b else a

/-- The chunks whose final this device holds. -/
def Binding.holds (x : Binding) : List Nat := (List.range x.nch).filter (fun c => (x.chunk c).final.isSome)

/-- The coordinator proposes a view: its own ACK stands with it. -/
def Binding.propose (x : Binding) (tag : W32) (mask : List Nat) (now : Nat) : Binding :=
  let x := { x with
    st := .agree, seen := tag, acked := tag, prop := some (tag, mask), acks := [(x.rank, x.holds)], gather := false, agreeAt := now }
  (mask.filter (· != x.rank)).foldl (fun x r => x.sendAs 5 r tag 0 mask []) x

/-- The mask a coordinator proposes: view − suspected + candidates, in rising rank. -/
def Binding.nextMask (x : Binding) : List Nat :=
  (List.range (x.f 364 20)).filter (fun r => (x.view.contains r && !x.suspects.contains r) || x.cands.contains r)

/-- The token that a wave waits on: by the hold of its last turn, or by the hint of its next instruction, which its turn has not come to yet. -/
def St.waitsOnToken (s : St) (w : Nat) : Option Nat :=
  let x := s.d.wave w
  match x.wait with
  | .token k n => if n < (x.tok k).count then some k else none
  | .ready => s.tokenWait w
  | _ => none

/-- Traps the waves of the launch that wait only on a token to which a `COLL` or a blocking `ARRQ` is outstanding, not retired (R407). -/
def St.trapMembers (s : St) (slot : Nat) (old new : W32) (count : Nat) : St :=
  s.withD fun d => { d with waves := d.waves.map (fun e =>
      let x := e.2
      let waits := match s.waitsOnToken e.1 with
        | some k => x.ops.any (fun o => o.tok == some k && o.coll)
        | none => false
      if x.live && (d.block x.blk).slot == slot && waits && !x.parked && x.stall == 0 && !x.walking && x.runs != 0 then
        (e.1, { x with membership := some (old, new, count) })
      else e) }

/-- A chunk under the plan of R414: re-run from its inputs, or kept and, where some survivor lacks it, waited for or sent again. -/
def Binding.plan (x : Binding) (held : List (Nat × List Nat)) (c : Nat) : Binding :=
  let ch := x.chunk c
  let hs := (held.filter (fun e => e.1 == c)).flatMap (·.2)
  let again : Chunk := { Chunk.fresh with staged := ch.staged, flushed := ch.flushed && ch.staged, rst := ch.rst, rew := ch.rew, vc := ch.vc }
  if !x.reweight then x.setChunk c { again with rst := true }
  else if hs.isEmpty then x.setChunk c { again with rew := true }
  -- a survivor without the final waits for it; holders keep theirs
  else if ch.final.isNone then x.setChunk c { ch with acc := none, out := some [], reducing := false, reduced := false }
  else x

/-- The lowest holder of a chunk's final sends it to every survivor that lacks it (R414). -/
def St.redistribute (s : St) (k : Nat) (held : List (Nat × List Nat)) (c : Nat) : St :=
  match s.d.binding k with
  | none => s
  | some x =>
    let hs := (held.filter (fun e => e.1 == c)).flatMap (·.2)
    let lacking := x.view.filter (fun r => !hs.contains r)
    match (x.chunk c).final with
    | some (mask, _) =>
      if !x.reweight || (x.view.find? (fun r => hs.contains r)) != some x.rank || lacking.isEmpty then s
      else
        let b := s.areaRead x.asid (x.dstAt c) x.chsz
        b.2.1.withD (·.setBinding k (lacking.foldl (fun x r => x.send 2 r c mask b.1) x))
    | none => s

/-- THE INSTALL OF A VIEW (R405, R407, R414): the tag, the stale partials, the plan, the traps. A candidate starts at the next operation
(R404, R408): its chunks of the running one pass without it. A COMMIT of a later operation completes this device's (log 14). -/
def St.installView (s : St) (k : Nat) (tag opseq : W32) (mask : List Nat) (held : List (Nat × List Nat)) : St :=
  match s.d.binding k with
  | none => s
  | some x0 =>
    let joining := x0.st == .candidate
    let s := if !joining && x0.opseq.toNat < opseq.toNat then s.withD (·.advanceOp k) else s
    match s.d.binding k with
    | none => s
    | some x =>
      let stale := ((List.range x.nch).filter (fun c => let ch := x.chunk c; ch.final.isNone && (ch.acc.isSome || (ch.reducing && ch.reduced)))).length
      let all := { Chunk.fresh with staged := true, flushed := true }
      let y := { x with
        tag := tag, view := mask, st := .normal, seen := later x.seen tag, acked := later x.acked tag, prop := none, acks := [], gather := false, began := s.d.clock.toNat
        suspects := x.suspects.filter (fun r => mask.contains r), cands := x.cands.filter (fun r => !mask.contains r)
        opseq := if joining then opseq else x.opseq
        chunks := if joining then (List.range x.nch).map (fun c => (c, all)) else x.chunks
        discards := x.discards + stale
        -- the time of a neighbour that stays one runs on from its last heartbeat (R403)
        beats := mask.map (fun r => (r, if x.neighbours.contains r then x.beats.get s.d.clock.toNat r else s.d.clock.toNat)) }
      -- a suspicion that the view does not settle calls for another
      let y := if y.leads && !y.suspects.isEmpty then y.gatherFrom s.d.clock.toNat else y
      let ovr := !x.reweight && x.maxrst ≤ x.restarts
      let y := (List.range y.nch).foldl (fun y c => y.plan held c) { y with restarts := y.restarts + 1 }
      let s := (s.withD (·.setBinding k y)).trapMembers x.slot x.tag tag mask.length
      if ovr && !joining then (s.withD (·.abandon k false)).followUp k
      else ((List.range y.nch).foldl (fun s c => s.redistribute k held c) s).followUp k

/-- The holders of each chunk's final that has one, as the ACKs name them. -/
def Binding.holders (x : Binding) : List (Nat × List Nat) :=
  ((List.range x.nch).map (fun c => (c, (x.acks.filter (fun a => a.2.contains c)).map (·.1)))).filter (fun e => !e.2.isEmpty)

/-- The chunk plan that a COMMIT carries (R404, R414): for each chunk, the mask of the survivors that hold its final. DESIGN CHOICE (log 14): its form. -/
def Binding.planBytes (x : Binding) (held : List (Nat × List Nat)) : List Byte :=
  (List.range x.nch).flatMap (fun c => maskList x.mb ((held.filter (fun e => e.1 == c)).flatMap (·.2)))

/-- The coordinator commits once every proposed member has acknowledged and the quorum holds, else is ISOLATED (R404). -/
def St.tryCommit (s : St) (k : Nat) : St :=
  match s.d.binding k with
  | none => s
  | some x => match x.prop with
    | none => s
    | some (tag, mask) =>
      if !mask.all (fun r => x.acks.any (·.1 == r)) then s
      else if 2 * mask.length ≤ x.view.length then s.withD (·.isolate k)
      else
        let held := x.holders
        let x := (mask.filter (· != x.rank)).foldl (fun x r => x.sendAs 8 r tag 0 mask (x.planBytes held)) x
        (s.withD (·.setBinding k x)).installView k tag x.opseq mask held

/-- A device that gathers may propose: in NORMAL, or in agreement on the proposal of a coordinator that it suspects by now (R404, R419). -/
def Device.gathered (d : Device) (x : Binding) : Bool :=
  (x.st == .normal || (x.st == .agree && x.prop.isNone)) && x.gather && x.leads && beatCycles ≤ d.since x.gatherAt

/-- `PROPOSE` (R404): acknowledged when its tag is above every tag acknowledged, else refused. -/
def execPropose (bid src : Nat) (tag : BitVec 32) (mask : List Nat) (s : State) : Host.Outcome State Fault Refusal :=
  onPacket bid (fun x s =>
    if x.st == .isolated then none
    else
      let x := { x with seen := later x.seen tag }
      let y : Binding := if x.acked.toNat < tag.toNat then
          { x with
            acked := tag, prop := none, acks := [], gather := false, agreeAt := s.d.clock.toNat, st := if x.st == .candidate then CState.candidate else .agree
            sent := x.sent ++ [x.packet 6 x.rank src tag x.opseq 0 x.holds []] }
        else { x with sent := x.sent ++ [x.packet 7 x.rank src tag x.opseq 0 mask []] }
      some (s.withD (·.setBinding bid y))) s

/-- A packet of agreement whose tag is below the current one is discarded and counted (R406). -/
def onTagged (bid : Nat) (tag : W32) (f : Binding → St → Option St) (s : State) : Host.Outcome State Fault Refusal :=
  onPacket bid (fun x s => if tag.toNat < x.tag.toNat then some (s.withD (·.setBinding bid x.drop)) else f x s) s

/-- `ACK` (R404): an ACK of an earlier operation names no final of this one. -/
def execAck (bid src : Nat) (tag opseq : BitVec 32) (chunks : List Nat) (s : State) : Host.Outcome State Fault Refusal :=
  onTagged bid tag (fun x s => match x.prop with
    | none => none
    | some (t, mask) =>
      if x.st != .agree || t != tag || !mask.contains src || x.acks.any (·.1 == src) then none
      else
        let a := (src, if opseq == x.opseq then chunks else [])
        some ((s.withD (·.setBinding bid { x with acks := x.acks ++ [a] })).tryCommit bid)) s

/-- `NACK` (R404): the coordinator sees that the tag has been passed; its proposal lacks an ACK. -/
def execNack (bid src : Nat) (tag : BitVec 32) (s : State) : Host.Outcome State Fault Refusal :=
  onTagged bid tag (fun x s => match x.prop with
    | none => none
    | some (_, mask) =>
      if x.st != .agree || !mask.contains src then none
      else some (s.withD (·.setBinding bid { x with seen := later x.seen tag }))) s

/-- `COMMIT` (R404, R405): of the proposal this device acknowledged last, or of one that leaves it out, made since. -/
def execCommit (bid : Nat) (tag opseq : BitVec 32) (mask : List Nat) (held : List (Nat × List Nat)) (s : State) : Host.Outcome State Fault Refusal :=
  onTagged bid tag (fun x s =>
    if !mask.contains x.rank then (if x.st == .agree && x.acked.toNat ≤ tag.toNat then some (s.withD (·.isolate bid)) else none)
    else if !(x.st == .agree || x.st == .candidate) || tag != x.acked || x.prop.isSome then none
    else some (s.installView bid tag opseq mask held)) s

/-- `JOIN` (R408): the coordinator records the candidate; another member passes the JOIN to it. -/
def execJoin (bid rank : Nat) (s : State) : Host.Outcome State Fault Refusal :=
  onPacket bid (fun x s =>
    if !(x.st == .normal || x.st == .agree) || x.f 364 20 ≤ rank || rank == x.rank then none
    else if !x.leads then some (s.withD (·.setBinding bid (x.send 9 x.coord 0 [rank] [])))
    else some (s.withD (·.setBinding bid { x with cands := if x.cands.contains rank then x.cands else x.cands ++ [rank] }))) s

/-- The coordinator has gathered for 20 µs (R404): it proposes. -/
def St.gatherOver (s : St) (bid : Nat) (x : Binding) : Option St :=
  if s.d.gathered x then some ((s.withD fun d => d.setBinding bid (x.propose (x.seen + 1) x.nextMask d.clock.toNat)).tryCommit bid) else none

/-- `GATHER_TIMEOUT` (R404). -/
def execGatherTimeout (bid : Nat) (s : State) : Host.Outcome State Fault Refusal := onBinding bid (fun x s => s.gatherOver bid x) s

/-- An ACK is missing at 80 µs (R404): the coordinator proposes again without the silent members, with the next tag. -/
def St.ackOver (s : St) (bid : Nat) (x : Binding) : Option St :=
  match x.prop with
  | none => none
  | some (t, mask) =>
    if x.st != .agree || s.d.since x.agreeAt < ackCycles then none
    else
      let mask := mask.filter (fun r => x.acks.any (·.1 == r))
      some ((s.withD fun d => d.setBinding bid (x.propose (t + 1) mask d.clock.toNat)).tryCommit bid)

/-- `ACK_TIMEOUT` (R404). -/
def execAckTimeout (bid : Nat) (s : State) : Host.Outcome State Fault Refusal := onBinding bid (fun x s => s.ackOver bid x) s

/-- There is no COMMIT within 160 µs of this member's ACK (R404). -/
def St.commitOver (s : St) (bid : Nat) (x : Binding) : Option St :=
  if x.st != .agree || x.prop.isSome || s.d.since x.agreeAt < commitCycles then none else some (s.withD (·.isolate bid))

/-- `COMMIT_TIMEOUT` (R404). -/
def execCommitTimeout (bid : Nat) (s : State) : Host.Outcome State Fault Refusal := onBinding bid (fun x s => s.commitOver bid x) s

/-- There has been no heartbeat from any neighbour for 100 µs (R404). -/
def St.alone (s : St) (bid : Nat) (x : Binding) : Option St :=
  if x.st != .normal || !x.neighbours.all (fun r => s.d.silent x r) then none else some (s.withD (·.isolate bid))

/-- `ISOLATION` (R404). -/
def execIsolation (bid : Nat) (s : State) : Host.Outcome State Fault Refusal := onBinding bid (fun x s => s.alone bid x) s

/-- A timer of a binding, if it has run out. -/
def St.timer (s : St) (bid : Nat) (f : St → Binding → Option St) : St :=
  match s.d.binding bid with
  | some x => (f s x).getD s
  | none => s

/-- The timers of the views that run out in a cycle. -/
def St.runTimers (s : St) : St :=
  (s.d.bindings.filter (·.2.live)).foldl (fun s e =>
    let k := e.1
    let s := s.timer k (fun s x => if x.neighbours.isEmpty then none else s.alone k x)
    let s := ((s.d.binding k).map (fun x => x.neighbours.filter (fun r => !x.suspects.contains r))).getD [] |>.foldl (fun s r =>
      s.timer k (fun s x => s.beatLost k r x)) s
    ((s.timer k (fun s x => s.gatherOver k x)).timer k (fun s x => s.ackOver k x)).timer k (fun s x => s.commitOver k x)) s

end Sys2Proof.Machine
end

