-- ==== Sys2Proof/Machine/Fabric.lean ====
section
/-! DEFINITION. Active messages, the routers' slot tables and the fabric's links (R240, R394 to R400, R417, R418, R422). -/

namespace Sys2Proof.Machine

/-! ### Routes (R394, R395) -/

/-- Torus coordinates of a fabric rank, a first. -/
def rankCoords (r : Nat) : List Nat := [r / 12 / 16 / 64, r / 12 / 16 % 64, r / 12 % 16, r % 12]

/-- The fabric rank of torus coordinates. -/
def coordsRank (cs : List Nat) : Nat := ((cs.getD 0 0 * 64 + cs.getD 1 0) * 16 + cs.getD 2 0) * 12 + cs.getD 3 0

/-- The number of link 0 of a pair: pair 2 × dimension, plus 1 for the − direction (log 15). -/
def pairLink (dim : Nat) (minus : Bool) : Nat := 2 * (2 * dim + if minus then 1 else 0)

/-- Both links of the pair of a device toward a neighbour are down. -/
def Device.pairDown (d : Device) (cs : List Nat) (dim : Nat) (minus : Bool) : Bool :=
  let p := pairLink dim minus + (if cs == d.coords then 0 else 16 * (1 + coordsRank cs))
  d.linksDown.contains p && d.linksDown.contains (p + 1)

/-- The way round dimension i to a device, once the dimensions before it are crossed: the shorter, + on a tie; the other where a pair on it is down and
the ring is otherwise whole; none where there is no way (R395). `true` is the − direction. -/
def Device.ringWay (d : Device) (cs : List Nat) (i : Nat) : Option Bool :=
  let n := d.torus.getD i 1
  let a := d.coords.getD i 0
  let b := cs.getD i 0
  let up := (b + n - a) % n
  let minus := decide (n - up < up)
  let at' (p : Nat) : List Nat := (List.range 4).map (fun j => if j = i then p else if j < i then cs.getD j 0 else d.coords.getD j 0)
  let cut (p : Nat) : Bool := d.pairDown (at' p) i false || d.pairDown (at' ((p + 1) % n)) i true
  let way := if minus then (List.range (n - up)).map (fun h => (b + h) % n) else (List.range up).map (fun h => (a + h) % n)
  if way.all (fun p => !cut p) then some minus
  else if ((List.range n).filter cut).length = 1 then some (!minus) else none

/-- A device can be reached: in every dimension to cross there is a way (R395). -/
def Device.reaches (d : Device) (r : Nat) : Bool :=
  let cs := rankCoords r
  d.fabricUp && (List.range 4).all (fun i => cs.getD i 0 < d.torus.getD i 0 && (cs.getD i 0 == d.coords.getD i 0 || (d.ringWay cs i).isSome))

/-- The other link of a pair. -/
def partner (link : Nat) : Nat := if link % 2 = 0 then link + 1 else link - 1

/-- The link by which a packet to a device leaves: in the first dimension to cross, link k of the pair, where k = (source rank + destination rank)
mod 2, or its partner when that one is down (R395); none for the device itself. -/
def Device.outLink (d : Device) (r : Nat) : Option Nat :=
  let cs := rankCoords r
  match (List.range 4).find? (fun i => cs.getD i 0 != d.coords.getD i 0) with
  | none => none
  | some i => (d.ringWay cs i).map (fun minus =>
      let l := pairLink i minus + (d.rank + r) % 2
      if d.linksDown.contains l then partner l else l)

/-- The slot table of an output link. -/
def Device.slotTab (d : Device) (link : Nat) : List (BitVec 16) := d.slotTabs.get resetSlots link

/-- A partition owns a slot of a link; one whose partner is down carries the slots of both (R395, R397). -/
def Device.ownsSlot (d : Device) (part link : Nat) : Bool :=
  (link :: if d.linksDown.contains (partner link) then [partner link] else []).any (fun l =>
    (d.slotTab l).any (fun e => slotSt e == 1 && slotPart e == part))

/-- A packet to a device may leave: the device can be reached, and the link's table has slots for it, CONTROL ones or its partition's (R397). -/
def Device.mayDepart (d : Device) (r part : Nat) (data : Bool) : Bool :=
  d.reaches r && (match d.outLink r with
    | some l => !data || d.ownsSlot part l
    | none => true)

/-- Of some packets that wait, in their order: those that leave, those that stay, and the number that a router discards, of partitions that are being
purged (R400). -/
def Device.departing (d : Device) (ps : List Packet) : List Packet × List Packet × Nat :=
  let gone := ps.filter (fun p => p.isData && d.purges p.part)
  let rest := ps.filter (fun p => !(p.isData && d.purges p.part))
  (rest.filter (fun p => d.mayDepart p.dst p.part p.isData), rest.filter (fun p => !d.mayDepart p.dst p.part p.isData), gone.length)

/-! ### `AMSEND` and its answer (R240, R417, R418) -/

/-- The target may be addressed: the context has a partition, the target is in the launch's current view, when it has one, and can be
reached. -/
def Device.amTarget (d : Device) (asid slot rank : Nat) : Bool :=
  (d.partOf asid).isSome && d.reaches rank &&
    (match d.bidOf slot with
     | none => true
     | some (_, x) => x.view.any (fun r => x.members[r]? == some rank))

/-- The lanes of an `AMSEND` whose operands are illegal (R240): reserved bits of the target word, or an entry that is no instruction address. -/
def amBad (a c : Src) (i : Iss) (x : Wave) : List (Nat × EntErr) :=
  (lanesOf i.act).filterMap (fun l =>
    let e := (a.x x l).toNat
    if (c.w x l).toNat / 2 ^ 29 ≠ 0 then some (l, .illegal)
    else if field e 48 16 = 0 && e % 4 ≠ 0 then some (l, .fetch (BitVec.ofNat 64 (e % 2 ^ 48))) else none)

/-- The fabric rank that a lane's target word names. -/
def amRank (c : Src) (x : Wave) (l : Nat) : Nat := (c.w x l).toNat % 2 ^ 20

/-- The lanes of an `AMSEND` whose targets can be addressed. -/
def St.amGood (s : St) (i : Iss) (x : Wave) (c : Src) : List Nat :=
  (lanesOf i.act).filter (fun l => s.d.amTarget i.asid i.slot (amRank c x l))

/-- The record of one lane of an `AMSEND`, on its way, in its context's partition, once the wave's writes are acknowledged (R240, R418). -/
def amTransit (part : Nat) (i : Iss) (x : Wave) (a : Src) (b : Option Src) (c : Src) (nw l : Nat) : Transit :=
  let e := (a.x x l).toNat
  let words : List W32 := match b with
    | some b => (List.range nw).map (fun k => x.reg l (b.o.idx + k))
    | none => []
  ⟨mkRec e (field e 48 16) (x.thread l).workid.toNat 0 5 false 0 0 words, field (c.w x l).toNat 20 9, x.uid, x.wseq, i.opid, some i.opid,
    some (amRank c x l), false, false, false, [], i.core, part, false⟩

/-- `AMSEND` (R240): a record for each active lane waits for the wave's writes; the operation ends with the last AMACK. -/
def execAmsend (h : Ctl) (a : Src) (b : Option Src) (c : Src) (nw : BitVec 4) (s : State) : Host.Outcome State Fault Refusal :=
  issue 0x702 h { Req.none with srcs := a.rng 2 ++ srcRng b nw.toNat ++ c.rng 1 } (fun i s =>
    let x := s.d.wave i.w
    match firstBad (amBad a c i x) EntErr.cause with
    | some (_, e, m) => e.res m
    | none =>
      let good := s.amGood i x c
      let err := ((lanesOf i.act).find? (fun l => !good.contains l)).map (fun l => mkDetail 10 0x702 (BitVec.ofNat 64 (amRank c x l)))
      let s := if i.act = 0 then s else s.releaseOf i.core i.asid 4
      .ok { Eff.plain (s.withD fun d => { d with transit := d.transit ++ good.map (amTransit ((d.partOf i.asid).getD 0) i x a b c nw.toNat) }) with
        out := .long .none [] good.isEmpty err false, pub := i.act != 0 }) s

/-- `AMACK` (R400, R417, R418): a record of the operation that has left has been accepted, or refused with error 10; the operation ends with its last
record. One in a partition that is being purged goes no further. -/
def execAmack (w op : Nat) (ok : Bool) (s : State) : Host.Outcome State Fault Refusal :=
  event s (fun s =>
    let uid := if w < 2 ^ 20 then (s.d.wave w).uid else w - 2 ^ 20
    match s.d.transit.find? (fun t => t.uid == uid && t.op == some op && t.rank.isSome && t.gone) with
    | none => none
    | some t => if s.d.purges t.part then some s.discard else some (s.withD fun d =>
        let d : Device := { d with transit := d.transit.erase t }
        let more := d.transit.any (fun t => t.uid == uid && t.op == some op)
        d.updOp uid op (fun o => { o with
          done := !more, err := if ok then o.err else o.err.or (some (mkDetail 10 o.opc (BitVec.ofNat 64 (t.rank.getD 0)))) })))

/-- The answer to an AMSG, in its partition: an AMACK whose CHUNK is 1 for a refusal (log 15: the spec gives the refusal no form). -/
def Device.answer (d : Device) (part src : Nat) (ok : Bool) : Device :=
  { d with fabWait := d.fabWait ++ [⟨headerOf src d.rank part 11 0 0 0 (if ok then 0 else 1) 0, [], []⟩] }

/-- The AMSG of a record (R396, R417). DESIGN CHOICE (log 15): CHUNK carries the core that the target names, for which R396 gives no place. -/
def Device.amPacket (d : Device) (t : Transit) : Packet :=
  ⟨headerOf (t.rank.getD 0) d.rank t.part 0 0 0 0 t.core 2, [], (cellsOf 0 64 t.rcd.toNat).map (·.2)⟩

/-- One record bound for another device leaves, or a router discards it (R400). -/
def St.amDepart (s : St) (t : Transit) : St :=
  if t.gone || t.rank.isNone || !s.d.transitDue t then s
  else if s.d.purges t.part then ({ s with d := { s.d with transit := s.d.transit.erase t } }).discard
  else if !s.d.mayDepart (t.rank.getD 0) t.part true then s
  else s.withD fun d => { d with
    transit := d.transit.map (fun u => if u == t then { t with gone := true } else u), fabOut := d.fabOut ++ [d.amPacket t] }

/-- The packets of a binding leave as far as they may. -/
def Device.bindDepart (d : Device) (k : Nat) : Device :=
  match d.bindings.lookup k with
  | none => d
  | some x =>
    if x.sent.isEmpty then d
    else
      let r := d.departing x.sent
      { (d.setBinding k { x with sent := r.2.1 }) with fabOut := d.fabOut ++ r.1, discards := d.discards + r.2.2 }

/-- WHAT LEAVES THE DEVICE IN A CYCLE (R240, R395 to R400, R418): records and answers, and the packets of every binding. -/
def St.runFabric (s : St) : St :=
  let s := s.d.transit.foldl St.amDepart s
  s.withD fun d =>
    let r := d.departing d.fabWait
    let d := if d.fabWait.isEmpty then d else { d with fabWait := r.2.1, fabOut := d.fabOut ++ r.1, discards := d.discards + r.2.2 }
    (d.bindings.map (·.1)).foldl Device.bindDepart d

/-- `AMSG` (R400, R417, R418): a record arrives for the launch registered for its partition, takes its SLOT and the ENTRY of its task type, and is
delivered to the core named. `core` is a core identifier as `sr.core` reads. -/
def execAmsg (part : BitVec 12) (src : BitVec 20) (core : Nat) (rec : BitVec 512) (s : State) : Host.Outcome State Fault Refusal :=
  event s (fun s =>
    let refuse (s : St) : Option St := some (s.withD fun d => ({ d with discards := d.discards + 1 }).answer part.toNat src.toNat false)
    let slot := match s.d.partitions.lookup part.toNat with
      | some p => if p.valid then p.am else none
      | none => none
    if s.d.purges part.toNat then some s.discard
    else match slot with
    | none => refuse s
    | some k =>
      let l := s.d.launch k
      let tti := recTti rec
      let entry := if tti = 0 then some (recAddr rec)
        else if l.ttn ≤ tti then none
        else (s.ctxRead l.asid (l.ttbase + 32 * tti) 32).map (fun e => field e 0 48)
      if 512 ≤ core || 18 ≤ core / 4 % 32 || recKind rec ≠ 5 || recBad rec then refuse s
      else match entry with
        | none => (refuse s).map (fun s => s.withD fun d => { d with logs := d.logs ++ [(k, tti)] })
        | some a =>
          let r := BitVec.ofNat 512 (setField (setField rec.toNat 0 48 a) 128 12 k)
          some ((s.deliverRec (coreOfId core) r).withD (·.answer part.toNat src.toNat true)))

/-! ### Slot tables (R397 to R400) -/

/-- A table as R397 has it: 256 entries, 0 and 128 CONTROL and no other, reserved bits zero, PART 0 unless OWNED or PURGE. -/
def slotsOk (t : List (BitVec 16)) : Bool :=
  t.length == 256 && ((List.range 256).zip t).all (fun p =>
    (slotSt p.2 == 3) == (p.1 == 0 || p.1 == 128) && field p.2.toNat 12 2 == 0 && (slotSt p.2 == 1 || slotSt p.2 == 2 || slotPart p.2 == 0))

/-- `SLOT_TABLE_EDIT` (R399): the router of an output link swaps to a shadow table. -/
def execSlotTableEdit (link : Nat) (table : List (BitVec 16)) (s : State) : Host.Outcome State Fault Refusal :=
  event s (fun s => if slotsOk table then some (s.withD fun d => { d with slotTabs := d.slotTabs.put link table }) else none)

/-- Changes the slots that a partition has in one state. -/
def Device.reslot (d : Device) (part : Nat) (ok : Nat → Bool) (e : BitVec 16) : Device :=
  { d with slotTabs := d.slotTabs.map (fun t => (t.1, t.2.map (fun x =>
      if slotPart x == part && ok (slotSt x) && part != 0 then e else x))) }

/-- `PARTITION_RESET` (R400): every slot of the partition becomes PURGE. -/
def execPartitionReset (part : BitVec 12) (s : State) : Host.Outcome State Fault Refusal :=
  event s (fun s => some (s.withD (·.reslot part.toNat (· == 1) (BitVec.ofNat 16 (2 ^ 15 + part.toNat)))))

/-- `PURGE_EXPIRY` (R400): the purged slots become FREE. -/
def execPurgeExpiry (part : BitVec 12) (s : State) : Host.Outcome State Fault Refusal :=
  event s (fun s => some (s.withD (·.reslot part.toNat (· == 2) 0)))

/-! ### Fabric links (R395, R422) -/

/-- `FABRIC_LINK_DOWN` (R395): a link of this device, or of another one, whose ring its packets may cross. -/
def execFabricLinkDown (link : Nat) (s : State) : Host.Outcome State Fault Refusal :=
  event s (fun s => if link < 16 * (1 + 786432) && !s.d.linksDown.contains link then some (s.withD fun d => { d with linksDown := d.linksDown ++ [link] })
    else none)

/-- `FABRIC_LINK_TRAINED` (R422): training with the neighbours of a good descriptor succeeds; `sr.pkg` is fixed and FERR clears. -/
def execFabricLinkTrained (s : State) : Host.Outcome State Fault Refusal :=
  event s (fun s => if s.d.torus.isEmpty then none
    else some (s.withD fun d => { d with fabricUp := true, linkFerr := false, linksDown := [] }))

end Sys2Proof.Machine
end

