-- ==== Sys2Proof/Machine/WaveEvents.lean ====
section
/-! DEFINITION. What happens to one wave from outside its instructions: the illegal word (R61), results and claims that fall due (R32, R207),
traps at an issue boundary (R346, R407), hop arrivals (R387), and Foxglove's dealings with a parked wave (R351). -/

namespace Sys2Proof.Machine

/-! ### The death of a wave -/

/-- Every result in the pipe lands, as by empty positions. -/
def Wave.drain (x : Wave) : Wave := x.advance 8

/-- A wave is killed (R61): every thread is DONE and leaves its masks; results land and are discarded with the wave; what it posted drains.
DESIGN CHOICE (log 63): a counter that `MTS` wrote and that lands only now is lost with the wave: the context does not take it (R61, R242). -/
def Wave.kill (x : Wave) : Wave :=
  let x := x.drain.leaveHandler.drain
  let x := (List.range 32).foldl (fun x l => if (x.thread l).st = .done then x else x.endLane l) x
  { x with wait := .ready, parked := false, latch := none, asyncDue := false, membership := none, stepping := false, leaving := false }

/-- A wave of the device is killed. -/
def Device.killWave (d : Device) (w : Nat) : Device := d.setWave w (d.wave w).kill

/-- `sr.ctxerr` after an illegal word (R40): the first event sets ILL and ADDR, later ones MULTI. -/
def ctxErr (old : W64) (pc : Addr) : W64 :=
  if old.getLsbD 63 then old ||| (1#64 <<< 62) else (1#64 <<< 63) ||| pc.setWidth 64

/-- `ILLEGAL_WORD` (R61): the current wave has reached an illegal word. -/
def execIllegalWord (s : State) : Host.Outcome State Fault Refusal :=
  event s (fun s =>
    let w := s.d.cur
    let x := s.d.wave w
    match (x.landAt 0).choose with
    | none => none
    | some (g, y) =>
      if !x.live then none
      else
        let pc := (y.thread (lowest g)).pc
        let asid := (s.d.block x.blk).asid
        some (s.withD fun d =>
          let c := d.ctx asid
          (d.setCtx asid { c with ctxerr := ctxErr c.ctxerr pc }).killWave w))

/-! ### Results and claims -/

/-- `FIXED_LATENCY_WRITEBACK` (R32): the results due at the wave's counter are written. -/
def execFixedLatencyWriteback (w : Nat) (s : State) : Host.Outcome State Fault Refusal :=
  event s (fun s =>
    let x := s.d.wave w
    if x.live && x.pipe.any (fun e => x.ahead e == 0) then some (s.withD (·.setWave w (x.landAt 0).settle)) else none)

/-- `RCLAIM_GRANT` (R207): the pool serves the wave's claim, no earlier claim on it waiting. -/
def execRclaimGrant (w : Nat) (s : State) : Host.Outcome State Fault Refusal :=
  event s (fun s =>
    let x := s.d.wave w
    match x.wait with
    | .rclaim n o =>
      if !x.live || x.parked || s.d.claims x.blk (x.widx % 4) o then none
      else (s.d.claim w n).map (fun d => { s with d := d.setWave w { d.wave w with wait := .ready } })
    | _ => none)

/-! ### Traps at an issue boundary (R346) -/

/-- The instruction that a wave would issue next: its group, its address, its word and the lanes its guard leaves active. A word that cannot be
fetched is not stated: free (log 5). -/
def St.boundary (s : St) (w : Nat) : Option (Lanes × Addr × Lanes × St) :=
  let x := s.d.wave w
  match (x.landAt 0).choose with
  | none => none
  | some (g, y) =>
    let pc := (y.thread (lowest g)).pc
    let f : BitVec 96 × St := match s.fetch w (s.d.block x.blk).asid pc.toNat with
      | .ok (word, t) => (word, t)
      | .error _ => let a := s.fresh; let b := a.2.fresh; (a.1 ++ b.1.setWidth 32, b.2)
    let h := Ctl.of (Fields.of f.1).g (Fields.of f.1).h
    let act := maskLanes (fun l => g.getLsbD l && (y.pred l h.pred.toNat != h.neg))
    some (g, pc, act, f.2.withD fun d => { (d.setWave w y) with iword := f.1 })

/-- `ASYNC_MEMORY_ERROR_TRAP` (R146, R346): cause 27, with the detail of the untracked operation. -/
def execAsyncMemoryErrorTrap (w : Nat) (s : State) : Host.Outcome State Fault Refusal :=
  event s (fun s =>
    let x := s.d.wave w
    if !x.live || !x.asyncDue || x.parked then none
    else match s.boundary w with
      | none => none
      | some (g, pc, act, t) =>
        let v : W64 × W64 × W64 := match x.untracked with
          | some d => (BitVec.ofNat 64 (d.kind.toNat + 2 ^ 8 * d.op.toNat), d.v2, d.v3)
          | none => (0, 0, 0)
        let t := t.withD fun d => d.setWave w { d.wave w with asyncDue := false, untracked := none }
        some (t.takeTrap w ⟨27, act, g, pc, pc, 0, v.1, v.2.1, v.2.2⟩))

/-- The wait of the wave is over with an error of its token, whose fault comes before a membership change (R363). -/
def Wave.tokenFirst (x : Wave) : Bool :=
  match x.wait with
  | .token k n => (x.tok k).err && decide ((x.tok k).count ≤ n)
  | _ => false

/-- `MEMBERSHIP_CHANGE_TRAP` (R407): cause 28 at the waiting instruction; a token error that is due comes first (R363). -/
def execMembershipChangeTrap (w : Nat) (s : State) : Host.Outcome State Fault Refusal :=
  event s (fun s =>
    let x := s.d.wave w
    match x.membership with
    | none => none
    | some (old, new, n) =>
      if !x.live || x.parked || x.tokenFirst then none
      else match s.boundary w with
        | none => none
        | some (g, pc, act, t) =>
          let t := t.withD fun d => d.setWave w { d.wave w with membership := none }
          some (t.takeTrap w ⟨28, act, g, pc, pc, new ++ old, BitVec.ofNat 64 (min n 65535), 0, 0⟩))

/-! ### The arrival of a hop (R387) -/

/-- The issue that an arrival's loads are checked in. -/
def St.arrivalIss (s : St) (w : Nat) (grp : Lanes) (pc : Addr) : Iss :=
  let x := s.d.wave w
  let b := s.d.block x.blk
  ⟨w, w / 64, x.blk, b.asid, b.slot, grp, grp, pc, x.opn, ⟨false, 7, 0, none, none, false⟩⟩

/-- One lane takes the stack word that stands at `top`: `sr.stkptr` and RSD. -/
def Thread.arrive (t : Thread) (top v : W64) : Thread :=
  { t with stkptr := v, rsd := ((top - v) >>> 3).setWidth 16, arriving := false }

/-- `HOP_ARRIVAL` (R387): every arriving lane loads its stack word before the wave's first instruction; those that fail raise one fault. -/
def execHopArrival (w : Nat) (s : State) : Host.Outcome State Fault Refusal :=
  event s (fun s =>
    let x := s.d.wave w
    let ls := (List.range 32).filter (fun l => (x.thread l).arriving && (x.thread l).st == .run)
    if !x.live || x.parked || x.frame.isSome || ls.isEmpty then none
    else match s.boundary w with
      | none => none
      | some (g, pc, _, t) =>
        let i := s.arrivalIss w g pc
        let top := fun l => (s.d.launch i.slot).travelTop (x.thread l).workid
        let ps := ls.map (fun l => (l, t.stackAcc i (top l) .read))
        let t := ps.foldl (fun t p => match p.2 with
          | .error _ => t
          | .ok q =>
            let r := t.load (w / 64) q 8
            r.2.withD fun d => d.setWave w ((d.wave w).updThread p.1 (fun y => y.arrive (top p.1) (BitVec.ofNat 64 r.1)))) t
        let bad := ps.filterMap (fun p => match p.2 with
          | .error e => some (p.1, e)
          | .ok _ => none)
        match firstBad bad StackErr.cause with
        | none => some t
        | some (_, e, m) => match e.res m with
          | .trap c v0 v1 v2 v3 => some (t.takeTrap w ⟨c, m, g, pc, pc, v0, v1, v2, v3⟩)
          | _ => some t)

/-! ### Parked waves (R351) -/

/-- The wave goes on. -/
def Wave.resume (x : Wave) : Wave := Wave.settle { x with parked := false, latch := none, wait := x.wait.kept }

/-- The cause and CODE in a parked wave's latch. -/
def Wave.latched (x : Wave) : Nat × Nat :=
  match x.latch with
  | some r => (r.cause.toNat, r.v0.toNat % 65536)
  | none => (0, 0)

/-- Delivers a parked wave's fault to its handler (R348); it stays parked without one. -/
def St.deliverParked (s : St) (w : Nat) : Option St :=
  let x := s.d.wave w
  match x.latch with
  | some r =>
    if !x.live || !x.parked || x.handler = 0 || x.fault = 0 || x.frame.isSome then none
    else
      let grp := maskLanes (fun l => (x.thread l).st == .run && (x.thread l).pc == r.pc)
      some (s.deliver w { r with failed := false } grp)
  | none => none

/-- `FAULT_RESOLVE` (R346): Foxglove resolves a fault of route F→H and resumes at the stop instruction, or delivers it by route H. -/
def execFaultResolve (w : Nat) (ok : Bool) (s : State) : Host.Outcome State Fault Refusal :=
  event s (fun s =>
    let x := s.d.wave w
    if !x.live || !x.parked || routeOf x.latched.1 ≠ 2 then none
    else if ok then some (s.withD (·.setWave w x.resume)) else s.deliverParked w)

/-- `PARKED_WAVE_RESUME` (R351). A system call whose CODE is no service is refused as it resumes (R426); one of a service is carried out by
that service's event. -/
def execParkedWaveResume (w : Nat) (s : State) : Host.Outcome State Fault Refusal :=
  event s (fun s =>
    let x := s.d.wave w
    let (cause, code) := x.latched
    let sysc := decide (cause = 34)
    if !x.live || !x.parked || (sysc && 1 ≤ code && code ≤ 4) then none
    else
      let act := match x.latch with
        | some r => r.active
        | none => 0
      let x := if sysc then (lanesOf act).foldl (fun x l => x.setReg l 0 0x80000001) x else x
      some (s.withD (·.setWave w x.resume)))

/-- `PARKED_WAVE_DELIVER` (R351). -/
def execParkedWaveDeliver (w : Nat) (s : State) : Host.Outcome State Fault Refusal := event s (fun s => s.deliverParked w)

/-- `PARKED_WAVE_KILL` (R351): the effects of R61 but for `sr.ctxerr`. -/
def execParkedWaveKill (w : Nat) (s : State) : Host.Outcome State Fault Refusal :=
  event s (fun s => if (s.d.wave w).live && (s.d.wave w).parked then some (s.withD (·.killWave w)) else none)

/-- A ring is emptied. -/
def St.emptyRing (s : St) (slot c : Nat) : St :=
  if s.ringOcc slot c = 0 then s
  else
    let h := s.ringHdr slot c
    s.homeWrite (s.ringHead slot c) 64 (setField h 64 64 (hdrTail h))

/-- A launch is aborted (R351, R426): its waves are killed, its blocks are not handed out, its saved blocks and its records are
gone, its collective is abandoned (R416). -/
def St.abortLaunch (s : St) (slot : Nat) : St :=
  let s := (List.range 289).foldl (fun s c => s.emptyRing slot c) s
  s.withD fun d =>
    let l := d.launch slot
    let mine (r : BitVec 512) : Bool := recSlot r == slot
    let dead := (d.saved.filter (fun v => v.live && v.block.slot == slot)).length
    let d := d.setLaunch slot { l with
      aborted := true, admitted := true, lo := [], hi := [], back := [], handed := [], inq := [], spare := [], suspended := false, out := l.out - dead }
    let n := (d.transit.filter (fun t => t.rank.isNone && mine t.rcd)).length + (d.spill.filter (fun e => mine e.2.2)).length +
      ((d.forms.filter (fun f => mine (f.recs.headD 0))).map (fun f => f.recs.length)).sum
    let d : Device := { d with
      transit := d.transit.filter (fun t => t.rank.isSome || !mine t.rcd)
      forms := d.forms.filter (fun f => !mine (f.recs.headD 0))
      spill := d.spill.filter (fun e => !mine e.2.2)
      overflowDue := d.overflowDue.filter (·.1 != slot)
      saved := d.saved.map (fun v => if v.live && v.block.slot == slot then { v with live := false } else v)
      lqs := d.lqs.map (fun e => (e.1, e.2.filter (·.slot != slot)))
      discards := d.discards + n }
    -- nothing more is enqueued or dequeued for it
    let d : Device := { d with
      blocks := d.blocks.map (fun e => if e.2.live && e.2.slot == slot then (e.1, { e.2 with outq := false, auto := false }) else e)
      qwaits := d.qwaits.filter (fun q => !(q.uid == 0 && (if q.enq then (d.block q.op).slot else (BitVec.toNat (d.binds.get 0 q.op) / 2 ^ 112 % 4096)) == slot))
      offersDue := d.offersDue.filter (·.1 != slot) }
    let ws := d.waves.filter (fun e => e.2.live && (d.block e.2.blk).slot == slot)
    let d := ws.foldl (fun d e => d.killWave e.1) d
    match l.bid with
    | some k => (d.abandon k true).endArrq k
    | none => d

/-- `LAUNCH_ABORT` (R351): the host runtime aborts the launch in a slot. -/
def execLaunchAbort (slot : Nat) (s : State) : Host.Outcome State Fault Refusal :=
  event s (fun s => if (s.d.launch slot).used && !(s.d.launch slot).aborted then some (s.abortLaunch slot) else none)

/-! ### Saved forms (R355) -/

/-- The specifier of a destination, and whether its result is 64-bit, as a saved pipe entry names it (R355). The predicates of
`PMOV.unpack` are named by the specifier of p7. DESIGN CHOICE (log 11): the spec gives one specifier and no mask. -/
def Dest.spec (t : Dest) : Nat × Bool :=
  match t with
  | .none => (0x1C0, false)
  | .w r len => (r, len == 2)
  | .p i => (0x100 + i, false)
  | .ps _ => (0x107, false)
  | .m i => (0x108 + i, false)
  | .n i => (0x114 + i, true)
  | .lc i => (0x13C + i, false)
  | .sr i => (0x140 + i, true)

/-- The destination of a specifier. -/
def Dest.ofSpec (n : Nat) (wide : Bool) : Dest :=
  if n < 0x100 then .w n (if wide then 2 else 1)
  else if n < 0x107 then .p (n - 0x100)
  else if n < 0x108 then .ps (BitVec.allOnes 7)
  else if n < 0x114 then .m (n - 0x108)
  else if n < 0x124 then .n (n - 0x114)
  else if 0x13C ≤ n && n < 0x140 then .lc (n - 0x13C)
  else if 0x140 ≤ n && n < 0x180 then .sr (n - 0x140) else .none

/-- Bytes 0 to 7 of a saved pipe entry (R355). -/
def PipeEnt.head (e : PipeEnt) : Nat :=
  let sp := e.dst.spec
  e.due.toNat + 2 ^ 16 * (sp.1 + 2 ^ 14 + (if sp.2 then 2 ^ 15 else 0)) + 2 ^ 32 * e.lanes.toNat

/-- Byte 8 of a saved pipe entry: the token of the operation that it completes. -/
def PipeEnt.postByte (e : PipeEnt) (x : Wave) : Nat :=
  match e.post.bind (fun n => x.ops.find? (·.id == n)) with
  | some o => 16 + o.tok.getD 0
  | none => 0

/-- The 8 bytes of lane l's value in a saved pipe entry; for a mask destination, lanes then meet address at bytes 64 to 75. -/
def PipeEnt.valAt (e : PipeEnt) (l : Nat) : Nat :=
  match e.dst with
  | .m _ => e.vals.get 0 (lowest e.lanes) / 2 ^ (64 * l) % 2 ^ 64
  | _ => e.vals.get 0 l % 2 ^ 64

/-- The pipe or the trap frame's pipe. -/
def Wave.pipeOf (x : Wave) (frame : Bool) : List PipeEnt := if frame then (x.frame.map (·.pipe)).getD [] else x.pipe

/-- Replaces it. -/
def Wave.setPipeOf (x : Wave) (frame : Bool) (p : List PipeEnt) : Wave :=
  if frame then { x with frame := x.frame.map (fun f => { f with pipe := p }) } else { x with pipe := p }

/-- State and hold of a thread, as bits 63:57 of its saved word (R355). -/
def Thread.stBits (t : Thread) : Nat :=
  let h : Nat × Nat := match t.hold with
    | .meet => (0, 0)
    | .mwait m => (1, m)
    | .msync _ => (1, 15)
  match t.st with
  | .run => 0
  | .done => 2
  | .held => 1 + 4 * h.1 + 8 * h.2

/-- The lanes that an `MSYNC` waits for. -/
def Thread.lm (t : Thread) : Lanes :=
  match t.hold with
  | .msync lm => lm
  | _ => 0

/-- Sets state and hold from those bits. -/
def Thread.setStBits (t : Thread) (v : Nat) : Thread :=
  let hold : Hold := if field v 2 1 = 0 then .meet else if field v 3 4 = 15 then .msync t.lm else .mwait (field v 3 4)
  { t with
    st := if v % 4 = 0 then .run else if v % 4 = 1 then .held else .done
    hold := if v % 4 = 1 then hold else .meet }

end Sys2Proof.Machine
end

