-- ==== Sys2Proof/Machine/Saving.lean ====
section
/-! DEFINITION. Pre-emption, the save area and the restore (R353 to R359, R363), the end of a scheduling period (R341, R386), the suspension
of a launch (R391), and the retirement of operations, saved waves included (R28, R354). -/

namespace Sys2Proof.Machine

/-! ### The save area (R355) -/

/-- A field of a save area: offset, bytes, value. -/
abbrev SaveField := Nat × Nat × Nat

/-- The next multiple of 64. -/
def up64 (n : Nat) : Nat := (n + 63) / 64 * 64

/-- W of a saved block (R323, R177). -/
def Saved.w (v : Saved) (d : Device) : Nat := if v.block.formed then 1 else (d.launch v.block.slot).waves

/-- The wave of an index; none when it has ended. -/
def Saved.waveAt (v : Saved) (w : Nat) : Option Wave := v.waves.find? (·.widx == w)

/-- Where the thread sections, the register image of wave w, the tile-table entries, the copy states, the tiles and the scratchpad image
begin. -/
def Saved.threadsAt (v : Saved) (d : Device) : Nat := 64 + 6144 * v.w d
/-- Register image of wave w. -/
def Saved.regsAt (v : Saved) (d : Device) (w : Nat) : Nat :=
  v.threadsAt d + 4096 * v.w d + 128 * ((List.range w).map (fun k => ((v.waveAt k).map (·.alloc)).getD 0)).sum
/-- Tile-table entries. -/
def Saved.tilesAt (v : Saved) (d : Device) : Nat := up64 (v.regsAt d (v.w d))
/-- Copy states. -/
def Saved.copiesAt (v : Saved) (d : Device) : Nat := up64 (v.tilesAt d + 8 * v.block.tileN)
/-- Accumulator tiles. -/
def Saved.accsAt (v : Saved) (d : Device) : Nat := up64 (v.copiesAt d + 128 * v.cids.length)
/-- Scratchpad image. -/
def Saved.scrAt (v : Saved) (d : Device) : Nat := up64 (v.accsAt d + 74816 * v.block.accN)
/-- The end of the area. -/
def Saved.size (v : Saved) (d : Device) : Nat := v.scrAt d + v.block.scrsz

/-- The block header. -/
def Saved.header (v : Saved) (d : Device) : Nat :=
  let b := v.block
  2 ^ 448 * b.index + 2 ^ 432 * (b.frame.getD 0) + 2 ^ 420 * b.slot + 2 ^ 414 * v.w d +
    ((List.range 4).map (fun j => 2 ^ (370 + 11 * j) * b.bq.get 0 j)).sum + 2 ^ 350 * b.scrsz + 2 ^ 346 * b.accN + 2 ^ 339 * b.tileN +
    2 ^ 331 * v.cids.length + (if b.idem then 2 ^ 330 else 0) + (if b.member then 2 ^ 329 else 0) + 2 ^ 327 * v.why + 2 ^ 311 * b.gen.toNat

/-- A pipe entry of a wave at an offset. -/
def PipeEnt.fields (x : Wave) (at' : Nat) (e : PipeEnt) : List SaveField :=
  (at', 8, e.head) :: (at' + 8, 1, e.postByte x) :: (List.range 32).map (fun l => (at' + 64 + 8 * l, 8, e.valAt l))

/-- A detail of 30 bytes. -/
def detailFields (at' : Nat) (d : Option Detail) : List SaveField :=
  match d with
  | none => []
  | some d => [(at', 1, d.kind.toNat), (at' + 1, 2, d.op.toNat), (at' + 3, 8, d.v2.toNat), (at' + 11, 8, d.v3.toNat), (at' + 19, 1, 1)]

/-- A wave section. -/
def Wave.fields (x : Wave) (o : Nat) : List SaveField :=
  (List.range 12).flatMap (fun i => [(o + 16 * i, 4, (x.mask i).lanes.toNat), (o + 16 * i + 4, 8, (x.mask i).meet.toNat)]) ++
  (List.range 16).map (fun k => (o + 192 + k, 1, (x.tok k).word.toNat)) ++
  (List.range 16).map (fun i => (o + 224 + 8 * i, 8, (x.nreg i).toNat)) ++
  [(o + 352, 32, x.pend.toNat), (o + 384, 2, x.pos.toNat), (o + 386, 1, x.rc),
    (o + 387, 1, (if x.frame.isSome then 1 else 0) + if x.parked then 2 else 0), (o + 388, 4, x.fav.toNat), (o + 392, 2, x.alloc),
    (o + 394, 1, x.role.toNat), (o + 396, 2, x.unack), (o + 432, 8, x.handler.toNat), (o + 440, 8, x.fault.toNat)] ++
  (List.range 32).map (fun l => (o + 400 + l, 1, (x.thread l).age)) ++
  (match x.frame with
   | none => []
   | some f => [(o + 448, 2, f.pos.toNat), (o + 450, 1, f.rc), (o + 452, 4, f.fav.toNat), (o + 496, 4, f.lanes.toNat)] ++
     (List.range 32).map (fun l => (o + 456 + l, 1, f.ages.get 0 l))) ++
  (match x.latch with
   | none => []
   | some r => [(o + 500, 1, r.cause.toNat + if r.failed then 64 else 0)]) ++
  (List.range 16).flatMap (fun k => detailFields (o + 512 + 30 * k) (x.tok k).det) ++ detailFields (o + 512 + 480) x.untracked ++
  ((List.range 8).zip x.pipe).flatMap (fun e => e.2.fields x (o + 1024 + 320 * e.1)) ++
  ((List.range 8).zip (x.pipeOf true)).flatMap (fun e => e.2.fields x (o + 3584 + 320 * e.1))

/-- A thread section of lane l. -/
def Wave.threadFields (x : Wave) (o l : Nat) : List SaveField :=
  let t := x.thread l
  let ps := (List.range 7).foldl (fun n i => n + if x.pred l i then 2 ^ (22 + i) else 0) 0
  [(o, 8, t.pc.toNat + 2 ^ 57 * t.stBits), (o + 8, 8, t.stkptr.toNat),
    (o + 48, 4, t.rsd.toNat + 2 ^ 16 * t.rs.length + 2 ^ 19 * t.ls.length + ps), (o + 52, 4, t.lm.toNat)] ++
  ((List.range 4).zip t.rs).map (fun e => (o + 16 + 8 * e.1, 8, e.2.toNat)) ++
  ((List.range 4).zip t.ls).map (fun e =>
    (o + 64 + 16 * e.1, 16, e.2.start.toNat + 2 ^ 57 * ((e.2.stop.toNat - e.2.start.toNat) / 12) + 2 ^ 77 * e.2.count.toNat))

/-- A copy state. -/
def Copy.fields (c : Copy) (tok : Option Nat) (o : Nat) : List SaveField :=
  let un := (c.deliveries.filter (fun e => e.2 == .missed)).foldl (fun m e => m + 2 ^ e.1) 0
  let pk := match tok with
    | some k => k + 16
    | none => 0
  [(o, 64, c.rcd.toNat), (o + 64, 4, c.ofs), (o + 68, 4, c.row), (o + 72, 4, pk + if c.chained then 32 else 0), (o + 80, 8, c.bytes), (o + 88, 8, un)]

/-- A queue entry of a tile. -/
def MatOp.fields (m : MatOp) (widx : Nat) (o : Nat) : List SaveField :=
  [(o, 12, m.word.toNat), (o + 16, 8, m.xa.toNat), (o + 24, 8, m.xb.toNat), (o + 32, 4, m.c.toNat), (o + 36, 1, widx), (o + 37, 1, m.tok),
    (o + 38, 1, if m.chain.isSome then 1 else 0)] ++ m.data.map (fun e => (o + 64 + 4 * e.1, 4, e.2.toNat))

/-- `accN.prog` of a saved tile (R35), of the operation at its head. -/
def MatOp.prog (m : MatOp) (widx : Nat) : Nat :=
  2 ^ 31 + widx % 32 * 2 ^ 20 + m.tok % 16 * 2 ^ 16 + (if m.kind = 4 || m.kind = 5 then (if m.row = 0 then 0 else 128) else m.row % 256)

/-- The token of an operation of a saved wave. -/
def Saved.tokOf (v : Saved) (uid op : Nat) : Option Nat :=
  (v.waves.find? (·.uid == uid)).bind (fun x => (x.ops.find? (·.id == op)).bind (·.tok))

/-- Everything of a save area but tile elements and the scratchpad image. -/
def Saved.fields (v : Saved) (d : Device) : List SaveField :=
  let n := v.w d
  let b := v.block
  let widx (uid : Nat) : Nat := ((v.waves.find? (·.uid == uid)).map (·.widx)).getD 0
  (0, 64, v.header d) ::
  (List.range n).flatMap (fun w => match v.waveAt w with
    | none => (List.range 32).map (fun l => (v.threadsAt d + 4096 * w + 128 * l, 8, 2 ^ 58))
    | some x => x.fields (64 + 6144 * w) ++ (List.range 32).flatMap (fun l => x.threadFields (v.threadsAt d + 4096 * w + 128 * l) l) ++
      (x.regs.filter (fun e => e.1 % 256 < x.alloc)).map (fun e => (v.regsAt d w + 128 * (e.1 % 256) + 4 * (e.1 / 256), 4, e.2.toNat))) ++
  (List.range b.tileN).map (fun t => (v.tilesAt d + 8 * t, 8, (b.tile t).word)) ++
  -- the state of a copy that has retired since the save is gone, and the others stay where they are
  ((List.range v.cids.length).zip v.cids).flatMap (fun e => match v.copies.find? (·.id == e.2) with
    | some c => c.fields (v.tokOf c.uid c.op) (v.copiesAt d + 128 * e.1)
    | none => []) ++
  (List.range b.accN).flatMap (fun t =>
    let o := v.accsAt d + 74816 * t
    -- an operation that has ended and not retired is still the one that `accN.prog` shows
    let all := v.mats.filter (fun m => m.on (b.accB + t))
    let q := all.filter (fun m => !m.ended)
    (match all with
     | [] => []
     | m :: _ => [(o + 65536, 4, m.prog (widx m.uid)), (o + 65540, 1, q.length)]) ++
    ((List.range 16).zip q).flatMap (fun e => e.2.fields (widx e.2.uid) (o + 65600 + 576 * e.1)))

/-- The bytes listed from an address, as memory stands. -/
def St.cellsIn (s : St) (lo n : Nat) : List Host.Cell := (s.m0.writeAll s.log).filter (fun c => lo ≤ c.1 && c.1 < lo + n)

/-- Sets a range to zero. -/
def St.clear (s : St) (lo n : Nat) : St := (s.cellsIn lo n).foldl (fun s c => s.wr c.1 0) s

/-- Copies a range of bytes. -/
def St.move (s : St) (src dst n : Nat) : St := (s.cellsIn src n).foldl (fun s c => s.wr (c.1 - src + dst) c.2) (s.clear dst n)

/-- The lines poisoned in a range: the poison of the lines that a copy of it lands in, at `dst` (R319, R320). -/
def Device.poisonTo (d : Device) (src dst n : Nat) : List Nat :=
  (d.poison.filter (fun ln => src < 128 * ln + 128 && 128 * ln < src + n)).flatMap (fun ln =>
    let a := dst + 128 * ln - src
    [lineOf a, lineOf (a + 127)])

/-- Lines are poisoned. -/
def Device.addPoison (d : Device) (ls : List Nat) : Device := { d with poison := (d.poison ++ ls).eraseDups }

/-- Copies a range of bytes with the poison of its lines; no line loses its own (R320). -/
def St.moveAll (s : St) (src dst n : Nat) : St :=
  let ls := s.d.poisonTo src dst n
  (s.move src dst n).withD (·.addPoison ls)

/-- Writes the sections of a save area; a register that cannot be corrected poisons the line that receives it (R319, R355). -/
def St.writeSections (s : St) (v : Saved) : St :=
  let d := s.d
  let s := s.clear v.area (v.accsAt d)
  let s := (List.range v.block.accN).foldl (fun s t => s.clear (v.area + v.accsAt d + 74816 * t + 65536) 9280) s
  let s := (v.fields d).foldl (fun s f => s.wrN (v.area + f.1) f.2.1 f.2.2) s
  let bad := v.waves.flatMap (fun x => (x.bad.filter (·.2 < x.alloc)).map (fun p => lineOf (v.area + v.regsAt d x.widx + 128 * p.2 + 4 * p.1)))
  s.withD (·.addPoison bad)

/-- A save area lies outside the direct window, in one piece. DESIGN CHOICE (log 12): Foxglove gives areas at canonical addresses. -/
def areaFits (area size : Nat) : Bool :=
  area % 4096 == 0 && area != 0 && canonical area == area && canonical (area + size) == area + size && !isReserved area && !isHost area &&
    !isReserved (area + size)

/-- The places of save areas that Foxglove takes for the saves that the hardware makes at a deadline: 64 MiB apart in tier-2 memory. DESIGN CHOICE
(log 12). -/
def areaPlace (n : Nat) : Nat := 0x0180_0000_0000 + n * 2 ^ 26

/-- The first `n` places in which no saved block lies. -/
def Device.freeAreas (d : Device) (n : Nat) : List Nat :=
  let held := d.saved.map (fun v => v.area / 2 ^ 26)
  (((List.range (held.length + d.outs.length + n)).map areaPlace).filter (fun a =>
    !held.contains (a / 2 ^ 26) && !d.outs.any (fun o => o.2.2.1 / 2 ^ 26 == a / 2 ^ 26))).take n

/-! ### The save (R354, R358, R359) -/

/-- An active copy is brought to a row cut: the row that has begun to land is completed (R354). -/
def St.rowCut (s : St) (id : Nat) : Nat → St
  | 0 => s
  | n + 1 => match s.d.copy id with
    | some c => if c.seg = 0 || !c.active then s else match s.segmentLanded id with
      | some t => t.rowCut id n
      | none => s
    | none => s

/-- The block holds work to save: it is bound and some wave of it has not ended (R344). -/
def Device.savable (d : Device) (k : Nat) : Bool := (d.block k).live && !(d.wavesOf k).isEmpty

/-- The rows of a block's matrix operations that are due in this cycle are committed (R377). -/
def St.commitRows (s : St) (k : Nat) : St :=
  ((s.d.mats.filter (fun m => m.blk == k && m.started && !m.ended)).map (fun m => (m.core, m.tile))).foldl (fun s t => s.commitDue t.1 t.2 128) s

/-- A block gets ready to leave its core: rows due in this cycle are committed, its copies come to row cuts, and the scope-local copies of its context
are pushed (R354, R366, R377). -/
def St.comeOff (s : St) (k : Nat) : St :=
  let s := s.commitRows k
  (((s.d.copies.filter (·.blk == k)).map (·.id)).foldl (fun s id => s.rowCut id 8200) s).releaseOf (k / 64) (s.d.block k).asid 4

/-- The block may leave its core: its pushes and its peers' accesses are over, and, unless it is discarded, its copies stand at row cuts; a copy whose
walk is with Foxglove holds it (R171, R354, R366). -/
def Device.offReady (d : Device) (k : Nat) (discard : Bool) : Bool :=
  d.mayFree k && (discard || (d.copies.filter (·.blk == k)).all (fun c => c.seg = 0 || !c.active))

/-- A place with the scratchpad of one block named by another key. -/
def Place.rekey (a b : Nat) : Place → Place
  | .scratch k o => .scratch (if k = a then b else k) o
  | p => p

/-- A tile of a block, with the block named by another key. -/
def tileKey (a b : Nat) (p : Nat × Nat) : Nat × Nat := if p.1 = a then (b, p.2) else p

/-- A delivery of a block to itself, with the block named by another key and the generation of its scratchpad there (R243, R367). -/
def Delivery.rekey (a b : Nat) (gen : BitVec 16) (e : Delivery) : Delivery :=
  match e with
  | .sent w => if 64 * w.core + w.entry = a then .sent ⟨b / 64, b % 64, gen⟩ else e
  | .accepted k => if k = a then .accepted b else e
  | .missed => e

/-- A copy as it is saved or restored, its own block named by another key: the row that it goes on with is read anew. -/
def Copy.rekey (c : Copy) (a b : Nat) (gen : BitVec 16) : Copy :=
  { c with
    fills := c.fills.map (tileKey a b), reads := c.reads.map (tileKey a b), idxv := none
    deliveries := c.deliveries.map (fun e => (e.1, e.2.rekey a b gen)) }

/-- A matrix operation likewise. -/
def MatOp.rekey (m : MatOp) (a b : Nat) : MatOp := { m with reads := m.reads.map (tileKey a b) }

/-- What waits for some waves outside them, with their block's scratchpad named by another key: accesses that are held, launches, queue requests. -/
def Device.rekeyWaits (d : Device) (uids : List Nat) (a b : Nat) : Device :=
  { d with
    late := d.late.map (fun l => if uids.contains l.uid then { l with places := l.places.map (fun p => (p.1, p.2.rekey a b)) } else l)
    lreqs := d.lreqs.map (fun r => if uids.contains r.uid then { r with place := r.place.rekey a b } else r)
    qwaits := d.qwaits.map (fun q => if uids.contains q.uid && q.at'.isIn a then
      let p := q.at'.rekey a b
      { q with at' := p, hdr := p.key d } else q) }

/-- A wave as it is saved: it goes on at its stop instruction, stopped at no safe point (R353, R358). -/
def Wave.saved (x : Wave) : Wave :=
  { (x.updLanes (BitVec.allOnes 32) (fun t => { t with stopped := false })) with stall := 0, walking := false, leaving := false, wait := x.wait.kept }

/-- What the model keeps of a block: its waves, copies and matrix operations as they stand. A `GLEAVE` that waited has taken effect. -/
def Device.savedOf (d : Device) (k area why : Nat) : Saved :=
  let b := d.block k
  let base := scratchBase (k / 64) + b.scrb
  { live := true
    block := { b with preq := false, deadline := BitVec.allOnes 64, member := b.member && !b.leaving, leaving := false }
    waves := (d.wavesOf k).map (·.2.saved), area := area, why := why, since := d.clock.toNat
    copies := (d.copies.filter (·.blk == k)).map (fun c => { c.rekey k ownKey b.gen with active := false })
    mats := (d.mats.filter (fun m => m.blk == k)).map (fun m => { m.rekey k ownKey with started := false })
    core := k / 64, cids := (d.copies.filter (·.blk == k)).map (·.id), vc := []
    bwaits := (d.bwaits.filter (fun w => d.inScratch k w.obj)).map (fun w => { w with obj := w.obj - base }) }

/-- Where an accumulator element lies in a save area whose tiles begin at `at'`. -/
def accIn (at' core accB a : Nat) : Nat := at' + 74816 * ((a - tileBase core accB) / 65536) + (a - tileBase core accB) % 65536

/-- A block leaves its core for its save area (R354, R366). -/
def St.saveBlock (s : St) (k area why : Nat) : St :=
  let core := k / 64
  let s := s.withD (·.peersGone k)
  let b := s.d.block k
  let v := s.d.savedOf k area why
  let d0 := s.d
  let s := s.writeSections v
  let accs := area + v.accsAt d0
  let s := (List.range b.accN).foldl (fun s t => s.moveAll (tileBase core (b.accB + t)) (accs + 74816 * t) 65536) s
  let s := s.moveAll (scratchBase core + b.scrb) (area + v.scrAt d0) b.scrsz
  s.withD fun d =>
    let lo := tileBase core b.accB
    let mine (a : Nat) : Bool := lo ≤ a && a < lo + 65536 * b.accN
    let d := d.addPoison ((d.badAcc.filter mine).map (fun a => lineOf (accIn accs core b.accB a)))
    let d := { d with
      badAcc := d.badAcc.filter (fun a => !mine a)
      saved := d.saved ++ [v], waves := d.waves.filter (fun e => !(e.2.live && e.2.blk == k))
      copies := d.copies.filter (·.blk != k), mats := d.mats.filter (·.blk != k) }
    (d.rekeyWaits (v.waves.map (·.uid)) k ownKey).freeBlock k false

/-- An idempotent block is discarded (R359): its waves end, its results are dropped; its block index returns to the distributor, or its
records are delivered to the core again. -/
def St.discardBlock (s : St) (k : Nat) : St :=
  let core := k / 64
  let b := s.d.block k
  let uids := (s.d.wavesOf k).map (·.2.uid)
  let s := s.withD fun d =>
    let d := { d with
      waves := d.waves.filter (fun e => !(e.2.live && e.2.blk == k))
      copies := d.copies.filter (·.blk != k), mats := d.mats.filter (·.blk != k), late := d.late.filter (fun l => !uids.contains l.uid)
      qwaits := d.qwaits.filter (fun q => !uids.contains q.uid), bwaits := d.bwaits.filter (fun q => !uids.contains q.uid) }
    let l := d.launch b.slot
    if b.formed then d else d.setLaunch b.slot { l with back := l.back ++ [(dieOf core, b.index)] }
  (b.recs.foldl (fun s r => s.deliverRec core r) s).withD (·.freeBlock k true)

/-- An idempotent block goes by a discard, when it is to be discarded. -/
def Device.goes (d : Device) (k : Nat) (discard : Bool) : Bool := (d.block k).idem && discard

/-- A forced save of a block, or its discard (R354, R359). -/
def St.takeOff (s : St) (k area why : Nat) (discard : Bool) : St :=
  if s.d.goes k discard then s.discardBlock k else s.saveBlock k area why

/-- `PREEMPTION_REQUEST` (R353): REQ and the deadline of a bound block. -/
def execPreemptionRequest (blk : Nat) (deadline : W64) (s : State) : Host.Outcome State Fault Refusal :=
  event s (fun s =>
    let b := s.d.block blk
    if b.live && !(s.d.wavesOf blk).isEmpty then some (s.withD (·.setBlock blk { b with preq := true, deadline := deadline })) else none)

/-- `FORCED_SAVE` (R354): the clock has reached the deadline and the block has not ended. What the save waits for goes on. -/
def execForcedSave (blk area : Nat) (s : State) : Host.Outcome State Fault Refusal :=
  event s (fun s =>
    let b := s.d.block blk
    if !s.d.savable blk || !b.preq || s.d.clock.toNat < b.deadline.toNat || !areaFits area ((s.d.savedOf blk area 0).size s.d) then none
    else
      let t := s.comeOff blk
      some (if t.d.offReady blk (t.d.goes blk true) then t.takeOff blk area 0 true else t))

/-- Areas for some blocks, each after the last, at 4 KiB boundaries; none when one does not fit. -/
def Device.planAreas (d : Device) (why : Nat) : Nat → List Nat → Option (List (Nat × Nat))
  | _, [] => some []
  | area, k :: ks =>
    let size := (d.savedOf k area why).size d
    if areaFits area size then (d.planAreas why ((area + size + 4095) / 4096 * 4096) ks).map ((k, area) :: ·) else none

/-- Blocks saved one after another. -/
def St.saveAll (s : St) (why : Nat) (drop : List Nat) (plan : List (Nat × Nat)) : St :=
  plan.foldl (fun s p => s.takeOff p.1 p.2 why (drop.contains p.1)) s

/-- The blocks of a context on a core that have work to save. -/
def Device.blocksOn (d : Device) (asid core : Nat) : List Nat :=
  (d.blocks.filter (fun e => e.1 / 64 == core && e.2.asid == asid && d.savable e.1)).map (·.1)

/-- `CONTEXT_SWITCH_OUT` (R356): every block of the context on the core is saved, or discarded where Foxglove so decides (R359); the
counters go to the area that Foxglove gives. It begins at once and ends when every block may leave. -/
def execContextSwitchOut (asid : BitVec 16) (core area : Nat) (discard : List Nat) (s : State) : Host.Outcome State Fault Refusal :=
  event s (fun s =>
    let a := asid.toNat
    let ks := s.d.blocksOn a core
    if !(s.d.ctx a).live || !areaFits area 4096 then none
    else match s.d.planAreas 1 (area + 4096) ks with
      | none => none
      | some plan =>
        let s := ks.foldl St.comeOff s
        let out : Nat × Nat × Nat × List Nat := (a, core, area, discard)
        if !ks.all (fun k => s.d.offReady k (s.d.goes k (discard.contains k))) then
          some (s.withD fun d => { d with outs := if d.outs.contains out then d.outs else d.outs ++ [out] })
        else
          let c := s.d.ctx a
          let s := (List.range 16).foldl (fun s i => s.wrN (area + 8 * i) 8 (c.pmc.get 0 (16 * core + i)).toNat) s
          some ((s.saveAll 1 discard plan).withD fun d => { d with outs := d.outs.filter (fun o => !(o.1 == a && o.2.1 == core)) }))

/-- The (context, core) pairs whose parked share has reached the core's threshold (R352). DEDUCED (log 58): the share is looked at in every cycle. -/
def Device.parkedShares (d : Device) : List (Nat × Nat) :=
  let at' (e : Nat × Wave) : Nat × Nat := ((d.block e.2.blk).asid, e.1 / 64)
  (((d.waves.filter (fun e => e.2.live && e.2.parked)).map at').eraseDups).filter (fun p =>
    let here := d.waves.filter (fun e => e.2.live && at' e == p)
    d.pth.get 8 p.2 * here.length ≤ 16 * (here.filter (·.2.parked)).length)

/-- The switch-outs and forced saves that are due (R352, R354): each at a place of its own. -/
def Device.savesDue (d : Device) (now : Nat) : List Instr × List Instr :=
  let ds := (d.blocks.filter (fun e => e.2.preq && e.2.deadline.toNat ≤ now && d.savable e.1)).map (·.1)
  let ps := d.parkedShares.filter (fun p => !d.outs.any (fun o => o.1 == p.1 && o.2.1 == p.2))
  let as := d.freeAreas (ds.length + ps.length)
  ((ds.zip as).map (fun e => Instr.forcedSave e.1 e.2) ++ d.outs.map (fun o => .contextSwitchOut (BitVec.ofNat 16 o.1) o.2.1 o.2.2.1 o.2.2.2),
    (ps.zip (as.drop ds.length)).map (fun e => Instr.contextSwitchOut (BitVec.ofNat 16 e.1.1) e.1.2 e.2 []))

/-- A wave's block is on its way off the core: its deadline has passed, or its context is being switched out (R354, R356). -/
def Device.stoppedFor (d : Device) (w : Nat) : Bool :=
  let b := d.block (d.wave w).blk
  (b.preq && b.deadline.toNat ≤ d.clock.toNat) || d.outs.any (fun o => o.1 == b.asid && o.2.1 == w / 64)

/-! ### The restore (R357, R358) -/

/-- The entry and the core can take a saved block (R357). -/
def Device.restorable (d : Device) (v : Saved) (core e : Nat) : Bool :=
  let r := d.bind core e
  let b := v.block
  v.live && r.state == 1 && r.slot == b.slot && (d.launch b.slot).open && b.accN ≤ r.f 101 4 && b.tileN ≤ r.f 88 7 && b.scrsz ≤ 65536 * r.f 80 4 &&
    (d.copies.filter (·.core == core)).length + v.copies.length ≤ 128 &&
    (List.range 4).all (fun j =>
      let q := (r.qb + j) % 4
      b.bq.get 0 j ≤ d.freeRegs core q && (v.waves.filter (·.widx % 4 == j)).length ≤ (d.freeSlots core q).length)

/-- Puts saved waves into free slots of their relative quarters. -/
def Device.replaceWaves (d : Device) (core qb : Nat) : List Wave → Device
  | [] => d
  | x :: xs =>
    match d.freeSlots core ((qb + x.widx) % 4) with
    | k :: _ => (d.setWave k x).replaceWaves core qb xs
    | [] => d.replaceWaves core qb xs

/-- The register image at an address (R355). -/
def St.regsFrom (s : St) (at' alloc : Nat) : Tab W32 :=
  (s.cellsIn at' (128 * alloc)).foldl (fun t c =>
    let o := c.1 - at'
    t.upd 0 (256 * (o % 128 / 4) + o / 128) (fun v => v ||| (BitVec.ofNat 32 c.2.toNat <<< (8 * (o % 4))))) []

/-- The words of a register image that lie in poisoned lines (R319, R355). -/
def Device.badFrom (d : Device) (at' alloc : Nat) : List (Nat × Nat) :=
  if d.poison.all (fun ln => 128 * ln + 128 ≤ at' || at' + 128 * alloc ≤ 128 * ln) then []
  else (List.range alloc).flatMap (fun r => ((List.range 32).filter (fun l => d.poison.contains (lineOf (at' + 128 * r + 4 * l)))).map (fun l => (l, r)))

/-- The elements of a tile that come from poisoned lines of a save area. -/
def Device.badAccFrom (d : Device) (src dst : Nat) : List Nat :=
  ((List.range 16384).filter (fun e => d.poison.contains (lineOf (src + 4 * e)))).map (fun e => dst + 4 * e)

/-- A saved wave on its new core, its registers as its area holds them. -/
def Saved.waveFrom (v : Saved) (s : St) (k : Nat) (x : Wave) : Wave :=
  let at' := v.area + v.regsAt s.d x.widx
  { x with blk := k, regs := s.regsFrom at' x.alloc, bad := s.d.badFrom at' x.alloc }

/-- `BLOCK_RESTORE` (R358): everything saved comes back; the scratchpad takes a new generation, copies restart at their rows, matrix
operations go on at DONE; what stands in a poisoned line of the area cannot be corrected (R355). -/
def execBlockRestore (blk core entry : Nat) (s : State) : Host.Outcome State Fault Refusal :=
  event s (fun s => match s.d.saved[blk]? with
    | none => none
    | some v =>
      if s.d.power ≠ 0 || !s.d.restorable v core entry || Config.cores ≤ core || 64 ≤ entry || s.d.stopped then none
      else
        let d0 := s.d
        let r := s.d.bind core entry
        let k := 64 * core + entry
        let accB := r.f 105 3
        let scrb := 65536 * r.f 84 4
        let accs := v.area + v.accsAt d0
        let ws := v.waves.map (v.waveFrom s k)
        let bad := if d0.poison.isEmpty then [] else
          (List.range v.block.accN).flatMap (fun t => d0.badAccFrom (accs + 74816 * t) (tileBase core (accB + t)))
        let s := (List.range v.block.accN).foldl (fun s t => s.move (accs + 74816 * t) (tileBase core (accB + t)) 65536) s
        let s := s.moveAll (v.area + v.scrAt d0) (scratchBase core + scrb) v.block.scrsz
        some (s.withD fun (d : Device) =>
          -- the block comes with the clock of the die that it left and of what reached its waves meanwhile (R277)
          let d : Device := d.meetDie (dieOf v.core) (dieOf core)
          let d := if v.vc.isEmpty then d else d.takeClk (dieOf core) v.vc
          let gen := d.gens.get 0 core + 1
          let b := { v.block with
            qb := r.qb, scrb := scrb, accB := accB, gen := gen, windows := [], since := d.clock.toNat }
          let d : Device := { d with
            gens := d.gens.put core gen, saved := d.saved.eraseIdx blk
            copies := d.copies ++ v.copies.map (fun c => { c.rekey ownKey k gen with core := core, blk := k })
            mats := d.mats ++ v.mats.map (fun m => { m.rekey ownKey k with
              core := core, blk := k, tile := m.tile - v.block.accB + accB, tile2 := m.tile2.map (fun t => t - v.block.accB + accB) })
            badAcc := d.badAcc.filter (fun a => !(tileBase core accB ≤ a && a < tileBase core accB + 65536 * v.block.accN)) ++ bad
            bwaits := d.bwaits ++ v.bwaits.map (fun w => { w with obj := w.obj + scratchBase core + scrb }) }
          let d := ((d.setBlock k b).rekeyWaits (v.waves.map (·.uid)) ownKey k).setBind core entry (r.tgt 3 r.slot)
          let d := d.replaceWaves core r.qb ws
          d.resizeL1 core))

/-- No core has room for a saved block of a context (R357). -/
def Device.noRoom (d : Device) (asid : Nat) : Bool :=
  d.saved.any (fun v => v.live && v.block.asid == asid && !d.binds.any (fun e => d.restorable v (e.1 / 64) (e.1 % 64)))

/-- The status of every context is reported to the host runtime: capacity-stall as long as no core has room (R357, R423). -/
def Device.reportRoom (d : Device) : Device :=
  if d.saved.isEmpty && d.contexts.all (fun e => !e.2.stalled) then d
  else
    let new := d.contexts.any (fun e => !e.2.stalled && d.noRoom e.1)
    { d with
      contexts := d.contexts.map (fun e => (e.1, { e.2 with stalled := d.noRoom e.1 }))
      hreg := if new then d.hreg.put 0x38 (d.hreg.get 0 0x38 ||| 16) else d.hreg }

/-! ### Leaving cooperatively (R353) -/

/-- `COOPERATIVE_LEAVE` (R353): a SAVE record for each thread that is not DONE goes to the core's overflow ring, and the thread is DONE. -/
def execCooperativeLeave (w : Nat) (s : State) : Host.Outcome State Fault Refusal :=
  event s (fun s =>
    let x := s.d.wave w
    let b := s.d.block x.blk
    if !x.live || !x.leaving then none
    else
      let recs := (lanesOf x.alive).map (fun l =>
        let t := x.thread l
        mkRec t.pc.toNat 0 t.workid.toNat b.slot 7 b.idem b.prio 0 ((List.range 11).map (fun i => if i < x.alloc then x.reg l i else 0)))
      let y := (lanesOf x.alive).foldl (fun x l => x.endLane l) x
      some ((s.releaseOf (w / 64) b.asid 4).withD fun (d : Device) =>
        let out : List Transit := recs.map (fun r => ⟨r, w / 64, x.uid, x.wseq, x.opn, none, none, false, true, false, d.clkVec (dieOf (w / 64)), w / 64, 0, false⟩)
        let d : Device := { d with transit := d.transit ++ out }
        (d.setWave w { y with leaving := false }).setBlock x.blk { b with left := true }))

/-! ### Retirement (R28) -/

/-- The oldest operation on a token retires, when it has completed and no earlier result of its registers is still in the pipe. -/
def Wave.retire (x : Wave) (tok : Option Nat) : Option (Wave × Op) :=
  match x.oldestOp tok with
  | some o => if o.done && !x.pipeHolds o then some ((x.retireOp o).settle, o) else none
  | none => none

/-- `OPERATION_RETIRE` (R28): of the wave of a key, or of the saved wave whose number is w − 2^20, into its save area (R354). -/
def execOperationRetire (w : Nat) (tok : Option (BitVec 4)) (s : State) : Host.Outcome State Fault Refusal :=
  event s (fun s =>
    let k := tok.map (·.toNat)
    if w < 2 ^ 20 then
      let x := s.d.wave w
      if !x.live then none
      else (x.retire k).map (fun r => s.withD fun d =>
        { ((d.setWave w r.1).freeCopy x.uid r.2.id) with mats := d.mats.filter (fun m => !(m.uid == x.uid && m.op == r.2.id && m.ended)) })
    else
      let uid := w - 2 ^ 20
      match s.d.saved.find? (fun v => v.live && v.waves.any (·.uid == uid)) with
      | none => none
      | some v => match (v.waves.find? (·.uid == uid)).bind (fun x => (x.retire k).map (fun r => (x, r))) with
        | none => none
        | some (_, y, o) =>
          let v' := { v with
            waves := v.waves.map (fun x => if x.uid == uid then y else x)
            copies := v.copies.filter (fun c => !(c.uid == uid && c.op == o.id))
            mats := v.mats.filter (fun m => !(m.uid == uid && m.op == o.id && m.ended)) }
          let s := s.withD fun d => { d with saved := d.saved.map (fun u => if u == v then v' else u) }
          some (s.writeSections v'))

/-! ### Scheduling (R341, R386) -/

/-- A waiting block: its effective class, when its wait began, its slot and its demand. -/
structure Waiting where
  cls : Nat
  since : Nat
  slot : Nat
  need : Demand

/-- The demand of a saved block. -/
def Saved.need (v : Saved) : Demand :=
  ⟨v.waves.map (·.widx), (v.block.bq.get 0 0 + v.block.bq.get 0 1 + v.block.bq.get 0 2 + v.block.bq.get 0 3) / max 1 v.block.waves, v.block.accN,
    v.block.tileN, v.block.scrsz, false⟩

/-- The blocks of a launch that no entry has taken, as far as the first `n`. -/
def Launch.untaken (l : Launch) : Nat → List Nat
  | 0 => []
  | n + 1 => match (List.range 4).findSome? (fun die => (l.nextOf die).map (fun b => (die, b))) with
    | some (die, b) => b :: (l.take die b false).untaken n
    | none => []

/-- The undispatched blocks of a launch, of which no more than `n` can find a victim. -/
def Launch.undispatched (l : Launch) (n : Nat) : List Nat := (l.handed.filterMap (·.2) ++ l.untaken n).take n

/-- The waiting blocks (R341): saved ones, and the undispatched ones of a launch that is PERSISTENT or has ended no block within the last period. -/
def Device.waiting (d : Device) : List Waiting :=
  let now := d.clock.toNat
  let bound := (d.blocks.filter (·.2.live)).length
  let cls (p since : Nat) : Nat := if since + 8 * d.period ≤ now then 3 else p
  let sv := (d.saved.filter (·.live)).map (fun v => (⟨cls v.block.prio v.since, v.since, v.block.slot, v.need⟩ : Waiting))
  let la := d.launches.flatMap (fun e =>
    let l := e.2
    -- one of a PERSISTENT launch waits from its admission, another from a period after the last end of a block
    let since := match l.lastEnd with
      | some t => if l.persist then l.adm / 16 else t + d.period
      | none => l.adm / 16
    if l.open && since ≤ now then
      (l.undispatched bound).map (fun b => (⟨cls l.prio since, since, e.1, l.demand b⟩ : Waiting))
    else [])
  (sv ++ la).mergeSort (fun a b => b.cls < a.cls || (a.cls == b.cls && a.since ≤ b.since))

/-- The block to pre-empt for a waiting one (R341): bound for a period, of no higher class, freeing what the waiting block needs; the lowest
class, then the longest bound. -/
def Device.victim (d : Device) (x : Waiting) : Option Nat :=
  let now := d.clock.toNat
  let ok := d.blocks.filter (fun e =>
    let b := e.2
    b.live && !b.preq && b.since + d.period ≤ now && b.prio ≤ x.cls && !(d.wavesOf e.1).isEmpty &&
      ({ d with blocks := d.blocks.del e.1, waves := d.waves.filter (fun w => w.2.blk != e.1) }).fits (e.1 / 64) (d.bind (e.1 / 64) (e.1 % 64))
        (d.launch x.slot) x.need)
  (ok.foldl (fun m e => match m with
    | none => some e
    | some f => if e.2.prio < f.2.prio || (e.2.prio == f.2.prio && e.2.since < f.2.since) then some e else m) none).map (·.1)

/-- Loads a segment whole into the instruction store of a core, all of which it takes (R384). -/
def St.loadSegment (s : St) (core asid e : Nat) : St :=
  let b := field e 0 64 / 192
  let s := s.withD fun d => { d with iblocks := d.iblocks.filter (fun x => !(x.level == 1 && x.unit == core)) }
  (List.range ((field e 0 64 + field e 64 32 - 1) / 192 + 1 - b)).foldl (fun s k =>
    let v := 192 * (b + k)
    (s.fillL2 core asid v).fillL1 core asid v) s

/-- Writes bytes of a launch's map in memory (R383). -/
def St.mapWrite (s : St) (slot o n v : Nat) : St :=
  let l := s.d.launch slot
  match s.ctxPlace l.asid (l.segmap + o) with
  | some p => s.homeWrite p n v
  | none => s

/-- The lowest start of `n` items of a kind (an index into `BindRec.ranges`) among `size` that no entry of a core holds. -/
def Device.freeRange (d : Device) (core kind n size : Nat) : Option Nat :=
  let held := (d.binds.filter (fun e => e.1 / 64 == core && e.2.state != 0)).map (fun e => e.2.ranges.getD kind (0, 0))
  (List.range (size + 1 - n)).find? (fun a => !held.any (rangesMeet (a, n)))

/-- Foxglove's OFFER for a TRAVEL launch on a core that pins a segment of it, with REPEAT = 1 (R385): in the lowest FREE entry, on the lowest resources
that no other entry holds. DESIGN CHOICE (log 65): where there are none, Foxglove writes none. -/
def Device.offerPin (d : Device) (slot core : Nat) : Device :=
  let l := d.launch slot
  let units := (l.scr + 65535) / 65536
  if d.serves core slot then d
  else match (List.range 64).find? (fun e => (d.bind core e).state == 0), d.freeRange core 0 l.accn 8, d.freeRange core 1 l.tte 64,
      d.freeRange core 2 units 11 with
    | some e, some a, some t, some u => d.setBind core e (BitVec.ofNat 128 (2 ^ 126 + 2 ^ 112 * slot + 2 ^ 105 * a + 2 ^ 101 * l.accn + 2 ^ 95 * t +
        2 ^ 88 * l.tte + 2 ^ 84 * u + 2 ^ 80 * units + 2 ^ 63))
    | _, _, _, _ => d

/-- A core that pins no segment of a launch any more keeps no OFFER for it (R385). -/
def Device.dropOffer (d : Device) (slot core : Nat) : Device :=
  if d.pinsFor core slot then d
  else (d.binds.filter (fun e => e.1 / 64 == core && e.2.state == 1 && e.2.slot == slot)).foldl (fun d e =>
    (d.handBack core (e.1 % 64)).setBind core (e.1 % 64) (BindRec.idle e.2)) d

/-- Writes the pins of a segment: PIN and NPIN in the map and in the dies' copies, `sr.segment` of its cores, the segment in their instruction stores,
an OFFER on each (R383 to R385). -/
def St.pinSegment (s : St) (slot seg : Nat) (cores : List Nat) : St :=
  match (s.d.mapEntries slot)[seg]? with
  | none => s
  | some e =>
    let old := segPins e
    let new := cores.filter (fun c => !old.contains c)
    let e' := setField (setField e 180 4 cores.length) 184 72
      (((List.range cores.length).zip cores).foldl (fun n c => n + 2 ^ (9 * c.1) * coreId c.2) 0)
    let s := (s.mapWrite slot (64 + 32 * seg) 32 e').withD fun d =>
      let l := d.launch slot
      let d := d.setLaunch slot { l with map := l.map.map (fun m => (m.1, m.2.set seg e')) }
      let kept := d.segs.filter (fun x => !old.contains x.1)
      let d := { d with segs := cores.foldl (fun t c => t.put c (BitVec.ofNat 32 (2 ^ 31 + seg))) kept }
      new.foldl (fun d c => d.offerPin slot c) (old.foldl (fun d c => d.dropOffer slot c) d)
    new.foldl (fun s c => s.loadSegment c (s.d.launch slot).asid e') s

/-- The cores that pin no segment. -/
def Device.freeCores (d : Device) : List Nat := (List.range Config.cores).filter (fun c => (d.pinnedOn c).isNone)

/-- A replica of the segment whose reported occupancy was at or above AQT through the period (R386). -/
def St.hotPin (s : St) (slot e : Nat) : Option Nat :=
  (segPins e).find? (fun c => s.d.aqt slot ≤ s.d.occOf c slot && !s.d.cool.contains (c, slot))

/-- The free cores that are as near to a core as any (R386, R388). -/
def Device.nearFree (d : Device) (core : Nat) : List Nat :=
  let near := d.freeCores.foldl (fun m c => min m (distance core c)) 4
  d.freeCores.filter (fun c => distance core c == near)

/-- A core takes a segment: no other segment of the launch keeps a pin there (R384). -/
def St.unpin (s : St) (slot core : Nat) : St :=
  let es := s.d.mapEntries slot
  ((List.range es.length).zip es).foldl (fun s p => if (segPins p.2).contains core then s.pinSegment slot p.1 ((segPins p.2).erase core) else s) s

/-- A thread of the launch runs on a core. -/
def Device.runsOn (d : Device) (slot core : Nat) : Bool := d.blocks.any (fun b => b.1 / 64 == core && b.2.live && b.2.slot == slot)

/-- The cores that may take a segment for which the cold ring holds records (R386): free ones, else those of the launch with no resident thread and
no waiting record of it, else those whose blocks of the launch are to be pre-empted. -/
def St.coldCores (s : St) (slot : Nat) : List Nat :=
  let mine := s.d.pinsOf slot
  let quiet := mine.filter (fun c => !s.d.runsOn slot c && s.occupancy c slot == 0)
  if !s.d.freeCores.isEmpty then s.d.freeCores else if !quiet.isEmpty then quiet else mine

/-- The cold ring holds a record for a segment. -/
def St.coldFor (s : St) (slot seg : Nat) : Bool :=
  (s.ringAll slot coldRing (s.ringOcc slot coldRing)).any (fun r => ((s.d.segOf slot (recAddr r)).map (·.1)) == some seg)

/-- Foxglove's choice among the cores that R386 allows: the one it names where that is allowed, else the first (log 59). -/
def pickCore (want : List Nat) (cs : List Nat) : Option Nat := (cs.find? want.contains).or cs.head?

/-- A replica that was added for occupancy and took no hop record in the period is removed, unless it is the last one, or a thread runs there
(R386). -/
def St.dropIdle (s : St) (slot seg : Nat) (cores : List Nat) : St :=
  cores.foldl (fun s c => match (s.d.mapEntries slot)[seg]? with
    | some e =>
      if (segPins e).length ≤ 1 || !(segPins e).contains c || s.d.hopsIn.contains (slot, c) || s.d.runsOn slot c then s
      else (s.pinSegment slot seg ((segPins e).erase c)).withD fun d => { d with extra := d.extra.erase (slot, seg, c) }
    | none => s) s

/-- A cold segment takes a core, or the blocks of the launch on one are pre-empted for it (R386). -/
def St.warm (s : St) (deadline : W64) (want : List Nat) (slot seg : Nat) : St :=
  match pickCore want (s.coldCores slot) with
  | none => s
  | some c =>
    if s.d.runsOn slot c then
      s.withD fun d => { d with blocks := d.blocks.map (fun b =>
        if b.1 / 64 == c && b.2.live && b.2.slot == slot && !b.2.preq then (b.1, { b.2 with preq := true, deadline := deadline }) else b) }
    else (s.unpin slot c).pinSegment slot seg [c]

/-- THE PINS OF ONE SEGMENT AT THE END OF A PERIOD (R386): a cold segment that records wait for is pinned; a replica is added beside one that was
full through the period, and those that were not needed go. `want` holds the cores that Foxglove names. -/
def St.adjustPins (s : St) (deadline : W64) (want : List Nat) (slot seg : Nat) : St :=
  match (s.d.mapEntries slot)[seg]? with
  | none => s
  | some e =>
    if (segPins e).isEmpty then (if s.coldFor slot seg then s.warm deadline want slot seg else s)
    else
      let old := (s.d.extra.filter (fun x => x.1 == slot && x.2.1 == seg)).map (·.2.2)
      let s := match (if (segPins e).length < 8 then s.hotPin slot e else none).bind (fun p => pickCore want (s.d.nearFree p)) with
        | some c => (s.pinSegment slot seg (segPins e ++ [c])).withD fun d => { d with extra := d.extra ++ [(slot, seg, c)] }
        | none => s
      s.dropIdle slot seg old

/-- The pins of a launch at the end of a period, then the records of the cold ring whose segments are pinned; a new period begins (R386, R392). -/
def St.adjustLaunch (s : St) (deadline : W64) (pins : List (Nat × Nat × List Nat)) (slot : Nat) : St :=
  let want (seg : Nat) : List Nat := (pins.filter (fun p => p.1 == slot && p.2.1 == seg)).flatMap (·.2.2)
  let s := (List.range (s.d.mapEntries slot).length).foldl (fun s seg => s.adjustPins deadline (want seg) slot seg) s
  let s := s.thaw slot (s.ringOcc slot coldRing)
  let cold := (s.d.pinsOf slot).filter (fun c => s.d.occOf c slot < s.d.aqt slot)
  s.withD fun d => { d with
    cool := d.cool.filter (·.2 != slot) ++ cold.map (fun c => (c, slot)), hopsIn := d.hopsIn.filter (·.1 != slot) }

/-- `SCHEDULING_PERIOD` (R341, R386): a victim for each waiting block gets REQ and the deadline, then the pins of the TRAVEL launches change. -/
def execSchedulingPeriod (deadline : W64) (pins : List (Nat × Nat × List Nat)) (s : State) : Host.Outcome State Fault Refusal :=
  event s (fun s =>
    let s := s.d.waiting.foldl (fun s x => match s.d.victim x with
      | some k => s.withD fun d => d.setBlock k { d.block k with preq := true, deadline := deadline }
      | none => s) s
    some ((s.d.launches.filter (fun e => e.2.used && e.2.admitted && e.2.travel)).foldl (fun s e => s.adjustLaunch deadline pins e.1) s))

/-- `LAUNCH_SUSPEND` (R391): every block of the launch is saved, at once or, where something still holds it, as soon as it may leave; none is offered
until the launch's spilled records have been drained. -/
def execLaunchSuspend (slot area : Nat) (s : State) : Host.Outcome State Fault Refusal :=
  event s (fun s =>
    let l := s.d.launch slot
    let due := s.d.overflowDue.any (·.1 == slot) || s.d.spill.any (fun e => recSlot e.2.2 == slot)
    if !l.used || !l.admitted || !due then none
    else
      let ks := (s.d.blocks.filter (fun e => e.2.slot == slot && s.d.savable e.1)).map (·.1)
      let s := ks.foldl St.comeOff (s.withD (·.setLaunch slot { l with suspended := true }))
      let (now, wait) := ks.partition (fun k => s.d.offReady k false)
      match s.d.planAreas 2 area now with
      | none => none
      | some plan =>
        let s := s.withD fun d => wait.foldl (fun d k => d.setBlock k { d.block k with preq := true, deadline := d.clock }) d
        some (s.saveAll 2 [] plan))

end Sys2Proof.Machine
end

