-- ==== Sys2Proof/Machine/Admit.lean ====
section
/-! DEFINITION. The admission of a launch (R327, R335, R337, R384, R402, R404). -/

namespace Sys2Proof.Machine

/-! ### Overflow headers and rings (R337) -/

/-- A ring of 256 slots at the top of a core's own channel, one place for each launch slot; the cold ring stands below channel 0's.
DESIGN CHOICE (log 10): Foxglove's places are its own. -/
def ringPlace (slot c : Nat) : Nat :=
  if c = coldRing then 0x0080_0000_0000 + 2 ^ 30 - 4096 * 2 ^ 14 - (slot + 1) * 2 ^ 14
  else 0x0080_0000_0000 + c * 2 ^ 30 + 2 ^ 30 - (slot + 1) * 2 ^ 14

/-- Writes the 289 headers: SZ 3, EDGE 0, with a ring of 256 slots each in a TRAVEL launch. -/
def St.writeHeaders (s : St) (slot : Nat) (rings : Bool) : St :=
  (List.range 289).foldl (fun s c =>
    s.homeWrite (s.ringHead slot c) 64 (3 * 2 ^ 192 + if rings then 8 * 2 ^ 128 + 2 ^ 134 * (ringPlace slot c / 64) else 0)) s

/-- The dies take a copy of the launch's map, in which nothing is pinned yet; header and entries stand in memory as Foxglove writes them, the header
with OVB (R382 to R384). -/
def St.takeMap (s : St) (slot : Nat) (ovb : W64) : St :=
  let l := s.d.launch slot
  match s.readMap l.asid slot with
  | none => s
  | some (h, es) =>
    let h := h + 2 ^ 64 * ovb.toNat
    let s := s.mapWrite slot 0 64 h
    let s := ((List.range es.length).zip es).foldl (fun s p => s.mapWrite slot (64 + 32 * p.1) 32 p.2) s
    s.withD fun d => d.setLaunch slot { d.launch slot with map := some (h, es) }

/-- Foxglove's choice of cores for the segments of a map is one that R384 allows: REPL + 1 cores for each segment as far as free cores allow, at least
one for the segment of ENTRY, and no core twice. -/
def pinsOk (free : List Nat) (entry : Nat) (es : List Nat) (pins : List (Nat × List Nat)) : Bool :=
  let all := pins.flatMap (·.2)
  let segs := (List.range es.length).zip es
  all.eraseDups.length == all.length && all.all free.contains && (pins.map (·.1)).eraseDups.length == pins.length &&
    (all.length == free.length || segs.all (fun e => field e.2 64 32 == 0 || (pins.filter (·.1 == e.1)).any (fun p => p.2.length == field e.2 177 3 + 1))) &&
    pins.all (fun p => segs.any (fun e => e.1 == p.1 && p.2.length ≤ field e.2 177 3 + 1)) &&
    segs.any (fun e => field e.2 0 64 ≤ entry && entry < field e.2 0 64 + field e.2 64 32 && pins.any (fun p => p.1 == e.1 && !p.2.isEmpty))

/-- Foxglove's choice for a launch (R384): none for one that does not travel. -/
def St.pinsOk (s : St) (slot : Nat) (pins : List (Nat × List Nat)) : Bool :=
  let l := s.d.launch slot
  if !l.travel then pins.isEmpty
  else match s.readMap l.asid slot with
    | some (_, es) => Machine.pinsOk s.d.freeCores l.entry es pins
    | none => false

/-! ### Standing grants (R335) -/

/-- Some block of the launch that an entry fits. -/
def Device.fitsSome (d : Device) (core : Nat) (r : BindRec) (l : Launch) : Bool :=
  (List.range 4).any (fun die => ([l.nextOf die, l.lastOf die].filterMap id).any (fun b => d.fits core r l (l.demand b)))

/-- Every GRANT entry of the launch's class that fits a block of it becomes an OFFER for it; for a TRAVEL launch only on cores that pin the
segment of ENTRY, with REPEAT = 1 (R385). -/
def St.takeGrants (s : St) (slot : Nat) : St :=
  let l := s.d.launch slot
  if l.gclass = 0 then s
  else s.withD fun d => { d with binds := d.binds.map (fun e =>
    let r := e.2
    if r.state == 2 && r.cls == l.gclass && s.d.mayServe (e.1 / 64) slot && d.fitsSome (e.1 / 64) r l then
      (e.1, BitVec.ofNat 128 (setField (r.tgt 1 slot).toNat 62 2 (if l.travel then 3 else 1 + 2 * r.f 63 1)))
    else e) }

/-- The launches admitted in a cycle take the standing grants at its end, the lower-numbered queue first (R335). -/
def St.allGrants (s : St) : St :=
  (List.range 16).foldl (fun s q =>
    (s.d.launches.filter (fun e => e.2.used && e.2.admitted && e.2.adm == 16 * s.d.clock.toNat + q)).foldl (fun s e => s.takeGrants e.1) s) s

/-! ### The collective binding (R402, R404, R408) -/

/-- The binding of an admitted launch starts in the view of every member, or, where the device was ISOLATED in it, as a candidate that sends
JOIN to the lowest entry of the member list that it can reach (R408). -/
def St.startBinding (s : St) (slot : Nat) : St :=
  let l := s.d.launch slot
  match (if l.collA = 0 then none else s.d.partOf l.asid), s.ctxRead l.asid l.collA 128 with
  | some p, some n =>
    let r := BitVec.ofNat 1024 n
    let key := 65536 * p + field n 416 16
    match s.memberList l.asid r with
    | none => s
    | some ms =>
      let rank := (ms.findIdx (· == s.d.rank))
      let tag := BitVec.ofNat 32 (field n 384 32)
      let now := s.d.clock.toNat
      let fresh : Binding := {
        live := true, rcd := r, slot := slot, asid := l.asid, part := p, rank := rank, members := ms, tag := tag, view := List.range ms.length
        st := .normal, seen := tag, acked := tag, suspects := [], cands := [], gather := false, gatherAt := 0, agreeAt := 0, began := now, prop := none, acks := [], opseq := 0
        restarts := 0, chunks := [], colls := [], queue := [], ovf := false, arrq := [], held := [], sent := [], discards := 0
        beats := (List.range ms.length).map (fun k => (k, now)), beat := none }
      s.withD fun d =>
        let first := (List.range ms.length).find? (fun r => r != rank && d.reaches (ms.getD r 0))
        let x := match d.binding key with
          | some old =>
            if old.st == .isolated then ({ fresh with st := CState.candidate, acked := old.acked, seen := later old.seen tag }).send 9 (first.getD (if rank = 0 then 1 else 0)) 0 [rank] []
            else old
          | none => fresh
        (d.setBinding key x).setLaunch slot { d.launch slot with bid := some key }
  | _, _ => s

/-! ### Admission -/

/-- The launch before it on its queue has ended (R327). -/
def Device.afterOk (d : Device) (l : Launch) : Bool :=
  !l.after || (match l.prev with
    | none => true
    | some n => !d.launches.any (fun e => e.2.used && e.2.seq == n))

/-- `LAUNCH_ADMIT` (R327, R384): the head of a queue is announced to the four distributors. -/
def execLaunchAdmit (q : Nat) (ovb : W64) (pins : List (Nat × List Nat)) (s : State) : Host.Outcome State Fault Refusal :=
  event s (fun s => match s.d.lqs.get [] q with
    | [] => none
    | e :: rest =>
      let k := e.slot
      let l := s.d.launch k
      if !s.d.afterOk l || ovb = 0 || ovb.toNat % 64 ≠ 0 || !s.pinsOk k pins || s.d.power ≠ 0 || s.d.stopped then none
      else
        let s := s.withD fun d => ({ d with lqs := d.lqs.put q rest }).setLaunch k { l with
          admitted := true, ovb := ovb, adm := 16 * d.clock.toNat + q, lastEnd := none
          lo := (List.range 4).map (fun die => (die, die)), hi := (List.range 4).map (fun die => (die, l.noBlock)) }
        let s := s.writeHeaders k l.travel
        let s := if l.travel then pins.foldl (fun s p => s.pinSegment k p.1 p.2) (s.takeMap k ovb) else s
        some (s.startBinding k))

end Sys2Proof.Machine
end

