-- ==== Sys2Proof/Machine/Debug.lean ====
section
/-! DEFINITION. The debugger (R362): the items of R355 as it reads and writes them in a parked wave, its steps, resumptions and kills. -/

namespace Sys2Proof.Machine

/-! ### The items (R355) -/

/-- The word of a detail: 0 ERRKIND, OP and valid, 1 V2, 2 V3. -/
def detailWord (d : Option Detail) (k : Nat) : Nat :=
  match d with
  | none => 0
  | some d => if k = 0 then d.kind.toNat + 2 ^ 8 * d.op.toNat + 2 ^ 24 else if k = 1 then d.v2.toNat else d.v3.toNat

/-- Sets it. -/
def setDetail (d : Option Detail) (k : Nat) (v : W64) : Option Detail :=
  let d0 := d.getD ⟨0, 0, 0, 0⟩
  match k with
  | 0 => if v.getLsbD 24 then some { d0 with kind := v.setWidth 8, op := BitVec.ofNat 12 (v.toNat / 256) } else none
  | 1 => some { d0 with v2 := v }
  | _ => some { d0 with v3 := v }

/-- A tile-table entry from its 64-bit value (R224). -/
def Tile.ofWord (v : Nat) : Tile := ⟨field v 62 2, field v 48 8, field v 40 8, field v 20 20, field v 0 20⟩

/-- The 64-bit word k of what some fields write from offset 0. -/
def wordOf (fs : List SaveField) (k : Nat) : Nat :=
  field (fs.foldl (fun n f => n + f.2.2 % 2 ^ (8 * f.2.1) * 2 ^ (8 * f.1)) 0) (64 * k) 64

/-- The copies of a block. -/
def Device.copiesOf (d : Device) (blk : Nat) : List Copy := d.copies.filter (·.blk == blk)
/-- The queue of a tile of a block (R230). -/
def Device.queueOf (d : Device) (blk t : Nat) : List MatOp :=
  d.mats.filter (fun m => m.core == blk / 64 && m.on ((d.block blk).accB + t) && !m.ended)
/-- The token of an operation. -/
def Device.tokenOf (d : Device) (uid op : Nat) : Option Nat := (d.waveOf uid).bind (fun x => (x.ops.find? (·.id == op)).bind (·.tok))
/-- The index of a wave in its block. -/
def Device.widxOf (d : Device) (uid : Nat) : Nat := ((d.waveOf uid).map (·.widx)).getD 0

/-- Word k of a block header is set: the block's own fields of it. -/
def Block.setHeader (b : Block) (h k : Nat) (v : W64) : Block :=
  let n := setField h (64 * k) 64 v.toNat
  { b with
    index := field n 448 64, frame := b.frame.map (fun _ => field n 432 16), slot := field n 420 12
    bq := (List.range 4).map (fun j => (j, field n (370 + 11 * j) 11)), scrsz := field n 350 20, accN := field n 346 4, tileN := field n 339 7
    idem := field n 330 1 = 1, member := field n 329 1 = 1, gen := BitVec.ofNat 16 (field n 311 16) }

/-- Word k of a copy state is set. PK and PE name the operation's token and stand with it. -/
def Copy.setState (c : Copy) (k : Nat) (v : W64) : Copy :=
  let n := v.toNat
  match k with
  | 8 => { c with ofs := n % 2 ^ 32, row := n / 2 ^ 32 }
  | 9 => { c with chained := v.getLsbD 5 }
  | 10 => { c with bytes := n }
  | 11 => { c with deliveries := (List.range 64).foldl (fun t i =>
      if v.getLsbD i then t.put i .missed else if t.lookup i = some .missed then t.del i else t) c.deliveries }
  | k => if k < 8 then { c with rcd := BitVec.ofNat 512 (setField c.rcd.toNat (64 * k) 64 n) } else c

/-- The operation as an instruction word gives it, with its operand values as they are. -/
def MatOp.reword (m : MatOp) (accB : Nat) (w : BitVec 96) : MatOp :=
  let m := { m with word := w }
  let mma (kind : Nat) (d : Opnd) (ty : BitVec 3) (be5 : Bool) (kq : BitVec 10) (za : Bool) : MatOp := { m with
    kind := kind, tile := accB + d.idx, tile2 := if ty.toNat = 5 then some (accB + d.idx + 1) else none, ty := ty.toNat, be5 := be5
    kq := kq.toNat, za := za }
  let one (kind : Nat) (t : Opnd) : MatOp := { m with kind := kind, tile := accB + t.idx, tile2 := none }
  match decode w with
  | .ok (.mma _ d _ _ _ ty be5 kq za) => mma 0 d ty be5 kq za
  | .ok (.mmap _ d _ _ _ ty be5 kq za) => mma 1 d ty be5 kq za
  | .ok (.accsc _ d a _ _) => { one 2 d with tile2 := if a.o.idx = d.idx then none else some (accB + a.o.idx) }
  | .ok (.accz _ d) => one 3 d
  | .ok (.accrd _ _ a _) => one 4 a.o
  | .ok (.accwr _ d _ _) => one 5 d
  | .ok (.accld _ d _ _) => one 6 d
  | .ok (.accst _ a _ _) => one 7 a.o
  | _ => m

/-- Word k of a queue entry is set; `uids` gives the wave of an index. -/
def MatOp.setEntry (m : MatOp) (accB : Nat) (uids : Nat → Option Nat) (k : Nat) (v : W64) : MatOp :=
  let n := v.toNat
  match k with
  | 0 => m.reword accB (BitVec.ofNat 96 (setField m.word.toNat 0 64 n))
  | 1 => m.reword accB (BitVec.ofNat 96 (setField m.word.toNat 64 32 n))
  | 2 => { m with xa := v }
  | 3 => { m with xb := v }
  | 4 => { m with c := BitVec.ofNat 32 n, uid := (uids (field n 32 8)).getD m.uid, tok := field n 40 8 }
  | k => if 8 ≤ k then { m with data := (m.data.put (2 * (k - 8)) (BitVec.ofNat 32 n)).put (2 * (k - 8) + 1) (BitVec.ofNat 32 (n / 2 ^ 32)) } else m

/-- The item lies in the wave's allocation or its block's grants (R362). Every entry of the two stacks, of the pipes and of a trap frame is an
item, whether it holds anything or not. -/
def St.itemOk (s : St) (w : Nat) (i : Item) : Bool :=
  let x := s.d.wave w
  let b := s.d.block x.blk
  match i with
  | .reg l r => l < 32 && r < x.alloc
  | .pred l i => l < 32 && i < 7
  | .pc l | .stkptr l | .rsd l | .rsn l | .ld l | .age l | .state l | .syncLanes l | .frameAge l => decide (l < 32)
  | .ret l i | .loopStart l i | .loopEnd l i | .loopCount l i => l < 32 && i < 4
  | .maskLanes i | .maskMeet i => decide (i < 12)
  | .token i | .nreg i => decide (i < 16)
  | .pending i => decide (i < 4)
  | .counter | .rc | .fav | .alloc | .role | .unacked | .handler | .fault | .cause | .mode
  | .frameCounter | .frameRc | .frameFav | .handlerLanes => true
  | .tile t => decide (t < b.tileN)
  | .prog t | .queued t => decide (t < b.accN)
  | .acc t r c => t < b.accN && r < 128 && c < 128
  | .scratch o => decide (o + 8 ≤ b.scrsz)
  | .detail i k => i < 17 && k < 3
  | .pipe _ i | .pipePost _ i => decide (i < 8)
  | .pipeVal _ i l => i < 8 && l < 32
  | .header k => decide (k < 8)
  | .copyState i k => i < (s.d.copiesOf x.blk).length && k < 12
  | .queueEntry t i k => t < b.accN && i < (s.d.queueOf x.blk t).length && k < 72

/-- The value of an item (R355). An entry, a level or a frame that holds nothing reads as 0 (DESIGN CHOICE, log 67). -/
def St.itemGet (s : St) (w : Nat) (i : Item) : Nat :=
  let x := s.d.wave w
  let b := s.d.block x.blk
  let lv (l k : Nat) : Loop := (x.thread l).ls.getD k ⟨0, 0, 0⟩
  let fr (f : Frame → Nat) : Nat := (x.frame.map f).getD 0
  match i with
  | .reg l r => (x.reg l r).toNat
  | .pred l i => if x.pred l i then 1 else 0
  | .pc l => (x.thread l).pc.toNat
  | .stkptr l => (x.thread l).stkptr.toNat
  | .ret l i => ((x.thread l).rs.getD i 0).toNat
  | .rsd l => (x.thread l).rsd.toNat
  | .rsn l => (x.thread l).rs.length
  | .ld l => (x.thread l).ls.length
  | .loopStart l k => (lv l k).start.toNat
  | .loopEnd l k => (lv l k).stop.toNat
  | .loopCount l k => (lv l k).count.toNat
  | .maskLanes i => (x.mask i).lanes.toNat
  | .maskMeet i => (x.mask i).meet.toNat
  | .token i => (x.tok i).word.toNat
  | .nreg i => (x.nreg i).toNat
  | .pending i => x.pend.toNat / 2 ^ (64 * i) % 2 ^ 64
  | .counter => x.pos.toNat
  | .rc => x.rc
  | .fav => x.fav.toNat
  | .age l => (x.thread l).age
  | .alloc => x.alloc
  | .role => x.role.toNat
  | .unacked => x.unack
  | .handler => x.handler.toNat
  | .fault => x.fault.toNat
  | .cause => match x.latch with
    | some r => r.cause.toNat + if r.failed then 64 else 0
    | none => 0
  | .mode => (if x.frame.isSome then 1 else 0) + if x.parked then 2 else 0
  | .tile t => (b.tile t).word
  | .prog t => (s.d.prog (w / 64) (b.accB + t)).toNat
  | .acc t r c => s.elem (w / 64) (b.accB + t) r c
  | .queued t => (s.d.queueOf x.blk t).length
  | .scratch o => s.rdN (scratchBase (w / 64) + b.scrb + o) 8
  | .state l => (x.thread l).stBits
  | .syncLanes l => (x.thread l).lm.toNat
  | .frameCounter => fr (fun f => f.pos.toNat)
  | .frameRc => fr (·.rc)
  | .frameFav => fr (fun f => f.fav.toNat)
  | .frameAge l => fr (fun f => f.ages.get 0 l)
  | .handlerLanes => fr (fun f => f.lanes.toNat)
  | .detail i k => detailWord (if i = 16 then x.untracked else (x.tok i).det) k
  | .pipe f i => match (x.pipeOf f)[i]? with
    | some e => e.head
    | none => 0
  | .pipePost f i => match (x.pipeOf f)[i]? with
    | some e => e.postByte x
    | none => 0
  | .pipeVal f i l => match (x.pipeOf f)[i]? with
    | some e => e.valAt l
    | none => 0
  | .header k => field ((s.d.savedOf x.blk 0 0).header s.d) (64 * k) 64
  | .copyState i k => match (s.d.copiesOf x.blk)[i]? with
    | some c => wordOf (c.fields (s.d.tokenOf c.uid c.op) 0) k
    | none => 0
  | .queueEntry t i k => match (s.d.queueOf x.blk t)[i]? with
    | some m => wordOf (m.fields (s.d.widxOf m.uid) 0) k
    | none => 0

/-- Sets the operation that a pipe entry completes. -/
def Wave.setPost (x : Wave) (f : Bool) (i : Nat) (v : Nat) : Wave :=
  match (x.pipeOf f)[i]? with
  | none => x
  | some e =>
    let x := match e.post with
      | some n => { x with ops := x.ops.filter (·.id != n) }
      | none => x
    if field v 4 1 = 0 then x.setPipeOf f ((x.pipeOf f).set i { e with post := none })
    else
      let o : Op := ⟨x.opn, some (v % 16), .none, e.lanes, [], false, none, 0, false, []⟩
      { (x.setPipeOf f ((x.pipeOf f).set i { e with post := some x.opn })) with ops := x.ops ++ [o], opn := x.opn + 1 }

/-- The count of unacknowledged writes is set: the oldest stay, more plain ones join them. -/
def Wave.setUnack (x : Wave) (n : Nat) : Wave :=
  ({ x with outw := x.outw.take n }).addWrites none false (List.replicate (n - x.outw.length) (0, .dev 0 0))

/-- The occupied entries of a stack after its depth is set to n: new ones hold `a`; a depth above 4 does not exist. -/
def redepth {α : Type} (a : α) (l : List α) (n : Nat) : List α := if n ≤ 4 then l.take n ++ List.replicate (n - l.length) a else l

/-- Sets an item of the wave itself. An entry, a level or a frame that holds nothing keeps holding nothing, but for a pipe entry written VALID
(DESIGN CHOICE, log 67). -/
def Wave.itemSet (x : Wave) (i : Item) (v : W64) : Wave :=
  let n := v.toNat
  let lv (l k : Nat) (f : Loop → Loop) : Wave := x.updThread l (fun t => { t with ls := t.ls.modify k f })
  let fr (f : Frame → Frame) : Wave := { x with frame := x.frame.map f }
  match i with
  | .reg l r => x.setReg l r (v.setWidth 32)
  | .pred l i => x.setPred l i (n % 2 == 1)
  | .pc l => x.updThread l (fun t => { t with pc := addrOf v, seq := false })
  | .stkptr l => x.updThread l (fun t => { t with stkptr := v })
  | .ret l i => x.updThread l (fun t => { t with rs := t.rs.set i (Addr.w64 (v.setWidth 57)) })
  | .rsd l => x.updThread l (fun t => { t with rsd := v.setWidth 16 })
  | .rsn l => x.updThread l (fun t => { t with rs := redepth 0 t.rs (n % 8) })
  | .ld l => x.updThread l (fun t => { t with ls := redepth ⟨0, 0, 0⟩ t.ls (n % 8) })
  | .loopStart l k => lv l k (fun c => { c with start := addrOf v })
  | .loopEnd l k => lv l k (fun c => { c with stop := addrOf v })
  | .loopCount l k => lv l k (fun c => { c with count := v.setWidth 32 })
  | .maskLanes i => x.setMask i { x.mask i with lanes := v.setWidth 32 }
  | .maskMeet i => x.setMask i { x.mask i with meet := v }
  | .token i => x.setTok i { x.tok i with count := n % 64, err := n / 64 % 2 == 1 }
  | .nreg i => { x with ns := x.ns.put i v }
  | .pending i => { x with pend := BitVec.ofNat 256 (setField x.pend.toNat (64 * i) 64 n) }
  | .counter => { x with pos := v.setWidth 16 }
  | .rc => { x with rc := n % 256 }
  | .fav => { x with fav := v.setWidth 32 }
  | .age l => x.updThread l (fun t => { t with age := n % 256 })
  | .alloc => if 8 ≤ n && n ≤ 256 && n % 8 = 0 then { x with alloc := n } else x
  | .role => { x with role := BitVec.ofNat 32 (n % 4) }
  | .unacked => x.setUnack (n % 65536)
  | .handler => { x with handler := v &&& ~~~3#64 }
  | .fault => { x with fault := v &&& ~~~63#64 }
  | .cause => { x with latch := x.latch.map (fun r => { r with cause := BitVec.ofNat 7 (n % 64), failed := n / 64 % 2 == 1 }) }
  | .mode =>
    let x := { x with parked := n / 2 % 2 == 1 }
    if n % 2 = 0 then { x with frame := none } else { x with frame := x.frame.or (some ⟨x.pos, x.rc, x.fav, [], [], x.alive⟩) }
  | .state l => x.updThread l (fun t => t.setStBits n)
  | .syncLanes l => x.updThread l (fun t => match t.hold with
    | .msync _ => { t with hold := .msync (v.setWidth 32) }
    | _ => t)
  | .frameCounter => fr (fun f => { f with pos := v.setWidth 16 })
  | .frameRc => fr (fun f => { f with rc := n % 256 })
  | .frameFav => fr (fun f => { f with fav := v.setWidth 32 })
  | .frameAge l => fr (fun f => { f with ages := f.ages.put l (n % 256) })
  | .handlerLanes => fr (fun f => { f with lanes := v.setWidth 32 })
  | .detail i k =>
    if i = 16 then { x with untracked := setDetail x.untracked k v } else x.setTok i { x.tok i with det := setDetail (x.tok i).det k v }
  | .pipe f i =>
    let e : PipeEnt := ((x.pipeOf f)[i]?).getD ⟨0, .none, 0, [], none⟩
    let e := { e with
      due := v.setWidth 16, dst := Dest.ofSpec (field n 16 9) (field n 31 1 = 1), lanes := BitVec.ofNat 32 (n / 2 ^ 32) }
    if field n 30 1 = 0 then x.setPipeOf f ((x.pipeOf f).eraseIdx i)
    else x.setPipeOf f (if i < (x.pipeOf f).length then (x.pipeOf f).set i e else x.pipeOf f ++ [e])
  | .pipePost f i => x.setPost f i n
  | .pipeVal f i l => match (x.pipeOf f)[i]? with
    | none => x
    | some e => match e.dst with
      | .m _ => x.setPipeOf f ((x.pipeOf f).set i { e with vals := e.vals.upd 0 (lowest e.lanes) (fun o => setField o (64 * l) 64 n) })
      | _ => x.setPipeOf f ((x.pipeOf f).set i { e with vals := e.vals.put l n })
  | .tile _ | .prog _ | .queued _ | .acc _ _ _ | .scratch _ | .header _ | .copyState _ _ | .queueEntry _ _ _ => x

/-- The queue of a tile keeps its first n operations: the others leave it undone. -/
def Device.setQueued (d : Device) (blk t n : Nat) : Device :=
  ((d.queueOf blk t).drop n).foldl (fun d m =>
    { (d.updWave m.uid (fun x => { x with ops := x.ops.filter (·.id != m.op) })) with mats := d.mats.filter (·.id != m.id) }) d

/-- Sets an item of a wave or its block. -/
def St.itemPut (s : St) (w : Nat) (i : Item) (v : W64) : St :=
  let x := s.d.wave w
  let b := s.d.block x.blk
  match i with
  | .tile t => s.withD (·.updTile x.blk t (fun _ => Tile.ofWord v.toNat))
  | .prog t => match s.d.mats.find? (fun m => m.core == w / 64 && m.on (b.accB + t)) with
    | some m => s.withD (·.setMat { m with row := v.toNat % 256 })
    | none => s
  | .acc t r c =>
    let a := tileBase (w / 64) (b.accB + t) + 512 * r + 4 * c
    (s.wrN a 4 v.toNat).withD fun d => { d with badAcc := d.badAcc.filter (· != a) }
  | .queued t => s.withD (·.setQueued x.blk t v.toNat)
  | .scratch o => s.wrN (scratchBase (w / 64) + b.scrb + o) 8 v.toNat
  | .header k => s.withD (·.setBlock x.blk (b.setHeader ((s.d.savedOf x.blk 0 0).header s.d) k v))
  | .copyState i k => match (s.d.copiesOf x.blk)[i]? with
    | some c => s.withD fun d =>
      let d := d.setCopy (c.setState k v)
      if k = 9 then d.updOp c.uid c.op (fun o => { o with tok := if v.getLsbD 4 then some (field v.toNat 0 4) else none }) else d
    | none => s
  | .queueEntry t i k => match (s.d.queueOf x.blk t)[i]? with
    | some m => s.withD (·.setMat (m.setEntry b.accB (fun n => ((s.d.wavesOf x.blk).find? (·.2.widx == n)).map (·.2.uid)) k v))
    | none => s
  | i => s.withD (·.setWave w (x.itemSet i v))

/-- What the debugger finds: the answer and the status, 0 OK, 1 BUSY, 2 NOTSTOPPED, 3 RANGE. A debugger has been at work since the last reset
(R434). -/
def Device.dbgSay (d : Device) (v : W64) (status : Nat) : Device := { d with dbg := v, dbgStatus := status, debugOn := true }

/-- A debugger operation on a wave: NOTSTOPPED when it is not parked (R362). -/
def debugOp (w : Nat) (f : St → St) (s : State) : Host.Outcome State Fault Refusal :=
  event s (fun s =>
    let x := s.d.wave w
    if x.live && x.parked then some (f s) else some (s.withD (·.dbgSay 0 2)))

/-- `DEBUG_READ` (R362). -/
def execDebugRead (w : Nat) (item : Item) (s : State) : Host.Outcome State Fault Refusal :=
  debugOp w (fun s => if s.itemOk w item then s.withD (·.dbgSay (BitVec.ofNat 64 (s.itemGet w item)) 0) else s.withD (·.dbgSay 0 3)) s

/-- The item is a register whose result is pending. -/
def Wave.itemBusy (x : Wave) (i : Item) : Bool :=
  match i with
  | .reg _ r => x.pend.getLsbD r
  | _ => false

/-- `DEBUG_WRITE` (R362). -/
def execDebugWrite (w : Nat) (item : Item) (v : W64) (s : State) : Host.Outcome State Fault Refusal :=
  debugOp w (fun s =>
    if !s.itemOk w item then s.withD (·.dbgSay 0 3)
    else if (s.d.wave w).itemBusy item then s.withD (·.dbgSay 0 1)
    else (s.itemPut w item v).withD (·.dbgSay 0 0)) s

/-- The pending bit of a register clears and its operation's result is discarded on arrival (R362). -/
def Wave.dropPending (x : Wave) (i : Item) : Wave :=
  match i with
  | .reg _ r =>
    if x.pend.getLsbD r then
      { x with
        pend := x.pend &&& ~~~(1#256 <<< r)
        ops := x.ops.map (fun o => if o.dst.regs.contains r then { o with dropped := r :: o.dropped } else o) }
    else x
  | _ => x

/-- `DEBUG_WRITE_FORCE` (R362). -/
def execDebugWriteForce (w : Nat) (item : Item) (v : W64) (s : State) : Host.Outcome State Fault Refusal :=
  debugOp w (fun s =>
    if !s.itemOk w item then s.withD (·.dbgSay 0 3)
    else ((s.withD (fun d => d.setWave w ((d.wave w).dropPending item))).itemPut w item v).withD (·.dbgSay 0 0)) s

/-- `DEBUG_STEP` (R362): the wave resumes for one issue, then parks. -/
def execDebugStep (w : Nat) (s : State) : Host.Outcome State Fault Refusal :=
  debugOp w (fun s => s.withD (fun d => (d.setWave w { (d.wave w).resume with stepping := true }).dbgSay 0 0)) s

/-- `DEBUG_RESUME` (R362): at the stop instruction, or at RESUME after `BKPT` and `SYSC`, where the lanes stand (R105). -/
def execDebugResume (w : Nat) (s : State) : Host.Outcome State Fault Refusal :=
  debugOp w (fun s => s.withD (fun d => (d.setWave w (d.wave w).resume).dbgSay 0 0)) s

/-- `DEBUG_KILL` (R362). -/
def execDebugKill (w : Nat) (s : State) : Host.Outcome State Fault Refusal :=
  debugOp w (fun s => s.withD (fun d => (d.killWave w).dbgSay 0 0)) s

end Sys2Proof.Machine
end

