-- ==== Sys2Proof/Machine/Floating.lean ====
section
/-! DEFINITION. Scalar floating point, its literal forms and the special functions (R121 to R133). -/

namespace Sys2Proof.Machine

/-- A float source after its modifiers (R122, R123). -/
def fa (f : FMod) (a : Src) (ty : BitVec 3) (x : Wave) (l : Nat) : Nat := (fmtOf ty.toNat).modify f.absa f.nega (a.flt x l ty)
/-- The second source after its modifiers. -/
def fb (f : FMod) (b : Src) (ty : BitVec 3) (x : Wave) (l : Nat) : Nat := (fmtOf ty.toNat).modify f.absb f.negb (b.flt x l ty)
/-- The third source after its modifier. -/
def fc (f : FMod) (c : Src) (ty : BitVec 3) (x : Wave) (l : Nat) : Nat := (fmtOf ty.toNat).modify false f.negc (c.flt x l ty)

/-- A float instruction of two sources (R125, R126). -/
def fltBin (opc : BitVec 12) (lat : Nat) (h : Ctl) (d : Opnd) (a b : Src) (ty : BitVec 3) (f : FMod)
    (g : Fmt → Nat → Nat → Nat) (s : State) : Host.Outcome State Fault Refusal :=
  alu opc lat h d (fltN ty) [a.rng (fltN ty), b.rng (fltN ty)]
    (fun x l => g (fmtOf ty.toNat) (fa f a ty x l) (fb f b ty x l)) s

/-- A float instruction of one source. -/
def fltUn (opc : BitVec 12) (lat : Nat) (h : Ctl) (d : Opnd) (a : Src) (ty : BitVec 3) (f : FMod)
    (g : Fmt → Nat → Nat) (s : State) : Host.Outcome State Fault Refusal :=
  alu opc lat h d (fltN ty) [a.rng (fltN ty)] (fun x l => g (fmtOf ty.toNat) (fa f a ty x l)) s

/-- A literal form: b is the FP32 pattern IMM32 (R129). -/
def fltLit (opc : BitVec 12) (h : Ctl) (d : Opnd) (a : Src) (imm : BitVec 32) (ty : BitVec 3) (f : FMod)
    (g : Fmt → Nat → Nat → Nat) (s : State) : Host.Outcome State Fault Refusal :=
  alu opc 4 h d (fltN ty) [a.rng (fltN ty)]
    (fun x l => g (fmtOf ty.toNat) (fa f a ty x l) ((fmtOf ty.toNat).modify f.absb f.negb imm.toNat)) s

/-- `FCLS` to a predicate or a register (R127). -/
def fltClass (opc : BitVec 12) (lat : Nat) (h : Ctl) (d : Opnd) (a : Src) (ty : BitVec 3) (mask : BitVec 9)
    (s : State) : Host.Outcome State Fault Refusal :=
  alu opc lat h d 1 [a.rng (fltN ty)]
    (fun x l =>
      let c := (fmtOf ty.toNat).fcls (a.flt x l ty)
      if d.isP then bitVal (c &&& mask.toNat != 0) else c) s

/-- A special function (R130, R133). -/
def fltSpecial (opc : BitVec 12) (fn : Nat) (h : Ctl) (d : Opnd) (a : Src) (ty : BitVec 3) (f : FMod)
    (s : State) : Host.Outcome State Fault Refusal :=
  sfu opc h d (fltN ty) [a.rng (fltN ty)]
    (fun x l => (fmtOf ty.toNat).special ty.toNat fn f.rm.toNat (fa f a ty x l)) s

/-- `FADD` (R125). -/
def execFadd (h : Ctl) (d : Opnd) (a b : Src) (ty : BitVec 3) (f : FMod)
    (s : State) : Host.Outcome State Fault Refusal :=
  fltBin 0x140 4 h d a b ty f (fun q => q.fadd f.rm.toNat f.sat) s

/-- `FSUB` (R125). -/
def execFsub (h : Ctl) (d : Opnd) (a b : Src) (ty : BitVec 3) (f : FMod)
    (s : State) : Host.Outcome State Fault Refusal :=
  fltBin 0x141 4 h d a b ty f (fun q => q.fsub f.rm.toNat f.sat) s

/-- `FMUL` (R125). -/
def execFmul (h : Ctl) (d : Opnd) (a b : Src) (ty : BitVec 3) (f : FMod)
    (s : State) : Host.Outcome State Fault Refusal :=
  fltBin 0x142 4 h d a b ty f (fun q => q.fmul f.rm.toNat f.sat) s

/-- `FFMA`: rounded once (R125). -/
def execFfma (h : Ctl) (d : Opnd) (a b c : Src) (ty : BitVec 3) (f : FMod)
    (s : State) : Host.Outcome State Fault Refusal :=
  alu 0x143 4 h d (fltN ty) [a.rng (fltN ty), b.rng (fltN ty), c.rng (fltN ty)]
    (fun x l => (fmtOf ty.toNat).ffma f.rm.toNat f.sat (fa f a ty x l) (fb f b ty x l) (fc f c ty x l)) s

/-- `FMIN` (R126). -/
def execFmin (h : Ctl) (d : Opnd) (a b : Src) (ty : BitVec 3) (f : FMod)
    (s : State) : Host.Outcome State Fault Refusal :=
  fltBin 0x144 4 h d a b ty f (fun q => q.fmin) s

/-- `FMAX` (R126). -/
def execFmax (h : Ctl) (d : Opnd) (a b : Src) (ty : BitVec 3) (f : FMod)
    (s : State) : Host.Outcome State Fault Refusal :=
  fltBin 0x145 4 h d a b ty f (fun q => q.fmax) s

/-- `FCMP` (R117). -/
def execFcmp (h : Ctl) (d : Opnd) (a b : Src) (c : Option Src) (ty : BitVec 3) (cond : BitVec 3) (comb : BitVec 2)
    (s : State) : Host.Outcome State Fault Refusal :=
  cmpFlt 0x146 4 h d a (b.rng (fltN ty)) (fun x l => b.flt x l ty) c ty cond.toNat comb s

/-- `FCLS` (R127). -/
def execFcls (h : Ctl) (d : Opnd) (a : Src) (ty : BitVec 3) (mask : BitVec 9)
    (s : State) : Host.Outcome State Fault Refusal :=
  fltClass 0x147 4 h d a ty mask s

/-- `FSCL`: the scale is one register read as s32 (R128). -/
def execFscl (h : Ctl) (d : Opnd) (a b : Src) (ty : BitVec 3) (f : FMod)
    (s : State) : Host.Outcome State Fault Refusal :=
  alu 0x148 4 h d (fltN ty) [a.rng (fltN ty), b.rng 1]
    (fun x l => (fmtOf ty.toNat).fscl f.rm.toNat f.sat (fa f a ty x l) (b.w x l).toInt) s

/-- `FRND` (R128). -/
def execFrnd (h : Ctl) (d : Opnd) (a : Src) (ty : BitVec 3) (f : FMod)
    (s : State) : Host.Outcome State Fault Refusal :=
  fltUn 0x149 4 h d a ty f (fun q => q.frnd f.rm.toNat) s

/-- `FADD` of FP64 (R125). -/
def execFaddF64 (h : Ctl) (d : Opnd) (a b : Src) (ty : BitVec 3) (f : FMod)
    (s : State) : Host.Outcome State Fault Refusal :=
  fltBin 0x1C0 8 h d a b ty f (fun q => q.fadd f.rm.toNat f.sat) s

/-- `FSUB` of FP64 (R125). -/
def execFsubF64 (h : Ctl) (d : Opnd) (a b : Src) (ty : BitVec 3) (f : FMod)
    (s : State) : Host.Outcome State Fault Refusal :=
  fltBin 0x1C1 8 h d a b ty f (fun q => q.fsub f.rm.toNat f.sat) s

/-- `FMUL` of FP64 (R125). -/
def execFmulF64 (h : Ctl) (d : Opnd) (a b : Src) (ty : BitVec 3) (f : FMod)
    (s : State) : Host.Outcome State Fault Refusal :=
  fltBin 0x1C2 8 h d a b ty f (fun q => q.fmul f.rm.toNat f.sat) s

/-- `FFMA` of FP64: rounded once (R125). -/
def execFfmaF64 (h : Ctl) (d : Opnd) (a b c : Src) (ty : BitVec 3) (f : FMod)
    (s : State) : Host.Outcome State Fault Refusal :=
  alu 0x1C3 8 h d (fltN ty) [a.rng (fltN ty), b.rng (fltN ty), c.rng (fltN ty)]
    (fun x l => (fmtOf ty.toNat).ffma f.rm.toNat f.sat (fa f a ty x l) (fb f b ty x l) (fc f c ty x l)) s

/-- `FMIN` of FP64 (R126). -/
def execFminF64 (h : Ctl) (d : Opnd) (a b : Src) (ty : BitVec 3) (f : FMod)
    (s : State) : Host.Outcome State Fault Refusal :=
  fltBin 0x1C4 8 h d a b ty f (fun q => q.fmin) s

/-- `FMAX` of FP64 (R126). -/
def execFmaxF64 (h : Ctl) (d : Opnd) (a b : Src) (ty : BitVec 3) (f : FMod)
    (s : State) : Host.Outcome State Fault Refusal :=
  fltBin 0x1C5 8 h d a b ty f (fun q => q.fmax) s

/-- `FCMP` of FP64 (R117). -/
def execFcmpF64 (h : Ctl) (d : Opnd) (a b : Src) (c : Option Src) (ty : BitVec 3) (cond : BitVec 3) (comb : BitVec 2)
    (s : State) : Host.Outcome State Fault Refusal :=
  cmpFlt 0x1C6 8 h d a (b.rng (fltN ty)) (fun x l => b.flt x l ty) c ty cond.toNat comb s

/-- `FCLS` of FP64 (R127). -/
def execFclsF64 (h : Ctl) (d : Opnd) (a : Src) (ty : BitVec 3) (mask : BitVec 9)
    (s : State) : Host.Outcome State Fault Refusal :=
  fltClass 0x1C7 8 h d a ty mask s

/-- `FSCL` of FP64: the scale is one register read as s32 (R128). -/
def execFsclF64 (h : Ctl) (d : Opnd) (a b : Src) (ty : BitVec 3) (f : FMod)
    (s : State) : Host.Outcome State Fault Refusal :=
  alu 0x1C8 8 h d (fltN ty) [a.rng (fltN ty), b.rng 1]
    (fun x l => (fmtOf ty.toNat).fscl f.rm.toNat f.sat (fa f a ty x l) (b.w x l).toInt) s

/-- `FRND` of FP64 (R128). -/
def execFrndF64 (h : Ctl) (d : Opnd) (a : Src) (ty : BitVec 3) (f : FMod)
    (s : State) : Host.Outcome State Fault Refusal :=
  fltUn 0x1C9 8 h d a ty f (fun q => q.frnd f.rm.toNat) s

/-- `FADD` with an FP32 literal (R129). -/
def execFaddLit (h : Ctl) (d : Opnd) (a : Src) (imm : BitVec 32) (ty : BitVec 3) (f : FMod)
    (s : State) : Host.Outcome State Fault Refusal :=
  fltLit 0x180 h d a imm ty f (fun q => q.fadd f.rm.toNat f.sat) s

/-- `FSUB` with an FP32 literal (R129). -/
def execFsubLit (h : Ctl) (d : Opnd) (a : Src) (imm : BitVec 32) (ty : BitVec 3) (f : FMod)
    (s : State) : Host.Outcome State Fault Refusal :=
  fltLit 0x181 h d a imm ty f (fun q => q.fsub f.rm.toNat f.sat) s

/-- `FMUL` with an FP32 literal (R129). -/
def execFmulLit (h : Ctl) (d : Opnd) (a : Src) (imm : BitVec 32) (ty : BitVec 3) (f : FMod)
    (s : State) : Host.Outcome State Fault Refusal :=
  fltLit 0x182 h d a imm ty f (fun q => q.fmul f.rm.toNat f.sat) s

/-- `FMIN` with an FP32 literal (R129). -/
def execFminLit (h : Ctl) (d : Opnd) (a : Src) (imm : BitVec 32) (ty : BitVec 3) (f : FMod)
    (s : State) : Host.Outcome State Fault Refusal :=
  fltLit 0x184 h d a imm ty f (fun q => q.fmin) s

/-- `FMAX` with an FP32 literal (R129). -/
def execFmaxLit (h : Ctl) (d : Opnd) (a : Src) (imm : BitVec 32) (ty : BitVec 3) (f : FMod)
    (s : State) : Host.Outcome State Fault Refusal :=
  fltLit 0x185 h d a imm ty f (fun q => q.fmax) s

/-- `FCMP` with an FP32 literal (R117). -/
def execFcmpLit (h : Ctl) (d : Opnd) (a : Src) (imm : BitVec 32) (ty : BitVec 3) (cond : BitVec 2)
    (s : State) : Host.Outcome State Fault Refusal :=
  cmpFlt 0x186 4 h d a [] (fun _ _ => imm.toNat) none ty cond.toNat 0 s

/-- `FRCP` (R130 to R132). -/
def execFrcp (h : Ctl) (d : Opnd) (a : Src) (ty : BitVec 3) (f : FMod)
    (s : State) : Host.Outcome State Fault Refusal :=
  fltSpecial 0x200 0 h d a ty f s

/-- `FRSQ` (R130 to R132). -/
def execFrsq (h : Ctl) (d : Opnd) (a : Src) (ty : BitVec 3) (f : FMod)
    (s : State) : Host.Outcome State Fault Refusal :=
  fltSpecial 0x201 1 h d a ty f s

/-- `FSQRT` (R130 to R132). -/
def execFsqrt (h : Ctl) (d : Opnd) (a : Src) (ty : BitVec 3) (f : FMod)
    (s : State) : Host.Outcome State Fault Refusal :=
  fltSpecial 0x202 2 h d a ty f s

/-- `FEX2` (R130 to R132). -/
def execFex2 (h : Ctl) (d : Opnd) (a : Src) (ty : BitVec 3) (f : FMod)
    (s : State) : Host.Outcome State Fault Refusal :=
  fltSpecial 0x203 3 h d a ty f s

/-- `FLG2` (R130 to R132). -/
def execFlg2 (h : Ctl) (d : Opnd) (a : Src) (ty : BitVec 3) (f : FMod)
    (s : State) : Host.Outcome State Fault Refusal :=
  fltSpecial 0x204 4 h d a ty f s

/-- `FSIN` (R130 to R132). -/
def execFsin (h : Ctl) (d : Opnd) (a : Src) (ty : BitVec 3) (f : FMod)
    (s : State) : Host.Outcome State Fault Refusal :=
  fltSpecial 0x205 5 h d a ty f s

/-- `FCOS` (R130 to R132). -/
def execFcos (h : Ctl) (d : Opnd) (a : Src) (ty : BitVec 3) (f : FMod)
    (s : State) : Host.Outcome State Fault Refusal :=
  fltSpecial 0x206 6 h d a ty f s

end Sys2Proof.Machine
end

