-- ==== Sys2Proof/Machine/Integer.lean ====
section
/-! DEFINITION. Integer and address arithmetic, its literal forms, comparison and predicates (R107 to R119). -/

namespace Sys2Proof.Machine

/-- A two-source integer instruction (R107): both sources under TY, the exact result wrapped or clamped. -/
def intBin (opc : BitVec 12) (lat : Nat) (h : Ctl) (d : Opnd) (a b : Src) (ty : BitVec 3) (sat : Bool) (f : Int → Int → Int)
    (s : State) : Host.Outcome State Fault Refusal :=
  alu opc lat h d (intN ty) [a.rng (intN ty), b.rng (intN ty)] (fun x l => intRes ty sat (f (a.int x l ty) (b.int x l ty))) s

/-- Its literal form (R114). -/
def intLit (opc : BitVec 12) (lat : Nat) (h : Ctl) (d : Opnd) (a : Src) (imm : BitVec 32) (ty : BitVec 3) (sat : Bool)
    (f : Int → Int → Int) (s : State) : Host.Outcome State Fault Refusal :=
  alu opc lat h d (intN ty) [a.rng (intN ty)] (fun x l => intRes ty sat (f (a.int x l ty) (litInt imm ty))) s

/-- A one-source integer instruction. -/
def intUn (opc : BitVec 12) (h : Ctl) (d : Opnd) (a : Src) (ty : BitVec 3) (dn : Nat) (f : Wave → Nat → Int → Nat)
    (s : State) : Host.Outcome State Fault Refusal :=
  alu opc 2 h d dn [a.rng (intN ty)] (fun x l => f x l (a.int x l ty)) s

/-- A shift: the count is b[7:0] of a 32-bit slot (R109). -/
def shiftBin (opc : BitVec 12) (h : Ctl) (d : Opnd) (a b : Src) (ty : BitVec 3) (f : Nat → Int → Nat → Int)
    (s : State) : Host.Outcome State Fault Refusal :=
  alu opc 2 h d (intN ty) [a.rng (intN ty), b.rng 1]
    (fun x l => intRes ty false (f (intW ty) (a.int x l ty) ((b.w x l).toNat % 256))) s

/-- A shift by a literal: n = IMM32[7:0] (R114). -/
def shiftLit (opc : BitVec 12) (h : Ctl) (d : Opnd) (a : Src) (imm : BitVec 32) (ty : BitVec 3) (f : Nat → Int → Nat → Int)
    (s : State) : Host.Outcome State Fault Refusal :=
  alu opc 2 h d (intN ty) [a.rng (intN ty)] (fun x l => intRes ty false (f (intW ty) (a.int x l ty) (imm.toNat % 256))) s

/-- `SHL` (R109): zeros enter, and everything has left at n ≥ W. -/
def shl (w : Nat) (a : Int) (n : Nat) : Int := if n < w then a * 2 ^ n else 0
/-- `SHR` and `SAR`: a is unsigned or signed by its type, so the copies that enter are the quotient's (R109). -/
def shr (w : Nat) (a : Int) (n : Nat) : Int := if n < w then a / 2 ^ n else if a < 0 then -1 else 0
/-- `ROT` (R109): left by n mod W. -/
def rot (w : Nat) (a : Int) (n : Nat) : Int := let u := (a % 2 ^ w).toNat; ((u * 2 ^ (n % w) + u / 2 ^ (w - n % w) : Nat) : Int)

/-- Bitwise operations on the patterns of two values. -/
def bitsOp (f : Nat → Nat → Nat) (a b : Int) : Int := (f (a % 2 ^ 64).toNat (b % 2 ^ 64).toNat : Nat)
/-- a AND b. -/
def iand : Int → Int → Int := bitsOp (· &&& ·)
/-- a OR b. -/
def ior : Int → Int → Int := bitsOp (· ||| ·)
/-- a XOR b. -/
def ixor : Int → Int → Int := bitsOp (· ^^^ ·)
/-- a AND NOT b. -/
def iandn (a b : Int) : Int := iand a (-b - 1)
/-- a OR NOT b. -/
def iorn (a b : Int) : Int := ior a (-b - 1)

/-- Number of one bits among the low `n`. -/
def popcount (v : Nat) : Nat → Nat
  | 0 => 0
  | n + 1 => popcount v n + v / 2 ^ n % 2
/-- Bit i moved to bit n − 1 − i. -/
def reverseBits (v : Nat) : Nat → Nat
  | 0 => 0
  | n + 1 => v / 2 ^ n % 2 + 2 * reverseBits v n
/-- Leading zero bits of a value of `n` bits; n for 0. -/
def leadingZeros (v n : Nat) : Nat := if v = 0 then n else n - 1 - Nat.log2 v

/-- `BFX` (R110). -/
def bfx (ty : BitVec 3) (a : Int) (pos len : Nat) : Int :=
  let fd := (a / 2 ^ pos) % 2 ^ len
  if len = 0 then 0 else if intSigned ty && 2 ^ (len - 1) ≤ fd then fd - 2 ^ len else fd

/-- `BFI` (R110). -/
def bfi (w : Nat) (a b : Int) (pos len : Nat) : Int :=
  let top := min (pos + len) w
  let keepLow := a % 2 ^ pos
  let keepHigh := a / 2 ^ top * 2 ^ top
  if len = 0 then a else keepHigh + keepLow + (b % 2 ^ (top - pos)) * 2 ^ pos

/-- One byte of `PRMB` (R111). -/
def prmbByte (src : Nat) (sel : Nat) : Nat :=
  let b := src / 2 ^ (8 * (sel % 8)) % 256
  if sel / 8 % 2 = 0 then b else if 128 ≤ b then 255 else 0

/-- `PRMB` (R111). -/
def prmb (a b c : Nat) : Nat :=
  let src := a + 2 ^ 32 * b
  prmbByte src (c % 16) + 2 ^ 8 * prmbByte src (c / 2 ^ 4 % 16) + 2 ^ 16 * prmbByte src (c / 2 ^ 8 % 16) + 2 ^ 24 * prmbByte src (c / 2 ^ 12 % 16)

/-- `FSH` (R108). -/
def fsh (dir : Bool) (a b n : Nat) : Nat :=
  let v := a * 2 ^ 32 + b
  if dir then v * 2 ^ n / 2 ^ 32 % 2 ^ 32 else v / 2 ^ n % 2 ^ 32

/-- `IADD` (R108). -/
def execIadd (h : Ctl) (d : Opnd) (a b : Src) (ty : BitVec 3) (sat : Bool) (s : State) : Host.Outcome State Fault Refusal :=
  intBin 0x080 2 h d a b ty sat (· + ·) s

/-- `IADD` with a literal (R114). -/
def execIaddLit (h : Ctl) (d : Opnd) (a : Src) (imm : BitVec 32) (ty : BitVec 3) (sat : Bool) (s : State) : Host.Outcome State Fault Refusal :=
  intLit 0x0C0 2 h d a imm ty sat (· + ·) s

/-- `ISUB` (R108). -/
def execIsub (h : Ctl) (d : Opnd) (a b : Src) (ty : BitVec 3) (sat : Bool) (s : State) : Host.Outcome State Fault Refusal :=
  intBin 0x081 2 h d a b ty sat (· - ·) s

/-- `ISUB` with a literal (R114). -/
def execIsubLit (h : Ctl) (d : Opnd) (a : Src) (imm : BitVec 32) (ty : BitVec 3) (sat : Bool) (s : State) : Host.Outcome State Fault Refusal :=
  intLit 0x0C1 2 h d a imm ty sat (· - ·) s

/-- `IMUL` (R108). -/
def execImul (h : Ctl) (d : Opnd) (a b : Src) (ty : BitVec 3) (s : State) : Host.Outcome State Fault Refusal :=
  intBin 0x082 4 h d a b ty false (· * ·) s

/-- `IMUL` with a literal (R114). -/
def execImulLit (h : Ctl) (d : Opnd) (a : Src) (imm : BitVec 32) (ty : BitVec 3) (s : State) : Host.Outcome State Fault Refusal :=
  intLit 0x0C2 4 h d a imm ty false (· * ·) s

/-- `IMULH` (R108). -/
def execImulh (h : Ctl) (d : Opnd) (a b : Src) (ty : BitVec 3) (s : State) : Host.Outcome State Fault Refusal :=
  intBin 0x083 4 h d a b ty false (fun a b => a * b / 2 ^ 32) s

/-- `IMULH` with a literal (R114). -/
def execImulhLit (h : Ctl) (d : Opnd) (a : Src) (imm : BitVec 32) (ty : BitVec 3) (s : State) : Host.Outcome State Fault Refusal :=
  intLit 0x0C3 4 h d a imm ty false (fun a b => a * b / 2 ^ 32) s

/-- `IMIN` (R108). -/
def execImin (h : Ctl) (d : Opnd) (a b : Src) (ty : BitVec 3) (s : State) : Host.Outcome State Fault Refusal :=
  intBin 0x086 2 h d a b ty false min s

/-- `IMIN` with a literal (R114). -/
def execIminLit (h : Ctl) (d : Opnd) (a : Src) (imm : BitVec 32) (ty : BitVec 3) (s : State) : Host.Outcome State Fault Refusal :=
  intLit 0x0C6 2 h d a imm ty false min s

/-- `IMAX` (R108). -/
def execImax (h : Ctl) (d : Opnd) (a b : Src) (ty : BitVec 3) (s : State) : Host.Outcome State Fault Refusal :=
  intBin 0x087 2 h d a b ty false max s

/-- `IMAX` with a literal (R114). -/
def execImaxLit (h : Ctl) (d : Opnd) (a : Src) (imm : BitVec 32) (ty : BitVec 3) (s : State) : Host.Outcome State Fault Refusal :=
  intLit 0x0C7 2 h d a imm ty false max s

/-- `AND` (R108). -/
def execAnd (h : Ctl) (d : Opnd) (a b : Src) (ty : BitVec 3) (s : State) : Host.Outcome State Fault Refusal :=
  intBin 0x089 2 h d a b ty false iand s

/-- `AND` with a literal (R114). -/
def execAndLit (h : Ctl) (d : Opnd) (a : Src) (imm : BitVec 32) (ty : BitVec 3) (s : State) : Host.Outcome State Fault Refusal :=
  intLit 0x0C9 2 h d a imm ty false iand s

/-- `OR` (R108). -/
def execOr (h : Ctl) (d : Opnd) (a b : Src) (ty : BitVec 3) (s : State) : Host.Outcome State Fault Refusal :=
  intBin 0x08A 2 h d a b ty false ior s

/-- `OR` with a literal (R114). -/
def execOrLit (h : Ctl) (d : Opnd) (a : Src) (imm : BitVec 32) (ty : BitVec 3) (s : State) : Host.Outcome State Fault Refusal :=
  intLit 0x0CA 2 h d a imm ty false ior s

/-- `XOR` (R108). -/
def execXor (h : Ctl) (d : Opnd) (a b : Src) (ty : BitVec 3) (s : State) : Host.Outcome State Fault Refusal :=
  intBin 0x08B 2 h d a b ty false ixor s

/-- `XOR` with a literal (R114). -/
def execXorLit (h : Ctl) (d : Opnd) (a : Src) (imm : BitVec 32) (ty : BitVec 3) (s : State) : Host.Outcome State Fault Refusal :=
  intLit 0x0CB 2 h d a imm ty false ixor s

/-- `ANDN` (R108). -/
def execAndn (h : Ctl) (d : Opnd) (a b : Src) (ty : BitVec 3) (s : State) : Host.Outcome State Fault Refusal :=
  intBin 0x08C 2 h d a b ty false iandn s

/-- `ANDN` with a literal (R114). -/
def execAndnLit (h : Ctl) (d : Opnd) (a : Src) (imm : BitVec 32) (ty : BitVec 3) (s : State) : Host.Outcome State Fault Refusal :=
  intLit 0x0CC 2 h d a imm ty false iandn s

/-- `ORN` (R108). -/
def execOrn (h : Ctl) (d : Opnd) (a b : Src) (ty : BitVec 3) (s : State) : Host.Outcome State Fault Refusal :=
  intBin 0x08D 2 h d a b ty false iorn s

/-- `ORN` with a literal (R114). -/
def execOrnLit (h : Ctl) (d : Opnd) (a : Src) (imm : BitVec 32) (ty : BitVec 3) (s : State) : Host.Outcome State Fault Refusal :=
  intLit 0x0CD 2 h d a imm ty false iorn s

/-- `SHL` (R109). -/
def execShl (h : Ctl) (d : Opnd) (a b : Src) (ty : BitVec 3) (s : State) : Host.Outcome State Fault Refusal :=
  shiftBin 0x08E h d a b ty shl s

/-- `SHL` by a literal (R109, R114). -/
def execShlLit (h : Ctl) (d : Opnd) (a : Src) (imm : BitVec 32) (ty : BitVec 3) (s : State) : Host.Outcome State Fault Refusal :=
  shiftLit 0x0CE h d a imm ty shl s

/-- `SHR` (R109). -/
def execShr (h : Ctl) (d : Opnd) (a b : Src) (ty : BitVec 3) (s : State) : Host.Outcome State Fault Refusal :=
  shiftBin 0x08F h d a b ty shr s

/-- `SHR` by a literal (R109, R114). -/
def execShrLit (h : Ctl) (d : Opnd) (a : Src) (imm : BitVec 32) (ty : BitVec 3) (s : State) : Host.Outcome State Fault Refusal :=
  shiftLit 0x0CF h d a imm ty shr s

/-- `SAR` (R109). -/
def execSar (h : Ctl) (d : Opnd) (a b : Src) (ty : BitVec 3) (s : State) : Host.Outcome State Fault Refusal :=
  shiftBin 0x090 h d a b ty shr s

/-- `SAR` by a literal (R109, R114). -/
def execSarLit (h : Ctl) (d : Opnd) (a : Src) (imm : BitVec 32) (ty : BitVec 3) (s : State) : Host.Outcome State Fault Refusal :=
  shiftLit 0x0D0 h d a imm ty shr s

/-- `ROT` (R109). -/
def execRot (h : Ctl) (d : Opnd) (a b : Src) (ty : BitVec 3) (s : State) : Host.Outcome State Fault Refusal :=
  shiftBin 0x091 h d a b ty rot s

/-- `ROT` by a literal (R109, R114). -/
def execRotLit (h : Ctl) (d : Opnd) (a : Src) (imm : BitVec 32) (ty : BitVec 3) (s : State) : Host.Outcome State Fault Refusal :=
  shiftLit 0x0D1 h d a imm ty rot s

/-- `IADD64` (R108). -/
def execIadd64 (h : Ctl) (d : Opnd) (a b : Src) (ty : BitVec 3) (sat : Bool) (s : State) : Host.Outcome State Fault Refusal :=
  intBin 0x09C 2 h d a b ty sat (· + ·) s

/-- `ISUB64` (R108). -/
def execIsub64 (h : Ctl) (d : Opnd) (a b : Src) (ty : BitVec 3) (sat : Bool) (s : State) : Host.Outcome State Fault Refusal :=
  intBin 0x09D 2 h d a b ty sat (· - ·) s

/-- `IMAD` (R108). -/
def execImad (h : Ctl) (d : Opnd) (a b c : Src) (ty : BitVec 3) (s : State) : Host.Outcome State Fault Refusal :=
  alu 0x084 4 h d (intN ty) [a.rng 1, b.rng 1, c.rng 1]
    (fun x l => intRes ty false (a.int x l ty * b.int x l ty + c.int x l ty)) s

/-- `IMADW`: a and b of 32 bits by TY, xc and xd pairs (R108). -/
def execImadw (h : Ctl) (d : Opnd) (a b c : Src) (ty : BitVec 3) (s : State) : Host.Outcome State Fault Refusal :=
  alu 0x085 4 h d 2 [a.rng 1, b.rng 1, c.rng 2]
    (fun x l => ((a.int x l ty * b.int x l ty + (c.x x l).toNat) % 2 ^ 64).toNat) s

/-- `IABS` (R108). -/
def execIabs (h : Ctl) (d : Opnd) (a : Src) (ty : BitVec 3) (sat : Bool) (s : State) : Host.Outcome State Fault Refusal :=
  intUn 0x088 h d a ty (intN ty) (fun _ _ v => intRes ty sat v.natAbs) s

/-- `FSH` (R108). -/
def execFsh (h : Ctl) (d : Opnd) (a b c : Src) (_ty : BitVec 3) (dir : Bool) (s : State) : Host.Outcome State Fault Refusal :=
  alu 0x092 2 h d 1 [a.rng 1, b.rng 1, c.rng 1]
    (fun x l => fsh dir (a.w x l).toNat (b.w x l).toNat ((c.w x l).toNat % 32)) s

/-- `BFX` (R110). -/
def execBfx (h : Ctl) (d : Opnd) (a : Src) (ty : BitVec 3) (pos : BitVec 6) (len : BitVec 7) (s : State) : Host.Outcome State Fault Refusal :=
  intUn 0x093 h d a ty (intN ty) (fun _ _ v => intRes ty false (bfx ty v pos.toNat len.toNat)) s

/-- `BFI` (R110). -/
def execBfi (h : Ctl) (d : Opnd) (a b : Src) (ty : BitVec 3) (pos : BitVec 6) (len : BitVec 7) (s : State) : Host.Outcome State Fault Refusal :=
  intBin 0x094 2 h d a b ty false (fun a b => bfi (intW ty) a b pos.toNat len.toNat) s

/-- `POPC` (R108). -/
def execPopc (h : Ctl) (d : Opnd) (a : Src) (ty : BitVec 3) (s : State) : Host.Outcome State Fault Refusal :=
  intUn 0x095 h d a ty 1 (fun _ _ v => popcount v.toNat (intW ty)) s

/-- `CLZ` (R108). -/
def execClz (h : Ctl) (d : Opnd) (a : Src) (ty : BitVec 3) (s : State) : Host.Outcome State Fault Refusal :=
  intUn 0x096 h d a ty 1 (fun _ _ v => leadingZeros v.toNat (intW ty)) s

/-- `BREV` (R108). -/
def execBrev (h : Ctl) (d : Opnd) (a : Src) (ty : BitVec 3) (s : State) : Host.Outcome State Fault Refusal :=
  intUn 0x097 h d a ty (intN ty) (fun _ _ v => reverseBits v.toNat (intW ty)) s

/-- `PRMB` (R111). -/
def execPrmb (h : Ctl) (d : Opnd) (a b c : Src) (_ty : BitVec 3) (s : State) : Host.Outcome State Fault Refusal :=
  alu 0x098 2 h d 1 [a.rng 1, b.rng 1, c.rng 1]
    (fun x l => prmb (a.w x l).toNat (b.w x l).toNat (c.w x l).toNat) s

/-- `SEL` (R108). -/
def execSel (h : Ctl) (d : Opnd) (a b c : Src) (ty : BitVec 3) (s : State) : Host.Outcome State Fault Refusal :=
  alu 0x099 2 h d (intN ty) [a.rng (intN ty), b.rng (intN ty)]
    (fun x l => intRes ty false (if c.o.valP x l then a.int x l ty else b.int x l ty)) s

/-- `MOV` (R112). -/
def execMov (h : Ctl) (d : Opnd) (a : Src) (ty : BitVec 3) (s : State) : Host.Outcome State Fault Refusal :=
  alu 0x09A 2 h d (intN ty) [a.rng (intN ty)]
    (fun x l => if ty.toNat < 6 then (a.w x l).toNat else (a.x x l).toNat) s

/-- `LEA` (R108). -/
def execLea (h : Ctl) (d : Opnd) (a b : Src) (ty : BitVec 3) (sh : BitVec 3) (s : State) : Host.Outcome State Fault Refusal :=
  alu 0x09B 2 h d 2 [a.rng 2, b.rng 1]
    (fun x l => (((a.x x l).toNat + b.int x l ty * 2 ^ sh.toNat) % 2 ^ 64).toNat) s

/-- `ICVT` (R113): the source under STY, clamped to TY under SAT. -/
def execIcvt (h : Ctl) (d : Opnd) (a : Src) (ty : BitVec 3) (sat : Bool) (sty : BitVec 3) (s : State) : Host.Outcome State Fault Refusal :=
  alu 0x09E 2 h d (intN ty) [a.rng (intN sty)] (fun x l => intRes ty sat (a.int x l sty)) s

/-- `MOVI` (R115). -/
def execMovi (h : Ctl) (d : Opnd) (imm : BitVec 32) (ty : BitVec 3) (s : State) : Host.Outcome State Fault Refusal :=
  alu 0x0E0 2 h d (intN ty) []
    (fun _ _ => if ty.toNat = 7 then (imm.signExtend 64).toNat else imm.toNat) s

/-- `MOVH` (R115). -/
def execMovh (h : Ctl) (d : Opnd) (a : Src) (imm : BitVec 32) (_ty : BitVec 3) (s : State) : Host.Outcome State Fault Refusal :=
  alu 0x0E1 2 h d 2 [a.rng 1] (fun x l => imm.toNat * 2 ^ 32 + (a.w x l).toNat) s

/-- `ICMP` (R117). -/
def execIcmp (h : Ctl) (d : Opnd) (a b : Src) (c : Option Src) (ty cond : BitVec 3) (cb : BitVec 2) (s : State) : Host.Outcome State Fault Refusal :=
  cmpInt 0x100 h d a b c ty cond cb s

/-- `PLOP` (R118). -/
def execPlop (h : Ctl) (d : Opnd) (a b c : Src) (lut : BitVec 8) (s : State) : Host.Outcome State Fault Refusal :=
  alu 0x101 2 h d 1 [] (fun x l => bitVal (lutBit lut (a.o.valP x l) (b.o.valP x l) (c.o.valP x l))) s

/-- `PMOV` (R119): PACK, UNPACK and TEST by MODE. -/
def execPmov (h : Ctl) (d : Option Opnd) (a : Option Src) (mask : BitVec 7) (mode : BitVec 2) (s : State) :
    Host.Outcome State Fault Refusal :=
  issue 0x102 h (req (dstRng d 1) [srcRng a 1]) (fun i t =>
    let x := t.d.wave i.w
    let v (l : Nat) : Nat := (a.map (fun y => (y.w x l).toNat)).getD 0
    .ok { Eff.plain t with out := .fixed 2 (if mode.toNat = 1 then .ps mask else dstOf d 1) (valsOf i.act (fun l =>
      if mode.toNat = 0 then (List.range 7).foldl (fun v j => v + bitVal (x.pred l j) * 2 ^ j) 128
      else if mode.toNat = 1 then v l
      else bitVal (v l != 0))) }) s

end Sys2Proof.Machine
end

