-- ==== Sys2Proof/Machine/MemEvents.lean ====
section
/-! DEFINITION. Events of the memory system, of contexts and of the engines: acknowledgements (R274, R284), clocks between dies (R276),
scope-local copies (R361, R365), translations and contexts (R40, R306, R307, R311), copies and matrix operations (R217, R219, R367 to R378). -/

namespace Sys2Proof.Machine

/-! ### Acknowledgements -/

/-- A write of the wave is acknowledged: it leaves the count, and an operation that its writes complete is done with the last of them (R274, R282,
R284). -/
def Wave.ackWrite (x : Wave) (o : OutW) : Wave :=
  let rest := x.outw.filter (·.seq != o.seq)
  let x := { x with outw := rest }
  match o.op with
  | none => x
  | some n => if rest.any (·.op == some n) then x else { x with ops := x.ops.map (fun p => if p.id == n then { p with done := true } else p) }

/-- The oldest performed write among some, at host memory or elsewhere. -/
def oldestWrite (host : Bool) (ws : List OutW) : Option OutW := ws.find? (fun o => !o.late && o.host == host)

/-- The oldest write of a wave is acknowledged: of the wave of a key, or of the saved or ended wave whose number is w − 2^20. -/
def Device.ackOldest (d : Device) (w : Nat) (host : Bool) : Option Device :=
  let uid := w - 2 ^ 20
  if w < 2 ^ 20 then
    let x := d.wave w
    if x.live then (oldestWrite host x.outw).map (fun o => d.setWave w (x.ackWrite o)) else none
  else match d.orphans.lookup uid with
    | some ws => (oldestWrite host ws).map (fun o =>
        let rest := ws.filter (·.seq != o.seq)
        { d with orphans := if rest.isEmpty then d.orphans.del uid else d.orphans.put uid rest })
    | none =>
      if (d.byUid uid).isSome then none
      else (d.waveOf uid).bind (fun x => (oldestWrite host x.outw).map (fun o => d.updWave uid (·.ackWrite o)))

/-- `WRITE_ACKNOWLEDGE` (R274): a write of the wave to scratchpad or device memory leaves its count. -/
def execWriteAcknowledge (w : Nat) (s : State) : Host.Outcome State Fault Refusal :=
  event s (fun s => (s.d.ackOldest w false).map (fun d => { s with d := d }))

/-- `HOST_WRITE_CONFIRM` (R284): the host confirms a write; a flit has come through (R421). -/
def execHostWriteConfirm (w : Nat) (s : State) : Host.Outcome State Fault Refusal :=
  event s (fun s => if s.d.link = .down then none else (s.d.ackOldest w true).map (fun d => { s with d := { d with retries := 0 } }))

/-! ### Clocks -/

/-- The messages that may be applied: each its origin's oldest to its die, with every count it carries applied there (R276). -/
def Device.readyMsgs (d : Device) : List Msg :=
  d.msgs.filter (fun m => d.msgReady m &&
    ((d.msgs.filter (fun n => n.src == m.src && n.dst == m.dst)).all (fun n => m.vc.get 0 m.src ≤ n.vc.get 0 n.src)))

/-- `VECTOR_CLOCK_RECEIVE` (R276): the i-th message that need not be held is applied. -/
def execVectorClockReceive (i : Nat) (s : State) : Host.Outcome State Fault Refusal :=
  event s (fun s => (s.d.readyMsgs[i]?).map (fun m => s.withD fun d => d.applyMsg m (d.msgs.erase m)))

/-- `BEACON` (R276): every die to which no earlier message of this die is on its way takes its count. -/
def execBeacon (die : Nat) (s : State) : Host.Outcome State Fault Refusal :=
  event s (fun s =>
    if 4 ≤ die then none
    else some (s.withD fun d => { d with
      applied := ((List.range 4).filter (fun e => e != die && !d.msgs.any (fun m => m.src == die && m.dst == e))).foldl
        (fun t e => t.put (4 * e + die) (max (t.get 0 (4 * e + die)) (d.clkOf die die))) d.applied }))

/-! ### Scope-local copies and the fault buffer -/

/-- `SCOPE_LOCAL_COPY_EVICTION` (R365): the slice evicts its copy, which pushes it. -/
def execScopeLocalCopyEviction (cl line : Nat) (s : State) : Host.Outcome State Fault Refusal :=
  event s (fun s => (s.d.localOf cl line).map (fun l => s.pushLocal l true))

/-- `FAULT_BUFFER_DISCARD` (R361): Foxglove discards the i-th line held for a cluster slice. -/
def execFaultBufferDiscard (cl i : Nat) (s : State) : Host.Outcome State Fault Refusal :=
  event s (fun s => ((s.d.fbuf.filter (·.cl == cl))[i]?).map (fun h => s.withD fun d => { d with fbuf := d.fbuf.erase h }))

/-! ### Contexts and translations -/

/-- A context's address range meets a cached translation. -/
def Tlb.meets (t : Tlb) (asid va size : Nat) : Bool := t.asid == asid && t.base < va + size && va < t.base + t.size

/-- A canonical tier-1 address as the direct window reaches it (R302). -/
def directOf (a : Nat) : Nat := 0x0080_0000_0000 + a / 4096 % 288 * 2 ^ 30 + a / 4096 / 288 * 4096 + a % 4096

/-- The virtual address at which a cached translation reaches a line. -/
def Tlb.vaOf (t : Tlb) (ln : Nat) : Option Nat :=
  let p := field t.pte.toNat 12 40 * 4096
  ((128 * ln) :: if 128 * ln < 0x0048_0000_0000 then [directOf (128 * ln)] else []).findSome? (fun a =>
    if p ≤ a && a < p + t.size then some (t.base + (a - p)) else none)

/-- The tables of the context map an address to a line. -/
def St.mapsTo (s : St) (asid va ln : Nat) : Bool :=
  (List.range 4).any (fun die => match s.walk die asid va with
    | .ok (pa, _, _) => lineOf (canonical pa) == ln
    | .error _ => false)

/-- Foxglove's request for a range whose tables have changed (R307, R311): each parked line that an address of the range led to, by the access that
parked it or by a cached translation, and leads to no longer goes home; then no die's cache holds a translation of the range. -/
def St.changed (s : St) (asid va size : Nat) : St :=
  let old := s.d.tlb.filter (fun t => t.meets asid va size)
  let reached (ln : Nat) (p : Park) : List Nat :=
    (if p.asid == asid && va < 128 * (p.vline + 1) && 128 * p.vline < va + size then [128 * p.vline] else []) ++ old.filterMap (·.vaOf ln)
  let gone := s.d.parks.filterMap (fun e => match e.2 with
    | some p => if (reached e.1 p).any (fun a => !s.mapsTo asid a e.1) then some e.1 else none
    | none => none)
  s.withD fun d =>
    let d := gone.foldl (fun d ln => d.goHome ln) d
    { d with tlb := d.tlb.filter (fun t => !t.meets asid va size) }

/-- `TRANSLATION_CHANGE` (R307, R311). -/
def execTranslationChange (asid : BitVec 16) (va : W64) (size : Nat) (s : State) : Host.Outcome State Fault Refusal :=
  event s (fun s => if (s.d.ctx asid.toNat).live then some (s.changed asid.toNat va.toNat size) else none)

/-- `CONTEXT_CREATE` (R41, R143, R306, R309): Foxglove writes the roots, the window base and the park quotas. -/
def execContextCreate (asid : BitVec 16) (root win : W64) (q1 q2 q3 : Nat) (s : State) : Host.Outcome State Fault Refusal :=
  event s (fun s =>
    if (s.d.ctx asid.toNat).live || win.toNat % 2 ^ 26 ≠ 0 || 2 ^ 57 ≤ win.toNat || 4 < q1 || 8 < q2 || 8 < q3 then none
    else some (s.withD (·.setCtx asid.toNat { Context.none with
      live := true, roots := (List.range 4).map (fun k => (k, root)), window := win, q1 := q1, q2 := q2, q3 := q3 })))

/-- `CONTEXT_TEARDOWN` (R311): every park of the context goes home; nothing of it is cached. -/
def execContextTeardown (asid : BitVec 16) (s : State) : Host.Outcome State Fault Refusal :=
  event s (fun s =>
    let a := asid.toNat
    if !(s.d.ctx a).live || s.d.launches.any (fun e => e.2.used && e.2.asid == a) then none
    else
      let s := (s.d.locals.filter (·.asid == a)).foldl (fun s l => s.pushLocal l false) s
      let mine := (s.d.parks.filter (fun e => e.2.any (·.asid == a))).map (·.1)
      let s := s.withD fun d => mine.foldl (fun d ln => d.goHome ln) d
      some (s.withD fun d => { d with
        contexts := d.contexts.del a
        tlb := d.tlb.filter (·.asid != a), iblocks := d.iblocks.filter (·.asid != a), fbuf := d.fbuf.filter (·.asid != a) }))

/-- `CONTEXT_ERROR_COLLECTION` (R40): Foxglove clears `sr.ctxerr` as the host runtime collects the errors. -/
def execContextErrorCollection (asid : BitVec 16) (s : State) : Host.Outcome State Fault Refusal :=
  event s (fun s =>
    let c := s.d.ctx asid.toNat
    if c.live then some (s.withD (·.setCtx asid.toNat { c with ctxerr := 0 })) else none)

/-! ### Engines -/

/-- `COPY_ACTIVATE` (R368). -/
def execCopyActivate (core : Nat) (s : State) : Host.Outcome State Fault Refusal := event s (fun s => s.copyActivate core)

/-- `SEGMENT_LANDED` (R369). -/
def execSegmentLanded (cp : Nat) (s : State) : Host.Outcome State Fault Refusal := event s (fun s => s.segmentLanded cp)

/-- `ENGINE_WALK_FAILURE` (R370). -/
def execEngineWalkFailure (cp : Nat) (ok : Bool) (s : State) : Host.Outcome State Fault Refusal := event s (fun s => s.walkDone cp ok)

/-- `MCAST_DELIVERY` (R217). -/
def execMcastDelivery (cp ws : Nat) (s : State) : Host.Outcome State Fault Refusal := event s (fun s => s.mcastDelivery cp ws)

/-- `MCAST_DELIVERY_TIMEOUT` (R372). -/
def execMcastDeliveryTimeout (cp ws : Nat) (s : State) : Host.Outcome State Fault Refusal := 
  event s (fun s => if (s.d.copy cp).any s.late then s.mcastDelivery cp ws else none)

/-- `CHAINED_COMMAND_START` (R218, R373). -/
def execChainedCommandStart (core tile : Nat) (s : State) : Host.Outcome State Fault Refusal := event s (fun s => s.chainedStart core tile)

/-- `COPY_COMPLETE` (R219). -/
def execCopyComplete (cp : Nat) (s : State) : Host.Outcome State Fault Refusal := event s (fun s => s.copyComplete cp)

/-- `MATRIX_OP_START` (R374). -/
def execMatrixOpStart (core : Nat) (s : State) : Host.Outcome State Fault Refusal := event s (fun s => s.matStart core)

/-- `ROW_COMMIT` (R35, R376). -/
def execRowCommit (core tile : Nat) (s : State) : Host.Outcome State Fault Refusal := event s (fun s => s.rowCommit core tile)

/-- `MATRIX_LOAD_ERROR` (R236, R378). -/
def execMatrixLoadError (core tile : Nat) (kind : BitVec 8) (s : State) : Host.Outcome State Fault Refusal :=
  event s (fun s => s.matError core tile kind.toNat)

end Sys2Proof.Machine
end

