-- ==== Sys2Proof/Machine/Module.lean ====
section
/-! DEFINITION. The loader of modules: the file of a linked module (R260 to R262), its relocations (R263, R264), and the image that a load
makes of it at a base (R267, R428). -/

namespace Sys2Proof.Machine

/-! ### The file (R260 to R262) -/

/-- A number as bytes, little-endian. -/
def leBytes (n v : Nat) : List Byte := (cellsOf 0 n v).map (·.2)

/-- Bytes as a number, little-endian. -/
def ofBytes (b : List Byte) : Nat := b.foldr (fun x n => x.toNat + 256 * n) 0

/-- The bytes of a file, the first lowest, and how many there are. -/
structure Hxo where
  val : Nat
  len : Nat

/-- `n` bytes from an offset, as a number; none where the file ends before them. -/
def Hxo.at (f : Hxo) (o n : Nat) : Option Nat := if o + n ≤ f.len then some (field f.val (8 * o) (8 * n)) else none

/-- Every range of bits, given by its lowest and its length, is zero. -/
def zeroBits (n : Nat) (rs : List (Nat × Nat)) : Bool := rs.all (fun r => field n r.1 r.2 == 0)

/-- The header is that of a linked module: MAGIC, MAJOR, KIND 2, and reserved bits zero (R260). -/
def headerOk (h : Nat) : Bool :=
  field h 0 32 == 0x004F5848 && field h 40 8 == 1 && field h 48 16 == 2 && field h 64 64 % 64 == 0 &&
    zeroBits h [(144, 16), (176, 16), (240, 16), (256, 256)]

/-- A section-table entry (R261), as a 512-bit value. -/
abbrev Sect := Nat
/-- OFFSET. -/
def Sect.offset (e : Sect) : Nat := field e 0 64
/-- SIZE. -/
def Sect.size (e : Sect) : Nat := field e 64 64
/-- ADDR. -/
def Sect.addr (e : Sect) : Nat := field e 128 64
/-- INFO: the section that a relocation table patches. -/
def Sect.info (e : Sect) : Nat := field e 208 16
/-- TYPE. -/
def Sect.type (e : Sect) : Nat := field e 224 8
/-- ALIGN: log2 of the alignment. -/
def Sect.align (e : Sect) : Nat := field e 232 8
/-- LINK: a symbol table's strings, a relocation table's symbols. -/
def Sect.link (e : Sect) : Nat := field e 240 16
/-- ALLOC. -/
def Sect.alloc (e : Sect) : Bool := field e 258 1 == 1

/-- An entry other than entry 0 has the form of R261. -/
def Sect.ok (e : Sect) : Bool :=
  1 ≤ e.type && e.type ≤ 9 && e.align ≤ 16 && zeroBits e [(192, 16), (259, 253)] && (e.type != 3 || e.offset == 0)

/-- A symbol entry has the form of R262. -/
def symbolOk (y : Nat) : Bool := field y 54 2 ≤ 2 && field y 48 4 ≤ 6 && zeroBits y [(52, 2), (56, 8), (201, 55)]

/-- A relocation entry has the form of R263, with a kind of R264. -/
def relocOk (r : Nat) : Bool := 1 ≤ field r 96 8 && field r 96 8 ≤ 10 && zeroBits r [(104, 24), (192, 64)]

/-- The section table: none where it is cut short or an entry is not of the form. -/
def Hxo.sections (f : Hxo) : Option (List Sect) :=
  (f.at 0 64).bind (fun h =>
    if !headerOk h then none
    else ((List.range (field h 128 16)).mapM (fun i => f.at (field h 64 64 + 64 * i) 64)).bind (fun es =>
      if es.headD 0 == 0 && es.tail.all Sect.ok then some es else none))

/-- The string at an offset of a section, up to its zero byte. -/
def Hxo.name (f : Hxo) (e : Sect) (o : Nat) : List Byte :=
  let rest := field f.val (8 * (e.offset + o)) (8 * (e.size - o))
  ((List.range (e.size - o)).map (fun k => BitVec.ofNat 8 (rest / 256 ^ k))).takeWhile (· != 0)

/-- The fixed-size entries of a table section. -/
def Hxo.table (f : Hxo) (e : Sect) (n : Nat) (ok : Nat → Bool) : Option (List Nat) :=
  ((List.range (e.size / n)).mapM (fun i => f.at (e.offset + n * i) n)).bind (fun ts => if ts.all ok then some ts else none)

/-! ### Relocations (R263, R264) -/

/-- What a relocation of a kind stores, of S, A and P: the bytes of the datum or instruction, the lowest bit, the number of bits and v; none
where v breaks the check. -/
def relocValue (kind : Nat) (S A P : Int) : Option (Nat × Nat × Nat × Int) :=
  let v := S + A
  let d := S + A - P
  let disp (lo len : Nat) : Option (Nat × Nat × Nat × Int) :=
    if d % 4 = 0 && -(2 ^ (len - 1)) ≤ d / 4 && d / 4 < 2 ^ (len - 1) then some (12, lo, len, d / 4) else none
  match kind with
  | 1 => some (8, 0, 64, v)
  | 2 => if 0 ≤ v && v < 2 ^ 32 then some (4, 0, 32, v) else none
  | 3 => if 0 ≤ v && v < 2 ^ 48 && v % 4 = 0 then some (8, 0, 64, v) else none
  | 4 => if -(2 ^ 31) ≤ v && v < 2 ^ 32 then some (12, 8, 32, v) else none
  | 5 => some (12, 8, 32, v)
  | 6 => some (12, 8, 32, v / 2 ^ 32)
  | 7 => disp 20 30
  | 8 => disp 0 60
  | 9 => disp 20 20
  | 10 => if -32768 ≤ v && v ≤ 32767 then some (12, 14, 16, v) else none
  | _ => none

/-- A relocation at an offset of an image stores its bits, which must be zero there, and leaves every other bit. -/
def relocStore (img size ofs : Nat) (r : Nat × Nat × Nat × Int) : Option Nat :=
  let lo := 8 * ofs + r.2.1
  if size < ofs + r.1 || field img lo r.2.2.1 ≠ 0 then none else some (setField img lo r.2.2.1 (r.2.2.2 % 2 ^ r.2.2.1).toNat)

/-! ### The load (R267) -/

/-- The address of a global of the context's READY modules. -/
def Device.moduleGlobal (d : Device) (asid : Nat) (name : List Byte) : Option W64 :=
  ((d.ctx asid).modules.filter (fun e => e.2.state == 2)).findSome? (fun e => e.2.globals.lookup name)

/-- The final address of a symbol: a module already loaded gives an import's, an absolute symbol is its value in two's
complement (R245), another stands in its section. -/
def Hxo.symbol (f : Hxo) (d : Device) (asid base : Nat) (es : List Sect) (strs : Sect) (y : Nat) : Option Int :=
  if field y 54 2 = 2 then (d.moduleGlobal asid (f.name strs (field y 0 32))).map (·.toInt)
  else if field y 32 16 = 0xFFFF then some (BitVec.ofNat 64 (field y 64 64)).toInt
  else (es[field y 32 16]?).map (fun e => ((base + e.addr + field y 64 64 : Nat) : Int))

/-- The image of the sections that occupy it. -/
def Hxo.image (f : Hxo) (es : List Sect) : Option Nat :=
  (es.filter (fun e => e.alloc && e.type != 3)).foldl (fun t e => t.bind (fun img => (f.at e.offset e.size).map (fun c =>
    setField img (8 * e.addr) (8 * e.size) c))) (some 0)

/-- The bytes of the image. -/
def imageSize (es : List Sect) : Nat := (es.filter (·.alloc)).foldl (fun n e => max n (e.addr + e.size)) 0

/-- One relocation of a section is applied. -/
def Hxo.relocOne (f : Hxo) (d : Device) (asid base : Nat) (es : List Sect) (strs : Sect) (syms : List Nat) (e : Sect) (img r : Nat) : Option Nat :=
  let s := if field r 64 32 = 0 then some (base : Int) else (syms[field r 64 32]?).bind (f.symbol d asid base es strs)
  s.bind (fun s =>
    (relocValue (field r 96 8) s (BitVec.ofNat 64 (field r 128 64)).toInt ((base + e.addr + field r 0 64 : Nat) : Int)).bind
      (relocStore img (e.addr + e.size) (e.addr + field r 0 64)))

/-- The relocations of a table section are applied to the section it names, which must have contents in the image. -/
def Hxo.relocSection (f : Hxo) (d : Device) (asid base : Nat) (es : List Sect) (img : Nat) (t : Sect) : Option Nat :=
  match es[t.info]?, es[t.link]? with
  | some e, some y => match es[y.link]? with
    | some strs =>
      if !e.alloc || e.type = 3 then none
      else (f.table y 32 symbolOk).bind (fun syms => (f.table t 32 relocOk).bind (fun rs =>
        rs.foldl (fun m r => m.bind (fun img => f.relocOne d asid base es strs syms e img r)) (some img)))
    | none => none
  | _, _ => none

/-- The globals that a module defines, with their addresses. -/
def Hxo.globals (f : Hxo) (d : Device) (asid base : Nat) (es : List Sect) : Option (List (List Byte × W64)) :=
  (es.filter (·.type == 4)).foldl (fun t y => t.bind (fun gs => match es[y.link]? with
    | none => none
    | some strs => (f.table y 32 symbolOk).map (fun ss => gs ++ (ss.filter (fun y => field y 54 2 == 1)).filterMap (fun y =>
        (f.symbol d asid base es strs y).map (fun a => (f.name strs (field y 0 32), BitVec.ofInt 64 a)))))) (some [])

/-- Every import of a file names a global of the context's modules. -/
def Hxo.importsOk (f : Hxo) (d : Device) (asid : Nat) (es : List Sect) : Bool :=
  (es.filter (·.type == 4)).all (fun y => match es[y.link]?, f.table y 32 symbolOk with
    | some strs, some ss => ss.all (fun y => field y 54 2 != 2 || (d.moduleGlobal asid (f.name strs (field y 0 32))).isSome)
    | _, _ => false)

/-- What a load at a base makes of a file: the image, its size and the globals; none where the load fails: a file that is no linked module, a base
that is not aligned to 64 KiB and every section, an import that no loaded module defines, a relocation whose bits are not zero or whose check fails. -/
def Hxo.load (f : Hxo) (d : Device) (asid base : Nat) : Option (List Byte × List (List Byte × W64)) :=
  f.sections.bind (fun es =>
    if base % 65536 ≠ 0 || es.any (fun e => e.alloc && base % 2 ^ e.align != 0) || !f.importsOk d asid es then none
    else (f.image es).bind (fun img =>
      ((es.filter (·.type == 6)).foldl (fun m t => m.bind (fun img => f.relocSection d asid base es img t)) (some img)).bind (fun img =>
        (f.globals d asid base es).map (fun gs => (leBytes (imageSize es) img, gs)))))

/-- The bytes from an address are device memory of the context, page by page. -/
def St.areaMapped (s : St) (asid : Nat) : Nat → Nat → Nat → Bool
  | 0, _, n => n == 0
  | fuel + 1, va, n =>
    if n = 0 then true
    else match s.translate 0 asid va with
      | .error _ => false
      | .ok (pa, _, size) =>
        let here := size - va % size
        !isHost pa && s.areaMapped asid fuel (va + here) (n - here)

/-- Instruction stores drop what they hold of a range of a context (`ICINV`, R428). -/
def Device.dropCode (d : Device) (asid base size : Nat) : Device :=
  { d with iblocks := d.iblocks.filter (fun b => b.asid != asid || base + size ≤ b.va || b.va + Config.fetchBlock ≤ base) }

/-- No module. -/
def Module.free : Module := ⟨0, 0, 0, 0, [], []⟩

/-- `MODULE_LOAD` (R267, R428): a load begins with the entry LOADING; it ends, by a second such event, when the file's image at the base, relocated,
has been written to device memory, lines and fetch blocks as after `DCWB.system` and `ICINV.package`: the entry is READY and the load reported. A load
that fails leaves everything as it was. DESIGN CHOICE (log 51): the two events are all that other work comes between. -/
def execModuleLoad (asid : BitVec 16) (idx : Nat) (base : BitVec 64) (file len : Nat) (s : State) : Host.Outcome State Fault Refusal :=
  event s (fun s =>
    let a := asid.toNat
    let c := s.d.ctx a
    let m := c.modules.get Module.free idx
    let set (d : Device) (m : Module) : Device := d.setCtx a { d.ctx a with modules := c.modules.put idx m }
    if !c.live || 256 ≤ idx then none
    else if m.state = 1 && m.base = base then
      some ((s.areaWrite a base.toNat m.image).withD fun d =>
        { ((set d { m with state := 2, image := [] }).dropCode a base.toNat m.size) with loadReports := d.loadReports ++ [(a, idx)] })
    else if m.state ≠ 0 then none
    else ((⟨file, len⟩ : Hxo).load s.d a base.toNat).bind (fun r =>
      if !s.areaMapped a (r.1.length / 65536 + 2) base.toNat r.1.length then none
      else some (s.withD fun d => set d ⟨1, m.gen + 1, base, r.1.length, r.2, r.1⟩)))

end Sys2Proof.Machine
end

