-- ==== Sys2Proof/Machine/Packed.lean ====
section
/-! DEFINITION. Packed arithmetic and conversions (R134 to R141). -/

namespace Sys2Proof.Machine

/-- A packed FP16 or BF16 source: an inline constant stands in both elements (R123). -/
def packed (a : Src) (ty : BitVec 3) (x : Wave) (l e : Nat) : Nat :=
  match a.o with
  | .imm r => (fmtOf ty.toNat).round 0 false (FVal.ofInt (immVal r))
  | _ => (a.w x l).toNat / 2 ^ (16 * e) % 2 ^ 16

/-- An operation on both elements (R134). -/
def packedOp (opc : BitVec 12) (h : Ctl) (d : Opnd) (srcs : List Src) (ty : BitVec 3) (g : Fmt → Wave → Nat → Nat → Nat)
    (s : State) : Host.Outcome State Fault Refusal :=
  alu opc 4 h d 1 (srcs.map (·.rng 1))
    (fun x l => g (fmtOf ty.toNat) x l 0 + 2 ^ 16 * g (fmtOf ty.toNat) x l 1) s

/-- Byte `e` of a 32-bit source. -/
def byteAt (v : Nat) (e : Nat) : Nat := v / 2 ^ (8 * e) % 256

/-- The sum of c and four FP8 products, exact (R135, R84). -/
def qdot (rm : Nat) (fa fb : Fmt) (a b c : Nat) : FVal :=
  FVal.sum rm (((fmtOf 4).value c) :: (List.range 4).map (fun e => (fa.value (byteAt a e)).mul (fb.value (byteAt b e))))

/-- A byte as u8 or s8. -/
def byteInt (signed : Bool) (v : Nat) : Int := if signed && 128 ≤ v then (v : Int) - 256 else v

/-- The sum of c and four 8-bit products (R136). -/
def idot (sa sb sat : Bool) (a b c : Nat) : Nat :=
  let signed := sa || sb
  let c' : Int := if signed && 2 ^ 31 ≤ c then (c : Int) - 2 ^ 32 else c
  let v := c' + ((List.range 4).map (fun e => byteInt sa (byteAt a e) * byteInt sb (byteAt b e))).sum
  intRes (if signed then 5 else 4) sat v

/-- `HFMA2` (R134). -/
def execHfma2 (h : Ctl) (d : Opnd) (a b c : Src) (ty : BitVec 3) (f : FMod)
    (s : State) : Host.Outcome State Fault Refusal :=
  packedOp 0x240 h d [a, b, c] ty (fun q x l e => q.ffma f.rm.toNat f.sat (q.modify false f.nega (packed a ty x l e)) (q.modify false f.negb (packed b ty x l e)) (q.modify false f.negc (packed c ty x l e))) s

/-- `HADD2` (R134). -/
def execHadd2 (h : Ctl) (d : Opnd) (a b : Src) (ty : BitVec 3) (f : FMod)
    (s : State) : Host.Outcome State Fault Refusal :=
  packedOp 0x241 h d [a, b] ty (fun q x l e => q.fadd f.rm.toNat f.sat (q.modify false f.nega (packed a ty x l e)) (q.modify false f.negb (packed b ty x l e))) s

/-- `HMUL2` (R134). -/
def execHmul2 (h : Ctl) (d : Opnd) (a b : Src) (ty : BitVec 3) (f : FMod)
    (s : State) : Host.Outcome State Fault Refusal :=
  packedOp 0x242 h d [a, b] ty (fun q x l e => q.fmul f.rm.toNat f.sat (q.modify false f.nega (packed a ty x l e)) (q.modify false f.negb (packed b ty x l e))) s

/-- `QDOT4` (R135). -/
def execQdot4 (h : Ctl) (d : Opnd) (a b c : Src) (ty : BitVec 3) (rm : BitVec 2) (sat bty : Bool)
    (s : State) : Host.Outcome State Fault Refusal :=
  alu 0x243 4 h d 1 [a.rng 1, b.rng 1, c.rng 1]
    (fun x l => (fmtOf 4).round rm.toNat sat
      (qdot rm.toNat (fmtOf ty.toNat) (fmtOf (if bty then 1 else 0)) (a.w x l).toNat (b.w x l).toNat (c.flt x l 4))) s

/-- `IDOT4` (R136). -/
def execIdot4 (h : Ctl) (d : Opnd) (a b c : Src) (ty : BitVec 3) (sat bsgn : Bool)
    (s : State) : Host.Outcome State Fault Refusal :=
  alu 0x244 4 h d 1 [a.rng 1, b.rng 1, c.rng 1]
    (fun x l => idot (ty == 1) bsgn sat (a.w x l).toNat (b.w x l).toNat (c.w x l).toNat) s

/-- `FCVT` (R137). -/
def execFcvt (h : Ctl) (d : Opnd) (a : Src) (ty : BitVec 3) (rm : BitVec 2) (sat : Bool) (sty : BitVec 3)
    (s : State) : Host.Outcome State Fault Refusal :=
  alu 0x245 4 h d (fltN ty) [a.rng (fltN sty)]
    (fun x l => (fmtOf ty.toNat).round rm.toNat sat ((fmtOf sty.toNat).value (a.flt x l sty))) s

/-- `F2I`: clamped; NaN gives 0 (R82, R138). -/
def execF2i (h : Ctl) (d : Opnd) (a : Src) (ty : BitVec 3) (rm : BitVec 2) (sty : BitVec 3)
    (s : State) : Host.Outcome State Fault Refusal :=
  alu 0x246 4 h d (intN ty) [a.rng (fltN sty)]
    (fun x l =>
      let v := (fmtOf sty.toNat).value (a.flt x l sty)
      intRes ty true (match v.toInt rm.toNat with
        | some k => k
        | none => if v.isNan then 0 else if v.neg then intMin ty else intMax ty)) s

/-- `I2F` (R139). -/
def execI2f (h : Ctl) (d : Opnd) (a : Src) (ty : BitVec 3) (rm : BitVec 2) (sat : Bool) (sty : BitVec 3)
    (s : State) : Host.Outcome State Fault Refusal :=
  alu 0x247 4 h d (fltN ty) [a.rng (intN sty)]
    (fun x l => (fmtOf ty.toNat).round rm.toNat sat (FVal.ofInt (a.int x l sty))) s

/-- `PACK8` (R140). -/
def execPack8 (h : Ctl) (d : Opnd) (a b c : Src) (ty : BitVec 3) (rm : BitVec 2) (sat half : Bool)
    (s : State) : Host.Outcome State Fault Refusal :=
  alu 0x248 4 h d 1 [a.rng 1, b.rng 1, c.rng 1]
    (fun x l =>
      let q (v : Nat) := (fmtOf ty.toNat).round rm.toNat sat ((fmtOf 4).value v)
      let n := q (a.flt x l 4) + 2 ^ 8 * q (b.flt x l 4)
      let v := (c.w x l).toNat
      if half then v % 2 ^ 16 + 2 ^ 16 * n else v / 2 ^ 16 * 2 ^ 16 + n) s

/-- `UNPK8`: exact (R141). -/
def execUnpk8 (h : Ctl) (d : Opnd) (a : Src) (ty : BitVec 3) (ety half : Bool)
    (s : State) : Host.Outcome State Fault Refusal :=
  alu 0x249 4 h d (if ty.toNat = 4 then 2 else 1) [a.rng 1]
    (fun x l =>
      let q := fmtOf (if ety then 1 else 0)
      let o := if half then 2 else 0
      let u := (fmtOf ty.toNat).round 0 false (q.value (byteAt (a.w x l).toNat o))
      let v := (fmtOf ty.toNat).round 0 false (q.value (byteAt (a.w x l).toNat (o + 1)))
      if ty.toNat = 4 then u + 2 ^ 32 * v else u + 2 ^ 16 * v) s

end Sys2Proof.Machine
end

