-- ==== Sys2Proof/Machine/Crypto.lean ====
section
/-! DEFINITION. SHA-512 and Ed25519, which R432 names. PRESUMED (log 7): the spec does not spell them out; they are those of FIPS 180-4 and of
RFC 8032, which R432 cites. -/

namespace Sys2Proof.Machine

/-! ### SHA-512 -/

/-- The greatest number below 2^bits, from `r` on, whose k-th power is at most n, bit by bit. -/
def rootFrom (k n : Nat) : Nat → Nat → Nat
  | 0, r => r
  | b + 1, r => rootFrom k n b (if (r + 2 ^ b) ^ k ≤ n then r + 2 ^ b else r)

/-- A prime number. -/
def isPrime (n : Nat) : Bool := 2 ≤ n && (List.range n).all (fun k => k < 2 || n % k != 0)

/-- The first 80 primes. -/
def primes80 : List Nat := (List.range 410).filter isPrime

/-- The first 64 bits of the fractional part of the k-th root of a prime. -/
def rootBits (k p : Nat) : W64 := BitVec.ofNat 64 (rootFrom k (p * 2 ^ (64 * k)) 72 0)

/-- The round constants. -/
def shaK : List W64 := primes80.map (rootBits 3)

/-- The eight words at the start. -/
def shaStart : List W64 := (primes80.take 8).map (rootBits 2)

/-- The message schedule grown by `n` words, the last word first. -/
def shaExpand : Nat → List W64 → List W64
  | 0, ws => ws
  | n + 1, ws =>
    let w (k : Nat) : W64 := ws.getD (k - 1) 0
    let s0 := (w 15).rotateRight 1 ^^^ (w 15).rotateRight 8 ^^^ (w 15 >>> 7)
    let s1 := (w 2).rotateRight 19 ^^^ (w 2).rotateRight 61 ^^^ (w 2 >>> 6)
    shaExpand n ((s1 + w 7 + s0 + w 16) :: ws)

/-- One round on the words a to h, with a constant and a word of the schedule. -/
def shaRound (v : List W64) (kw : W64 × W64) : List W64 :=
  match v with
  | [a, b, c, d, e, f, g, h] =>
    let s1 := e.rotateRight 14 ^^^ e.rotateRight 18 ^^^ e.rotateRight 41
    let s0 := a.rotateRight 28 ^^^ a.rotateRight 34 ^^^ a.rotateRight 39
    let t1 := h + s1 + ((e &&& f) ^^^ (~~~e &&& g)) + kw.1 + kw.2
    let t2 := s0 + ((a &&& b) ^^^ (a &&& c) ^^^ (b &&& c))
    [t1 + t2, a, b, c, d + t1, e, f, g]
  | v => v

/-- Bytes as a number, the first highest. -/
def beNat (bs : List Byte) : Nat := bs.foldl (fun n b => 256 * n + b.toNat) 0

/-- A number as `n` bytes, the first highest. -/
def beBytes (n v : Nat) : List Byte := (List.range n).map (fun i => BitVec.ofNat 8 (v / 256 ^ (n - 1 - i)))

/-- A block of 128 bytes enters the hash. -/
def shaBlock (h : List W64) (block : List Byte) : List W64 :=
  let ws := ((List.range 16).map (fun i => BitVec.ofNat 64 (beNat ((block.drop (8 * i)).take 8)))).reverse
  let v := (shaK.zip (shaExpand 64 ws).reverse).foldl shaRound h
  (h.zip v).map (fun p => p.1 + p.2)

/-- The first `n` blocks of padded bytes enter the hash. -/
def shaBlocks : Nat → List W64 → List Byte → List W64
  | 0, h, _ => h
  | n + 1, h, bs => shaBlocks n (shaBlock h (bs.take 128)) (bs.drop 128)

/-- SHA-512: 64 bytes. -/
def sha512 (bs : List Byte) : List Byte :=
  let n := (bs.length + 17 + 127) / 128
  let pad := bs ++ [0x80#8] ++ List.replicate (128 * n - 17 - bs.length) 0 ++ beBytes 16 (8 * bs.length)
  (shaBlocks n shaStart pad).flatMap (fun w => beBytes 8 w.toNat)

/-! ### Ed25519 -/

/-- The prime of the field. -/
def edP : Nat := 2 ^ 255 - 19
/-- The order of the base point. -/
def edL : Nat := 2 ^ 252 + 27742317777372353535851937790883648493

/-- b^e modulo m, of an exponent below 2^n. -/
def powMod (m : Nat) : Nat → Nat → Nat → Nat
  | 0, _, _ => 1 % m
  | n + 1, b, e => let h := powMod m n (b * b % m) (e / 2); if e % 2 = 1 then b * h % m else h

/-- The inverse in the field. -/
def edInv (x : Nat) : Nat := powMod edP 256 x (edP - 2)
/-- a − b in the field. -/
def edSub (a b : Nat) : Nat := (a + edP - b % edP) % edP
/-- The constant d of the curve. -/
def edD : Nat := edSub 0 (121665 * edInv 121666 % edP)

/-- A point in extended coordinates. -/
structure EdPoint where
  x : Nat
  y : Nat
  z : Nat
  t : Nat

/-- The neutral point. -/
def EdPoint.zero : EdPoint := ⟨0, 1, 1, 0⟩

/-- The sum of two points. -/
def EdPoint.add (p q : EdPoint) : EdPoint :=
  let a := edSub p.y p.x * edSub q.y q.x % edP
  let b := (p.y + p.x) * (q.y + q.x) % edP
  let c := 2 * edD * p.t * q.t % edP
  let d := 2 * p.z * q.z % edP
  let e := edSub b a
  let f := edSub d c
  let g := (d + c) % edP
  let h := (b + a) % edP
  ⟨e * f % edP, g * h % edP, f * g % edP, e * h % edP⟩

/-- k times a point, of a number below 2^n. -/
def EdPoint.mul : Nat → Nat → EdPoint → EdPoint
  | 0, _, _ => .zero
  | n + 1, k, p => let q := EdPoint.mul n (k / 2) (p.add p); if k % 2 = 1 then p.add q else q

/-- Two points are one. -/
def EdPoint.same (p q : EdPoint) : Bool := p.x * q.z % edP == q.x * p.z % edP && p.y * q.z % edP == q.y * p.z % edP

/-- The x coordinate of a y coordinate and a sign; none where there is none. -/
def edX (y sign : Nat) : Option Nat :=
  let u := edSub (y * y % edP) 1 * edInv (edD * (y * y % edP) % edP + 1) % edP
  let r := powMod edP 256 u ((edP + 3) / 8)
  let r := if r * r % edP = u then r else r * powMod edP 256 2 ((edP - 1) / 4) % edP
  if edP ≤ y || r * r % edP ≠ u || (r = 0 && sign = 1) then none
  else some (if r % 2 = sign then r else edP - r)

/-- A number as `n` bytes, the first lowest. -/
def lowBytes (n v : Nat) : List Byte := (List.range n).map (fun i => BitVec.ofNat 8 (v / 256 ^ i))
/-- Bytes as a number, the first lowest. -/
def lowNat (bs : List Byte) : Nat := bs.foldr (fun b n => b.toNat + 256 * n) 0

/-- The 32 bytes of a point. -/
def EdPoint.bytes (p : EdPoint) : List Byte :=
  let i := edInv p.z
  lowBytes 32 (p.y * i % edP + p.x * i % edP % 2 * 2 ^ 255)

/-- The point of 32 bytes. -/
def edPoint (bs : List Byte) : Option EdPoint :=
  let n := lowNat bs
  (edX (n % 2 ^ 255) (n / 2 ^ 255)).map (fun x => ⟨x, n % 2 ^ 255, 1, x * (n % 2 ^ 255) % edP⟩)

/-- The base point, y = 4/5. -/
def edBase : EdPoint :=
  let y := 4 * edInv 5 % edP
  let x := (edX y 0).getD 0
  ⟨x, y, 1, x * y % edP⟩

/-- The secret scalar of a 32-byte key. -/
def edScalar (key : List Byte) : Nat := lowNat ((sha512 key).take 32) / 8 * 8 % 2 ^ 254 + 2 ^ 254

/-- The 32-byte public key of a key. -/
def edPublic (key : List Byte) : List Byte := ((EdPoint.mul 256 (edScalar key) edBase)).bytes

/-- The 64-byte Ed25519 signature of a message with a key. -/
def edSign (key msg : List Byte) : List Byte :=
  let r := lowNat (sha512 ((sha512 key).drop 32 ++ msg)) % edL
  let rb := (EdPoint.mul 256 r edBase).bytes
  let k := lowNat (sha512 (rb ++ edPublic key ++ msg)) % edL
  rb ++ lowBytes 32 ((r + k * edScalar key) % edL)

/-- The signature of a message verifies under a public key: 8 S B = 8 R + 8 k A. -/
def edVerify (pub msg sig : List Byte) : Bool :=
  let s := lowNat (sig.drop 32)
  let k := lowNat (sha512 (sig.take 32 ++ pub ++ msg)) % edL
  match edPoint pub, edPoint (sig.take 32) with
  | some a, some r => pub.length == 32 && sig.length == 64 && s < edL &&
      (EdPoint.mul 4 8 (EdPoint.mul 256 s edBase)).same (EdPoint.mul 4 8 (r.add (EdPoint.mul 256 k a)))
  | _, _ => false

end Sys2Proof.Machine
end

