-- ==== Sys2Proof/Machine/Platform.lean ====
section
/-! DEFINITION. The Dunvia Link, the host's register window, Foxglove's services, modules, power, the dump, firmware and attestation, and reset
(R38, R418, R421 to R437). -/

namespace Sys2Proof.Machine

/-! ### The Dunvia Link (R421) -/

/-- The host's traffic flows. -/
def Device.linkUp (d : Device) : Bool := d.link == .active

/-- The number of a state in LINKST. DEDUCED (log 16): in the order of the table of R421. -/
def Link.code : Link → Nat
  | .detect => 0
  | .train => 1
  | .negotiate => 2
  | .active => 3
  | .retrain => 4
  | .down => 5

/-- The widest supported width at or below what the other end supports. -/
def widthOf (n : Nat) : Nat := if 16 ≤ n then 16 else if 8 ≤ n then 8 else 4

/-- `LINK_DETECT` (R421): at least 4 lanes are present; a DOWN link goes back to DETECT on the host runtime's request. -/
def execLinkDetect (lanes : Nat) (s : State) : Host.Outcome State Fault Refusal :=
  event s (fun s =>
    if s.d.link = .down then some (s.withD fun d => { d with link := .detect })
    else if s.d.link = .detect && 4 ≤ lanes && lanes ≤ 16 then some (s.withD fun d => { d with link := .train, linkWidth := widthOf lanes }) else none)

/-- `FLIT_REPLAY` (R421): the link retrains after 16 consecutive retries. -/
def execFlitReplay (s : State) : Host.Outcome State Fault Refusal :=
  event s (fun s =>
    if s.d.link ≠ .active then none
    else some (s.withD fun d => if d.retries = 15 then { d with link := .retrain, retries := 0 } else { d with retries := d.retries + 1 }))

/-- A second, in cycles of 1.7 GHz (R1). -/
def secondCycles : Nat := 1700000000

/-- Three failures within a second. -/
def Device.retrainLost (d : Device) : Bool := 3 ≤ (d.retrainFails.filter (fun t => d.clock.toNat < t + secondCycles)).length

/-- The write is a spill store of a call that waits for it (R21). -/
def Wave.spills (x : Wave) (o : OutW) : Bool := x.spill.any (fun p => p.lo ≤ o.seq && o.seq < p.hi)

/-- A wave's unconfirmed writes to host memory complete with a Dunvia Link error (R146, R421): as the error of the operation that they complete,
at the call that waits for a spill store (R21), else as an untracked error. -/
def Wave.linkLost (x : Wave) : Wave :=
  let lost := x.outw.filter (fun o => o.host && !o.late)
  let det (o : OutW) (opc : BitVec 12) : Detail := mkDetail 2 opc (BitVec.ofNat 64 o.va)
  let fail (p : Op) : Op := match lost.find? (fun o => o.op == some p.id) with
    | some o => { p with done := true, err := p.err.or (some (det o p.opc)) }
    | none => p
  let plain := lost.filter (fun o => !x.ops.any (fun p => o.op == some p.id) && !x.spills o)
  { x with
    spill := x.spill.map (fun p => { p with lost := p.lost ++ (lost.filter x.spills).map (·.va) })
    outw := x.outw.filter (fun o => !o.host || o.late), ops := x.ops.map fail
    untracked := x.untracked.or ((plain.head?).map (fun o => det o 0)), asyncDue := x.asyncDue || !plain.isEmpty }

/-- `LINK_DOWN` (R421): after the third failure every outstanding transaction completes with an error. -/
def execLinkDown (s : State) : Host.Outcome State Fault Refusal :=
  event s (fun s =>
    if s.d.link ≠ .retrain || !s.d.retrainLost then none
    else some (s.withD fun d => { d with
      link := .down, hostHeld := []
      waves := d.waves.map (fun e => (e.1, e.2.linkLost))
      saved := d.saved.map (fun v => { v with waves := v.waves.map Wave.linkLost })
      orphans := (d.orphans.map (fun e => (e.1, e.2.filter (fun o => !o.host)))).filter (fun e => !e.2.isEmpty) }))

/-! ### The register window (R423) -/

/-- An address in host memory (R301): registers name host memory by its place there. -/
def hostAddr (v : W64) : Nat := 2 ^ 51 + v.toNat % 2 ^ 51

/-- LINKST. -/
def Device.linkst (d : Device) : Nat := d.link.code + 8 * d.linkWidth + 256 * d.linkRate + if d.linkFerr then 1024 else 0

/-- The context that NTFSEL names. -/
def Device.ntfsel (d : Device) : Nat := (d.hreg.get 0 0x50).toNat % 65536

/-- What a host read of an offset returns (R423). ID's revision is the device's own (log 7). -/
def Device.hostRead (d : Device) (ofs : Nat) : Nat :=
  let c := d.ctx d.ntfsel
  match ofs with
  | 0x00 => 0x2880 + 65536 * Config.revision.toNat
  | 0x08 => d.linkst
  | 0x20 => d.power
  | 0x58 => c.ntfBase.toNat
  | 0x60 => c.ntfLog
  | 0x68 => c.ntfHead
  | 0x70 => c.ntfTail
  | n =>
    if [0x10, 0x18, 0x28, 0x30, 0x38, 0x48, 0x50].contains n then (d.hreg.get 0 n).toNat
    else if n % 8 = 0 && ((0x108 ≤ n && n < 0x200 && n % 16 = 8) || (0x200 ≤ n && n < 0x280)) then (d.hreg.get 0 n).toNat
    else if n % 8 = 0 && 0x400 ≤ n && n < 0x400 + 8 * 80 then (d.serc.get 0 ((n - 0x400) / 8)).toNat else 0

/-- Writes a register. -/
def Device.setReg (d : Device) (ofs : Nat) (v : W64) : Device := { d with hreg := d.hreg.put ofs v }

/-- Sets bits of EVT. -/
def Device.raise (d : Device) (bit : Nat) : Device := d.setReg 0x38 (d.hreg.get 0 0x38 ||| BitVec.ofNat 64 (2 ^ bit))

/-- A write to PLATD (R422): the descriptor is read; a faulty one sets FERR, and no link is trained. -/
def St.platd (s : St) (v : W64) : St :=
  let n := s.rdN (hostAddr v) 64
  let sizes := (List.range 4).map (fun i => field n (8 * i) 8)
  let coords := (List.range 4).map (fun i => field n (32 + 8 * i) 8)
  let ok := field n 64 448 == 0 && (List.range 4).all (fun i =>
    1 ≤ sizes.getD i 0 && sizes.getD i 0 ≤ [64, 64, 16, 12].getD i 0 && coords.getD i 0 < sizes.getD i 0)
  s.withD fun d =>
    let d := { d.setReg 0x10 v with fabricUp := false }
    if ok then { d with torus := sizes, coords := coords } else { d with torus := [], coords := [], linkFerr := true }

/-- A write to PARTSET (R418): a partition of 1 to 4,095 belongs to a context, and a registration for another context does not stay; or the entry is
not VALID any more. -/
def Device.partset (d : Device) (v : W64) : Device :=
  let p := field v.toNat 16 12
  let a := v.toNat % 65536
  if !v.getLsbD 63 then { d with partitions := d.partitions.filter (fun e => e.1 != p || e.2.asid != a) }
  else if p = 0 then d
  else
    let am := match d.partitions.lookup p with
      | some e => if e.valid && e.asid == a then e.am else none
      | none => none
    { d with partitions := d.partitions.put p ⟨true, a, am⟩ }

/-- A write to AMREG (R418): a slot that holds no admitted launch of the context is refused, and reads back with bit 63 clear. -/
def Device.amreg (d : Device) (v : W64) : Device :=
  let a := v.toNat % 65536
  let k := field v.toNat 16 12
  let l := d.launch k
  let set (am : Option Nat) : Device :=
    { d with partitions := d.partitions.map (fun e => if e.2.valid && e.2.asid == a then (e.1, { e.2 with am := am }) else e) }
  if !v.getLsbD 63 then (set none).setReg 0x48 v
  else if l.used && l.admitted && !l.aborted && l.asid == a && (d.partOf a).isSome then (set (some k)).setReg 0x48 v
  else d.setReg 0x48 (v &&& ~~~(1#64 <<< 63))

/-- Changes the notification ring of the context that NTFSEL names. -/
def Device.setRing (d : Device) (f : Context → Context) : Device :=
  if (d.ctx d.ntfsel).live then d.setCtx d.ntfsel (f (d.ctx d.ntfsel)) else d

/-- A write to NTFLOG (R437): 0 is no ring; a value above 20 is none that the register holds. -/
def Device.ntflog (d : Device) (v : W64) : Device :=
  if 20 < v.toNat % 32 then d else d.setRing (fun c => { c with ntfLog := v.toNat % 32, ntfHead := 0, ntfTail := 0 })

/-- A write to NTFHEAD (R437): a value below the current one or above NTFTAIL is ignored. -/
def Device.ntfhead (d : Device) (v : W64) : Device :=
  d.setRing (fun c => if c.ntfHead ≤ v.toNat && v.toNat ≤ c.ntfTail then { c with ntfHead := v.toNat } else c)

/-- A write to LQREC(q) (R424): it waits its turn: the record is enqueued at the end of a cycle, after the device's enqueues (R326); LQSTAT(q) reads
0xFFFFFFFF until its outcome stands. -/
def Device.lqrec (d : Device) (q : Nat) (v : W64) : Device :=
  { d.setReg (0x200 + 8 * q) 0xFFFFFFFF with lqrecs := d.lqrecs ++ [(q, (d.hreg.get 0 (0x108 + 16 * q)).toNat % 65536, v)] }

/-- A host access with an effect (R423): a write to an offset, or a read, which clears EVT; others change nothing. -/
def St.hostDo (s : St) (a : Bool × Nat × W64) : St :=
  let v := a.2.2
  if !a.1 then (if a.2.1 = 0x38 then s.withD (·.setReg 0x38 0) else s)
  else match a.2.1 with
    | 0x10 => s.platd v
    | 0x18 => s.withD (·.setReg 0x18 v)
    | 0x28 => s.withD (·.setReg 0x28 v)
    | 0x30 => s.withD (·.setReg 0x30 v)
    | 0x40 => s.withD (·.partset v)
    | 0x48 => s.withD (·.amreg v)
    | 0x50 => s.withD (·.setReg 0x50 (v &&& 0xFFFF))
    | 0x58 => s.withD (·.setRing (fun c => { c with ntfBase := v, ntfHead := 0, ntfTail := 0 }))
    | 0x60 => s.withD (·.ntflog v)
    | 0x68 => s.withD (·.ntfhead v)
    | n =>
      if 0x100 ≤ n && n < 0x200 && n % 16 = 0 then s.withD (·.lqrec ((n - 0x100) / 16) v)
      else if 0x108 ≤ n && n < 0x200 && n % 16 = 8 then s.withD (·.setReg n (v &&& 0xFFFF)) else s

/-- A HOST ACCESS (R421, R423): it acts while the link is ACTIVE; a link that retrains holds it; in any other state nothing reaches the device. -/
def hostAccess (a : Bool × Nat × W64) (s : State) : Host.Outcome State Fault Refusal :=
  event s (fun s =>
    if s.d.linkUp then some (s.hostDo a)
    else if s.d.link = .retrain then some (s.withD fun d => { d with hostHeld := d.hostHeld ++ [a] }) else none)

/-- The link is ACTIVE again: the accesses that it held act, in order (R421). -/
def St.releaseHeld (s : St) : St := s.d.hostHeld.foldl St.hostDo (s.withD fun d => { d with hostHeld := [] })

/-- `PLATD` (R422). -/
def execPlatd (v : BitVec 64) (s : State) : Host.Outcome State Fault Refusal := hostAccess (true, 0x10, v) s

/-- `LTOL` (R430). -/
def execLtol (v : BitVec 64) (s : State) : Host.Outcome State Fault Refusal := hostAccess (true, 0x18, v) s

/-- `EVT` (R423): cleared on read. -/
def execEvt (s : State) : Host.Outcome State Fault Refusal := hostAccess (false, 0x38, 0) s

/-- `PARTSET_ASSIGN` (R418). -/
def execPartsetAssign (v : BitVec 64) (s : State) : Host.Outcome State Fault Refusal :=
  if v.getLsbD 63 then hostAccess (true, 0x40, v) s else event s (fun _ => none)

/-- `PARTSET_REMOVE` (R418). -/
def execPartsetRemove (v : BitVec 64) (s : State) : Host.Outcome State Fault Refusal :=
  if v.getLsbD 63 then event s (fun _ => none) else hostAccess (true, 0x40, v) s

/-- `AMREG` (R418). -/
def execAmreg (v : BitVec 64) (s : State) : Host.Outcome State Fault Refusal := hostAccess (true, 0x48, v) s

/-- `NTFBASE` (R437). -/
def execNtfbase (v : BitVec 64) (s : State) : Host.Outcome State Fault Refusal := hostAccess (true, 0x58, v) s

/-- `NTFLOG` (R437). -/
def execNtflog (v : BitVec 64) (s : State) : Host.Outcome State Fault Refusal := hostAccess (true, 0x60, v) s

/-- `NTFHEAD` (R437). -/
def execNtfhead (v : BitVec 64) (s : State) : Host.Outcome State Fault Refusal := hostAccess (true, 0x68, v) s

/-- `LQREC` (R424). -/
def execLqrec (q : Nat) (v : BitVec 64) (s : State) : Host.Outcome State Fault Refusal :=
  if q < 16 then hostAccess (true, 0x100 + 16 * q, v) s else event s (fun _ => none)

/-- `REGISTER_WRITE` (R423): DUMPB, DUMPS, NTFSEL and LQASID(q) are stored; a write to another offset is ignored, and those that have an event of
their own are not written by this one. -/
def execRegisterWrite (ofs : Nat) (v : BitVec 64) (s : State) : Host.Outcome State Fault Refusal :=
  if ofs = 0x28 || ofs = 0x30 || ofs = 0x50 || (0x108 ≤ ofs && ofs < 0x200 && ofs % 16 = 8) then hostAccess (true, ofs, v) s
  else event s (fun _ => none)

/-! ### Training and retraining -/

/-- Width and rate are agreed, as the highest that both ends support, and traffic flows (R421). -/
def Device.agreeLink (d : Device) (width rate : Nat) : Device :=
  { d with link := .active, linkWidth := min d.linkWidth (widthOf width), linkRate := rate, retries := 0, retrainFails := [] }

/-- `LINK_TRAIN` (R421): aligned lanes go on to negotiate; then width and rate are agreed. A link that retrains does both as one. -/
def execLinkTrain (width rate : Nat) (s : State) : Host.Outcome State Fault Refusal :=
  event s (fun s =>
    if s.d.link = .train then some (s.withD fun d => { d with link := .negotiate })
    else if (s.d.link = .negotiate || (s.d.link = .retrain && !s.d.retrainLost)) && 4 ≤ width && rate ≤ 2 then
      some (s.withD (·.agreeLink width rate)).releaseHeld
    else none)

/-- `LINK_RETRAIN` (R421): a retraining that succeeds agrees on the width and the rate that the link had, which both ends support; one that fails is
noted. -/
def execLinkRetrain (ok : Bool) (s : State) : Host.Outcome State Fault Refusal :=
  event s (fun s =>
    if s.d.link ≠ .retrain || s.d.retrainLost then none
    else if ok then some (s.withD fun d => d.agreeLink d.linkWidth d.linkRate).releaseHeld
    else some (s.withD fun d => { d with retrainFails := d.retrainFails ++ [d.clock.toNat] }))

/-! ### Services (R425, R426, R437) -/

/-- A wave that is parked on a system call of a CODE, with the lanes that called. -/
def Device.caller (d : Device) (w code : Nat) : Option (Wave × Lanes) :=
  let x := d.wave w
  match x.latch with
  | some r => if x.live && x.parked && x.latched == (34, code) then some (x, r.active) else none
  | none => none

/-- A service: lane by lane, then the wave resumes (R425). -/
def service (w code : Nat) (f : Nat → St → St) (s : State) : Host.Outcome State Fault Refusal :=
  event s (fun s => match s.d.caller w code with
    | none => none
    | some (_, act) =>
      let s := (lanesOf act).foldl (fun s l => f l s) s
      some (s.withD fun d => d.setWave w (d.wave w).resume))

/-- The results of a call in a lane. -/
def St.answer (s : St) (w l : Nat) (w0 : W32) (w1 : Option W32) : St :=
  s.withD fun d =>
    let x := (d.wave w).setReg l 0 w0
    d.setWave w (match w1 with
      | some v => x.setReg l 1 v
      | none => x)

/-- The notification ring of a context is there and has room (R437). -/
def Device.ringRoom (d : Device) (asid : Nat) : Bool :=
  let c := d.ctx asid
  c.ntfLog != 0 && c.ntfTail - c.ntfHead < 2 ^ c.ntfLog

/-- `NOTIFY` (R437): an entry of the context's ring, with the clock at the call; one that is written waits for the host's confirmation, so it needs the
link. -/
def execNotify (w : Nat) (s : State) : Host.Outcome State Fault Refusal :=
  if s.dev.link ≠ .active && s.dev.ringRoom (s.dev.block (s.dev.wave w).blk).asid then event s (fun _ => none)
  else service w 1 (fun l s =>
    let x := s.d.wave w
    let b := s.d.block x.blk
    let c := s.d.ctx b.asid
    if !s.d.ringRoom b.asid then s.answer w l 0x80000005 none
    else
      let n := x.group l 0 11 + 2 ^ 352 * b.slot + 2 ^ 368 * l + 2 ^ 384 * (x.thread l).workid.toNat + 2 ^ 448 * x.parkAt.toNat
      let s := s.wrN (hostAddr c.ntfBase + 64 * (c.ntfTail % 2 ^ c.ntfLog)) 64 n
      (s.withD fun d => (d.setCtx b.asid { c with ntfTail := c.ntfTail + 1 }).raise 1).answer w l 0 none) s

/-- A string of the wave's address space up to its zero byte: none at a byte that cannot be read, an empty answer in the second place where no
byte of the first `n` is zero. -/
def St.nameAt (s : St) (w : Nat) : Nat → W64 → Option (Option (List Byte))
  | 0, _ => some none
  | n + 1, a =>
    match s.check (s.d.wave w).blk a 1 1 .read false with
    | .error _ => none
    | .ok p =>
      if (s.readErr p).isSome then none
      else
        let v := (s.load (w / 64) p 1).1
        if v = 0 then some (some [])
        else (s.nameAt w n (a + 1)).map (fun t => t.map (BitVec.ofNat 8 v :: ·))

/-- `LOOKUP` (R426): the address of a global of the context's READY modules. -/
def execLookup (w : Nat) (s : State) : Host.Outcome State Fault Refusal :=
  service w 2 (fun l s =>
    let x := s.d.wave w
    match s.nameAt w 256 (x.pair l 0) with
    | none => s.answer w l 0x80000003 none
    | some none => s.answer w l 0x80000004 none
    | some (some name) =>
      match s.d.moduleGlobal (s.d.block x.blk).asid name with
      | some a => s.answer w l (a.setWidth 32) (some (BitVec.ofNat 32 (a.toNat / 2 ^ 32)))
      | none => s.answer w l 0x80000002 none) s

/-- `ABORT` (R426): the launch is aborted, and with it the calling wave. -/
def execAbort (w : Nat) (s : State) : Host.Outcome State Fault Refusal :=
  event s (fun s => match s.d.caller w 3 with
    | none => none
    | some (x, _) => some (s.abortLaunch (s.d.block x.blk).slot))

/-- Bits 63:0 of a module table entry (R427). -/
def Module.word (m : Module) : Nat := m.state + 2 ^ 48 * m.gen.toNat

/-- `MODSTAT` (R426). -/
def execModstat (w : Nat) (s : State) : Host.Outcome State Fault Refusal :=
  service w 4 (fun l s =>
    let x := s.d.wave w
    let i := (x.reg l 0).toNat
    if 256 ≤ i then s.answer w l 0x80000004 none
    else
      let m := ((s.d.ctx (s.d.block x.blk).asid).modules.get Module.free i).word
      s.answer w l (BitVec.ofNat 32 m) (some (BitVec.ofNat 32 (m / 2 ^ 32)))) s

/-! ### Modules (R427 to R429) -/

/-- The address of the leaf entry that maps an address (R304). -/
def St.leafFrom (s : St) (va : Nat) : Nat → Nat → Nat → Option Nat
  | 0, _, _ => none
  | fuel + 1, level, tab =>
    let at' := canonical (tab + 8 * field va (levelLo level) (levelBits level))
    let e := s.rdN at' 8
    if pteBad level e then none
    else if field e 1 1 = 1 then some at' else s.leafFrom va fuel (level + 1) (field e 12 40 * 4096)

/-- Clears the leaf entry of an address in a die's tables. -/
def St.unmapPage (s : St) (asid die va : Nat) : St :=
  let r := ((s.d.ctx asid).roots.get 0 die).toNat
  if field r 0 1 = 0 then s
  else match s.leafFrom va 5 0 (field r 15 37 * 2 ^ 15) with
    | some a => s.baseLine (lineOf a) (cellsOf a 8 0)
    | none => s

/-- Removes the translations of a range (R307, R429), 64 KiB by 64 KiB. -/
def St.unmapRange (s : St) (asid base size : Nat) : St :=
  let n := (base + size + 65535) / 65536 - base / 65536
  let s := (List.range n).foldl (fun s i => (List.range 4).foldl (fun s die => s.unmapPage asid die ((base / 65536 + i) * 65536)) s) s
  (s.changed asid base size).withD (·.dropCode asid base size)

/-- An admitted launch of the context has its ENTRY, or a pinned segment, in the module (R429). -/
def Device.moduleBusy (d : Device) (asid : Nat) (m : Module) : Bool :=
  let stop := m.base.toNat + m.size
  d.launches.any (fun e => e.2.used && e.2.admitted && e.2.asid == asid &&
    ((m.base.toNat ≤ e.2.entry && e.2.entry < stop) || (d.mapEntries e.1).any (fun g =>
      !(segPins g).isEmpty && field g 0 64 < stop && m.base.toNat < field g 0 64 + field g 64 32)))

/-- `MODULE_UNLOAD` (R429): refused while an admitted launch has its ENTRY, or a pinned segment, in the module; else the entry is UNLOADING, and a
second such event removes the translations and frees the entry (log 51). -/
def execModuleUnload (asid : BitVec 16) (idx : Nat) (s : State) : Host.Outcome State Fault Refusal :=
  event s (fun s =>
    let a := asid.toNat
    let c := s.d.ctx a
    let m := c.modules.get Module.free idx
    let set (d : Device) (m : Module) : Device := d.setCtx a { d.ctx a with modules := c.modules.put idx m }
    if !c.live || m.state < 2 || (m.state = 2 && s.d.moduleBusy a m) then none
    else if m.state = 2 then some (s.withD fun d => set d { m with state := 3 })
    else some ((s.unmapRange a m.base.toNat m.size).withD fun d => set d { Module.free with gen := m.gen }))

/-! ### Power (R430) -/

/-- The device is idle: no block bound, no record queued, no copy, collective step or Posy record outstanding. -/
def Device.idle (d : Device) : Bool :=
  !d.blocks.any (·.2.live) && d.lqs.all (fun e => e.2.isEmpty) && d.copies.isEmpty && d.forms.isEmpty && d.spill.isEmpty &&
    !d.transit.any (·.rank.isNone) && d.bindings.all (fun e => e.2.colls.isEmpty && !e.2.chunks.any (·.2.reducing))

/-- The device is idle, and no overflow ring of a launch holds a record. -/
def St.idle (s : St) : Bool :=
  s.d.idle && !s.d.launches.any (fun e => e.2.used && e.2.admitted && (List.range 289).any (fun c => s.ringOcc e.1 c != 0))

/-- The deepest state whose exit latency is at most LTOL; S3 not while a park stands below PACKAGE. -/
def Device.deepest (d : Device) : Nat :=
  let t := (d.hreg.get 0 0x18).toNat
  let low := d.parks.any (fun e => e.2.any (·.lvl < 3))
  if 2000000 ≤ t && !low then 3 else if 50000 ≤ t then 2 else if 2000 ≤ t then 1 else 0

/-- The dies' caches are written back and emptied: each reads the latest bytes at home from here on. -/
def Device.emptyCaches (d : Device) : Device :=
  let d := ((d.readers.map (·.2)) ++ (d.owners.filter (·.2 < 4)).map (·.1)).eraseDups.foldl (fun d ln => d.invalidate ln) d
  { d with iblocks := [], tlb := [] }

/-- `POWER_STATE_ENTRY` (R430): in S3 the compute dies' caches are written back and emptied. -/
def execPowerStateEntry (s : State) : Host.Outcome State Fault Refusal :=
  event s (fun s =>
    let p := s.d.deepest
    if !s.idle || p ≤ s.d.power then none
    else
      let s := if p = 3 then s.d.locals.foldl (fun s l => s.pushLocal l true) s else s
      some (s.withD fun d => if p = 3 then { d.emptyCaches with power := p } else { d with power := p }))

/-- `POWER_WAKE` (R430): a record in a launch queue wakes the device, and so does anything else that it may not sleep through; a tolerance below the
exit latency of its state brings it up to a state that the tolerance allows. -/
def execPowerWake (s : State) : Host.Outcome State Fault Refusal :=
  event s (fun s =>
    if s.d.power = 0 then none
    else if !s.idle then some (s.withD fun d => { d with power := 0 })
    else if s.d.deepest < s.d.power then some (s.withD fun d => { d with power := d.deepest }) else none)

/-! ### The device's own signatures (R432) -/

/-- The identity key pair's secret half (R434). -/
def identityKey : List Byte := (List.range 32).map Config.identityKey

/-- The 64-byte signature of a digest with the identity key. -/
def deviceSign (digest : List Byte) : List Byte := edSign identityKey digest

/-! ### The dump (R431) -/

/-- Bytes that the spec gives no value: free (log 5). -/
def freeBytes (k n : Nat) : List Byte := (List.range n).map (fun i => (Config.freeValue (k + i)).setWidth 8)

/-- The save area of a resident block as one number, in the layout of R355. -/
def St.saveImage (s : St) (k : Nat) : Nat × Nat :=
  let v := s.d.savedOf k 0 0
  let b := v.block
  let put (o x : Nat) : Nat := x * 2 ^ (8 * o)
  let fs := (v.fields s.d).foldl (fun n f => n + put f.1 (f.2.2 % 2 ^ (8 * f.2.1))) 0
  let tiles := (List.range b.accN).foldl (fun n t => n + put (v.accsAt s.d + 74816 * t) (s.rdN (tileBase (k / 64) (b.accB + t)) 65536)) 0
  (v.size s.d, fs + tiles + put (v.scrAt s.d) (s.rdN (scratchBase (k / 64) + b.scrb) b.scrsz))

/-- Filled with zeros to a multiple of 4 KiB. -/
def pad4k (bs : List Byte) : List Byte := bs ++ List.replicate ((4096 - bs.length % 4096) % 4096) 0

/-- Section 2 of a dump: the link's state, the fabric links that are down, and the slot tables as they stand (R397, R421). -/
def Device.dumpLinks (d : Device) : List Byte :=
  leBytes 4 d.link.code ++ leBytes 4 d.linkWidth ++ leBytes 8 d.linkRate ++ leBytes 8 d.linksDown.length ++ d.linksDown.flatMap (leBytes 4) ++
    d.slotTabs.flatMap (fun e => leBytes 8 e.1 ++ e.2.flatMap (fun x => leBytes 2 x.toNat))

/-- Section 3 of a dump: for each die its directory, which names the lines that it owns and those that it holds read copies of, and its park records
(R282, R311); die 4 is the base die. -/
def Device.dumpDirectory (d : Device) : List Byte :=
  let item (ln kind : Nat) (p : Option Park) : List Byte := leBytes 8 ln ++ leBytes 8 kind ++ (match p with
    | some p => leBytes 8 p.set.toNat ++ leBytes 4 p.unread.toNat ++ leBytes 2 p.lvl ++ leBytes 2 p.loc
    | none => leBytes 16 0)
  (List.range 5).flatMap (fun e =>
    (d.owners.filter (·.2 == e)).flatMap (fun o => item o.1 0 none) ++ (d.readers.filter (·.1 == e)).flatMap (fun r => item r.2 1 none) ++
    d.parks.flatMap (fun p => match p.2 with
      | some q => if q.die.getD 4 = e then item p.1 2 (some q) else []
      | none => []))

/-- Section 4 of a dump: core by core, the save areas of the blocks that stand there. -/
def St.dumpAreas (s : St) : List Byte := s.d.blocks.flatMap (fun e => if e.2.live then
    let v := s.saveImage e.1
    pad4k (leBytes v.1 v.2)
  else [])

/-- The sections that end within DUMPS, from an offset on: type, offset, bytes. -/
def dumpPlace (size : Nat) : List (List Byte) → Nat → Nat → List (Nat × Nat × List Byte)
  | [], _, _ => []
  | b :: bs, t, o => if o + (pad4k b).length ≤ size then (t, o, pad4k b) :: dumpPlace size bs (t + 1) (o + (pad4k b).length) else []

/-- The first five sections of a dump (R431). DESIGN CHOICE (log 17): the spec gives no form of their bytes; error records and Foxglove's logs are free,
in number and value. -/
def St.dumpSections (s : St) (size : Nat) : List (Nat × Nat × List Byte) :=
  let k := s.d.free
  let n := (Config.freeValue k).toNat % 2 ^ 32
  dumpPlace size
    [(List.range 80).flatMap (fun i => leBytes 8 (s.d.serc.get 0 i).toNat) ++ freeBytes (k + 2) n, s.d.dumpLinks, s.d.dumpDirectory, s.dumpAreas,
      freeBytes (k + 2 + n) ((Config.freeValue (k + 1)).toNat % 2 ^ 32)] 1 4096

/-- The bytes of a dump: header, directory, sections, the last of them the signature of what stands before it (R431, R432). -/
def St.dumpBytes (s : St) (size struct die : Nat) : List Byte :=
  let ss := s.dumpSections size
  let fin := ss.foldl (fun _ e => e.2.1 + e.2.2.length) 4096
  let signed := ss.length == 5 && fin + 4096 ≤ size
  let n := ss.length + if signed then 1 else 0
  let es : List (Nat × Nat × Nat) := ss.map (fun e => (e.1, e.2.1, e.2.2.length / 4096)) ++ if signed then [(6, fin, 1)] else []
  let dir := es.flatMap (fun e =>
    leBytes 4 e.1 ++ leBytes 4 e.2.2 ++ leBytes 8 e.2.1)
  let body := if n = 0 then [] else dir ++ List.replicate (4032 - dir.length) 0 ++ ss.flatMap (·.2.2)
  let body := if signed then body ++ pad4k ((deviceSign (sha512 body)).take 64) else body
  let head := 0x504D5544 + (if n < 6 then 2 ^ 32 else 0) + 2 ^ 40 * die + 2 ^ 48 * struct + 2 ^ 56 * n + 2 ^ 64 * (64 + body.length) +
    2 ^ 128 * s.d.clock.toNat + 2 ^ 448 * ofBytes ((sha512 body).take 8)
  leBytes 64 head ++ body

/-- `FATAL_ERROR_DUMP` (R319, R431, R435): the error is counted and every compute die stops; the dump is written, as much of it as DUMPS has room for,
and EVT bit 3 is set; without the link there is no dump. -/
def execFatalErrorDump (struct die : BitVec 8) (s : State) : Host.Outcome State Fault Refusal :=
  event s (fun s =>
    if s.d.stopped || 4 < die.toNat || 8 < struct.toNat then none
    else
      let s := s.withD (·.countError (16 * die.toNat + struct.toNat) true)
      let size := (s.d.hreg.get 0 0x30).toNat
      let bs := (s.dumpBytes size struct.toNat die.toNat).take size
      let t := s.withD fun d => { d with stopped := true, free := d.free + 2 + bs.length }
      some (if s.d.linkUp then (t.wrN (hostAddr (s.d.hreg.get 0 0x28)) bs.length (ofBytes bs)).withD (·.raise 3) else t))

/-! ### Firmware and attestation (R432 to R434) -/

/-- A firmware image is accepted (R433): its header has the form of the table and none of the three causes of rejection holds. -/
def firmwareOk (hdr payload : List Byte) : Bool :=
  let f (o n : Nat) : Nat := ofBytes ((hdr.drop o).take n)
  let kind := f 4 4
  hdr.length == 192 && f 0 4 == 0x57465844 && (kind == 1 || kind == 2) && f 12 4 ≤ 3 && f 16 8 == payload.length && f 24 40 == 0 &&
    !Config.keyRevoked (f 12 4) && (hdr.drop 64).take 64 == sha512 payload &&
    edVerify ((List.range 32).map (Config.firmwareKey (f 12 4))) (sha512 (hdr.take 128)) ((hdr.drop 128).take 64) && Config.minVersion kind ≤ f 8 4

/-- `FIRMWARE_IMAGE_CHECK` (R433): a rejected image leaves its predecessor. -/
def execFirmwareImageCheck (hdr payload : List Byte) (s : State) : Host.Outcome State Fault Refusal :=
  event s (fun s => if firmwareOk hdr payload then
      some (s.withD fun d => { d with fwImages := d.fwImages.put (ofBytes ((hdr.drop 4).take 4)) payload })
    else none)

/-- The 256 bytes of an attestation report (R434). DESIGN CHOICE (log 7): the minimum versions of the platform image and of the Foxglove image share
bytes 196 to 199, 16 bits each. -/
def Device.reportBytes (d : Device) (nonce : List Byte) : List Byte :=
  nonce ++ edPublic identityKey ++ sha512 (d.fwImages.get [] 1) ++ sha512 (d.fwImages.get [] 2) ++
    [if d.debugOn then 1 else 0, 0, 0, 0] ++ leBytes 2 (Config.minVersion 1) ++ leBytes 2 (Config.minVersion 2) ++ List.replicate 56 0

/-- `ATTESTATION` (R434): the report and its signature with the identity key. -/
def execAttestation (nonce : List Byte) (s : State) : Host.Outcome State Fault Refusal :=
  event s (fun s =>
    if nonce.length ≠ 32 then none
    else
      let r := s.d.reportBytes nonce
      some (s.withD fun d => { d with report := r ++ deviceSign (sha512 r) }))

/-! ### Reset (R38, R435) -/

/-- `PACKAGE_RESET` (R38, R435): the device starts afresh; the soft-error counts, the firmware images, the link and memory stay. -/
def execPackageReset (s : State) : Host.Outcome State Fault Refusal :=
  event s (fun s => some (s.withD fun d => { Device.reset with
    serc := d.serc, fwImages := d.fwImages, link := d.link, linkWidth := d.linkWidth, linkRate := d.linkRate, free := d.free }))

/-- `POWER_ON` (R435): the machine after reset; memory holds what memory that nothing has written reads as (log 2). -/
def execPowerOn (s : State) : Host.Outcome State Fault Refusal :=
  event s (fun s => some ⟨s.m0, s.m0.map (fun c => (c.1, 0)), { Device.reset with free := s.d.free }⟩)

end Sys2Proof.Machine
end

