-- ==== Sys2Proof/Machine/System.lean ====
section
/-! DEFINITION. Special registers: what `MFS` reads and where `MTS` writes (R36 to R40, R177, R242). -/

namespace Sys2Proof.Machine

/-- The view tag of a launch's binding; 0 with none (R37). -/
def Device.viewOf (d : Device) (slot : Nat) : Nat :=
  match (d.launch slot).bid with
  | none => 0
  | some b => match d.bindings.lookup b with
    | some x => x.tag.toNat
    | none => 0

/-- The value of a special register for a lane of the current wave: register 0x140 + r (R37). A counter that `MTS` set and the context has
not yet taken reads as set. -/
def St.srValue (s : St) (i : Iss) (x : Wave) (l r : Nat) : Nat :=
  let b := s.d.block i.blk
  let la := s.d.launch i.slot
  let t := x.thread l
  match r with
  | 0x00 => l
  | 0x01 => x.widx
  | 0x02 => t.workid.toNat % 2 ^ la.tw / 2 ^ la.los la.bb
  | 0x03 => coreId i.core
  | 0x04 => clusterOf i.core
  | 0x05 => dieOf i.core
  | 0x06 => s.d.rank
  | 0x07 => t.workid.toNat
  | 0x08 => la.fpos
  | 0x09 => x.role.toNat
  | 0x0A => i.slot
  | 0x0B => s.d.clock.toNat
  | 0x0C => if b.preq then 1 else 0
  | 0x0D => if b.preq then b.deadline.toNat else 2 ^ 64 - 1
  | 0x0E => x.handler.toNat
  | 0x0F => x.fault.toNat
  | 0x10 => (s.d.ctx i.asid).ctxerr.toNat
  | 0x11 => s.d.viewOf i.slot
  | 0x12 => (s.d.segs.get 0 i.core).toNat
  | 0x13 => t.stkptr.toNat
  | 0x14 => (s.d.ctx i.asid).window.toNat
  | 0x15 => la.f 64 64
  | _ => if 0x20 ≤ r && r < 0x30 then ((s.d.ctx i.asid).pmc.get 0 (16 * i.core + (r - 0x20))).toNat else 0

/-- Words of a special register (R37). -/
def srWords (r : Nat) : Nat := if [0x02, 0x07, 0x08, 0x0B, 0x0D, 0x0E, 0x0F, 0x10, 0x13, 0x14, 0x15].contains r || 0x20 ≤ r then 2 else 1

/-- `MFS` (R242): latency 2; the register is sampled at issue. -/
def execMfs (h : Ctl) (d : Opnd) (a : Src) (s : State) : Host.Outcome State Fault Refusal :=
  issue 0x780 h { Req.none with dsts := d.rng (srWords a.o.idx) } (fun i s =>
    let x := s.d.wave i.w
    .ok { Eff.plain s with out := .fixed 2 (d.dest (srWords a.o.idx)) (valsOf i.act (fun l => s.srValue i x l a.o.idx)) }) s

/-- `MTS` (R39, R242): the write takes effect at the issue position plus 2. -/
def execMts (h : Ctl) (d : Opnd) (a : Src) (s : State) : Host.Outcome State Fault Refusal :=
  issue 0x781 h { Req.none with srcs := a.rng 2 } (fun i s =>
    let x := s.d.wave i.w
    let e : PipeEnt := ⟨x.pos + 2, .sr d.idx, i.act, valsOf i.act (fun l => (a.x x l).toNat), none⟩
    .ok (Eff.plain (if i.act = 0 then s else s.withD (·.setWave i.w { x with pipe := x.pipe ++ [e] })))) s

end Sys2Proof.Machine
end

