-- ==== Sys2Proof/Machine/Dispatch.lean ====
section
/-! DEFINITION. The dispatch: one arm for each instruction, each a call of its meaning. -/

namespace Sys2Proof.Machine

def exec (i : Instr) (s : State) : Host.Outcome State Fault Refusal :=
  match i with
  | .bra h disp live => Sys2Proof.Machine.execBra h disp live s
  | .call h disp live => Sys2Proof.Machine.execCall h disp live s
  | .brl h disp => Sys2Proof.Machine.execBrl h disp s
  | .calll h disp => Sys2Proof.Machine.execCalll h disp s
  | .brx h a live => Sys2Proof.Machine.execBrx h a live s
  | .callx h a live => Sys2Proof.Machine.execCallx h a live s
  | .ret h live => Sys2Proof.Machine.execRet h live s
  | .exit h => Sys2Proof.Machine.execExit h s
  | .loop h a len => Sys2Proof.Machine.execLoop h a len s
  | .lbrk h n => Sys2Proof.Machine.execLbrk h n s
  | .dly h n => Sys2Proof.Machine.execDly h n s
  | .nop h => Sys2Proof.Machine.execNop h s
  | .yield h => Sys2Proof.Machine.execYield h s
  | .ipref h a ofs nb lvl => Sys2Proof.Machine.execIpref h a ofs nb lvl s
  | .trap h code => Sys2Proof.Machine.execTrap h code s
  | .eret h => Sys2Proof.Machine.execEret h s
  | .bkpt h code => Sys2Proof.Machine.execBkpt h code s
  | .sysc h code => Sys2Proof.Machine.execSysc h code s
  | .iadd h d a b ty sat => Sys2Proof.Machine.execIadd h d a b ty sat s
  | .isub h d a b ty sat => Sys2Proof.Machine.execIsub h d a b ty sat s
  | .imul h d a b ty => Sys2Proof.Machine.execImul h d a b ty s
  | .imulh h d a b ty => Sys2Proof.Machine.execImulh h d a b ty s
  | .imad h d a b c ty => Sys2Proof.Machine.execImad h d a b c ty s
  | .imadw h d a b c ty => Sys2Proof.Machine.execImadw h d a b c ty s
  | .imin h d a b ty => Sys2Proof.Machine.execImin h d a b ty s
  | .imax h d a b ty => Sys2Proof.Machine.execImax h d a b ty s
  | .iabs h d a ty sat => Sys2Proof.Machine.execIabs h d a ty sat s
  | .and h d a b ty => Sys2Proof.Machine.execAnd h d a b ty s
  | .or h d a b ty => Sys2Proof.Machine.execOr h d a b ty s
  | .xor h d a b ty => Sys2Proof.Machine.execXor h d a b ty s
  | .andn h d a b ty => Sys2Proof.Machine.execAndn h d a b ty s
  | .orn h d a b ty => Sys2Proof.Machine.execOrn h d a b ty s
  | .shl h d a b ty => Sys2Proof.Machine.execShl h d a b ty s
  | .shr h d a b ty => Sys2Proof.Machine.execShr h d a b ty s
  | .sar h d a b ty => Sys2Proof.Machine.execSar h d a b ty s
  | .rot h d a b ty => Sys2Proof.Machine.execRot h d a b ty s
  | .fsh h d a b c ty dir => Sys2Proof.Machine.execFsh h d a b c ty dir s
  | .bfx h d a ty pos len => Sys2Proof.Machine.execBfx h d a ty pos len s
  | .bfi h d a b ty pos len => Sys2Proof.Machine.execBfi h d a b ty pos len s
  | .popc h d a ty => Sys2Proof.Machine.execPopc h d a ty s
  | .clz h d a ty => Sys2Proof.Machine.execClz h d a ty s
  | .brev h d a ty => Sys2Proof.Machine.execBrev h d a ty s
  | .prmb h d a b c ty => Sys2Proof.Machine.execPrmb h d a b c ty s
  | .sel h d a b c ty => Sys2Proof.Machine.execSel h d a b c ty s
  | .mov h d a ty => Sys2Proof.Machine.execMov h d a ty s
  | .lea h d a b ty sh => Sys2Proof.Machine.execLea h d a b ty sh s
  | .iadd64 h d a b ty sat => Sys2Proof.Machine.execIadd64 h d a b ty sat s
  | .isub64 h d a b ty sat => Sys2Proof.Machine.execIsub64 h d a b ty sat s
  | .icvt h d a ty sat sty => Sys2Proof.Machine.execIcvt h d a ty sat sty s
  | .iaddLit h d a imm ty sat => Sys2Proof.Machine.execIaddLit h d a imm ty sat s
  | .isubLit h d a imm ty sat => Sys2Proof.Machine.execIsubLit h d a imm ty sat s
  | .imulLit h d a imm ty => Sys2Proof.Machine.execImulLit h d a imm ty s
  | .imulhLit h d a imm ty => Sys2Proof.Machine.execImulhLit h d a imm ty s
  | .iminLit h d a imm ty => Sys2Proof.Machine.execIminLit h d a imm ty s
  | .imaxLit h d a imm ty => Sys2Proof.Machine.execImaxLit h d a imm ty s
  | .andLit h d a imm ty => Sys2Proof.Machine.execAndLit h d a imm ty s
  | .orLit h d a imm ty => Sys2Proof.Machine.execOrLit h d a imm ty s
  | .xorLit h d a imm ty => Sys2Proof.Machine.execXorLit h d a imm ty s
  | .andnLit h d a imm ty => Sys2Proof.Machine.execAndnLit h d a imm ty s
  | .ornLit h d a imm ty => Sys2Proof.Machine.execOrnLit h d a imm ty s
  | .shlLit h d a imm ty => Sys2Proof.Machine.execShlLit h d a imm ty s
  | .shrLit h d a imm ty => Sys2Proof.Machine.execShrLit h d a imm ty s
  | .sarLit h d a imm ty => Sys2Proof.Machine.execSarLit h d a imm ty s
  | .rotLit h d a imm ty => Sys2Proof.Machine.execRotLit h d a imm ty s
  | .movi h d imm ty => Sys2Proof.Machine.execMovi h d imm ty s
  | .movh h d a imm ty => Sys2Proof.Machine.execMovh h d a imm ty s
  | .icmp h d a b c ty cond comb => Sys2Proof.Machine.execIcmp h d a b c ty cond comb s
  | .plop h d a b c lut => Sys2Proof.Machine.execPlop h d a b c lut s
  | .pmov h d a mask mode => Sys2Proof.Machine.execPmov h d a mask mode s
  | .fadd h d a b ty f => Sys2Proof.Machine.execFadd h d a b ty f s
  | .faddF64 h d a b ty f => Sys2Proof.Machine.execFaddF64 h d a b ty f s
  | .fsub h d a b ty f => Sys2Proof.Machine.execFsub h d a b ty f s
  | .fsubF64 h d a b ty f => Sys2Proof.Machine.execFsubF64 h d a b ty f s
  | .fmul h d a b ty f => Sys2Proof.Machine.execFmul h d a b ty f s
  | .fmulF64 h d a b ty f => Sys2Proof.Machine.execFmulF64 h d a b ty f s
  | .ffma h d a b c ty f => Sys2Proof.Machine.execFfma h d a b c ty f s
  | .ffmaF64 h d a b c ty f => Sys2Proof.Machine.execFfmaF64 h d a b c ty f s
  | .fmin h d a b ty f => Sys2Proof.Machine.execFmin h d a b ty f s
  | .fminF64 h d a b ty f => Sys2Proof.Machine.execFminF64 h d a b ty f s
  | .fmax h d a b ty f => Sys2Proof.Machine.execFmax h d a b ty f s
  | .fmaxF64 h d a b ty f => Sys2Proof.Machine.execFmaxF64 h d a b ty f s
  | .fcmp h d a b c ty cond comb => Sys2Proof.Machine.execFcmp h d a b c ty cond comb s
  | .fcls h d a ty mask => Sys2Proof.Machine.execFcls h d a ty mask s
  | .fcmpF64 h d a b c ty cond comb => Sys2Proof.Machine.execFcmpF64 h d a b c ty cond comb s
  | .fclsF64 h d a ty mask => Sys2Proof.Machine.execFclsF64 h d a ty mask s
  | .fscl h d a b ty f => Sys2Proof.Machine.execFscl h d a b ty f s
  | .fsclF64 h d a b ty f => Sys2Proof.Machine.execFsclF64 h d a b ty f s
  | .frnd h d a ty f => Sys2Proof.Machine.execFrnd h d a ty f s
  | .frndF64 h d a ty f => Sys2Proof.Machine.execFrndF64 h d a ty f s
  | .faddLit h d a imm ty f => Sys2Proof.Machine.execFaddLit h d a imm ty f s
  | .fsubLit h d a imm ty f => Sys2Proof.Machine.execFsubLit h d a imm ty f s
  | .fmulLit h d a imm ty f => Sys2Proof.Machine.execFmulLit h d a imm ty f s
  | .fminLit h d a imm ty f => Sys2Proof.Machine.execFminLit h d a imm ty f s
  | .fmaxLit h d a imm ty f => Sys2Proof.Machine.execFmaxLit h d a imm ty f s
  | .fcmpLit h d a imm ty cond => Sys2Proof.Machine.execFcmpLit h d a imm ty cond s
  | .frcp h d a ty f => Sys2Proof.Machine.execFrcp h d a ty f s
  | .frsq h d a ty f => Sys2Proof.Machine.execFrsq h d a ty f s
  | .fsqrt h d a ty f => Sys2Proof.Machine.execFsqrt h d a ty f s
  | .fex2 h d a ty f => Sys2Proof.Machine.execFex2 h d a ty f s
  | .flg2 h d a ty f => Sys2Proof.Machine.execFlg2 h d a ty f s
  | .fsin h d a ty f => Sys2Proof.Machine.execFsin h d a ty f s
  | .fcos h d a ty f => Sys2Proof.Machine.execFcos h d a ty f s
  | .hfma2 h d a b c ty f => Sys2Proof.Machine.execHfma2 h d a b c ty f s
  | .hadd2 h d a b ty f => Sys2Proof.Machine.execHadd2 h d a b ty f s
  | .hmul2 h d a b ty f => Sys2Proof.Machine.execHmul2 h d a b ty f s
  | .qdot4 h d a b c ty rm sat bty => Sys2Proof.Machine.execQdot4 h d a b c ty rm sat bty s
  | .idot4 h d a b c ty sat bsgn => Sys2Proof.Machine.execIdot4 h d a b c ty sat bsgn s
  | .fcvt h d a ty rm sat sty => Sys2Proof.Machine.execFcvt h d a ty rm sat sty s
  | .f2i h d a ty rm sty => Sys2Proof.Machine.execF2i h d a ty rm sty s
  | .i2f h d a ty rm sat sty => Sys2Proof.Machine.execI2f h d a ty rm sat sty s
  | .pack8 h d a b c ty rm sat half => Sys2Proof.Machine.execPack8 h d a b c ty rm sat half s
  | .unpk8 h d a ty ety half => Sys2Proof.Machine.execUnpk8 h d a ty ety half s
  | .shfl h d a b ty seg mode => Sys2Proof.Machine.execShfl h d a b ty seg mode s
  | .vote h d a cnt neg mode => Sys2Proof.Machine.execVote h d a cnt neg mode s
  | .matchLanes h d a ty => Sys2Proof.Machine.execMatchLanes h d a ty s
  | .redux h d a ty rop => Sys2Proof.Machine.execRedux h d a ty rop s
  | .wfence h => Sys2Proof.Machine.execWfence h s
  | .mjoin h d disp => Sys2Proof.Machine.execMjoin h d disp s
  | .mleave h set => Sys2Proof.Machine.execMleave h set s
  | .mwait h a => Sys2Proof.Machine.execMwait h a s
  | .mmov h d a b mode => Sys2Proof.Machine.execMmov h d a b mode s
  | .msync h a => Sys2Proof.Machine.execMsync h a s
  | .spawn h a b wsrc wid tgt nw prio idem => Sys2Proof.Machine.execSpawn h a b wsrc wid tgt nw prio idem s
  | .cont h a b wsrc wid tgt nw prio idem => Sys2Proof.Machine.execCont h a b wsrc wid tgt nw prio idem s
  | .split h a disp live => Sys2Proof.Machine.execSplit h a disp live s
  | .rgive h nb => Sys2Proof.Machine.execRgive h nb s
  | .rclaim h nb => Sys2Proof.Machine.execRclaim h nb s
  | .segq h d a => Sys2Proof.Machine.execSegq h d a s
  | .launch h d a ofs lq => Sys2Proof.Machine.execLaunch h d a ofs lq s
  | .waitk h a n => Sys2Proof.Machine.execWaitk h a n s
  | .tkrd h d => Sys2Proof.Machine.execTkrd h d s
  | .tksav h a ofs => Sys2Proof.Machine.execTksav h a ofs s
  | .tkrst h opn set => Sys2Proof.Machine.execTkrst h opn set s
  | .ld h d a ofs scope order ty vec ch => Sys2Proof.Machine.execLd h d a ofs scope order ty vec ch s
  | .st h a b ofs scope order ty vec ch => Sys2Proof.Machine.execSt h a b ofs scope order ty vec ch s
  | .stn h a b ofs scope order ty nsel => Sys2Proof.Machine.execStn h a b ofs scope order ty nsel s
  | .stnReport h d a b ofs scope order ty nsel => Sys2Proof.Machine.execStnReport h d a b ofs scope order ty nsel s
  | .pref h a ofs lvl => Sys2Proof.Machine.execPref h a ofs lvl s
  | .ldf h d a ofs ty vec => Sys2Proof.Machine.execLdf h d a ofs ty vec s
  | .dcwb h a ofs scope => Sys2Proof.Machine.execDcwb h a ofs scope s
  | .dcinv h a ofs scope => Sys2Proof.Machine.execDcinv h a ofs scope s
  | .dcfl h a ofs scope => Sys2Proof.Machine.execDcfl h a ofs scope s
  | .icinv h a ofs scope => Sys2Proof.Machine.execIcinv h a ofs scope s
  | .ifence h => Sys2Proof.Machine.execIfence h s
  | .fence h scope order => Sys2Proof.Machine.execFence h scope order s
  | .rsmk h d a b keep lvl => Sys2Proof.Machine.execRsmk h d a b keep lvl s
  | .rsrev h a b ofs mode => Sys2Proof.Machine.execRsrev h a b ofs mode s
  | .rsqry h d a ofs => Sys2Proof.Machine.execRsqry h d a ofs s
  | .atom h d a b ofs scope order ty aop => Sys2Proof.Machine.execAtom h d a b ofs scope order ty aop s
  | .acas h d a b ofs scope order ty => Sys2Proof.Machine.execAcas h d a b ofs scope order ty s
  | .red h a b ofs scope order ty aop => Sys2Proof.Machine.execRed h a b ofs scope order ty aop s
  | .enq h d a b ofs scope order sz blk => Sys2Proof.Machine.execEnq h d a b ofs scope order sz blk s
  | .deq h d a ofs scope order sz blk => Sys2Proof.Machine.execDeq h d a ofs scope order sz blk s
  | .qinit h a b ofs sz => Sys2Proof.Machine.execQinit h a b ofs sz s
  | .qstat h d a ofs => Sys2Proof.Machine.execQstat h d a ofs s
  | .gjoin h => Sys2Proof.Machine.execGjoin h s
  | .gleave h => Sys2Proof.Machine.execGleave h s
  | .gmap h a slot => Sys2Proof.Machine.execGmap h a slot s
  | .cpy h a ofs => Sys2Proof.Machine.execCpy h a ofs s
  | .gath h a ofs => Sys2Proof.Machine.execGath h a ofs s
  | .scat h a ofs => Sys2Proof.Machine.execScat h a ofs s
  | .mcast h a ofs => Sys2Proof.Machine.execMcast h a ofs s
  | .cpyq h d a ofs => Sys2Proof.Machine.execCpyq h d a ofs s
  | .binit h a b ofs => Sys2Proof.Machine.execBinit h a b ofs s
  | .barr h a b ofs => Sys2Proof.Machine.execBarr h a b ofs s
  | .bwait h d a b ofs => Sys2Proof.Machine.execBwait h d a b ofs s
  | .btst h d a ofs => Sys2Proof.Machine.execBtst h d a ofs s
  | .tdecl h a b rdy tile => Sys2Proof.Machine.execTdecl h a b rdy tile s
  | .tstat h d tile => Sys2Proof.Machine.execTstat h d tile s
  | .trel h tile => Sys2Proof.Machine.execTrel h tile s
  | .mma h d a b c ty be5 kq za => Sys2Proof.Machine.execMma h d a b c ty be5 kq za s
  | .mmap h d a b c ty be5 kq za => Sys2Proof.Machine.execMmap h d a b c ty be5 kq za s
  | .accsc h d a b c => Sys2Proof.Machine.execAccsc h d a b c s
  | .accz h d => Sys2Proof.Machine.execAccz h d s
  | .accrd h d a b => Sys2Proof.Machine.execAccrd h d a b s
  | .accwr h d a b => Sys2Proof.Machine.execAccwr h d a b s
  | .accld h d a str => Sys2Proof.Machine.execAccld h d a str s
  | .accst h a b str => Sys2Proof.Machine.execAccst h a b str s
  | .coll h d a b ofs => Sys2Proof.Machine.execColl h d a b ofs s
  | .viewq h d b sl => Sys2Proof.Machine.execViewq h d b sl s
  | .amsend h a b c nw => Sys2Proof.Machine.execAmsend h a b c nw s
  | .arrq h d blk => Sys2Proof.Machine.execArrq h d blk s
  | .mfs h d a => Sys2Proof.Machine.execMfs h d a s
  | .mts h d a => Sys2Proof.Machine.execMts h d a s
  | .illegalWord => Sys2Proof.Machine.execIllegalWord s
  | .operationRetire w tok => Sys2Proof.Machine.execOperationRetire w tok s
  | .asyncMemoryErrorTrap w => Sys2Proof.Machine.execAsyncMemoryErrorTrap w s
  | .membershipChangeTrap w => Sys2Proof.Machine.execMembershipChangeTrap w s
  | .waveEnd w => Sys2Proof.Machine.execWaveEnd w s
  | .rclaimGrant w => Sys2Proof.Machine.execRclaimGrant w s
  | .writeAcknowledge w => Sys2Proof.Machine.execWriteAcknowledge w s
  | .autoContribution blk => Sys2Proof.Machine.execAutoContribution blk s
  | .gleaveTakesEffect blk => Sys2Proof.Machine.execGleaveTakesEffect blk s
  | .cooperativeLeave w => Sys2Proof.Machine.execCooperativeLeave w s
  | .hopArrival w => Sys2Proof.Machine.execHopArrival w s
  | .copyActivate core => Sys2Proof.Machine.execCopyActivate core s
  | .segmentLanded cp => Sys2Proof.Machine.execSegmentLanded cp s
  | .mcastDelivery cp ws => Sys2Proof.Machine.execMcastDelivery cp ws s
  | .copyComplete cp => Sys2Proof.Machine.execCopyComplete cp s
  | .chainedCommandStart core tile => Sys2Proof.Machine.execChainedCommandStart core tile s
  | .matrixOpStart core => Sys2Proof.Machine.execMatrixOpStart core s
  | .rowCommit core tile => Sys2Proof.Machine.execRowCommit core tile s
  | .matrixLoadError core tile kind => Sys2Proof.Machine.execMatrixLoadError core tile kind s
  | .vectorClockReceive n => Sys2Proof.Machine.execVectorClockReceive n s
  | .posyRecordArrival n => Sys2Proof.Machine.execPosyRecordArrival n s
  | .formTimeout core n => Sys2Proof.Machine.execFormTimeout core n s
  | .taskTypeRead core n resolved => Sys2Proof.Machine.execTaskTypeRead core n resolved s
  | .blockHandout core entry => Sys2Proof.Machine.execBlockHandout core entry s
  | .inqDequeue core entry => Sys2Proof.Machine.execInqDequeue core entry s
  | .blockBind core entry => Sys2Proof.Machine.execBlockBind core entry s
  | .outqEnqueue blk => Sys2Proof.Machine.execOutqEnqueue blk s
  | .powerWake => Sys2Proof.Machine.execPowerWake s
  | .collStage bid chunk => Sys2Proof.Machine.execCollStage bid chunk s
  | .reduceBlockEnd bid chunk => Sys2Proof.Machine.execReduceBlockEnd bid chunk s
  | .launchEnd slot => Sys2Proof.Machine.execLaunchEnd slot s
  | .blockLeavePush blk => Sys2Proof.Machine.execBlockLeavePush blk s
  | .beacon die => Sys2Proof.Machine.execBeacon die s
  | .overflowRingDrain core slot => Sys2Proof.Machine.execOverflowRingDrain core slot s
  | .steal core entry => Sys2Proof.Machine.execSteal core entry s
  | .heartbeatSend bid => Sys2Proof.Machine.execHeartbeatSend bid s
  | .occupancyReport core slot => Sys2Proof.Machine.execOccupancyReport core slot s
  | .hostWriteConfirm w => Sys2Proof.Machine.execHostWriteConfirm w s
  | .fixedLatencyWriteback w => Sys2Proof.Machine.execFixedLatencyWriteback w s
  | .faultResolve w ok => Sys2Proof.Machine.execFaultResolve w ok s
  | .parkedWaveResume w => Sys2Proof.Machine.execParkedWaveResume w s
  | .parkedWaveDeliver w => Sys2Proof.Machine.execParkedWaveDeliver w s
  | .parkedWaveKill w => Sys2Proof.Machine.execParkedWaveKill w s
  | .launchAbort slot => Sys2Proof.Machine.execLaunchAbort slot s
  | .debugRead w item => Sys2Proof.Machine.execDebugRead w item s
  | .debugWrite w item v => Sys2Proof.Machine.execDebugWrite w item v s
  | .debugWriteForce w item v => Sys2Proof.Machine.execDebugWriteForce w item v s
  | .debugStep w => Sys2Proof.Machine.execDebugStep w s
  | .debugResume w => Sys2Proof.Machine.execDebugResume w s
  | .debugKill w => Sys2Proof.Machine.execDebugKill w s
  | .preemptionRequest blk deadline => Sys2Proof.Machine.execPreemptionRequest blk deadline s
  | .forcedSave blk area => Sys2Proof.Machine.execForcedSave blk area s
  | .contextSwitchOut asid core area discard => Sys2Proof.Machine.execContextSwitchOut asid core area discard s
  | .blockRestore blk core entry => Sys2Proof.Machine.execBlockRestore blk core entry s
  | .scopeLocalCopyEviction cl line => Sys2Proof.Machine.execScopeLocalCopyEviction cl line s
  | .contextTeardown asid => Sys2Proof.Machine.execContextTeardown asid s
  | .translationChange asid va size => Sys2Proof.Machine.execTranslationChange asid va size s
  | .launchAdmit q ovb pins => Sys2Proof.Machine.execLaunchAdmit q ovb pins s
  | .bindRecordWrite core entry expect rec => Sys2Proof.Machine.execBindRecordWrite core entry expect rec s
  | .schedulingPeriod deadline pins => Sys2Proof.Machine.execSchedulingPeriod deadline pins s
  | .overflowExtend slot core base log2n => Sys2Proof.Machine.execOverflowExtend slot core base log2n s
  | .launchSuspend slot area => Sys2Proof.Machine.execLaunchSuspend slot area s
  | .engineWalkFailure cp ok => Sys2Proof.Machine.execEngineWalkFailure cp ok s
  | .mcastDeliveryTimeout cp ws => Sys2Proof.Machine.execMcastDeliveryTimeout cp ws s
  | .heartbeatTimeout bid rank => Sys2Proof.Machine.execHeartbeatTimeout bid rank s
  | .suspect bid rank => Sys2Proof.Machine.execSuspect bid rank s
  | .gatherTimeout bid => Sys2Proof.Machine.execGatherTimeout bid s
  | .propose bid src tag mask => Sys2Proof.Machine.execPropose bid src tag mask s
  | .ack bid src tag opseq chunks => Sys2Proof.Machine.execAck bid src tag opseq chunks s
  | .nack bid src tag => Sys2Proof.Machine.execNack bid src tag s
  | .ackTimeout bid => Sys2Proof.Machine.execAckTimeout bid s
  | .commit bid tag opseq mask held => Sys2Proof.Machine.execCommit bid tag opseq mask held s
  | .commitTimeout bid => Sys2Proof.Machine.execCommitTimeout bid s
  | .isolation bid => Sys2Proof.Machine.execIsolation bid s
  | .join bid rank => Sys2Proof.Machine.execJoin bid rank s
  | .partialLand bid tag opseq chunk mask data => Sys2Proof.Machine.execPartialLand bid tag opseq chunk mask data s
  | .finalLand bid tag opseq chunk mask data => Sys2Proof.Machine.execFinalLand bid tag opseq chunk mask data s
  | .complete bid tag opseq => Sys2Proof.Machine.execComplete bid tag opseq s
  | .stepTimeout bid chunk => Sys2Proof.Machine.execStepTimeout bid chunk s
  | .collectiveAbandon bid => Sys2Proof.Machine.execCollectiveAbandon bid s
  | .amsg part src core rec => Sys2Proof.Machine.execAmsg part src core rec s
  | .amack w op ok => Sys2Proof.Machine.execAmack w op ok s
  | .slotTableEdit link table => Sys2Proof.Machine.execSlotTableEdit link table s
  | .partitionReset part => Sys2Proof.Machine.execPartitionReset part s
  | .purgeExpiry part => Sys2Proof.Machine.execPurgeExpiry part s
  | .linkDetect lanes => Sys2Proof.Machine.execLinkDetect lanes s
  | .linkTrain width rate => Sys2Proof.Machine.execLinkTrain width rate s
  | .flitReplay => Sys2Proof.Machine.execFlitReplay s
  | .linkRetrain ok => Sys2Proof.Machine.execLinkRetrain ok s
  | .linkDown => Sys2Proof.Machine.execLinkDown s
  | .platd v => Sys2Proof.Machine.execPlatd v s
  | .ltol v => Sys2Proof.Machine.execLtol v s
  | .evt => Sys2Proof.Machine.execEvt s
  | .partsetAssign v => Sys2Proof.Machine.execPartsetAssign v s
  | .partsetRemove v => Sys2Proof.Machine.execPartsetRemove v s
  | .amreg v => Sys2Proof.Machine.execAmreg v s
  | .ntfbase v => Sys2Proof.Machine.execNtfbase v s
  | .ntflog v => Sys2Proof.Machine.execNtflog v s
  | .ntfhead v => Sys2Proof.Machine.execNtfhead v s
  | .lqrec q v => Sys2Proof.Machine.execLqrec q v s
  | .registerWrite ofs v => Sys2Proof.Machine.execRegisterWrite ofs v s
  | .notify w => Sys2Proof.Machine.execNotify w s
  | .lookup w => Sys2Proof.Machine.execLookup w s
  | .abort w => Sys2Proof.Machine.execAbort w s
  | .modstat w => Sys2Proof.Machine.execModstat w s
  | .moduleLoad asid idx base file len => Sys2Proof.Machine.execModuleLoad asid idx base file len s
  | .moduleUnload asid idx => Sys2Proof.Machine.execModuleUnload asid idx s
  | .powerStateEntry => Sys2Proof.Machine.execPowerStateEntry s
  | .fatalErrorDump struct die => Sys2Proof.Machine.execFatalErrorDump struct die s
  | .firmwareImageCheck hdr payload => Sys2Proof.Machine.execFirmwareImageCheck hdr payload s
  | .attestation nonce => Sys2Proof.Machine.execAttestation nonce s
  | .packageReset => Sys2Proof.Machine.execPackageReset s
  | .powerOn => Sys2Proof.Machine.execPowerOn s
  | .heartbeat bid rank => Sys2Proof.Machine.execHeartbeat bid rank s
  | .fabricLinkDown link => Sys2Proof.Machine.execFabricLinkDown link s
  | .fabricLinkTrained => Sys2Proof.Machine.execFabricLinkTrained s
  | .contextCreate asid root win q1 q2 q3 => Sys2Proof.Machine.execContextCreate asid root win q1 q2 q3 s
  | .contextErrorCollection asid => Sys2Proof.Machine.execContextErrorCollection asid s
  | .faultBufferDiscard cl n => Sys2Proof.Machine.execFaultBufferDiscard cl n s

end Sys2Proof.Machine
end

