-- ==== Sys2Proof/Machine/Sched.lean ====
section
/-! DEFINITION. Which wave issues next and what it fetches (R338, R339), the end of a cycle (R342, R343), and the events of the machine
itself that a cycle makes ready. -/

namespace Sys2Proof.Machine

/-! ### Eligibility -/

/-- What a wave waits for is over (R194, R161, R184, R160, R212, R230, R275, R21); a claim is over only by its grant (R207). -/
def Device.waitOver (d : Device) (w : Nat) : Bool :=
  let x := d.wave w
  match x.wait with
  | .ready => true
  | .token k n => (x.tok k).count ≤ n
  | .fence o sc => d.fenceOver w o sc
  | .wfence => d.wfenceReady w
  | .ifence => d.ifenceReady w
  | .rclaim _ _ => false
  -- what the access waits for is looked at again in the next cycle
  | .bound => false
  | .slot => (d.copies.filter (·.core == w / 64)).length < 128
  | .tileq t =>
    let n := (d.block x.blk).accB + t
    (d.mats.filter (fun m => m.core == w / 64 && (m.tile == n || m.tile2 == some n))).length < 16
  | .sc sc => d.fenceReady w 4 sc
  | .spill => x.spill.all (fun p => x.outw.all (fun o => o.seq < p.lo || p.hi ≤ o.seq))

/-- The path group to issue and its PC. -/
def Wave.front (x : Wave) : Option Addr := (x.landAt 0).choose.map (fun g => ((x.landAt 0).thread (lowest g.1)).pc)

/-- The class of the next instruction, as its bytes stand. -/
def St.nextClass (s : St) (w : Nat) : Nat :=
  let x := s.d.wave w
  match x.front with
  | some pc => (bits (s.codeWord w (s.d.block x.blk).asid pc.toNat) 90 6).toNat
  | none => 0

/-- A thread of the path group to issue has come to its PC in sequence. -/
def Wave.inSequence (x : Wave) : Bool :=
  match (x.landAt 0).choose with
  | some (g, y) => (lanesOf g).any (fun l => (y.thread l).seq)
  | none => false

/-- The PC has run on, in sequence, out of the segment pinned on the core (R388). -/
def St.leavesSegment (s : St) (w : Nat) (pc : Addr) : Bool :=
  let x := s.d.wave w
  let slot := (s.d.block x.blk).slot
  (s.d.launch slot).travel && x.frame.isNone && x.inSequence && 12 ≤ pc.toNat && s.d.staysOn (w / 64) slot (pc.toNat - 12) &&
    !s.d.staysOn (w / 64) slot pc.toNat

/-- The blocks that the wave's next fetch waits for: none where the fetch fails, or where the quarter's L0I holds them (R338). -/
def St.awaited (s : St) (w : Nat) : List Nat :=
  let x := s.d.wave w
  match x.front with
  | some pc =>
    let asid := (s.d.block x.blk).asid
    if (s.instrErr w asid pc.toNat).isSome || s.leavesSegment w pc then [] else s.missing w asid pc.toNat
  | none => []

/-- A trap of R346 is due at the next issue boundary: cause 27, or cause 28 unless a token error comes first (R363). -/
def Wave.trapDue (x : Wave) : Bool := x.asyncDue || (x.membership.isSome && !x.tokenFirst)

/-- The wave is eligible (R338). -/
def St.eligible (s : St) (w : Nat) : Bool :=
  let x := s.d.wave w
  x.live && !x.parked && !x.leaving && (x.frame.isSome || !(lanesOf x.alive).any (fun l => (x.thread l).arriving)) && x.stall == 0 &&
    !x.walking && x.runs != 0 && !s.d.stopped && !x.trapDue && !s.d.stoppedFor w && s.d.waitOver w && (s.awaited w).isEmpty &&
    !(s.d.fp64Last.contains (w / 16) && s.nextClass w == 7)

/-- `v` goes before `w`: higher class, then the earlier last issue, then the lower slot (R339). -/
def Device.before (d : Device) (v w : Nat) : Bool :=
  let x := d.wave v
  let y := d.wave w
  y.priority < x.priority || (y.priority == x.priority && (x.lastIssue < y.lastIssue || (x.lastIssue == y.lastIssue && v < w)))

/-- The wave that had its turn last holds before its issue: its quarter's turn is still open (R339). -/
def Device.reopens (d : Device) : Bool :=
  d.turn == d.cur / 16 + 1 && !d.issued.contains d.cur && (d.wave d.cur).live && (d.wave d.cur).wait != .ready

/-- The wave may have the next turn: its quarter comes from the turn on, or its turn is still open and the wave comes after the one that holds. -/
def Device.mayTurn (d : Device) (w : Nat) : Bool := d.turn ≤ w / 16 || (d.reopens && w / 16 == d.cur / 16 && d.before d.cur w)

/-- The wave that issues next: the first quarter whose turn is open that has an eligible wave, and its choice among them (R339). -/
def St.pick (s : St) : Option Nat :=
  (s.d.waves.map (·.1)).foldl (fun b w =>
    if !s.d.mayTurn w || !s.eligible w then b
    else match b with
      | none => some w
      | some v => if w / 16 < v / 16 || (w / 16 == v / 16 && s.d.before w v) then some w else b) none

/-- The quarter's turn is taken by a wave, whose wait is over. -/
def Device.turnTo (d : Device) (w : Nat) : Device :=
  { (d.setWave w { d.wave w with wait := .ready }) with cur := w, turn := w / 16 + 1, turns := d.turns + 1 }

/-- A fetch that fails faults at the address, before any issue (cause 18, R346, R350). The record's IWORD is not stated: free (log 5). -/
def St.fetchFault (s : St) (w kind : Nat) : St :=
  let x := s.d.wave w
  match (x.landAt 0).choose with
  | none => s
  | some (g, y) =>
    let pc := (y.thread (lowest g)).pc
    let a := s.fresh
    let b := a.2.fresh
    let s := b.2.withD fun d => { (d.setWave w y) with iword := a.1 ++ b.1.setWidth 32 }
    s.takeTrap w ⟨18, g, g, pc, pc, pc.setWidth 64, BitVec.ofNat 64 (g.toNat + 2 ^ 32 * kind), 0, 0⟩

/-- The instruction that the wave issues next and the state it issues in; or the state after the fetch fault (R45, R61). -/
def St.fetchFor (s : St) (w : Nat) : Except St (Instr × St) :=
  let s := s.withD (·.turnTo w)
  let x := s.d.wave w
  match x.front with
  | none => .error s
  | some pc =>
    if s.leavesSegment w pc then .error (s.fetchFault w 0)
    else match s.fetch w (s.d.block x.blk).asid pc.toNat with
    | .error k => .error (s.fetchFault w k)
    | .ok (word, t) =>
      let t := t.withD fun d => { d with iword := word }
      match decode word with
      | .ok i => .ok (i, t)
      | .error _ => .ok (.illegalWord, t)

/-! ### The end of a cycle -/

/-- The events of the machine itself that may be ready: each changes nothing where it is not enabled. Events that come from outside the
package, from Foxglove or from a unit whose timing the spec leaves open stand in the agenda only when something outside puts them there. -/
def Device.ready (d : Device) : List Instr :=
  let waves := d.waves.filter (fun e => e.2.live)
  let retire (k : Nat) (x : Wave) : List Instr := (x.ops.filter (·.done)).map (fun o => .operationRetire k (o.tok.map (BitVec.ofNat 4)))
  let acks (k : Nat) (ws : List OutW) : List Instr :=
    (ws.filter (!·.late)).map (fun o => if o.host then .hostWriteConfirm k else .writeAcknowledge k)
  let perWave := waves.flatMap (fun e =>
    retire e.1 e.2 ++ (if e.2.asyncDue then [.asyncMemoryErrorTrap e.1] else []) ++
    (if e.2.membership.isSome then [.membershipChangeTrap e.1] else []) ++
    (match e.2.wait with
     | .rclaim _ _ => [.rclaimGrant e.1]
     | _ => []) ++ acks e.1 e.2.outw ++
    (if e.2.alive = 0 then [.waveEnd e.1] else []) ++ (if e.2.leaving then [.cooperativeLeave e.1] else []) ++
    (if (lanesOf e.2.alive).any (fun l => (e.2.thread l).arriving) then [.hopArrival e.1] else []))
  let saved := (d.saved.filter (·.live)).flatMap (fun v => v.waves.flatMap (fun x => retire (2 ^ 20 + x.uid) x ++ acks (2 ^ 20 + x.uid) x.outw))
  let orphans := d.orphans.flatMap (fun e => acks (2 ^ 20 + e.1) e.2)
  let saves := (d.savesDue (d.clock.toNat + 1)).2
  let cores := ((d.copies.map (·.core)) ++ d.mats.map (·.core)).eraseDups
  let tiles := (d.mats.map (fun m => (m.core, m.tile))).eraseDups
  let copies := cores.map (fun c => Instr.copyActivate c) ++ d.copies.flatMap (fun c =>
    (c.deliveries.filter (fun e => match e.2 with
      | .sent _ => true
      | _ => false)).map (fun e => .mcastDelivery c.id e.1) ++
    [.segmentLanded c.id, .copyComplete c.id])
  let mats := cores.map (fun c => Instr.matrixOpStart c) ++ tiles.flatMap (fun t =>
    [.chainedCommandStart t.1 t.2, .rowCommit t.1 t.2])
  let msgs := d.msgs.map (fun _ => .vectorClockReceive 0) ++ (if d.msgs.isEmpty then [] else (List.range 4).map (fun k => .beacon k))
  let recs := d.arrivals.map (fun _ => .posyRecordArrival 0)
  let fcores := (d.forms.map (·.core)).eraseDups
  let forms := fcores.flatMap (fun c =>
    let fs := d.forms.filter (·.core == c)
    (List.range fs.length).flatMap (fun i => match fs[i]? with
      | some f =>
        (if !f.released && 17 * (d.launch (recSlot (f.recs.headD 0))).ftime ≤ 10 * (d.clock.toNat - f.since) then [.formTimeout c i] else []) ++
        (if f.failed then [] else [.taskTypeRead c i false])
      | none => []))
  let entries := d.binds.map (fun e => (e.1 / 64, e.1 % 64))
  let binds := entries.flatMap (fun e => [.blockHandout e.1 e.2, .steal e.1 e.2, .inqDequeue e.1 e.2, .blockBind e.1 e.2])
  let ends := d.blocks.flatMap (fun e =>
    (if e.2.live && e.2.leaving then [Instr.gleaveTakesEffect e.1] else []) ++
    (if e.2.auto then [.autoContribution e.1] else []) ++ (if e.2.outq then [.outqEnqueue e.1] else []) ++
    (if e.2.live && (d.wavesOf e.1).isEmpty then [.blockLeavePush e.1] else []))
  let colls := d.bindings.flatMap (fun e =>
    ((e.2.colls.filter (!·.staged)).map (fun c => Instr.collStage e.1 c.chunk)) ++
    ((e.2.chunks.filter (fun c => c.2.reducing && c.2.reduced)).map (fun c => .reduceBlockEnd e.1 c.1)) ++ [.heartbeatSend e.1])
  let ovr := (d.launches.filter (fun e => e.2.used && e.2.admitted && e.2.out == 0)).map (fun e => Instr.launchEnd e.1)
  let reports := if d.clock.toNat % 64 = 0 then
      d.segs.flatMap (fun e => (d.launches.filter (fun l => l.2.used && l.2.travel)).map (fun l => .occupancyReport e.1 l.1))
    else []
  perWave ++ saved ++ orphans ++ saves ++ copies ++ mats ++ msgs ++ recs ++ forms ++ binds ++ ends ++ colls ++ ovr ++ reports ++
    (if d.power = 0 then [] else [.powerWake]) ++ (if d.power < d.deepest && d.idle then [.powerStateEntry] else [])

/-- The counter of a block that is first found at a level: the next instruction's block must come from beyond the L2I, the L1I or the L0I (R342). -/
def missCounter (level : Nat) : Nat := if level = 3 then 4 else if level = 2 then 3 else 2

/-- Every thread of the wave that is not DONE is HELD, or the wave waits in `RCLAIM` (R342). -/
def Wave.heldUp (x : Wave) : Bool :=
  match x.wait with
  | .rclaim _ _ => true
  | _ => x.alive != 0 && (lanesOf x.alive).all (fun l => (x.thread l).st == .held)

/-- The counter that a wave charges which did not issue in the cycle: the first cause that holds (R343). -/
def St.cause (s : St) (w : Nat) : Option Nat :=
  let x := s.d.wave w
  let missed := (s.awaited w).map (s.d.foundAt w (s.d.block x.blk).asid)
  if !x.live || x.parked || s.d.issued.contains w then none
  else if x.walking then some 8
  else if !missed.isEmpty then some (missCounter (missed.foldl max 0))
  else if (match x.wait with
    | .token k n => decide (n < (x.tok k).count)
    | .ready => (s.tokenWait w).isSome
    | _ => false) then some 5
  else if x.heldUp then some 7
  else if 0 < x.stall then some 6 else none

/-- One more cycle is charged to the counters (R342, R343). -/
def St.charge (s : St) : Device :=
  let causes := s.d.waves.filterMap (fun e => (s.cause e.1).map (fun n => (e.1, n)))
  let d := causes.foldl (fun d c => d.pmc (d.block (d.wave c.1).blk).asid (c.1 / 64) c.2 1) s.d
  let pairs := ((d.blocks.filter (·.2.live)).map (fun e => (e.2.asid, e.1 / 64))).eraseDups
  pairs.foldl (fun d p =>
    (d.pmc p.1 p.2 0 1).pmc p.1 p.2 15 (4 - (d.issued.filter (fun w => w / 64 == p.2)).length)) d

/-- The blocks that a wave waited for through the cycle come into its quarter's L0I (R295). -/
def St.fills (s : St) : St :=
  s.d.waves.foldl (fun s (e : Nat × Wave) =>
    if s.d.issued.contains e.1 || e.2.parked then s
    else
      let b := s.d.block e.2.blk
      match e.2.front with
      | some pc => (s.awaited e.1).foldl (fun s k => s.fillFor e.1 b.asid b.slot pc.toNat k) s
      | none => s) s

/-- The ready events that happen in this cycle. The spec gives the events' order and conditions and no time for most of them: the state
says which are held back, an event that nothing holds back happens at once. DESIGN CHOICE (log 18). -/
def notHeld : List Bool → List Instr → List Instr
  | _, [] => []
  | [], is => is
  | true :: hs, _ :: is => notHeld hs is
  | false :: hs, i :: is => i :: notHeld hs is

/-- The rings of the launches that hold records: each core's Posy may take from its own (R390). -/
def St.ringsFull (s : St) : List Instr :=
  (s.d.launches.filter (fun e => e.2.used && e.2.admitted)).flatMap (fun e =>
    ((List.range 288).filter (fun c => s.ringOcc e.1 c != 0)).map (fun c => .overflowRingDrain c e.1))

/-- Everything that the machine itself may do in the cycle to come, of which the state says what is held back. -/
def St.readyAll (s : St) : List Instr :=
  if s.d.stopped then [] else s.d.ready ++ s.ringsFull ++ s.matErrors.map (fun e => .matrixLoadError e.1 e.2.1 (BitVec.ofNat 8 e.2.2))

/-- What the cycle to come begins with: the forced saves whose deadline it reaches and the switch-outs that have begun (R354, R356), then the ready
events that are not held back. -/
def St.nextAgenda (s : St) : List Instr :=
  (if s.d.stopped then [] else (s.d.savesDue (s.d.clock.toNat + 1)).1) ++ notHeld s.d.holdback s.readyAll

/-- The values that Foxglove and the host runtime set in the cycle that ends (R341, R352), each within its range. -/
def Device.set (d : Device) (v : Setting) : Device :=
  match v with
  | .pth c n => if 1 ≤ n && n ≤ 16 then { d with pth := d.pth.put c n } else d
  | .period n => if 170000 ≤ n && n ≤ 170000000 then { d with period := n } else d

/-- The settings of the cycle that ends. -/
def Device.runSettings (d : Device) : Device :=
  match d.settings with
  | [] => d
  | vs :: rest => vs.foldl Device.set { d with settings := rest }

/-- What the units do in the cycle that the waves' turns leave: held accesses and launches that nothing holds any more, standing grants, the
timers of collectives and views, the test of the safe points (R353), errors, settings, the blocks in want of room. -/
def St.endUnits (s : St) : St :=
  if s.d.stopped then s
  else s.stallArrays.runLate.runLaunches.allGrants.runSteps.runTimers.runFabric.withD fun d => ((d.waves.foldl (fun d (e : Nat × Wave) => d.safeTest e.1) d).runUpsets).runSettings.reportRoom

/-- A wave as the cycle ends: a stall has passed, a walk it waited for is over, and an access that waited before its issue is looked at again. -/
def Wave.pass (x : Wave) (issued : Bool) : Wave :=
  { x with stall := x.stall - 1, walking := x.walking && issued, wait := if x.wait = .bound then .ready else x.wait }

/-- THE END OF A CYCLE: the units, the counters, the fills, the clock, and the agenda of what is ready. -/
def St.endCycle (s : St) : St :=
  let s := s.endUnits
  let a := s.nextAgenda
  let held := s.readyAll.length
  let t : St := { s with d := s.charge }
  t.fills.withD fun d => { d with
    clock := d.clock + 1
    waves := d.waves.map (fun e => (e.1, e.2.pass (d.issued.contains e.1)))
    turn := 0, issued := [], fp64Last := d.fp64Now, fp64Now := []
    agenda := a, holdback := d.holdback.drop held }

/-! ### Placing a program -/

/-- Twelve bytes of a word as cells from an address. -/
def wordCells (a : Nat) (w : Nat) : List Host.Cell := cellsOf a 12 (w % 2 ^ 96)

/-- The quarter of a wave holds the blocks of the instruction at an address, fetched anew. -/
def St.refetch (s : St) (w asid slot pc : Nat) : St :=
  (blocksOf pc).foldl (fun s b => s.fillFor w asid slot pc b) (s.withD fun d => { d with agenda := [], iblocks := [], fp64Last := [] })

/-- Places a word where the wave `w`, ready to issue, fetches next: none where its PC does not translate or may not be fetched. -/
def State.placeAt (s : State) (w word : Nat) : Option State :=
  let x := s.dev.wave w
  let b := s.dev.block x.blk
  let sl := sliceOf (w / 64)
  match x.front with
  | none => none
  | some pc =>
    let t := St.of s
    if (t.fetchErr sl b.asid pc.toNat).isSome || (t.fetchErr sl b.asid (pc.toNat + 11)).isSome || t.leavesSegment w pc then none
    else
      let cells := (cellsOf 0 12 (word % 2 ^ 96)).filterMap (fun c => match t.translate sl b.asid (pc.toNat + c.1) with
        | .ok (pa, _, _) => some (if isHost pa then pa else canonical pa, c.2)
        | .error _ => none)
      let t := St.of ⟨s.mem.writeAll cells, { s.dev with
        stale := s.dev.stale.filter (fun e => !cells.any (fun c => e.1 % 2 ^ 52 == c.1)) }⟩
      some ⟨t.m0, (t.refetch w b.asid b.slot pc.toNat).d⟩

/-- Where a placed program starts. -/
def startPc : Addr := 0x100000

/-- A wave of 32 running threads at `startPc` with every register granted. -/
def startWave (d : Device) : Wave :=
  { Wave.empty with
    live := true, uid := d.uidn, alloc := 256
    thr := (List.range 32).map (fun l => (l, { Thread.idle with pc := startPc, st := .run, workid := BitVec.ofNat 64 l })) }

/-- A machine with one bound block of one wave, its context and page tables, and the word at `startPc`: what a launch leaves (log 8). -/
def State.startWith (s : State) (word : Nat) : State :=
  let c : Context := { Context.none with live := true, roots := [(0, 0x8001)], window := 0x10000000000, q1 := 2, q2 := 4, q3 := 4 }
  let b : Block := { Block.empty with
    live := true, asid := 1, waves := 1, scrsz := 65536, tileN := 64, accN := 8, since := s.dev.clock.toNat }
  let d := (((s.dev.setCtx 1 c).setBlock 0 b).setWave 0 (startWave s.dev))
  let d := { d with poison := [], tlb := [], stale := [], turn := 0, issued := [], stopped := false, outs := [], uidn := s.dev.uidn + 1 }
  let m := s.mem.writeAll (cellsOf 0x8000 8 0x10001 ++ cellsOf 0x10000 8 0x3B ++ wordCells startPc.toNat word)
  ⟨m, ((St.of ⟨m, d⟩).refetch 0 1 0 startPc.toNat).d⟩

end Sys2Proof.Machine
end

