-- ==== Sys2Proof/Machine/Step.lean ====
section
/-! DEFINITION. One step of the machine: the next event of the agenda, else the next wave's instruction, else the end of the cycle. -/

namespace Sys2Proof.Machine

/-- One step. -/
def step (s : State) : Host.Outcome State Fault Refusal :=
  match s.dev.agenda with
  | e :: rest => exec e { s with dev := { s.dev with agenda := rest } }
  | [] =>
    match (St.of s).pick with
    | some w =>
      match (St.of s).fetchFor w with
      | .ok (i, t) => exec i (s.after t)
      | .error t => .next (s.after t)
    | none => .next (s.after (St.of s).endCycle)

/-- The state with an instruction where the next step fetches: the wave that issues next, or a machine made ready for one (log 8). -/
def State.withFetchWord (s : State) (_nbits w : Nat) : State :=
  match (St.of { s with dev := { s.dev with agenda := [] } }).pick with
  | some k => (s.placeAt k w).getD (s.startWith w)
  | none => s.startWith w

end Sys2Proof.Machine
end

