-- ==== Sys2Proof/Safety.lean ====
section
/-! DEFINITION. The terms that statements use: a well-formed state, an instruction that issues normally, what an issue leaves, and what it
leaves alone. -/

namespace Sys2Proof.Machine

/-! ### Invariants -/

/-- The invariant of the machine: memory is in its one canonical form. -/
def State.inv (s : State) : Prop := s.mem.wf = true

/-! ### An instruction that issues -/

/-- The instruction with these hints and registers issues in `s`: the current wave has a path group (R340), no safe point stops it (R353),
no check of R59 on its registers fails, its wait hint is met without an error (R49), and no hazard stands (R31, R32). `i` is what the issue
knows, `x` the wave with the results of its position landed. -/
def Goes (h : Ctl) (q : Req) (s : State) (i : Iss) (x : Wave) : Prop :=
  (St.of s).group h = some (i, x) ∧ ((St.of s).withD (·.setWave i.w x)).stopsAt i x q = none

/-- The instruction issues, as a test. -/
def goes (h : Ctl) (q : Req) (s : State) : Bool :=
  match (St.of s).group h with
  | some (i, x) => (((St.of s).withD (·.setWave i.w x)).stopsAt i x q).isNone
  | none => false

/-- The state that an instruction's own checks and effect begin from. -/
def State.at' (s : State) (i : Iss) (x : Wave) : St := (St.of s).withD (·.setWave i.w x)

/-! ### What stops an instruction before its own checks (R59) -/

/-- However it goes on, an instruction with these hints and registers does not issue in `s`, which becomes `u`. -/
def Stops (h : Ctl) (q : Req) (s : State) (u : St) : Prop := ∀ opc body, issue opc h q body s = .next (s.after u)

/-- No safe point stops the group (R353). -/
def NoSafeStop (h : Ctl) (s : State) (i : Iss) (x : Wave) : Prop :=
  h.sp = false ∨ (s.dev.block i.blk).preq = false ∨ (s.dev.block i.blk).deadline.toNat ≤ s.dev.clock.toNat ∨ (x.thread (lowest i.grp)).passed = true

/-- The registers lie within the allocation and the tiles within the block's (R15, R34). -/
def RegsInside (q : Req) (s : State) (x : Wave) : Prop :=
  (∀ r ∈ q.ranges, r.1 + r.2 ≤ x.alloc) ∧ ∀ t ∈ q.tiles, t < (s.dev.block x.blk).accN

/-- The wait hint is met, without an error (R49, R194). -/
def HintMet (h : Ctl) (x : Wave) : Prop :=
  ∀ k n, h.wait = some (k, n) → (x.tok k.toNat).count ≤ n.toNat ∧ (x.tok k.toNat).err = false

/-- With an active lane, no source is pending and no tile that is read out has an operation outstanding (R31, R35). -/
def SourcesReady (q : Req) (s : State) (i : Iss) (x : Wave) : Prop :=
  i.act ≠ 0 → (∀ r ∈ q.srcs, r.2.2 = true ∨ x.pending (r.1, r.2.1) = false) ∧
    ∀ t, q.out = some t → ((s.at' i x).d.prog i.core ((s.dev.block x.blk).accB + t)).getLsbD 31 = false

/-- The uncorrectable registers of active lanes that sources name (R319). -/
def badSources (q : Req) (i : Iss) (x : Wave) : List (Nat × Nat) :=
  x.bad.filter (fun b => i.act.getLsbD b.1 && q.srcs.any (fun r => r.1 ≤ b.2 && b.2 < r.1 + r.2.1))

/-! ### What an issue leaves -/

/-- A wave without its threads and masks, and without what only schedules it. -/
def Wave.arch (x : Wave) : Wave :=
  { x with
    thr := [], masks := [], rc := 0, fav := 0, wait := .ready, spill := none, stall := 0, lastIssue := 0, pmcSet := [], stepping := false
    parked := false }

/-- A context without its performance counters. -/
def Context.rest (c : Context) : Context := { c with pmc := [] }

/-- A block without its idempotent status and the records kept with it (R359). -/
def Block.rest (b : Block) : Block := { b with idem := false, recs := [] }

/-- The device without its waves, blocks and contexts, and without the note of which waves have issued in this cycle. -/
def Device.rest (d : Device) : Device := { d with waves := [], blocks := [], contexts := [], issued := [], fp64Now := [] }

/-- Outside the wave `w`, the performance counters and the idempotent status, two devices agree. -/
def Device.agree (d e : Device) (w : Nat) : Prop :=
  e.rest = d.rest ∧ (∀ k, k ≠ w → e.wave k = d.wave k) ∧ (∀ k, (e.block k).rest = (d.block k).rest) ∧
    ∀ a, (e.ctx a).rest = (d.ctx a).rest

/-- The loop stack and the stack pointer of a thread, which a landing result may write (R32). -/
def Thread.loops (t : Thread) : List Loop × W64 := (t.ls, t.stkptr)

/-- The threads of the path group go on: a lane whose guard is true to its target where `to` gives one, every other in sequence
(R92, R98). -/
def Wave.wentOn (z : Wave) (i : Iss) (tgt : Nat → Option Addr) : Wave :=
  (lanesOf i.grp).foldl (fun z l => z.updThread l (fun t => nextOf t (if i.act.getLsbD l then tgt l else none))) z

/-- Thread by thread: the next PCs; no return stack and no work identifier changes, and no thread is done by it. -/
def ThreadsGoOn (i : Iss) (z y : Wave) (tgt : Nat → Option Addr) : Prop :=
  ∀ l, (y.thread l).pc = (if i.grp.getLsbD l then (nextOf (z.thread l) (if i.act.getLsbD l then tgt l else none)).pc else (z.thread l).pc) ∧
    (y.thread l).rs = (z.thread l).rs ∧ (y.thread l).rsd = (z.thread l).rsd ∧ (y.thread l).workid = (z.thread l).workid ∧
    ((y.thread l).st = .done ↔ (z.thread l).st = .done)

/-- The wave `y` is the wave `z` gone on to `to` and advanced by `n` positions, with the results landed that are due on the way (R32). Its masks and
threads are those that the cycles of the issue leave: in each of them threads are held and masks released as they then stand (R186, R191, R340). -/
def WaveGoesOn (i : Iss) (z y : Wave) (n : Nat) (tgt : Nat → Option Addr) : Prop :=
  y.arch = ((z.wentOn i tgt).advance n).arch ∧ ThreadsGoOn i z y tgt ∧
    (∀ l, (y.thread l).loops = (((z.wentOn i tgt).advance n).thread l).loops) ∧
    (∀ m, y.mask m = (((z.wentOn i tgt).rotate i.grp).cycles n).mask m) ∧ ∀ l, y.thread l = (((z.wentOn i tgt).rotate i.grp).cycles n).thread l

/-- An issue that leaves the wave `z`, goes on to `to` and takes `n` positions: nothing outside the wave has changed but memory and
performance counters (R32, R47, R49). -/
def IssuedTo (s t : State) (i : Iss) (z : Wave) (n : Nat) (tgt : Nat → Option Addr) : Prop :=
  s.dev.agree t.dev i.w ∧ WaveGoesOn i z (t.dev.wave i.w) n tgt

/-- An issue of one position and its GAP that goes on in sequence and leaves memory as it is. -/
def Issued (s t : State) (i : Iss) (z : Wave) : Prop :=
  t.mem = s.mem ∧ IssuedTo s t i z (1 + i.h.gap.toNat) (fun _ => none)

/-- In handler mode the path group has a handler lane that goes on. -/
def HandlerGoesOn (x : Wave) : Prop := ∀ f, x.frame = some f → ∃ l, l < 32 ∧ f.lanes.getLsbD l = true ∧ (x.thread l).st ≠ .done

/-- `ins` writes `f` to `d`, `lat` positions after its issue, for each lane whose guard is true, and does nothing else (R32, R47, R90). -/
def FixedResult (ins : Instr) (opc : BitVec 12) (h : Ctl) (q : Req) (lat : Nat) (d : Dest) (f : Iss → Wave → Nat → Nat) : Prop :=
  ∀ s i x, Goes h q s i x → HandlerGoesOn x →
    ∃ t, exec ins s = .next t ∧ Issued s t i (x.post i opc (.fixed lat d (valsOf i.act (f i x))))

/-- `ins` is a long-latency operation with the results `f`, which it writes when it retires (R31, R58). -/
def LongResult (ins : Instr) (opc : BitVec 12) (h : Ctl) (q : Req) (d : Dest) (f : Iss → Wave → Nat → Nat) : Prop :=
  ∀ s i x, Goes h q s i x → HandlerGoesOn x →
    ∃ t, exec ins s = .next t ∧ Issued s t i (x.post i opc (.long d (valsOf i.act (f i x)) true none false))

/-- `ins` issues, with the state `u` as its effect has left it, takes `n` positions and its GAP, goes on to `tgt` and waits as `wt` says: the
memory of `u` is the memory after it, and outside its wave nothing differs from `u` but performance counters and the idempotent status. -/
def LeavesWaiting (ins : Instr) (opc : BitVec 12) (s : State) (i : Iss) (u : St) (out : Out) (n : Nat) (tgt : Nat → Option Addr) (wt : Wait) :
    Prop :=
  HandlerGoesOn (u.d.wave i.w) →
    ∃ t, exec ins s = .next t ∧ t.mem = (s.after u).mem ∧ u.d.agree t.dev i.w ∧ (t.dev.wave i.w).wait = wt ∧
      WaveGoesOn i ((u.d.wave i.w).post i opc out) (t.dev.wave i.w) (n + i.h.gap.toNat) tgt

/-- The same, without a wait. -/
def Leaves (ins : Instr) (opc : BitVec 12) (s : State) (i : Iss) (u : St) (out : Out) (n : Nat) (tgt : Nat → Option Addr) : Prop :=
  LeavesWaiting ins opc s i u out n tgt .ready

/-- `ins` issues and leaves the wave `z`; nothing else changes. -/
def LeavesWave (ins : Instr) (opc : BitVec 12) (s : State) (i : Iss) (z : Wave) (out : Out) (n : Nat) (tgt : Nat → Option Addr) : Prop :=
  HandlerGoesOn z →
    ∃ t, exec ins s = .next t ∧ t.mem = s.mem ∧ (t.dev.wave i.w).wait = .ready ∧
      IssuedTo s t i (z.post i opc out) (n + i.h.gap.toNat) tgt

/-- `ins` waits, with the state `u` as its checks have left it: it has not issued, and no position passes. -/
def WaitsOn (ins : Instr) (s : State) (i : Iss) (u : St) (wt : Wait) : Prop :=
  exec ins s = .next (s.after (u.withD fun d => d.setWave i.w { d.wave i.w with wait := wt }))

/-- `ins` takes a fault at its stop instruction, with the state `u` as its checks have left it (R345). -/
def Faults (ins : Instr) (s : State) (i : Iss) (u : St) (cause : Nat) (v0 v1 v2 v3 : W64) : Prop :=
  exec ins s = .next (s.after (u.faultAt i cause v0 v1 v2 v3))

/-- An access that has passed its checks, with the state `u`, in every form (R147, R148, R275): a release pushes first; then it is performed as
`perf` says or, where the load-store unit must hold it, noted to be performed later; either way it has issued. A seq_cst access first waits as a
fence does, and meets the fault of a fence (R361). -/
def Accesses (ins : Instr) (opc : BitVec 12) (s : State) (i : Iss) (x : Wave) (order scope size : Nat) (rd wr : Bool) (ea : Nat → W64)
    (ps : List (Nat × Place)) (dst : Option Dest) (u : St) (perf : St → Perf) : Prop :=
  let wt := if i.act = 0 then .ready else (scOf order scope).getD .ready
  let l := i.late x ins order scope size rd wr ea ps
  (∀ v, u.orderBefore i order scope = .ok v →
    (v.mustWait l = false → LeavesWaiting ins opc s i ((perf v).after i) ((perf v).out dst) 1 (fun _ => none) wt) ∧
    (v.mustWait l = true →
      LeavesWaiting ins opc s i (v.holdAccess i l (addressed ea ps)) (heldOut dst) 1 (fun _ => none) wt)) ∧
  (∀ v w, u.orderBefore i order scope = .error (.hold v w) → WaitsOn ins s i v w) ∧
  ∀ v c v0 v1 v2 v3, u.orderBefore i order scope = .error (.fail v c v0 v1 v2 v3) → Faults ins s i v c v0 v1 v2 v3

/-- An instruction whose access is not held by the load-store unit: with the state `u` of its checks it waits for what would hold it, and else
leaves `v`. -/
def LeavesBound (ins : Instr) (opc : BitVec 12) (s : State) (i : Iss) (x : Wave) (size : Nat) (ea : Nat → W64) (ps : List (Nat × Place)) (u v : St)
    (out : Out) (n : Nat) (tgt : Nat → Option Addr) : Prop :=
  if u.mustWait (i.late x (.nop i.h) 0 0 size false false ea ps) then WaitsOn ins s i u .bound else Leaves ins opc s i v out n tgt

/-- The byte at `a` that the last of some writes (address, length, value) that covers it leaves. -/
def lastByte (ws : List (Nat × Nat × Nat)) (a : Nat) : Option Byte :=
  (ws.reverse.find? (fun w => w.1 ≤ a && a < w.1 + w.2.1)).map (fun w => BitVec.ofNat 8 (w.2.2 / 256 ^ (a - w.1)))

/-- A matrix instruction takes its place (R228, R230): with no active lane it only posts; issued by every thread of the wave that is not
DONE, with no uncorrectable element read, operands that pass and room on its tiles, the operation `m` joins the order of its tiles, and the tiles
it reads count it; the rows of an `ACCST` count among the wave's unacknowledged writes (R235). -/
def Takes (ins : Instr) (opc : BitVec 12) (s : State) (i : Iss) (x : Wave) (dst : Dest) (m : MatOp) : Prop :=
  let u := s.at' i x
  let rd := if m.kind = 7 then [] else ((u.matTiles m).getD []).map (fun t => (t.1, t.2.1))
  (i.act = 0 → LeavesWave ins opc s i x (.long dst [] true none false) 1 (fun _ => none)) ∧
    (i.act ≠ 0 → u.d.accBad m = none → i.act = x.alive → u.matCheck i m = none →
      (∀ t ∈ m.tile :: m.tile2.toList, s.dev.tileDepth i.core t < 16) →
      Leaves ins opc s i (u.withD fun d =>
        let d := rd.foldl (fun d r => d.updTile r.1 r.2 (fun t => { t with nrd := t.nrd + 1 })) d
        let d : Device := { d with mats := d.mats ++ [{ m with reads := rd }], idn := d.idn + 1 }
        if m.kind = 7 then d.setWave i.w ((d.wave i.w).addWrites (some i.opid) true ((List.range 128).map (fun k => (m.stRow k, .scratch i.blk 0))))
        else d) (.long dst [] false none false) 1 (fun _ => none))

/-! ### Events -/

/-- An event happens and leaves the device `d`; memory stays as it is. -/
def Becomes (ins : Instr) (s : State) (d : Device) : Prop := exec ins s = .next ⟨s.mem, d⟩

/-- An event happens and leaves what `u` has come to, its writes performed. -/
def Writes (ins : Instr) (s : State) (u : St) : Prop := exec ins s = .next (s.after u)

/-! ### Control transfers and traps -/

/-- No lane hops: the launch's threads do not travel, or each lane's target is served on its core (R96, R388). -/
def Stays (s : State) (i : Iss) (x : Wave) (tgt : Nat → W64) : Prop :=
  (s.dev.launch i.slot).travel = false ∨
    ∀ l, i.act.getLsbD l = true → (s.at' i x).d.staysOn i.core i.slot (addrOf (tgt l)).toNat = true

/-- A call that makes the spill stores `ws` (R21): the first time it makes them and waits for their acknowledgement; then it goes on, or takes the
pre-issue access error, cause 29, of the lanes whose stores the Dunvia Link has lost. -/
def Spills (ins : Instr) (s : State) (i : Iss) (x : Wave) (ws : List (Nat × Nat × Place × Nat)) (goesOn : Prop) : Prop :=
  (x.spill.filter (·.ws == spillKeys ws) = none → WaitsOn ins s i ((s.at' i x).spillDo i ws) .spill) ∧
    ∀ p, x.spill.filter (·.ws == spillKeys ws) = some p →
      (ws.filter (fun w => p.lost.contains w.2.1) = [] → goesOn) ∧
        ∀ w r, ws.filter (fun w => p.lost.contains w.2.1) = w :: r →
          Faults ins s i (s.at' i x) 29 (BitVec.ofNat 64 w.2.1) (BitVec.ofNat 64 ((maskOfList ((w :: r).map (·.1))).toNat + 2 ^ 32 * 7 + 2 ^ 36 * Acc.write.code)) 0 2

/-- A transfer in every form of R92 to R96. For each lane whose guard is true, `p` is where its push stores or its pop loads, if it does;
`w` is where a hopping lane leaves its stack word, if it does. The lanes push or pop, then those that leave the core hop, and the others go
to their targets; where one of these accesses would be held, the transfer waits, and a call waits for its spill stores. -/
def Transfers (ins : Instr) (opc : BitVec 12) (h : Ctl) (srcs : List (Nat × Nat × Bool)) (k : Xfer) (live : BitVec 11) (target : Target) : Prop :=
  ∀ s i x (p w : Nat → Option Place), Goes h { Req.none with srcs := srcs } s i x →
    (k ≠ .ret → ∀ l, i.act.getLsbD l = true → (target i x l).toNat < 2 ^ 57) →
    (k = .ret → i.act ≠ 0 → ∀ n, 8 ≤ n → n < 16 → (x.tok n).count = 0) →
    (∀ l, i.act.getLsbD l = true → (s.at' i x).xferAcc i k (s.dev.launch i.slot).travel (x.thread l) = .ok (p l)) →
    let tgt := (s.at' i x).xferTo i x k target p
    (∀ l ∈ (s.at' i x).hopsOf i tgt, ((s.at' i x).d.segOf i.slot (tgt l).toNat).isSome ∧ (s.at' i x).hopWord i x l = .ok (w l)) →
    ((s.at' i x).hopsOf i tgt ≠ [] → (∀ n, n < 16 → (x.tok n).count = 0) ∧ x.pend = 0) →
    let ps := (lanesOf i.act).filterMap (fun l => (p l).map (fun q => (l, q))) ++
      ((s.at' i x).hopsOf i tgt).filterMap (fun l => (w l).map (fun q => (l, q)))
    let ea := fun l => let a := (x.thread l).stkptr; if k = .call then a - 8 else a
    let n := if (lanesOf i.act).any (fun l => tgt l != i.ba + 12) || (alwaysTaken opc && i.act ≠ 0) then 3 else 1
    let ws := spillsOf i x k (s.dev.launch i.slot).travel p
    let goesOn := Leaves ins opc s i ((s.at' i x).xferDo i k live tgt p w) .none n (fun l => some (tgt l))
    if ps ≠ [] ∧ (s.at' i x).mustWait (i.late x (.nop i.h) 0 0 8 false false ea ps) = true then WaitsOn ins s i (s.at' i x) .bound
    else if ws = [] then goesOn else Spills ins s i x ws goesOn

/-- `ins` issues in sequence, then takes a trap of its own: the lanes whose guard is true stand at the next instruction, and the trap is
taken with CODE and that instruction as its resume address (R105). -/
def TrapsAfter (ins : Instr) (opc : BitVec 12) (h : Ctl) (cause : Nat) (code : BitVec 16) : Prop :=
  ∀ s i x, Goes h Req.none s i x → i.act ≠ 0 →
    ∃ u : St, (s.after u).mem = s.mem ∧ s.dev.agree u.d i.w ∧
      (u.d.wave i.w).arch = ((x.post i opc .none).advance (1 + i.h.gap.toNat)).arch ∧
      (∀ l, ((u.d.wave i.w).thread l).pc = (if i.act.getLsbD l then i.ba + 12 else (x.thread l).pc) ∧
        ((u.d.wave i.w).thread l).rs = (x.thread l).rs ∧ (((u.d.wave i.w).thread l).st = .done ↔ (x.thread l).st = .done)) ∧
      exec ins s = .next (s.after ((((u.postTrap i x cause code).withD fun d => d.setWave i.w (d.wave i.w).settle).withD
        (·.stepped i.w)).handlerEnd i.w))

end Sys2Proof.Machine
end

