-- ==== Sys2Proof/Certificates/Slice0/Obligations.lean ====
section
/-! DEFINITION. The statements for the provers. -/

open Sys2Proof Sys2Proof.Machine

/-- Every well-formed instruction that has a word decodes from it, with every operand and modifier at every value its encoding admits; and what decodes is well formed, with that word and no other. -/
def Obligations.DecodeEncode : Prop :=
  (∀ (i : Instr) (w : BitVec 96), i.wf = true → encode i = some w → decode w = .ok i) ∧
  (∀ (w : BitVec 96) (i : Instr), decode w = .ok i → i.wf = true ∧ encode i = some w)

/-- Words that the spec writes out decode to their instructions: IADD, its literal form, the FP64 FFMA, BRA, ICMP, WAITK, MMA, FENCE, ATOM's kin RED, STN with a report, CALL and ERET; and the word that carries TY = 5 outside the FP64 class is illegal. -/
def Obligations.DecodeWords : Prop :=
  (decode 0x080733000010050180080000 = .ok (.iadd ⟨false, 7, 1, some 3, none, false⟩ (.w 4) ⟨.w 5, false⟩ ⟨.w 6, false⟩ 4 false)) ∧
  (decode 0x0C070000001005000003E880 = .ok (.iaddLit ⟨false, 7, 0, none, none, false⟩ (.w 4) ⟨.w 5, false⟩ 1000 4 false)) ∧
  (decode 0x1C37000000200201006A0000 = .ok (.ffmaF64 ⟨false, 7, 0, none, none, false⟩ (.w 8) ⟨.w 2, false⟩ ⟨.w 4, false⟩ ⟨.w 6, false⟩ 5 ⟨0, false, false, false, false, false, false⟩)) ∧
  (decode 0x040700000003FFFFFF1FFE00 = .ok (.bra ⟨false, 7, 0, none, none, false⟩ (-15) 0x7FF)) ∧
  (decode 0x100700000404047C400A0001 = .ok (.icmp ⟨false, 7, 0, none, none, false⟩ (.p 1) ⟨.w 4, false⟩ ⟨.imm 49, false⟩ none 5 1 0)) ∧
  (decode 0x340700000001270000000002 = .ok (.waitk ⟨false, 7, 0, none, none, false⟩ ⟨.k 3, false⟩ 2)) ∧
  (decode 0x6807120004D0040180A003E0 = .ok (.mma ⟨false, 7, 0, some 2, none, false⟩ (.acc 0) ⟨.w 4, false⟩ ⟨.w 6, false⟩ ⟨.w 10, false⟩ 0 false 15 true)) ∧
  (decode 0x40B700000000000024000000 = .ok (.fence ⟨false, 7, 0, none, none, false⟩ 4 4)) ∧
  (decode 0x4827000000000E7840001080 = .ok (.red ⟨false, 7, 0, none, none, false⟩ ⟨.w 14, false⟩ ⟨.imm 33, false⟩ 0 2 0 4 0)) ∧
  (decode 0x403712900040067D88000083 = .ok (.stnReport ⟨false, 7, 0, some 2, some (2, 0), false⟩ (.w 16) ⟨.w 6, false⟩ ⟨.imm 54, false⟩ 0x2000 0 0 4 3)) ∧
  (decode 0x043700000000000303D00E00 = .ok (.call ⟨false, 7, 0, none, none, false⟩ 0x303D 7)) ∧
  (decode 0x04F700000000000000000000 = .ok (.eret ⟨false, 7, 0, none, none, false⟩)) ∧
  ((decode 0x1437000000200201006A0000).toOption = none)

/-- With no event due, the wave whose turn it is fetches the word at its PC: a step is the instruction that the word decodes to, or the illegal word, in the state with the turn taken and the word latched; a fetch that fails is the fetch fault, and so is sequential flow out of the segment that is pinned on the core (R388). A word is read from the block that the quarter's L0I holds, and a block that comes into the L2I has the bytes that the die's memory holds. An event that is due is the step; with no wave to issue the step ends the cycle. That an event due is the step, and that a step with no wave to issue ends the cycle, is the model's choice (log 1), as is what the instruction stores keep (log 46) and the slice that serves a core (log 44). -/
def Obligations.StepRunsDecoded : Prop :=
  (∀ (s : State) (w : Nat) (pc : Addr), s.dev.agenda = [] → (St.of s).pick = some w →
    let u := (St.of s).withD (·.turnTo w)
    (u.d.wave w).front = some pc → u.leavesSegment w pc = true → step s = .next (s.after (u.fetchFault w 0))) ∧
  (∀ (s : State) (w : Nat) (pc : Addr) (k : Nat), s.dev.agenda = [] → (St.of s).pick = some w →
    let u := (St.of s).withD (·.turnTo w)
    (u.d.wave w).front = some pc → u.leavesSegment w pc = false →
    u.fetch w (u.d.block (u.d.wave w).blk).asid pc.toNat = .error k → step s = .next (s.after (u.fetchFault w k))) ∧
  (∀ (s : State) (w : Nat) (pc : Addr) (word : BitVec 96) (t : St), s.dev.agenda = [] → (St.of s).pick = some w →
    let u := (St.of s).withD (·.turnTo w)
    (u.d.wave w).front = some pc → u.leavesSegment w pc = false →
    u.fetch w (u.d.block (u.d.wave w).blk).asid pc.toNat = .ok (word, t) →
      let v := s.after (t.withD fun d => { d with iword := word })
      step s = match decode word with
        | .ok i => exec i v
        | .error _ => exec .illegalWord v) ∧
  (∀ (u t : St) (w asid pc : Nat) (word : BitVec 96) (b : Nat → IBlock), u.fetch w asid pc = .ok (word, t) →
    (∀ k, k < 12 → u.d.iblock 0 (w / 16) asid ((pc + k) / 192 * 192) = some (b k)) →
    word = wordOfBytes ((List.range 12).map (fun k => (b k).bytes.getD ((pc + k) % 192) 0))) ∧
  (∀ (u : St) (core asid b : Nat), u.d.iblock 2 (dieOf core) asid b = none → u.keeps (sliceOf core) asid b = true →
    let v := (u.cacheTlb (sliceOf core) asid b).cacheTlb (sliceOf core) asid (b + 191)
    (u.fillL2 core asid b).d.iblock 2 (dieOf core) asid b = some ⟨2, dieOf core, asid, b, v.codeBytes (sliceOf core) asid b 192⟩) ∧
  (∀ (s : State) (e : Instr) (rest : List Instr), s.dev.agenda = e :: rest → step s = exec e { s with dev := { s.dev with agenda := rest } }) ∧
  (∀ (s : State), s.dev.agenda = [] → (St.of s).pick = none → step s = .next (s.after (St.of s).endCycle))

/-- After reset memory lists no byte, no wave, block, launch or context is live, every token, mask and predicate of a wave section is clear and p7 true, no poison, park or translation is held, the link is in DETECT, the power state is S0 and the invariant holds. The values that the spec does not state are the model's (log 3). -/
def Obligations.ResetValues : Prop :=
  (State.reset.mem = []) ∧
  (State.reset.inv) ∧
  (∀ k, (State.reset.dev.wave k).live = false ∧ (State.reset.dev.block k).live = false ∧ (State.reset.dev.launch k).used = false ∧ (State.reset.dev.ctx k).live = false) ∧
  (∀ k l i, ((State.reset.dev.wave k).tok i).count = 0 ∧ ((State.reset.dev.wave k).mask i).lanes = 0 ∧ (State.reset.dev.wave k).pred l i = decide (i = 7)) ∧
  (State.reset.dev.poison = [] ∧ State.reset.dev.parks = [] ∧ State.reset.dev.tlb = [] ∧ State.reset.dev.iblocks = []) ∧
  (State.reset.dev.link = .detect ∧ State.reset.dev.power = 0 ∧ State.reset.dev.stopped = false)

/-- From every state whose memory is in canonical form, whatever instruction or event a step runs, the next state's memory is in canonical form. -/
def Obligations.InvariantKept : Prop :=
  (∀ (s t : State), s.inv → step s = .next t → t.inv) ∧
  (∀ (i : Instr) (s t : State), s.inv → exec i s = .next t → t.inv)

/-- A byte written reads back and every other byte is as it was; the form is kept by any number of writes; two memories in canonical form that read alike are equal; a value of n bytes that a step writes reads back, little-endian, and the bytes outside it are as they were. -/
def Obligations.MemoryForm : Prop :=
  (∀ (m : Memory) (a b : Nat) (v : Byte), m.wf = true → (m.write a v).wf = true ∧ (m.write a v).read b = if a = b then v else m.read b) ∧
  (∀ (m : Memory) (l : List Host.Cell), m.wf = true → (m.writeAll l).wf = true) ∧
  (∀ (m n : Memory), m.wf = true → n.wf = true → (∀ a, m.read a = n.read a) → m = n) ∧
  (∀ (s : St) (a n v b : Nat), (s.wrN a n v).rdN a n = v % 2 ^ (8 * n) ∧ (b < a ∨ a + n ≤ b → (s.wrN a n v).rd b = s.rd b))

/-- p7 reads as true and a write to it changes nothing; any other predicate of a lane reads what was last written to it; and an issue reads its guard with the results of its position landed, once per lane of the path group. -/
def Obligations.PredicatesAndGuards : Prop :=
  (∀ (x : Wave) (l : Nat) (v : Bool), x.pred l 7 = true ∧ x.setPred l 7 v = x) ∧
  (∀ (x : Wave) (l k n m : Nat) (v : Bool), n < 7 → m < 8 → (x.setPred l n v).pred k m = if k = l ∧ m = n then v else x.pred k m) ∧
  (∀ (s : State) (h : Ctl) (i : Iss) (x : Wave), (St.of s).group h = some (i, x) → ∀ l, l < 32 →
    i.act.getLsbD l = (i.grp.getLsbD l && (((s.dev.wave i.w).landAt 0).pred l h.pred.toNat != h.neg)))

/-- By route H, with a handler and a place for the record, outside handler mode, the record is stored at sr.fault and the handler lanes stand at sr.handler: counter 0, an empty pipe, the old ones and the rotation state in the trap frame, every other thread frozen, registers, predicates, tokens, masks and pending bits as they were. Else, and by routes F and F→H, the wave parks with the record in its latch. The record's fields lie as R350 says. The routes are those of R346. That a claim or the fence of a seq_cst access goes on through the entry, so that the wait is kept, is the model's reading (log 56). -/
def Obligations.TrapEntry : Prop :=
  (∀ (u : St) (w : Nat) (t : Trap) (p q : Place), let x := u.d.wave w
    let b := u.d.block x.blk
    let v := u.withD fun d => { d with free := d.free + 1 }
    let v := if t.cause = 13 then v.withD (·.pmc b.asid (w / 64) 9 1) else if t.cause = 2 then v.withD (·.pmc b.asid (w / 64) 14 1) else v
    let r : Record := ⟨BitVec.ofNat 7 t.cause, t.resume.setWidth 64, t.pc, t.active, u.d.iword, t.v0, t.v1, t.v2, t.v3, false⟩
    routeOf t.cause = 0 → x.handler ≠ 0 → x.fault ≠ 0 → x.frame = none → v.locate x.blk x.fault .write = .ok p → v.tileCheck p = .ok q → v.writeErr q = none →
    let z := (v.store (w / 64) q 64 r.nat).countWrites w [(x.fault.toNat, q)]
    u.takeTrap w t = z.withD (fun d => d.setWave w ((d.wave w).enterHandler t.active t.grp).settle)) ∧
  (∀ (u : St) (w : Nat) (r : Record) (grp : Lanes) (e : MErr), (u.d.wave w).handler ≠ 0 → (u.d.wave w).fault ≠ 0 → (u.d.wave w).frame = none →
    u.locate (u.d.wave w).blk (u.d.wave w).fault .write = .error e → u.deliver w r grp = u.park w { r with failed := true }) ∧
  (∀ (x : Wave) (active grp : Lanes) (l : Nat), l < 32 →
    let lanes := if active = 0 then grp else active
    let y := x.enterHandler active grp
    y.frame = some ⟨x.pos, x.rc, x.fav, (List.range 32).map (fun l => (l, (x.thread l).age)), x.pipe, lanes⟩ ∧ y.pos = 0 ∧ y.pipe = [] ∧ y.rc = 0 ∧ y.fav = 0 ∧
      (y.thread l).pc = (if lanes.getLsbD l then x.handler.setWidth 57 else (x.thread l).pc) ∧
      (y.thread l).frozen = (!lanes.getLsbD l || (x.thread l).frozen) ∧ (y.thread l).st = (x.thread l).st ∧ (y.thread l).rs = (x.thread l).rs ∧
      (y.thread l).ls = (x.thread l).ls ∧ y.regs = x.regs ∧ y.preds = x.preds ∧ y.toks = x.toks ∧ y.masks = x.masks ∧ y.pend = x.pend ∧ y.ops = x.ops ∧
      y.outw = x.outw ∧ y.wait = x.wait.kept) ∧
  (∀ (u : St) (w : Nat) (t : Trap), routeOf t.cause ≠ 0 ∨ (u.d.wave w).handler = 0 ∨ (u.d.wave w).fault = 0 ∨ (u.d.wave w).frame ≠ none →
    let y := (u.takeTrap w t).d.wave w
    y.parked = true ∧ (y.latch.map (fun r => (r.cause, r.active, r.pc, r.v0))) = some (BitVec.ofNat 7 t.cause, t.active, t.pc, t.v0) ∧ y.regs = (u.d.wave w).regs ∧
      ∀ l, (y.thread l).pc = ((u.d.wave w).thread l).pc) ∧
  (∀ (r : Record), field r.nat 0 96 = r.iword.toNat ∧ field r.nat 96 32 = r.active.toNat ∧ field r.nat 128 7 = r.cause.toNat ∧ field r.nat 135 57 = r.pc.toNat ∧
    field r.nat 192 64 = r.resume.toNat ∧ field r.nat 256 64 = r.v0.toNat ∧ field r.nat 320 64 = r.v1.toNat ∧ field r.nat 384 64 = r.v2.toNat ∧ field r.nat 448 64 = r.v3.toNat) ∧
  (∀ c, routeOf c = (if c = 9 ∨ c = 10 ∨ c = 18 then 2 else if c = 33 ∨ c = 34 ∨ c = 40 then 1 else 0))

/-- The counter advances by the positions taken. A result is written when the counter reaches its due position and not before, to its lanes and within the allocation. Retiring an operation writes its result, or 0 after an error that is no queue reset and no barrier error, counts its token down, and sets the token's error bit with the detail of the first error, and those stay; an untracked error is due as a trap. Which lane a result for the whole wave comes from is the model's reading (log 25). -/
def Obligations.ResultsComeDue : Prop :=
  (∀ (x : Wave) (n : Nat), (x.advance n).pos = x.pos + BitVec.ofNat 16 n) ∧
  (∀ (x : Wave), (∀ e ∈ x.pipe, x.ahead e ≠ 0) → x.landAt 0 = x) ∧
  (∀ (x : Wave) (e : PipeEnt) (r len l k : Nat), x.pipe = [e] → x.ahead e = 0 → e.dst = .w r len → l < 32 → k < 256 → r + len ≤ 256 →
    (x.landAt 0).pipe = [] ∧ (x.landAt 0).reg l k = if e.lanes.getLsbD l = true ∧ r ≤ k ∧ k < r + len ∧ k < x.alloc then BitVec.ofNat 32 (e.vals.get 0 l / 2 ^ (32 * (k - r)))
      else x.reg l k) ∧
  (∀ (x : Wave) (o : Op) (k : Nat), o.tok = some k → let t := (x.retireOp o).tok k
    t.count = (x.tok k).count - 1 ∧ t.err = ((x.tok k).err || o.err.isSome) ∧ t.det = ((x.tok k).det).or o.err) ∧
  (∀ (x : Wave) (o : Op), o.tok = none → (x.retireOp o).asyncDue = (x.asyncDue || o.err.isSome) ∧ (x.retireOp o).untracked = x.untracked.or o.err) ∧
  (∀ (x : Wave) (o : Op) (r len l k : Nat), o.dst = .w r len → o.dropped = [] → o.err = none → l < 32 → k < 256 → r + len ≤ 256 →
    (x.retireOp o).reg l k = if o.lanes.getLsbD l = true ∧ r ≤ k ∧ k < r + len ∧ k < x.alloc then BitVec.ofNat 32 (o.vals.get 0 l / 2 ^ (32 * (k - r))) else x.reg l k) ∧
  (∀ (x : Wave) (o : Op) (r len l k : Nat) (e : Detail), o.dst = .w r len → o.dropped = [] → o.err = some e → e.kind ≠ 3 → e.kind ≠ 11 → l < 32 → k < 256 → r + len ≤ 256 →
    o.lanes.getLsbD l = true → r ≤ k → k < r + len → k < x.alloc → (x.retireOp o).reg l k = 0)

/-- PRMB writes four bytes: byte e is the source byte that bits 4e+2 to 4e of c select, a supplying bytes 0 to 3 and b bytes 4 to 7; with bit 4e+3 set it is 0xFF when bit 7 of that byte is 1 and 0x00 otherwise. Bits 31 to 16 of c have no part in it. -/
def Obligations.BytesArePermuted : Prop :=
  ∀ (h : Ctl) (d : Opnd) (a b c : Src) (ty : BitVec 3), ∃ f : Iss → Wave → Nat → Nat,
    FixedResult (.prmb h d a b c ty) 0x098 h (req (d.rng 1) [a.rng 1, b.rng 1, c.rng 1]) 2 (d.dest 1) f ∧
      ∀ i x l e, e < 4 →
        let s := field (c.w x l).toNat (4 * e) 4
        let n := s % 8
        let src := if n < 4 then field (a.w x l).toNat (8 * n) 8 else field (b.w x l).toNat (8 * (n - 4)) 8
        f i x l < 2 ^ 32 ∧ field (f i x l) (8 * e) 8 = (if s < 8 then src else if 128 ≤ src then 0xFF else 0)

/-- MLEAVE removes each active lane from every mask whose bit is set in SET; a mask whose last member leaves is clear, meet address and all; no other mask, no lane that is not a member and nothing else changes, and SET = 0 has no effect. When the issue then holds threads and releases masks is R186's, with the model's choices of logs 54 and 55. -/
def Obligations.LanesLeaveMasks : Prop :=
  ∀ (h : Ctl) (set : BitVec 12) (s : State) (i : Iss) (x : Wave), Goes h Req.none s i x →
    ∃ z, LeavesWave (.mleave h set) 0x2C1 s i z .none 1 (fun _ => none) ∧ { z with masks := x.masks } = x ∧ (set = 0 → z = x) ∧
      ∀ m, z.mask m = if m < 12 ∧ set.getLsbD m = true then
          (if (x.mask m).lanes &&& ~~~i.act = 0 then ⟨0, 0⟩ else ⟨(x.mask m).lanes &&& ~~~i.act, (x.mask m).meet⟩) else x.mask m

/-- An instruction issues when a live wave has a path group, no safe point stops it, its registers lie within the allocation and its tiles within the block's, it carries no wait, no register is pending or uncorrectable, it reads no tile out, and the token it posts is not full. What stops it else is the first that applies of: a safe point; a register range or a tile out of range; its wait hint, on which the wave waits or takes the token error; a pending source, or a tile read out with an operation outstanding; an uncorrectable source; a pending destination; a full token. A wave whose running threads all stand at one address, with no run in progress, has those threads as its path group. The places of the safe point (log 53) and of the data error (log 52) among the checks are the model's choice, and that no active lane means no pending register is its reading (log 22). -/
def Obligations.IssuesNormally : Prop :=
  (∀ (s : State) (h : Ctl) (q : Req) (i : Iss) (x : Wave), (St.of s).group h = some (i, x) → h.sp = false ∨ (s.dev.block x.blk).preq = false →
    (∀ r ∈ q.ranges, r.1 + r.2 ≤ x.alloc) → (∀ t ∈ q.tiles, t < (s.dev.block x.blk).accN) → h.wait = none → x.pend = 0 → x.bad = [] → q.out = none →
    (∀ k, h.post = some k → (x.tok k.toNat).count ≠ 63) → Goes h q s i x) ∧
  (∀ (s : State) (h : Ctl) (q : Req) (i : Iss) (x : Wave), (St.of s).group h = some (i, x) → ¬NoSafeStop h s i x →
    Stops h q s ((s.at' i x).safeStop i.w i.grp)) ∧
  (∀ (s : State) (h : Ctl) (q : Req) (i : Iss) (x : Wave) (r : Nat × Nat), (St.of s).group h = some (i, x) → NoSafeStop h s i x → q.ranges.find? (fun r => decide (x.alloc < r.1 + r.2)) = some r →
    Stops h q s ((s.at' i x).faultAt i 1 (regV0 r.1 i.act) 0 0 0)) ∧
  (∀ (s : State) (h : Ctl) (q : Req) (i : Iss) (x : Wave) (t : Nat), (St.of s).group h = some (i, x) → NoSafeStop h s i x → (∀ r ∈ q.ranges, r.1 + r.2 ≤ x.alloc) →
    q.tiles.find? (fun t => decide ((s.dev.block x.blk).accN ≤ t)) = some t → Stops h q s ((s.at' i x).faultAt i 1 (regV0 (0x134 + t) i.act) 0 0 0)) ∧
  (∀ (s : State) (h : Ctl) (q : Req) (i : Iss) (x : Wave) (k : BitVec 4) (n : BitVec 6), (St.of s).group h = some (i, x) → NoSafeStop h s i x → RegsInside q s x → h.wait = some (k, n) →
    n.toNat < (x.tok k.toNat).count → Stops h q s ((s.at' i x).withD (·.setWave i.w { x with wait := .token k.toNat n.toNat }))) ∧
  (∀ (s : State) (h : Ctl) (q : Req) (i : Iss) (x : Wave) (k : BitVec 4) (n : BitVec 6), (St.of s).group h = some (i, x) → NoSafeStop h s i x → RegsInside q s x → h.wait = some (k, n) →
    (x.tok k.toNat).count ≤ n.toNat → (x.tok k.toNat).err = true →
    let v := tokV x k.toNat (x.tok k.toNat).det
    Stops h q s ((s.at' i x).faultAt i 7 v.1 v.2.1 v.2.2.1 v.2.2.2)) ∧
  (∀ (s : State) (h : Ctl) (q : Req) (i : Iss) (x : Wave) (r : Nat × Nat × Bool), (St.of s).group h = some (i, x) → NoSafeStop h s i x → RegsInside q s x → HintMet h x → i.act ≠ 0 →
    q.srcs.find? (fun r => !r.2.2 && x.pending (r.1, r.2.1)) = some r → Stops h q s ((s.at' i x).faultAt i 2 (regV0 r.1 i.act) 0 0 0)) ∧
  (∀ (s : State) (h : Ctl) (q : Req) (i : Iss) (x : Wave) (t : Nat), (St.of s).group h = some (i, x) → NoSafeStop h s i x → RegsInside q s x → HintMet h x → i.act ≠ 0 →
    (∀ r ∈ q.srcs, r.2.2 = true ∨ x.pending (r.1, r.2.1) = false) → q.out = some t →
    ((s.at' i x).d.prog i.core ((s.dev.block x.blk).accB + t)).getLsbD 31 = true →
    Stops h q s ((s.at' i x).faultAt i 2 (regV0 (0x134 + t) i.act) (((s.at' i x).d.prog i.core ((s.dev.block x.blk).accB + t)).setWidth 64) 0 0)) ∧
  (∀ (s : State) (h : Ctl) (q : Req) (i : Iss) (x : Wave) (r : Nat × Nat) (rs : List (Nat × Nat)), (St.of s).group h = some (i, x) → NoSafeStop h s i x → RegsInside q s x → HintMet h x → SourcesReady q s i x →
    badSources q i x = r :: rs → Stops h q s ((s.at' i x).faultAt i 4 (regV0 r.2 i.act)
      (BitVec.ofNat 64 (maskLanes (fun l => (r :: rs).any (·.1 == l))).toNat) 0 0)) ∧
  (∀ (s : State) (h : Ctl) (q : Req) (i : Iss) (x : Wave) (r : Nat × Nat), (St.of s).group h = some (i, x) → NoSafeStop h s i x → RegsInside q s x → HintMet h x → SourcesReady q s i x →
    badSources q i x = [] → i.act ≠ 0 → q.dsts.find? (fun r => x.pending r) = some r → Stops h q s ((s.at' i x).faultAt i 3 (regV0 r.1 i.act) 0 0 0)) ∧
  (∀ (s : State) (h : Ctl) (q : Req) (i : Iss) (x : Wave) (k : BitVec 4), (St.of s).group h = some (i, x) → NoSafeStop h s i x → RegsInside q s x → HintMet h x → SourcesReady q s i x →
    badSources q i x = [] → (i.act ≠ 0 → ∀ r ∈ q.dsts, x.pending r = false) → h.post = some k → (x.tok k.toNat).count = 63 →
    Stops h q s ((s.at' i x).faultAt i 5 (tokV x k.toNat none).1 0 0 0)) ∧
  (∀ (s : State) (h : Ctl) (q : Req) (i : Iss) (x : Wave), (St.of s).group h = some (i, x) → NoSafeStop h s i x → RegsInside q s x → HintMet h x → SourcesReady q s i x →
    badSources q i x = [] → (i.act ≠ 0 → ∀ r ∈ q.dsts, x.pending r = false) → (∀ k, h.post = some k → (x.tok k.toNat).count ≠ 63) → Goes h q s i x) ∧
  (∀ (s : State) (h : Ctl) (g : Lanes) (x : Wave), ((s.dev.wave s.dev.cur).landAt 0).choose = some (g, x) → x.live = true →
    ∃ i, (St.of s).group h = some (i, x) ∧ i.w = s.dev.cur ∧ i.grp = g ∧ i.h = h ∧ i.ba = (x.thread (lowest g)).pc) ∧
  (∀ (x : Wave) (pc : Addr), x.runs ≠ 0 → x.fav = 0 → (∀ l, x.runs.getLsbD l = true → (x.thread l).pc = pc) → x.choose = some (x.runs, x))

/-- Each of IADD, ISUB, IMUL, IMULH, IMIN, IMAX, AND, OR, XOR, ANDN, ORN, IADD64, ISUB64 and BFI issues and goes on: the exact result of its two sources under TY, wrapped or clamped, is in the result pipe for its destination at its latency, for each lane whose guard is true; every other register, mask, token, special register and byte of memory is as it was, but for the results that fall due on the way. -/
def Obligations.IntegerTwoSource : Prop :=
  (∀ (h : Ctl) (d : Opnd) (a b : Src) (ty : BitVec 3) (sat : Bool),
    FixedResult (.iadd h d a b ty sat) 0x080 h (req (d.rng (intN ty)) [a.rng (intN ty), b.rng (intN ty)]) 2 (d.dest (intN ty)) (fun _ x l => intRes ty sat (a.int x l ty + b.int x l ty))) ∧
  (∀ (h : Ctl) (d : Opnd) (a b : Src) (ty : BitVec 3) (sat : Bool),
    FixedResult (.isub h d a b ty sat) 0x081 h (req (d.rng (intN ty)) [a.rng (intN ty), b.rng (intN ty)]) 2 (d.dest (intN ty)) (fun _ x l => intRes ty sat (a.int x l ty - b.int x l ty))) ∧
  (∀ (h : Ctl) (d : Opnd) (a b : Src) (ty : BitVec 3),
    FixedResult (.imul h d a b ty) 0x082 h (req (d.rng (intN ty)) [a.rng (intN ty), b.rng (intN ty)]) 4 (d.dest (intN ty)) (fun _ x l => intRes ty false (a.int x l ty * b.int x l ty))) ∧
  (∀ (h : Ctl) (d : Opnd) (a b : Src) (ty : BitVec 3),
    FixedResult (.imulh h d a b ty) 0x083 h (req (d.rng (intN ty)) [a.rng (intN ty), b.rng (intN ty)]) 4 (d.dest (intN ty)) (fun _ x l => intRes ty false (a.int x l ty * b.int x l ty / 2 ^ 32))) ∧
  (∀ (h : Ctl) (d : Opnd) (a b : Src) (ty : BitVec 3),
    FixedResult (.imin h d a b ty) 0x086 h (req (d.rng (intN ty)) [a.rng (intN ty), b.rng (intN ty)]) 2 (d.dest (intN ty)) (fun _ x l => intRes ty false (min (a.int x l ty) (b.int x l ty)))) ∧
  (∀ (h : Ctl) (d : Opnd) (a b : Src) (ty : BitVec 3),
    FixedResult (.imax h d a b ty) 0x087 h (req (d.rng (intN ty)) [a.rng (intN ty), b.rng (intN ty)]) 2 (d.dest (intN ty)) (fun _ x l => intRes ty false (max (a.int x l ty) (b.int x l ty)))) ∧
  (∀ (h : Ctl) (d : Opnd) (a b : Src) (ty : BitVec 3),
    FixedResult (.and h d a b ty) 0x089 h (req (d.rng (intN ty)) [a.rng (intN ty), b.rng (intN ty)]) 2 (d.dest (intN ty)) (fun _ x l => intRes ty false (iand (a.int x l ty) (b.int x l ty)))) ∧
  (∀ (h : Ctl) (d : Opnd) (a b : Src) (ty : BitVec 3),
    FixedResult (.or h d a b ty) 0x08A h (req (d.rng (intN ty)) [a.rng (intN ty), b.rng (intN ty)]) 2 (d.dest (intN ty)) (fun _ x l => intRes ty false (ior (a.int x l ty) (b.int x l ty)))) ∧
  (∀ (h : Ctl) (d : Opnd) (a b : Src) (ty : BitVec 3),
    FixedResult (.xor h d a b ty) 0x08B h (req (d.rng (intN ty)) [a.rng (intN ty), b.rng (intN ty)]) 2 (d.dest (intN ty)) (fun _ x l => intRes ty false (ixor (a.int x l ty) (b.int x l ty)))) ∧
  (∀ (h : Ctl) (d : Opnd) (a b : Src) (ty : BitVec 3),
    FixedResult (.andn h d a b ty) 0x08C h (req (d.rng (intN ty)) [a.rng (intN ty), b.rng (intN ty)]) 2 (d.dest (intN ty)) (fun _ x l => intRes ty false (iand (a.int x l ty) (-(b.int x l ty) - 1)))) ∧
  (∀ (h : Ctl) (d : Opnd) (a b : Src) (ty : BitVec 3),
    FixedResult (.orn h d a b ty) 0x08D h (req (d.rng (intN ty)) [a.rng (intN ty), b.rng (intN ty)]) 2 (d.dest (intN ty)) (fun _ x l => intRes ty false (ior (a.int x l ty) (-(b.int x l ty) - 1)))) ∧
  (∀ (h : Ctl) (d : Opnd) (a b : Src) (ty : BitVec 3) (sat : Bool),
    FixedResult (.iadd64 h d a b ty sat) 0x09C h (req (d.rng (intN ty)) [a.rng (intN ty), b.rng (intN ty)]) 2 (d.dest (intN ty)) (fun _ x l => intRes ty sat (a.int x l ty + b.int x l ty))) ∧
  (∀ (h : Ctl) (d : Opnd) (a b : Src) (ty : BitVec 3) (sat : Bool),
    FixedResult (.isub64 h d a b ty sat) 0x09D h (req (d.rng (intN ty)) [a.rng (intN ty), b.rng (intN ty)]) 2 (d.dest (intN ty)) (fun _ x l => intRes ty sat (a.int x l ty - b.int x l ty))) ∧
  (∀ (h : Ctl) (d : Opnd) (a b : Src) (ty : BitVec 3) (pos : BitVec 6) (len : BitVec 7),
    FixedResult (.bfi h d a b ty pos len) 0x094 h (req (d.rng (intN ty)) [a.rng (intN ty), b.rng (intN ty)]) 2 (d.dest (intN ty)) (fun _ x l => intRes ty false (bfi (intW ty) (a.int x l ty) (b.int x l ty) pos.toNat len.toNat)))

/-- The literal form of each two-source integer instruction is the register form with IMM32, sign-extended in a 64-bit slot, as its second source; MOVI writes the literal and MOVH the pair of the literal over its source. -/
def Obligations.IntegerLiteral : Prop :=
  (∀ (h : Ctl) (d : Opnd) (a : Src) (imm : BitVec 32) (ty : BitVec 3) (sat : Bool),
    FixedResult (.iaddLit h d a imm ty sat) 0x0C0 h (req (d.rng (intN ty)) [a.rng (intN ty)]) 2 (d.dest (intN ty)) (fun _ x l => intRes ty sat (a.int x l ty + litInt imm ty))) ∧
  (∀ (h : Ctl) (d : Opnd) (a : Src) (imm : BitVec 32) (ty : BitVec 3) (sat : Bool),
    FixedResult (.isubLit h d a imm ty sat) 0x0C1 h (req (d.rng (intN ty)) [a.rng (intN ty)]) 2 (d.dest (intN ty)) (fun _ x l => intRes ty sat (a.int x l ty - litInt imm ty))) ∧
  (∀ (h : Ctl) (d : Opnd) (a : Src) (imm : BitVec 32) (ty : BitVec 3),
    FixedResult (.imulLit h d a imm ty) 0x0C2 h (req (d.rng (intN ty)) [a.rng (intN ty)]) 4 (d.dest (intN ty)) (fun _ x l => intRes ty false (a.int x l ty * litInt imm ty))) ∧
  (∀ (h : Ctl) (d : Opnd) (a : Src) (imm : BitVec 32) (ty : BitVec 3),
    FixedResult (.imulhLit h d a imm ty) 0x0C3 h (req (d.rng (intN ty)) [a.rng (intN ty)]) 4 (d.dest (intN ty)) (fun _ x l => intRes ty false (a.int x l ty * litInt imm ty / 2 ^ 32))) ∧
  (∀ (h : Ctl) (d : Opnd) (a : Src) (imm : BitVec 32) (ty : BitVec 3),
    FixedResult (.iminLit h d a imm ty) 0x0C6 h (req (d.rng (intN ty)) [a.rng (intN ty)]) 2 (d.dest (intN ty)) (fun _ x l => intRes ty false (min (a.int x l ty) (litInt imm ty)))) ∧
  (∀ (h : Ctl) (d : Opnd) (a : Src) (imm : BitVec 32) (ty : BitVec 3),
    FixedResult (.imaxLit h d a imm ty) 0x0C7 h (req (d.rng (intN ty)) [a.rng (intN ty)]) 2 (d.dest (intN ty)) (fun _ x l => intRes ty false (max (a.int x l ty) (litInt imm ty)))) ∧
  (∀ (h : Ctl) (d : Opnd) (a : Src) (imm : BitVec 32) (ty : BitVec 3),
    FixedResult (.andLit h d a imm ty) 0x0C9 h (req (d.rng (intN ty)) [a.rng (intN ty)]) 2 (d.dest (intN ty)) (fun _ x l => intRes ty false (iand (a.int x l ty) (litInt imm ty)))) ∧
  (∀ (h : Ctl) (d : Opnd) (a : Src) (imm : BitVec 32) (ty : BitVec 3),
    FixedResult (.orLit h d a imm ty) 0x0CA h (req (d.rng (intN ty)) [a.rng (intN ty)]) 2 (d.dest (intN ty)) (fun _ x l => intRes ty false (ior (a.int x l ty) (litInt imm ty)))) ∧
  (∀ (h : Ctl) (d : Opnd) (a : Src) (imm : BitVec 32) (ty : BitVec 3),
    FixedResult (.xorLit h d a imm ty) 0x0CB h (req (d.rng (intN ty)) [a.rng (intN ty)]) 2 (d.dest (intN ty)) (fun _ x l => intRes ty false (ixor (a.int x l ty) (litInt imm ty)))) ∧
  (∀ (h : Ctl) (d : Opnd) (a : Src) (imm : BitVec 32) (ty : BitVec 3),
    FixedResult (.andnLit h d a imm ty) 0x0CC h (req (d.rng (intN ty)) [a.rng (intN ty)]) 2 (d.dest (intN ty)) (fun _ x l => intRes ty false (iand (a.int x l ty) (-(litInt imm ty) - 1)))) ∧
  (∀ (h : Ctl) (d : Opnd) (a : Src) (imm : BitVec 32) (ty : BitVec 3),
    FixedResult (.ornLit h d a imm ty) 0x0CD h (req (d.rng (intN ty)) [a.rng (intN ty)]) 2 (d.dest (intN ty)) (fun _ x l => intRes ty false (ior (a.int x l ty) (-(litInt imm ty) - 1)))) ∧
  (∀ (h : Ctl) (d : Opnd) (imm : BitVec 32) (ty : BitVec 3),
    FixedResult (.movi h d imm ty) 0x0E0 h (req (d.rng (intN ty)) []) 2 (d.dest (intN ty)) (fun _ _ _ => if ty.toNat = 7 then (imm.signExtend 64).toNat else imm.toNat)) ∧
  (∀ (h : Ctl) (d : Opnd) (a : Src) (imm : BitVec 32) (ty : BitVec 3),
    FixedResult (.movh h d a imm ty) 0x0E1 h (req (d.rng 2) [a.rng 1]) 2 (d.dest 2) (fun _ x l => imm.toNat * 2 ^ 32 + (a.w x l).toNat))

/-- SHL, SHR, SAR and ROT and their literal forms take the count from b[7:0] or IMM32[7:0] and write the shifted or rotated pattern of the width of TY. -/
def Obligations.ShiftsAndRotates : Prop :=
  (∀ (h : Ctl) (d : Opnd) (a b : Src) (ty : BitVec 3),
    FixedResult (.shl h d a b ty) 0x08E h (req (d.rng (intN ty)) [a.rng (intN ty), b.rng 1]) 2 (d.dest (intN ty)) (fun _ x l => intRes ty false (shl (intW ty) (a.int x l ty) ((b.w x l).toNat % 256)))) ∧
  (∀ (h : Ctl) (d : Opnd) (a b : Src) (ty : BitVec 3),
    FixedResult (.shr h d a b ty) 0x08F h (req (d.rng (intN ty)) [a.rng (intN ty), b.rng 1]) 2 (d.dest (intN ty)) (fun _ x l => intRes ty false (shr (intW ty) (a.int x l ty) ((b.w x l).toNat % 256)))) ∧
  (∀ (h : Ctl) (d : Opnd) (a b : Src) (ty : BitVec 3),
    FixedResult (.sar h d a b ty) 0x090 h (req (d.rng (intN ty)) [a.rng (intN ty), b.rng 1]) 2 (d.dest (intN ty)) (fun _ x l => intRes ty false (shr (intW ty) (a.int x l ty) ((b.w x l).toNat % 256)))) ∧
  (∀ (h : Ctl) (d : Opnd) (a b : Src) (ty : BitVec 3),
    FixedResult (.rot h d a b ty) 0x091 h (req (d.rng (intN ty)) [a.rng (intN ty), b.rng 1]) 2 (d.dest (intN ty)) (fun _ x l => intRes ty false (rot (intW ty) (a.int x l ty) ((b.w x l).toNat % 256)))) ∧
  (∀ (h : Ctl) (d : Opnd) (a : Src) (imm : BitVec 32) (ty : BitVec 3),
    FixedResult (.shlLit h d a imm ty) 0x0CE h (req (d.rng (intN ty)) [a.rng (intN ty)]) 2 (d.dest (intN ty)) (fun _ x l => intRes ty false (shl (intW ty) (a.int x l ty) (imm.toNat % 256)))) ∧
  (∀ (h : Ctl) (d : Opnd) (a : Src) (imm : BitVec 32) (ty : BitVec 3),
    FixedResult (.shrLit h d a imm ty) 0x0CF h (req (d.rng (intN ty)) [a.rng (intN ty)]) 2 (d.dest (intN ty)) (fun _ x l => intRes ty false (shr (intW ty) (a.int x l ty) (imm.toNat % 256)))) ∧
  (∀ (h : Ctl) (d : Opnd) (a : Src) (imm : BitVec 32) (ty : BitVec 3),
    FixedResult (.sarLit h d a imm ty) 0x0D0 h (req (d.rng (intN ty)) [a.rng (intN ty)]) 2 (d.dest (intN ty)) (fun _ x l => intRes ty false (shr (intW ty) (a.int x l ty) (imm.toNat % 256)))) ∧
  (∀ (h : Ctl) (d : Opnd) (a : Src) (imm : BitVec 32) (ty : BitVec 3),
    FixedResult (.rotLit h d a imm ty) 0x0D1 h (req (d.rng (intN ty)) [a.rng (intN ty)]) 2 (d.dest (intN ty)) (fun _ x l => intRes ty false (rot (intW ty) (a.int x l ty) (imm.toNat % 256))))

/-- IMAD, IMADW, IABS, FSH, BFX, POPC, CLZ, BREV, PRMB, SEL, MOV, LEA and ICVT issue and go on with the results of their rules. That IMADW and LEA take inline constants in their pairs is the model's choice (log 67). -/
def Obligations.IntegerOther : Prop :=
  (∀ (h : Ctl) (d : Opnd) (a b c : Src) (ty : BitVec 3),
    FixedResult (.imad h d a b c ty) 0x084 h (req (d.rng (intN ty)) [a.rng 1, b.rng 1, c.rng 1]) 4 (d.dest (intN ty)) (fun _ x l => intRes ty false (a.int x l ty * b.int x l ty + c.int x l ty))) ∧
  (∀ (h : Ctl) (d : Opnd) (a b c : Src) (ty : BitVec 3),
    FixedResult (.imadw h d a b c ty) 0x085 h (req (d.rng 2) [a.rng 1, b.rng 1, c.rng 2]) 4 (d.dest 2) (fun _ x l => ((a.int x l ty * b.int x l ty + (c.x x l).toNat) % 2 ^ 64).toNat)) ∧
  (∀ (h : Ctl) (d : Opnd) (a : Src) (ty : BitVec 3) (sat : Bool),
    FixedResult (.iabs h d a ty sat) 0x088 h (req (d.rng (intN ty)) [a.rng (intN ty)]) 2 (d.dest (intN ty)) (fun _ x l => intRes ty sat ((a.int x l ty).natAbs : Int))) ∧
  (∀ (h : Ctl) (d : Opnd) (a b c : Src) (ty : BitVec 3) (dir : Bool),
    FixedResult (.fsh h d a b c ty dir) 0x092 h (req (d.rng 1) [a.rng 1, b.rng 1, c.rng 1]) 2 (d.dest 1) (fun _ x l => fsh dir (a.w x l).toNat (b.w x l).toNat ((c.w x l).toNat % 32))) ∧
  (∀ (h : Ctl) (d : Opnd) (a : Src) (ty : BitVec 3) (pos : BitVec 6) (len : BitVec 7),
    FixedResult (.bfx h d a ty pos len) 0x093 h (req (d.rng (intN ty)) [a.rng (intN ty)]) 2 (d.dest (intN ty)) (fun _ x l => intRes ty false (bfx ty (a.int x l ty) pos.toNat len.toNat))) ∧
  (∀ (h : Ctl) (d : Opnd) (a : Src) (ty : BitVec 3),
    FixedResult (.popc h d a ty) 0x095 h (req (d.rng 1) [a.rng (intN ty)]) 2 (d.dest 1) (fun _ x l => popcount (a.int x l ty).toNat (intW ty))) ∧
  (∀ (h : Ctl) (d : Opnd) (a : Src) (ty : BitVec 3),
    FixedResult (.clz h d a ty) 0x096 h (req (d.rng 1) [a.rng (intN ty)]) 2 (d.dest 1) (fun _ x l => leadingZeros (a.int x l ty).toNat (intW ty))) ∧
  (∀ (h : Ctl) (d : Opnd) (a : Src) (ty : BitVec 3),
    FixedResult (.brev h d a ty) 0x097 h (req (d.rng (intN ty)) [a.rng (intN ty)]) 2 (d.dest (intN ty)) (fun _ x l => reverseBits (a.int x l ty).toNat (intW ty))) ∧
  (∀ (h : Ctl) (d : Opnd) (a b c : Src) (ty : BitVec 3),
    FixedResult (.prmb h d a b c ty) 0x098 h (req (d.rng 1) [a.rng 1, b.rng 1, c.rng 1]) 2 (d.dest 1) (fun _ x l => prmb (a.w x l).toNat (b.w x l).toNat (c.w x l).toNat)) ∧
  (∀ (h : Ctl) (d : Opnd) (a b c : Src) (ty : BitVec 3),
    FixedResult (.sel h d a b c ty) 0x099 h (req (d.rng (intN ty)) [a.rng (intN ty), b.rng (intN ty)]) 2 (d.dest (intN ty)) (fun _ x l => intRes ty false (if c.o.valP x l then a.int x l ty else b.int x l ty))) ∧
  (∀ (h : Ctl) (d : Opnd) (a : Src) (ty : BitVec 3),
    FixedResult (.mov h d a ty) 0x09A h (req (d.rng (intN ty)) [a.rng (intN ty)]) 2 (d.dest (intN ty)) (fun _ x l => if ty.toNat < 6 then (a.w x l).toNat else (a.x x l).toNat)) ∧
  (∀ (h : Ctl) (d : Opnd) (a b : Src) (ty sh : BitVec 3),
    FixedResult (.lea h d a b ty sh) 0x09B h (req (d.rng 2) [a.rng 2, b.rng 1]) 2 (d.dest 2) (fun _ x l => (((a.x x l).toNat + b.int x l ty * 2 ^ sh.toNat) % 2 ^ 64).toNat)) ∧
  (∀ (h : Ctl) (d : Opnd) (a : Src) (ty : BitVec 3) (sat : Bool) (sty : BitVec 3),
    FixedResult (.icvt h d a ty sat sty) 0x09E h (req (d.rng (intN ty)) [a.rng (intN sty)]) 2 (d.dest (intN ty)) (fun _ x l => intRes ty sat (a.int x l sty)))

/-- ICMP, FCMP, FCLS in all their forms, PLOP and PMOV issue and go on: a comparison writes its condition, combined with the third predicate, and PMOV packs, unpacks or tests predicates by MODE. ICMP, PLOP and PMOV have latency 2, the floating-point ones 4, and 8 in the FP64 class. -/
def Obligations.ComparesAndPredicates : Prop :=
  (∀ (h : Ctl) (d : Opnd) (a b : Src) (c : Option Src) (ty cond : BitVec 3) (comb : BitVec 2),
    FixedResult (.icmp h d a b c ty cond comb) 0x100 h (req (d.rng 1) [a.rng (intN ty), b.rng (intN ty)]) 2 (d.dest 1) (fun _ x l => bitVal (Machine.comb comb (icond cond (a.int x l ty) (b.int x l ty)) (thirdPred c x l)))) ∧
  (∀ (h : Ctl) (d : Opnd) (a b c : Src) (lut : BitVec 8),
    FixedResult (.plop h d a b c lut) 0x101 h (req (d.rng 1) []) 2 (d.dest 1) (fun _ x l => bitVal (lut.getLsbD (4 * bitVal (a.o.valP x l) + 2 * bitVal (b.o.valP x l) + bitVal (c.o.valP x l))))) ∧
  (∀ (h : Ctl) (d : Option Opnd) (a : Option Src) (mask : BitVec 7) (mode : BitVec 2),
    FixedResult (.pmov h d a mask mode) 0x102 h (req (dstRng d 1) [srcRng a 1]) 2
      (if mode.toNat = 1 then .ps mask else dstOf d 1) (fun _ x l =>
      if mode.toNat = 0 then (List.range 7).foldl (fun v j => v + bitVal (x.pred l j) * 2 ^ j) 128
      else if mode.toNat = 1 then (a.map (fun a => (a.w x l).toNat)).getD 0
      else bitVal ((a.map (fun a => (a.w x l).toNat)).getD 0 != 0))) ∧
  (∀ (h : Ctl) (d : Opnd) (a b : Src) (c : Option Src) (ty cond : BitVec 3) (comb : BitVec 2),
    FixedResult (.fcmp h d a b c ty cond comb) 0x146 h (req (d.rng 1) [a.rng (fltN ty), b.rng (fltN ty)]) 4 (d.dest 1) (fun _ x l => bitVal (Machine.comb comb (fcond cond.toNat ((fmtOf ty.toNat).value (a.flt x l ty)) ((fmtOf ty.toNat).value (b.flt x l ty))) (thirdPred c x l)))) ∧
  (∀ (h : Ctl) (d : Opnd) (a b : Src) (c : Option Src) (ty cond : BitVec 3) (comb : BitVec 2),
    FixedResult (.fcmpF64 h d a b c ty cond comb) 0x1C6 h (req (d.rng 1) [a.rng (fltN ty), b.rng (fltN ty)]) 8 (d.dest 1) (fun _ x l => bitVal (Machine.comb comb (fcond cond.toNat ((fmtOf ty.toNat).value (a.flt x l ty)) ((fmtOf ty.toNat).value (b.flt x l ty))) (thirdPred c x l)))) ∧
  (∀ (h : Ctl) (d : Opnd) (a : Src) (ty : BitVec 3) (mask : BitVec 9),
    FixedResult (.fcls h d a ty mask) 0x147 h (req (d.rng 1) [a.rng (fltN ty)]) 4 (d.dest 1) (fun _ x l => if d.isP then bitVal ((fmtOf ty.toNat).fcls (a.flt x l ty) &&& mask.toNat != 0) else (fmtOf ty.toNat).fcls (a.flt x l ty))) ∧
  (∀ (h : Ctl) (d : Opnd) (a : Src) (ty : BitVec 3) (mask : BitVec 9),
    FixedResult (.fclsF64 h d a ty mask) 0x1C7 h (req (d.rng 1) [a.rng (fltN ty)]) 8 (d.dest 1) (fun _ x l => if d.isP then bitVal ((fmtOf ty.toNat).fcls (a.flt x l ty) &&& mask.toNat != 0) else (fmtOf ty.toNat).fcls (a.flt x l ty))) ∧
  (∀ (h : Ctl) (d : Opnd) (a : Src) (imm : BitVec 32) (ty : BitVec 3) (cond : BitVec 2),
    FixedResult (.fcmpLit h d a imm ty cond) 0x186 h (req (d.rng 1) [a.rng (fltN ty), []]) 4 (d.dest 1) (fun _ x l => bitVal (fcond cond.toNat ((fmtOf ty.toNat).value (a.flt x l ty)) ((fmtOf ty.toNat).value imm.toNat))))

/-- FADD, FSUB, FMUL, FFMA, FMIN, FMAX, FSCL and FRND of every type, at latency 4, and their FP64 forms, at latency 8, write the rounded result of their sources after the modifiers; FADD, FSUB, FMUL, FMIN and FMAX with an FP32 literal are the same with the pattern IMM32 as the second source. -/
def Obligations.FloatArithmetic : Prop :=
  (∀ (h : Ctl) (d : Opnd) (a b : Src) (ty : BitVec 3) (f : FMod),
    FixedResult (.fadd h d a b ty f) 0x140 h (req (d.rng (fltN ty)) [a.rng (fltN ty), b.rng (fltN ty)]) 4 (d.dest (fltN ty)) (fun _ x l => (fmtOf ty.toNat).fadd f.rm.toNat f.sat ((fmtOf ty.toNat).modify f.absa f.nega (a.flt x l ty)) ((fmtOf ty.toNat).modify f.absb f.negb (b.flt x l ty)))) ∧
  (∀ (h : Ctl) (d : Opnd) (a b : Src) (ty : BitVec 3) (f : FMod),
    FixedResult (.fsub h d a b ty f) 0x141 h (req (d.rng (fltN ty)) [a.rng (fltN ty), b.rng (fltN ty)]) 4 (d.dest (fltN ty)) (fun _ x l => (fmtOf ty.toNat).fsub f.rm.toNat f.sat ((fmtOf ty.toNat).modify f.absa f.nega (a.flt x l ty)) ((fmtOf ty.toNat).modify f.absb f.negb (b.flt x l ty)))) ∧
  (∀ (h : Ctl) (d : Opnd) (a b : Src) (ty : BitVec 3) (f : FMod),
    FixedResult (.fmul h d a b ty f) 0x142 h (req (d.rng (fltN ty)) [a.rng (fltN ty), b.rng (fltN ty)]) 4 (d.dest (fltN ty)) (fun _ x l => (fmtOf ty.toNat).fmul f.rm.toNat f.sat ((fmtOf ty.toNat).modify f.absa f.nega (a.flt x l ty)) ((fmtOf ty.toNat).modify f.absb f.negb (b.flt x l ty)))) ∧
  (∀ (h : Ctl) (d : Opnd) (a b c : Src) (ty : BitVec 3) (f : FMod),
    FixedResult (.ffma h d a b c ty f) 0x143 h (req (d.rng (fltN ty)) [a.rng (fltN ty), b.rng (fltN ty), c.rng (fltN ty)]) 4 (d.dest (fltN ty)) (fun _ x l => (fmtOf ty.toNat).ffma f.rm.toNat f.sat ((fmtOf ty.toNat).modify f.absa f.nega (a.flt x l ty)) ((fmtOf ty.toNat).modify f.absb f.negb (b.flt x l ty)) ((fmtOf ty.toNat).modify false f.negc (c.flt x l ty)))) ∧
  (∀ (h : Ctl) (d : Opnd) (a b : Src) (ty : BitVec 3) (f : FMod),
    FixedResult (.fmin h d a b ty f) 0x144 h (req (d.rng (fltN ty)) [a.rng (fltN ty), b.rng (fltN ty)]) 4 (d.dest (fltN ty)) (fun _ x l => (fmtOf ty.toNat).fmin ((fmtOf ty.toNat).modify f.absa f.nega (a.flt x l ty)) ((fmtOf ty.toNat).modify f.absb f.negb (b.flt x l ty)))) ∧
  (∀ (h : Ctl) (d : Opnd) (a b : Src) (ty : BitVec 3) (f : FMod),
    FixedResult (.fmax h d a b ty f) 0x145 h (req (d.rng (fltN ty)) [a.rng (fltN ty), b.rng (fltN ty)]) 4 (d.dest (fltN ty)) (fun _ x l => (fmtOf ty.toNat).fmax ((fmtOf ty.toNat).modify f.absa f.nega (a.flt x l ty)) ((fmtOf ty.toNat).modify f.absb f.negb (b.flt x l ty)))) ∧
  (∀ (h : Ctl) (d : Opnd) (a b : Src) (ty : BitVec 3) (f : FMod),
    FixedResult (.fscl h d a b ty f) 0x148 h (req (d.rng (fltN ty)) [a.rng (fltN ty), b.rng 1]) 4 (d.dest (fltN ty)) (fun _ x l => (fmtOf ty.toNat).fscl f.rm.toNat f.sat ((fmtOf ty.toNat).modify f.absa f.nega (a.flt x l ty)) (b.w x l).toInt)) ∧
  (∀ (h : Ctl) (d : Opnd) (a : Src) (ty : BitVec 3) (f : FMod),
    FixedResult (.frnd h d a ty f) 0x149 h (req (d.rng (fltN ty)) [a.rng (fltN ty)]) 4 (d.dest (fltN ty)) (fun _ x l => (fmtOf ty.toNat).frnd f.rm.toNat ((fmtOf ty.toNat).modify f.absa f.nega (a.flt x l ty)))) ∧
  (∀ (h : Ctl) (d : Opnd) (a b : Src) (ty : BitVec 3) (f : FMod),
    FixedResult (.faddF64 h d a b ty f) 0x1C0 h (req (d.rng (fltN ty)) [a.rng (fltN ty), b.rng (fltN ty)]) 8 (d.dest (fltN ty)) (fun _ x l => (fmtOf ty.toNat).fadd f.rm.toNat f.sat ((fmtOf ty.toNat).modify f.absa f.nega (a.flt x l ty)) ((fmtOf ty.toNat).modify f.absb f.negb (b.flt x l ty)))) ∧
  (∀ (h : Ctl) (d : Opnd) (a b : Src) (ty : BitVec 3) (f : FMod),
    FixedResult (.fsubF64 h d a b ty f) 0x1C1 h (req (d.rng (fltN ty)) [a.rng (fltN ty), b.rng (fltN ty)]) 8 (d.dest (fltN ty)) (fun _ x l => (fmtOf ty.toNat).fsub f.rm.toNat f.sat ((fmtOf ty.toNat).modify f.absa f.nega (a.flt x l ty)) ((fmtOf ty.toNat).modify f.absb f.negb (b.flt x l ty)))) ∧
  (∀ (h : Ctl) (d : Opnd) (a b : Src) (ty : BitVec 3) (f : FMod),
    FixedResult (.fmulF64 h d a b ty f) 0x1C2 h (req (d.rng (fltN ty)) [a.rng (fltN ty), b.rng (fltN ty)]) 8 (d.dest (fltN ty)) (fun _ x l => (fmtOf ty.toNat).fmul f.rm.toNat f.sat ((fmtOf ty.toNat).modify f.absa f.nega (a.flt x l ty)) ((fmtOf ty.toNat).modify f.absb f.negb (b.flt x l ty)))) ∧
  (∀ (h : Ctl) (d : Opnd) (a b c : Src) (ty : BitVec 3) (f : FMod),
    FixedResult (.ffmaF64 h d a b c ty f) 0x1C3 h (req (d.rng (fltN ty)) [a.rng (fltN ty), b.rng (fltN ty), c.rng (fltN ty)]) 8 (d.dest (fltN ty)) (fun _ x l => (fmtOf ty.toNat).ffma f.rm.toNat f.sat ((fmtOf ty.toNat).modify f.absa f.nega (a.flt x l ty)) ((fmtOf ty.toNat).modify f.absb f.negb (b.flt x l ty)) ((fmtOf ty.toNat).modify false f.negc (c.flt x l ty)))) ∧
  (∀ (h : Ctl) (d : Opnd) (a b : Src) (ty : BitVec 3) (f : FMod),
    FixedResult (.fminF64 h d a b ty f) 0x1C4 h (req (d.rng (fltN ty)) [a.rng (fltN ty), b.rng (fltN ty)]) 8 (d.dest (fltN ty)) (fun _ x l => (fmtOf ty.toNat).fmin ((fmtOf ty.toNat).modify f.absa f.nega (a.flt x l ty)) ((fmtOf ty.toNat).modify f.absb f.negb (b.flt x l ty)))) ∧
  (∀ (h : Ctl) (d : Opnd) (a b : Src) (ty : BitVec 3) (f : FMod),
    FixedResult (.fmaxF64 h d a b ty f) 0x1C5 h (req (d.rng (fltN ty)) [a.rng (fltN ty), b.rng (fltN ty)]) 8 (d.dest (fltN ty)) (fun _ x l => (fmtOf ty.toNat).fmax ((fmtOf ty.toNat).modify f.absa f.nega (a.flt x l ty)) ((fmtOf ty.toNat).modify f.absb f.negb (b.flt x l ty)))) ∧
  (∀ (h : Ctl) (d : Opnd) (a b : Src) (ty : BitVec 3) (f : FMod),
    FixedResult (.fsclF64 h d a b ty f) 0x1C8 h (req (d.rng (fltN ty)) [a.rng (fltN ty), b.rng 1]) 8 (d.dest (fltN ty)) (fun _ x l => (fmtOf ty.toNat).fscl f.rm.toNat f.sat ((fmtOf ty.toNat).modify f.absa f.nega (a.flt x l ty)) (b.w x l).toInt)) ∧
  (∀ (h : Ctl) (d : Opnd) (a : Src) (ty : BitVec 3) (f : FMod),
    FixedResult (.frndF64 h d a ty f) 0x1C9 h (req (d.rng (fltN ty)) [a.rng (fltN ty)]) 8 (d.dest (fltN ty)) (fun _ x l => (fmtOf ty.toNat).frnd f.rm.toNat ((fmtOf ty.toNat).modify f.absa f.nega (a.flt x l ty)))) ∧
  (∀ (h : Ctl) (d : Opnd) (a : Src) (imm : BitVec 32) (ty : BitVec 3) (f : FMod),
    FixedResult (.faddLit h d a imm ty f) 0x180 h (req (d.rng (fltN ty)) [a.rng (fltN ty)]) 4 (d.dest (fltN ty)) (fun _ x l => (fmtOf ty.toNat).fadd f.rm.toNat f.sat ((fmtOf ty.toNat).modify f.absa f.nega (a.flt x l ty)) ((fmtOf ty.toNat).modify f.absb f.negb imm.toNat))) ∧
  (∀ (h : Ctl) (d : Opnd) (a : Src) (imm : BitVec 32) (ty : BitVec 3) (f : FMod),
    FixedResult (.fsubLit h d a imm ty f) 0x181 h (req (d.rng (fltN ty)) [a.rng (fltN ty)]) 4 (d.dest (fltN ty)) (fun _ x l => (fmtOf ty.toNat).fsub f.rm.toNat f.sat ((fmtOf ty.toNat).modify f.absa f.nega (a.flt x l ty)) ((fmtOf ty.toNat).modify f.absb f.negb imm.toNat))) ∧
  (∀ (h : Ctl) (d : Opnd) (a : Src) (imm : BitVec 32) (ty : BitVec 3) (f : FMod),
    FixedResult (.fmulLit h d a imm ty f) 0x182 h (req (d.rng (fltN ty)) [a.rng (fltN ty)]) 4 (d.dest (fltN ty)) (fun _ x l => (fmtOf ty.toNat).fmul f.rm.toNat f.sat ((fmtOf ty.toNat).modify f.absa f.nega (a.flt x l ty)) ((fmtOf ty.toNat).modify f.absb f.negb imm.toNat))) ∧
  (∀ (h : Ctl) (d : Opnd) (a : Src) (imm : BitVec 32) (ty : BitVec 3) (f : FMod),
    FixedResult (.fminLit h d a imm ty f) 0x184 h (req (d.rng (fltN ty)) [a.rng (fltN ty)]) 4 (d.dest (fltN ty)) (fun _ x l => (fmtOf ty.toNat).fmin ((fmtOf ty.toNat).modify f.absa f.nega (a.flt x l ty)) ((fmtOf ty.toNat).modify f.absb f.negb imm.toNat))) ∧
  (∀ (h : Ctl) (d : Opnd) (a : Src) (imm : BitVec 32) (ty : BitVec 3) (f : FMod),
    FixedResult (.fmaxLit h d a imm ty f) 0x185 h (req (d.rng (fltN ty)) [a.rng (fltN ty)]) 4 (d.dest (fltN ty)) (fun _ x l => (fmtOf ty.toNat).fmax ((fmtOf ty.toNat).modify f.absa f.nega (a.flt x l ty)) ((fmtOf ty.toNat).modify f.absb f.negb imm.toNat)))

/-- FRCP, FRSQ, FSQRT, FEX2, FLG2, FSIN and FCOS issue as long-latency operations: their destination registers are pending and their token counts them until they retire with the results, which are those of the model (log entry 6 for the values the spec leaves to the implementation). Which value within the bound is taken is free, and the sign of a zero and the ulp at a power of two are the model's choice (log 6). -/
def Obligations.SpecialFunctions : Prop :=
  (∀ (h : Ctl) (d : Opnd) (a : Src) (ty : BitVec 3) (f : FMod),
    LongResult (.frcp h d a ty f) 0x200 h (req (d.rng (fltN ty)) [a.rng (fltN ty)]) (d.dest (fltN ty)) (fun _ x l => (fmtOf ty.toNat).special ty.toNat 0 f.rm.toNat ((fmtOf ty.toNat).modify f.absa f.nega (a.flt x l ty)))) ∧
  (∀ (h : Ctl) (d : Opnd) (a : Src) (ty : BitVec 3) (f : FMod),
    LongResult (.frsq h d a ty f) 0x201 h (req (d.rng (fltN ty)) [a.rng (fltN ty)]) (d.dest (fltN ty)) (fun _ x l => (fmtOf ty.toNat).special ty.toNat 1 f.rm.toNat ((fmtOf ty.toNat).modify f.absa f.nega (a.flt x l ty)))) ∧
  (∀ (h : Ctl) (d : Opnd) (a : Src) (ty : BitVec 3) (f : FMod),
    LongResult (.fsqrt h d a ty f) 0x202 h (req (d.rng (fltN ty)) [a.rng (fltN ty)]) (d.dest (fltN ty)) (fun _ x l => (fmtOf ty.toNat).special ty.toNat 2 f.rm.toNat ((fmtOf ty.toNat).modify f.absa f.nega (a.flt x l ty)))) ∧
  (∀ (h : Ctl) (d : Opnd) (a : Src) (ty : BitVec 3) (f : FMod),
    LongResult (.fex2 h d a ty f) 0x203 h (req (d.rng (fltN ty)) [a.rng (fltN ty)]) (d.dest (fltN ty)) (fun _ x l => (fmtOf ty.toNat).special ty.toNat 3 f.rm.toNat ((fmtOf ty.toNat).modify f.absa f.nega (a.flt x l ty)))) ∧
  (∀ (h : Ctl) (d : Opnd) (a : Src) (ty : BitVec 3) (f : FMod),
    LongResult (.flg2 h d a ty f) 0x204 h (req (d.rng (fltN ty)) [a.rng (fltN ty)]) (d.dest (fltN ty)) (fun _ x l => (fmtOf ty.toNat).special ty.toNat 4 f.rm.toNat ((fmtOf ty.toNat).modify f.absa f.nega (a.flt x l ty)))) ∧
  (∀ (h : Ctl) (d : Opnd) (a : Src) (ty : BitVec 3) (f : FMod),
    LongResult (.fsin h d a ty f) 0x205 h (req (d.rng (fltN ty)) [a.rng (fltN ty)]) (d.dest (fltN ty)) (fun _ x l => (fmtOf ty.toNat).special ty.toNat 5 f.rm.toNat ((fmtOf ty.toNat).modify f.absa f.nega (a.flt x l ty)))) ∧
  (∀ (h : Ctl) (d : Opnd) (a : Src) (ty : BitVec 3) (f : FMod),
    LongResult (.fcos h d a ty f) 0x206 h (req (d.rng (fltN ty)) [a.rng (fltN ty)]) (d.dest (fltN ty)) (fun _ x l => (fmtOf ty.toNat).special ty.toNat 6 f.rm.toNat ((fmtOf ty.toNat).modify f.absa f.nega (a.flt x l ty))))

/-- HFMA2, HADD2 and HMUL2 work on both elements of their sources; QDOT4 and IDOT4 sum four products; FCVT, F2I, I2F, PACK8 and UNPK8 convert, each with the rounding and saturation of its fields. -/
def Obligations.PackedAndConversions : Prop :=
  (∀ (h : Ctl) (d : Opnd) (a b c : Src) (ty : BitVec 3) (f : FMod),
    FixedResult (.hfma2 h d a b c ty f) 0x240 h (req (d.rng 1) [a.rng 1, b.rng 1, c.rng 1]) 4 (d.dest 1) (fun _ x l => (fmtOf ty.toNat).ffma f.rm.toNat f.sat ((fmtOf ty.toNat).modify false f.nega (packed a ty x l 0)) ((fmtOf ty.toNat).modify false f.negb (packed b ty x l 0)) ((fmtOf ty.toNat).modify false f.negc (packed c ty x l 0)) + 2 ^ 16 * (fmtOf ty.toNat).ffma f.rm.toNat f.sat ((fmtOf ty.toNat).modify false f.nega (packed a ty x l 1)) ((fmtOf ty.toNat).modify false f.negb (packed b ty x l 1)) ((fmtOf ty.toNat).modify false f.negc (packed c ty x l 1)))) ∧
  (∀ (h : Ctl) (d : Opnd) (a b : Src) (ty : BitVec 3) (f : FMod),
    FixedResult (.hadd2 h d a b ty f) 0x241 h (req (d.rng 1) [a.rng 1, b.rng 1]) 4 (d.dest 1) (fun _ x l => (fmtOf ty.toNat).fadd f.rm.toNat f.sat ((fmtOf ty.toNat).modify false f.nega (packed a ty x l 0)) ((fmtOf ty.toNat).modify false f.negb (packed b ty x l 0)) + 2 ^ 16 * (fmtOf ty.toNat).fadd f.rm.toNat f.sat ((fmtOf ty.toNat).modify false f.nega (packed a ty x l 1)) ((fmtOf ty.toNat).modify false f.negb (packed b ty x l 1)))) ∧
  (∀ (h : Ctl) (d : Opnd) (a b : Src) (ty : BitVec 3) (f : FMod),
    FixedResult (.hmul2 h d a b ty f) 0x242 h (req (d.rng 1) [a.rng 1, b.rng 1]) 4 (d.dest 1) (fun _ x l => (fmtOf ty.toNat).fmul f.rm.toNat f.sat ((fmtOf ty.toNat).modify false f.nega (packed a ty x l 0)) ((fmtOf ty.toNat).modify false f.negb (packed b ty x l 0)) + 2 ^ 16 * (fmtOf ty.toNat).fmul f.rm.toNat f.sat ((fmtOf ty.toNat).modify false f.nega (packed a ty x l 1)) ((fmtOf ty.toNat).modify false f.negb (packed b ty x l 1)))) ∧
  (∀ (h : Ctl) (d : Opnd) (a b c : Src) (ty : BitVec 3) (rm : BitVec 2) (sat bty : Bool),
    FixedResult (.qdot4 h d a b c ty rm sat bty) 0x243 h (req (d.rng 1) [a.rng 1, b.rng 1, c.rng 1]) 4 (d.dest 1) (fun _ x l => (fmtOf 4).round rm.toNat sat (qdot rm.toNat (fmtOf ty.toNat) (fmtOf (if bty then 1 else 0)) (a.w x l).toNat (b.w x l).toNat (c.flt x l 4)))) ∧
  (∀ (h : Ctl) (d : Opnd) (a b c : Src) (ty : BitVec 3) (sat bsgn : Bool),
    FixedResult (.idot4 h d a b c ty sat bsgn) 0x244 h (req (d.rng 1) [a.rng 1, b.rng 1, c.rng 1]) 4 (d.dest 1) (fun _ x l => idot (ty == 1) bsgn sat (a.w x l).toNat (b.w x l).toNat (c.w x l).toNat)) ∧
  (∀ (h : Ctl) (d : Opnd) (a : Src) (ty : BitVec 3) (rm : BitVec 2) (sat : Bool) (sty : BitVec 3),
    FixedResult (.fcvt h d a ty rm sat sty) 0x245 h (req (d.rng (fltN ty)) [a.rng (fltN sty)]) 4 (d.dest (fltN ty)) (fun _ x l => (fmtOf ty.toNat).round rm.toNat sat ((fmtOf sty.toNat).value (a.flt x l sty)))) ∧
  (∀ (h : Ctl) (d : Opnd) (a : Src) (ty : BitVec 3) (rm : BitVec 2) (sty : BitVec 3),
    FixedResult (.f2i h d a ty rm sty) 0x246 h (req (d.rng (intN ty)) [a.rng (fltN sty)]) 4 (d.dest (intN ty)) (fun _ x l => intRes ty true (match ((fmtOf sty.toNat).value (a.flt x l sty)).toInt rm.toNat with
      | some k => k
      | none => if ((fmtOf sty.toNat).value (a.flt x l sty)).isNan then 0
        else if ((fmtOf sty.toNat).value (a.flt x l sty)).neg then intMin ty else intMax ty))) ∧
  (∀ (h : Ctl) (d : Opnd) (a : Src) (ty : BitVec 3) (rm : BitVec 2) (sat : Bool) (sty : BitVec 3),
    FixedResult (.i2f h d a ty rm sat sty) 0x247 h (req (d.rng (fltN ty)) [a.rng (intN sty)]) 4 (d.dest (fltN ty)) (fun _ x l => (fmtOf ty.toNat).round rm.toNat sat (FVal.ofInt (a.int x l sty)))) ∧
  (∀ (h : Ctl) (d : Opnd) (a b c : Src) (ty : BitVec 3) (rm : BitVec 2) (sat half : Bool),
    FixedResult (.pack8 h d a b c ty rm sat half) 0x248 h (req (d.rng 1) [a.rng 1, b.rng 1, c.rng 1]) 4 (d.dest 1) (fun _ x l => if half
      then (c.w x l).toNat % 2 ^ 16 + 2 ^ 16 * ((fmtOf ty.toNat).round rm.toNat sat ((fmtOf 4).value (a.flt x l 4)) + 2 ^ 8 * (fmtOf ty.toNat).round rm.toNat sat ((fmtOf 4).value (b.flt x l 4)))
      else (c.w x l).toNat / 2 ^ 16 * 2 ^ 16 + ((fmtOf ty.toNat).round rm.toNat sat ((fmtOf 4).value (a.flt x l 4)) + 2 ^ 8 * (fmtOf ty.toNat).round rm.toNat sat ((fmtOf 4).value (b.flt x l 4))))) ∧
  (∀ (h : Ctl) (d : Opnd) (a : Src) (ty : BitVec 3) (ety half : Bool),
    FixedResult (.unpk8 h d a ty ety half) 0x249 h (req (d.rng (if ty.toNat = 4 then 2 else 1)) [a.rng 1]) 4 (d.dest (if ty.toNat = 4 then 2 else 1)) (fun _ x l => (fmtOf ty.toNat).round 0 false ((fmtOf (if ety then 1 else 0)).value (byteAt (a.w x l).toNat (if half then 2 else 0))) +
      2 ^ (if ty.toNat = 4 then 32 else 16) * (fmtOf ty.toNat).round 0 false ((fmtOf (if ety then 1 else 0)).value (byteAt (a.w x l).toNat (if half then 3 else 1)))))

/-- SHFL, VOTE, MATCH and REDUX write, 6 positions later, results computed from the sources of all lanes whose guard is true. -/
def Obligations.LaneExchange : Prop :=
  (∀ (h : Ctl) (d : Opnd) (a b : Src) (ty seg : BitVec 3) (mode : BitVec 2),
    FixedResult (.shfl h d a b ty seg mode) 0x280 h (req (d.rng (intN ty)) [a.rng (intN ty), b.rng 1]) 6 (d.dest (intN ty)) (fun i x l => rawVal a ty x (if i.act.getLsbD (shflLane mode.toNat (2 ^ seg.toNat) l (b.w x l).toNat) then shflLane mode.toNat (2 ^ seg.toNat) l (b.w x l).toNat else l))) ∧
  (∀ (h : Ctl) (d : Opnd) (a : Src) (cnt neg : Bool) (mode : BitVec 2),
    FixedResult (.vote h d a cnt neg mode) 0x281 h (req (d.rng 1) []) 6 (d.dest 1) (fun i x _ => if mode.toNat = 0
      then (if cnt then ((lanesOf i.act).filter (fun k => a.o.valP x k != neg)).length else (maskLanes (fun k => i.act.getLsbD k && (a.o.valP x k != neg))).toNat)
      else if mode.toNat = 1 then bitVal ((lanesOf i.act).all (fun k => a.o.valP x k != neg))
      else if mode.toNat = 2 then bitVal ((lanesOf i.act).any (fun k => a.o.valP x k != neg))
      else bitVal ((lanesOf i.act).all (fun k => a.o.valP x k != neg) || (lanesOf i.act).all (fun k => !(a.o.valP x k != neg))))) ∧
  (∀ (h : Ctl) (d : Opnd) (a : Src) (ty : BitVec 3),
    FixedResult (.matchLanes h d a ty) 0x282 h (req (d.rng 1) [a.rng (intN ty)]) 6 (d.dest 1) (fun i x l => (maskLanes (fun k => i.act.getLsbD k && rawVal a ty x k == rawVal a ty x l)).toNat)) ∧
  (∀ (h : Ctl) (d : Opnd) (a : Src) (ty rop : BitVec 3),
    FixedResult (.redux h d a ty rop) 0x283 h (req (d.rng (intN ty)) [a.rng (intN ty)]) 6 (d.dest (intN ty)) (fun i x _ => match lanesOf i.act with
      | [] => 0
      | k :: ks => intRes ty false (ks.foldl (fun v j => reduxOp rop.toNat v (a.int x j ty)) (a.int x k ty))))

/-- BRA, BRL and BRX, where no lane hops, leave the loops that their target lies outside of, and go on at the target in the lanes whose guard is true and at the next instruction in the others; the branch takes 3 positions when a lane leaves the sequence, else 1. -/
def Obligations.BranchesGoThere : Prop :=
  (∀ (h : Ctl) (disp : BitVec 30) (live : BitVec 11) (s : State) (i : Iss) (x : Wave), Goes h Req.none s i x → (∀ l, i.act.getLsbD l = true → (i.ba.setWidth 64 + 4 * disp.signExtend 64).toNat < 2 ^ 57) → Stays s i x ((fun _ => i.ba.setWidth 64 + 4 * disp.signExtend 64)) →
    LeavesWave (.bra h disp live) 0x040 s i ((lanesOf i.act).foldl (fun z l => z.updThread l (fun t => { t with ls := (loopExit (addrOf (i.ba.setWidth 64 + 4 * disp.signExtend 64)) t.ls.reverse).reverse })) x)
      .none (if (lanesOf i.act).any (fun _ => addrOf (i.ba.setWidth 64 + 4 * disp.signExtend 64) != i.ba + 12) then 3 else 1) (fun _ => some (addrOf (i.ba.setWidth 64 + 4 * disp.signExtend 64)))) ∧
  (∀ (h : Ctl) (disp : BitVec 60) (s : State) (i : Iss) (x : Wave), Goes h Req.none s i x → (∀ l, i.act.getLsbD l = true → (i.ba.setWidth 64 + 4 * disp.signExtend 64).toNat < 2 ^ 57) → Stays s i x ((fun _ => i.ba.setWidth 64 + 4 * disp.signExtend 64)) →
    LeavesWave (.brl h disp) 0x041 s i ((lanesOf i.act).foldl (fun z l => z.updThread l (fun t => { t with ls := (loopExit (addrOf (i.ba.setWidth 64 + 4 * disp.signExtend 64)) t.ls.reverse).reverse })) x)
      .none (if (lanesOf i.act).any (fun _ => addrOf (i.ba.setWidth 64 + 4 * disp.signExtend 64) != i.ba + 12) then 3 else 1) (fun _ => some (addrOf (i.ba.setWidth 64 + 4 * disp.signExtend 64)))) ∧
  (∀ (h : Ctl) (a : Src) (live : BitVec 11) (s : State) (i : Iss) (x : Wave), Goes h { Req.none with srcs := a.rng 2 } s i x → (∀ l, i.act.getLsbD l = true → (a.x x l).toNat < 2 ^ 57) → Stays s i x ((fun l => a.x x l)) →
    LeavesWave (.brx h a live) 0x042 s i ((lanesOf i.act).foldl (fun z l => z.updThread l (fun t => { t with ls := (loopExit (addrOf (a.x x l)) t.ls.reverse).reverse })) x)
      .none (if (lanesOf i.act).any (fun l => addrOf (a.x x l) != i.ba + 12) then 3 else 1) (fun l => some (addrOf (a.x x l))))

/-- CALL, CALLL and CALLX, where an entry of the four is free, push the address of the next instruction and go to their target; RET, where an entry is on chip and the tokens k8 to k15 count 0, pops it and goes there; each takes 3 positions with an active lane, CALLL only where a lane leaves the sequence. -/
def Obligations.CallsAndReturns : Prop :=
  (∀ (h : Ctl) (disp : BitVec 30) (live : BitVec 11) (s : State) (i : Iss) (x : Wave), Goes h Req.none s i x → (∀ l, i.act.getLsbD l = true → (i.ba.setWidth 64 + 4 * disp.signExtend 64).toNat < 2 ^ 57) →
    (s.dev.launch i.slot).travel = false → (∀ l, i.act.getLsbD l = true → (x.thread l).rs.length < 4) →
    LeavesWave (.call h disp live) 0x043 s i ((lanesOf i.act).foldl (fun z l => z.updThread l (fun t => { t with rs := (i.ba + 12).setWidth 64 :: t.rs })) x)
      .none (if i.act = 0 then 1 else 3) (fun _ => some (addrOf (i.ba.setWidth 64 + 4 * disp.signExtend 64)))) ∧
  (∀ (h : Ctl) (disp : BitVec 60) (s : State) (i : Iss) (x : Wave), Goes h Req.none s i x → (∀ l, i.act.getLsbD l = true → (i.ba.setWidth 64 + 4 * disp.signExtend 64).toNat < 2 ^ 57) →
    (s.dev.launch i.slot).travel = false → (∀ l, i.act.getLsbD l = true → (x.thread l).rs.length < 4) →
    LeavesWave (.calll h disp) 0x044 s i ((lanesOf i.act).foldl (fun z l => z.updThread l (fun t => { t with rs := (i.ba + 12).setWidth 64 :: t.rs })) x)
      .none (if (lanesOf i.act).any (fun _ => addrOf (i.ba.setWidth 64 + 4 * disp.signExtend 64) != i.ba + 12) then 3 else 1) (fun _ => some (addrOf (i.ba.setWidth 64 + 4 * disp.signExtend 64)))) ∧
  (∀ (h : Ctl) (a : Src) (live : BitVec 11) (s : State) (i : Iss) (x : Wave), Goes h { Req.none with srcs := a.rng 2 } s i x → (∀ l, i.act.getLsbD l = true → (a.x x l).toNat < 2 ^ 57) →
    (s.dev.launch i.slot).travel = false → (∀ l, i.act.getLsbD l = true → (x.thread l).rs.length < 4) →
    LeavesWave (.callx h a live) 0x045 s i ((lanesOf i.act).foldl (fun z l => z.updThread l (fun t => { t with rs := (i.ba + 12).setWidth 64 :: t.rs })) x)
      .none (if i.act = 0 then 1 else 3) (fun l => some (addrOf (a.x x l)))) ∧
  (∀ (h : Ctl) (live : BitVec 11) (s : State) (i : Iss) (x : Wave), Goes h Req.none s i x → (s.dev.launch i.slot).travel = false →
    (i.act ≠ 0 → ∀ k, 8 ≤ k → k < 16 → (x.tok k).count = 0) → (∀ l, i.act.getLsbD l = true → (x.thread l).rs ≠ []) →
    LeavesWave (.ret h live) 0x046 s i ((lanesOf i.act).foldl (fun z l => z.updThread l (fun t => { t with rs := t.rs.drop 1 })) x)
      .none (if i.act = 0 then 1 else 3) (fun l => some (addrOf ((x.thread l).rs.headD 0))))

/-- All seven transfers in every form: the return stack spills to and refills from the thread stack, and in a launch whose threads travel each lane whose target lies in another segment hops there with its payload and ends here. The order of lanes that fail (log 19) and the words of a hop beyond the allocation (log 26) are the model's reading. -/
def Obligations.TransfersSpillAndHop : Prop :=
  (∀ (h : Ctl) (disp : BitVec 30) (live : BitVec 11), Transfers (.bra h disp live) 0x040 h [] .branch live (fun i _ _ => i.ba.setWidth 64 + 4 * disp.signExtend 64)) ∧
  (∀ (h : Ctl) (disp : BitVec 60), Transfers (.brl h disp) 0x041 h [] .branch (BitVec.allOnes 11) (fun i _ _ => i.ba.setWidth 64 + 4 * disp.signExtend 64)) ∧
  (∀ (h : Ctl) (a : Src) (live : BitVec 11), Transfers (.brx h a live) 0x042 h (a.rng 2) .branch live (fun _ x l => a.x x l)) ∧
  (∀ (h : Ctl) (disp : BitVec 30) (live : BitVec 11), Transfers (.call h disp live) 0x043 h [] .call live (fun i _ _ => i.ba.setWidth 64 + 4 * disp.signExtend 64)) ∧
  (∀ (h : Ctl) (disp : BitVec 60), Transfers (.calll h disp) 0x044 h [] .call (BitVec.allOnes 11) (fun i _ _ => i.ba.setWidth 64 + 4 * disp.signExtend 64)) ∧
  (∀ (h : Ctl) (a : Src) (live : BitVec 11), Transfers (.callx h a live) 0x045 h (a.rng 2) .call live (fun _ x l => a.x x l)) ∧
  (∀ (h : Ctl) (live : BitVec 11), Transfers (.ret h live) 0x046 h [] .ret live (fun _ _ _ => 0))

/-- LOOP enters an iteration, or skips its body for a count of 0; LBRK drops levels; EXIT ends the lanes whose guard is true; DLY takes its positions; NOP does nothing; YIELD with REQ = 0 ends the run of its path group. -/
def Obligations.LoopsAndIdling : Prop :=
  (∀ (h : Ctl) (a : Src) (len : BitVec 20) (s : State) (i : Iss) (x : Wave), Goes h ({ Req.none with srcs := a.rng 1 }) s i x → (∀ l, i.act.getLsbD l = true → (x.thread l).ls.length ≠ 4) →
    LeavesWave (.loop h a len) 0x048 s i ((lanesOf i.act).foldl (fun z l => if a.w x l = 0 then z else z.updThread l (fun t => { t with ls := t.ls ++ [⟨i.ba + 12, i.ba + 12 + 12 * len.setWidth 57, a.w x l⟩] })) x) (.none) (if (lanesOf i.act).any (fun l => a.w x l == 0 && i.ba + 12 + 12 * len.setWidth 57 + 12 != i.ba + 12) then 3 else 1) (fun l => if a.w x l = 0 then some (i.ba + 12 + 12 * len.setWidth 57 + 12) else some (i.ba + 12))) ∧
  (∀ (h : Ctl) (n : BitVec 3) (s : State) (i : Iss) (x : Wave), Goes h Req.none s i x →
    LeavesWave (.lbrk h n) 0x049 s i (x.updLanes i.act (fun t => { t with ls := t.ls.take (t.ls.length - n.toNat) })) (.none) (1) (fun _ => none)) ∧
  (∀ (h : Ctl) (s : State) (i : Iss) (x : Wave), Goes h Req.none s i x →
    LeavesWave (.exit h) 0x047 s i ((lanesOf i.act).foldl (fun z l => z.endLane l) x) (.none) (1) (fun _ => none)) ∧
  (∀ (h : Ctl) (n : BitVec 6) (s : State) (i : Iss) (x : Wave), Goes h Req.none s i x →
    LeavesWave (.dly h n) 0x04A s i (x) (.none) (n.toNat) (fun _ => none)) ∧
  (∀ (h : Ctl) (s : State) (i : Iss) (x : Wave), Goes h Req.none s i x →
    LeavesWave (.nop h) 0x04B s i (x) (.none) (1) (fun _ => none)) ∧
  (∀ (h : Ctl) (s : State) (i : Iss) (x : Wave), Goes h Req.none s i x → (s.dev.block i.blk).preq = false → HandlerGoesOn x →
    ∃ t, exec (.yield h) s = .next t ∧ Issued s t i (x.post i 0x04C .none) ∧ (i.act ≠ 0 → (t.dev.wave i.w).rc = 64))

/-- TRAP, BKPT and SYSC issue, put each lane whose guard is true at the next instruction, leave the other lanes where they are, and then the trap of cause 32, 33 or 34 is taken with CODE in V0 and the next instruction as its resume address. IPREF fetches the blocks it names, which changes no register and no memory. That the lanes stand at BA + 12 at the end of a loop too is the model's choice (log 60). -/
def Obligations.TrapsOfTheirOwn : Prop :=
  (∀ (h : Ctl) (code : BitVec 16), TrapsAfter (.trap h code) 0x04E h 32 code) ∧
  (∀ (h : Ctl) (code : BitVec 16), TrapsAfter (.bkpt h code) 0x050 h 33 code) ∧
  (∀ (h : Ctl) (code : BitVec 16), TrapsAfter (.sysc h code) 0x051 h 34 code) ∧
  (∀ (h : Ctl) (a : Src) (ofs : BitVec 16) (nb : BitVec 8) (lvl : BitVec 2) (s : State) (i : Iss) (x : Wave), Goes h ({ Req.none with srcs := a.rng 2 }) s i x →
    Leaves (.ipref h a ofs nb lvl) 0x04D s i ((lanesOf i.act).foldl (fun u l => (List.range (nb.toNat + 1)).foldl (fun u k =>
      u.fillBlock i.core i.asid ((a.ea ofs x l).toNat / 192 * 192 + 192 * k) (lvl == 1)) u) (s.at' i x)) .none 1 (fun _ => none))

/-- ERET in a handler waits while results of the handler are still due, and then leaves memory as it is, brings back the position counter and result pipe of the trap frame, unfreezes every thread, and sends the handler lanes to the resume address that the record holds. That the counter comes back as the entry put it aside, and that the handler's pipe drains first, is the model's reading (log 23). -/
def Obligations.HandlerReturn : Prop :=
  (∀ (h : Ctl) (s : State) (i : Iss) (x : Wave) (f : Frame), Goes h Req.none s i x → i.act ≠ 0 → x.frame = some f → x.pipe ≠ [] →
    WaitsOn (.eret h) s i ((s.at' i x).withD (·.setWave i.w (x.advance 8))) .ready) ∧
  (∀ (h : Ctl) (s : State) (i : Iss) (x : Wave) (f : Frame) (p : Place), Goes h Req.none s i x → i.act ≠ 0 → x.frame = some f → x.pipe = [] →
    (s.at' i x).stackAcc i (x.fault + 24) .read = .ok p →
    (s.at' i x).mustWait (i.late x (.nop i.h) 0 0 8 false false (fun _ => x.fault + 24) ((lanesOf f.lanes).map (fun l => (l, p)))) = false →
    ∃ t, exec (.eret h) s = .next t ∧ t.mem = s.mem ∧ (t.dev.wave i.w).frame = none ∧ (t.dev.wave i.w).pos = f.pos ∧ (t.dev.wave i.w).pipe = f.pipe ∧
      (∀ l, l < 32 → ((t.dev.wave i.w).thread l).frozen = false) ∧
      ∀ l, f.lanes.getLsbD l = true → (x.thread l).st ≠ .done →
        ((t.dev.wave i.w).thread l).pc = addrOf (BitVec.ofNat 64 ((s.at' i x).load i.core p 8).1)) ∧
  (∀ (h : Ctl) (s : State) (i : Iss) (x : Wave) (f : Frame) (p : Place), Goes h Req.none s i x → i.act ≠ 0 → x.frame = some f → x.pipe = [] →
    (s.at' i x).stackAcc i (x.fault + 24) .read = .ok p →
    (s.at' i x).mustWait (i.late x (.nop i.h) 0 0 8 false false (fun _ => x.fault + 24) ((lanesOf f.lanes).map (fun l => (l, p)))) = true →
    WaitsOn (.eret h) s i (s.at' i x) .bound) ∧
  (∀ (h : Ctl) (s : State) (i : Iss) (x : Wave), Goes h Req.none s i x → i.act ≠ 0 → x.frame = none →
    Faults (.eret h) s i (s.at' i x) 40 0 (BitVec.ofNat 64 i.act.toNat) 0 0)

/-- MJOIN, MLEAVE, MWAIT, MMOV and MSYNC change the masks and hold the threads of their rules; WAITK goes on once its token counts no more than n without an error; TKRD, TKRST, MFS and MTS read and write tokens and special registers. When threads are held and masks released, a mask is cleared only where each member is DONE, stands at its meet address or is held in MWAIT on it, and none that could be released is left; no running thread stands at the meet address of a mask it is a member of, and a thread is held only there, in an MWAIT on a mask it is a member of, or in an MSYNC some lane of which has not come; an MSYNC whose lanes have all come goes on; nothing else changes. That a thread in MWAIT on a mask that it is no member of runs (log 54), where a held thread is arrived (log 55), and that MJOIN's fetch fault comes first (log 61) are the model's choice; that the lowest active lane gives MTS its value is R242's (log 25). -/
def Obligations.MasksAndTokens : Prop :=
  (∀ (h : Ctl) (d : Opnd) (disp : BitVec 20) (s : State) (i : Iss) (x : Wave), Goes h Req.none s i x → (i.act ≠ 0 → (i.ba.setWidth 64 + 4 * disp.signExtend 64 : W64).toNat < 2 ^ 48 ∧
      ((x.mask d.idx).lanes = 0 ∨ (x.mask d.idx).meet = i.ba.setWidth 64 + 4 * disp.signExtend 64)) →
    LeavesWave (.mjoin h d disp) 0x2C0 s i (if i.act = 0 then x else x.setMask d.idx ⟨(x.mask d.idx).lanes ||| i.act, i.ba.setWidth 64 + 4 * disp.signExtend 64⟩) (.none) (1) (fun _ => none)) ∧
  (∀ (h : Ctl) (set : BitVec 12) (s : State) (i : Iss) (x : Wave), Goes h Req.none s i x →
    LeavesWave (.mleave h set) 0x2C1 s i ((List.range 12).foldl (fun z k => if set.getLsbD k then z.setMask k ⟨(z.mask k).lanes &&& ~~~i.act, (z.mask k).meet⟩ else z) x) (.none) (1) (fun _ => none)) ∧
  (∀ (h : Ctl) (a : Src) (s : State) (i : Iss) (x : Wave), Goes h Req.none s i x →
    LeavesWave (.mwait h a) 0x2C2 s i (x.updLanes (i.act &&& (x.mask a.o.idx).lanes) (fun t => { t with st := .held, hold := .mwait a.o.idx })) (.none) (1) (fun _ => none)) ∧
  (∀ (h : Ctl) (d : Opnd) (a : Src) (b : Option Src) (mode : BitVec 2), FixedResult (.mmov h d a b mode) 0x2C3 h { Req.none with srcs := (if mode.toNat = 2 then a.rng 1 ++ srcRng b 2 else []), dsts := d.rng 2 }
    2 (d.dest 2) (fun i x _ =>
      if mode.toNat = 0 then (x.mask a.o.idx).val
      else if mode.toNat = 1 then (x.mask a.o.idx).meet.toNat
      else if a.w x (lowest i.act) &&& x.alive = 0 then 0
      else (Mask.mk (a.w x (lowest i.act) &&& x.alive) ((b.map (fun b => b.x x (lowest i.act) &&& 0x0000FFFFFFFFFFFC#64)).getD 0)).val)) ∧
  (∀ (h : Ctl) (a : Src) (s : State) (i : Iss) (x : Wave), Goes h ({ Req.none with srcs := a.rng 1 }) s i x → (∀ l, i.act.getLsbD l = true → (a.w x l &&& x.alive).getLsbD l = true ∧
      (∀ k, i.act.getLsbD k = true → a.w x k &&& x.alive = a.w x l &&& x.alive ∨ (a.w x k &&& x.alive) &&& (a.w x l &&& x.alive) = 0) ∧
      ∀ k, (a.w x l &&& x.alive).getLsbD k = true → ∀ m, (x.thread k).st = .held → (x.thread k).hold = .msync m → m = a.w x l &&& x.alive) →
    LeavesWave (.msync h a) 0x2C4 s i ((lanesOf i.act).foldl (fun z l => z.updThread l (fun t => { t with st := .held, hold := .msync (a.w x l &&& x.alive) })) x) (.none) (1) (fun _ => none)) ∧
  (∀ (h : Ctl) (a : Src) (n : BitVec 6) (s : State) (i : Iss) (x : Wave), Goes h Req.none s i x → (i.act ≠ 0 → (x.tok a.o.idx).count ≤ n.toNat ∧ (x.tok a.o.idx).err = false) →
    LeavesWave (.waitk h a n) 0x340 s i (x) (.none) (1) (fun _ => none)) ∧
  (∀ (h : Ctl) (d : Opnd),
    FixedResult (.tkrd h d) 0x341 h (req (d.rng 1) []) 2 (d.dest 1) (fun _ x _ => (List.range 16).foldl (fun v k => v + (if (x.tok k).err then 2 ^ k else 0) + (if (x.tok k).count ≠ 0 then 2 ^ (16 + k) else 0)) 0)) ∧
  (∀ (h : Ctl) (opn : Bool) (set : BitVec 16) (s : State) (i : Iss) (x : Wave), Goes h Req.none s i x →
    LeavesWave (.tkrst h opn set) 0x343 s i (if i.act = 0 then x else (List.range 16).foldl (fun z k => if set.getLsbD k then z.setTok k (if opn then { z.tok k with err := true } else { z.tok k with err := false, det := none }) else z) x) (.none) (1) (fun _ => none)) ∧
  (∀ (h : Ctl) (d : Opnd) (a : Src) (s : State) (i : Iss) (x : Wave), Goes h ({ Req.none with dsts := d.rng (srWords a.o.idx) }) s i x →
    LeavesWave (.mfs h d a) 0x780 s i (x) ((.fixed 2 (d.dest (srWords a.o.idx)) (valsOf i.act (fun l => (s.at' i x).srValue i x l a.o.idx)))) (1) (fun _ => none)) ∧
  (∀ (h : Ctl) (d : Opnd) (a : Src) (s : State) (i : Iss) (x : Wave), Goes h ({ Req.none with srcs := a.rng 2 }) s i x →
    LeavesWave (.mts h d a) 0x781 s i (if i.act = 0 then x else { x with pipe := x.pipe ++ [⟨x.pos + 2, .sr d.idx, i.act, valsOf i.act (fun l => (a.x x l).toNat), none⟩] }) (.none) (1) (fun _ => none)) ∧
  (∀ (x : Wave) (m : Nat), x.settle.mask m = x.mask m ∨ x.settle.mask m = ⟨0, 0⟩ ∧ m < 12 ∧ (x.mask m).lanes ≠ 0 ∧
    ∀ l, (x.mask m).lanes.getLsbD l = true → (x.thread l).st = .done ∨ (x.thread l).pc.setWidth 64 = (x.mask m).meet ∨
      ((x.thread l).st = .held ∧ (x.thread l).hold = .mwait m)) ∧
  (∀ (x : Wave) (m : Nat), m < 12 → x.settle.releasable m = false ∧ (x.releasable m = true → x.settle.mask m = ⟨0, 0⟩)) ∧
  (∀ (x : Wave) (l : Nat), l < 32 → let y := x.settle
    let t := y.thread l
    (t.st = .run → ∀ m, m < 12 → (y.mask m).lanes.getLsbD l = true → t.pc.setWidth 64 ≠ (y.mask m).meet) ∧
    (t.st = .held → t.hold = .meet → ∃ m, m < 12 ∧ (y.mask m).lanes.getLsbD l = true ∧ t.pc.setWidth 64 = (y.mask m).meet) ∧
    (∀ m, t.st = .held → t.hold = .mwait m → (y.mask m).lanes.getLsbD l = true) ∧
    (∀ lm, t.st = .held → t.hold = .msync lm → y.syncFree t = false) ∧
    (t.st = .held → t.hold ≠ .meet → t = x.thread l)) ∧
  (∀ (x : Wave) (l : Nat), l < 32 → let t := x.settle.thread l
    (x.syncFree (x.thread l) = true → t.st ≠ .done ∧ t.hold = .meet) ∧
    (∀ lm, (x.thread l).st = .held → (x.thread l).hold = .msync lm → x.syncFree (x.thread l) = false → t = x.thread l) ∧
    (t.st = .done ↔ (x.thread l).st = .done) ∧ t.pc = (x.thread l).pc ∧ t.rs = (x.thread l).rs ∧ t.ls = (x.thread l).ls) ∧
  (∀ (x : Wave), { x.settle with thr := x.thr, masks := x.masks } = x)

/-- SPAWN and CONT send one record for each lane whose guard is true, to the core that TARGET names, and CONT ends those lanes; SPLIT sends the lanes of the smaller side away in records of their own and the others go on together. The order of SPLIT's checks, its target's upper bits and the registers beyond the allocation are the model's choice (log 61). -/
def Obligations.ThreadsThatAreMade : Prop :=
  (∀ (h : Ctl) (a : Src) (b wsrc : Option Src) (wid : Bool) (tgt : BitVec 2) (nw : BitVec 4) (prio : BitVec 2) (idem : Bool) (s : State) (i : Iss) (x : Wave) (e : Nat → Nat), Goes h ({ Req.none with srcs := a.rng 2 ++ srcRng b nw.toNat ++ srcRng wsrc 2 }) s i x →
    (∀ l, i.act.getLsbD l = true → (s.at' i x).entryOf i (a.x x l) = .ok (e l)) →
    Leaves (.spawn h a b wsrc wid tgt nw prio idem) 0x300 s i ((lanesOf i.act).foldl (fun u l => u.send i.w (u.targetCore i.core i.asid tgt.toNat (spawnRec i x 1 a b wsrc nw prio idem l (e l))) false (spawnRec i x 1 a b wsrc nw prio idem l (e l))) ((s.at' i x).tableRead i (a.x x))) .none 1 (fun _ => none)) ∧
  (∀ (h : Ctl) (a : Src) (b wsrc : Option Src) (wid : Bool) (tgt : BitVec 2) (nw : BitVec 4) (prio : BitVec 2) (idem : Bool) (s : State) (i : Iss) (x : Wave) (e : Nat → Nat), Goes h ({ Req.none with srcs := a.rng 2 ++ srcRng b nw.toNat ++ srcRng wsrc 2 }) s i x →
    (∀ l, i.act.getLsbD l = true → (s.at' i x).entryOf i (a.x x l) = .ok (e l)) →
    Leaves (.cont h a b wsrc wid tgt nw prio idem) 0x301 s i (((lanesOf i.act).foldl (fun u l => u.send i.w (u.targetCore i.core i.asid tgt.toNat (spawnRec i x 2 a b wsrc nw prio idem l (e l))) false (spawnRec i x 2 a b wsrc nw prio idem l (e l))) ((s.at' i x).tableRead i (a.x x))).withD (fun d => d.setWave i.w ((lanesOf i.act).foldl (fun z l => z.endLane l) (d.wave i.w)))) .none 1 (fun _ => none)) ∧
  (∀ (h : Ctl) (a : Src) (disp : BitVec 20) (live : BitVec 11) (s : State) (i : Iss) (x : Wave), Goes h Req.none s i x →
    (∀ l, i.act.getLsbD l = true → (x.thread l).rs = [] ∧ (x.thread l).rsd = 0 ∧ (x.thread l).ls = []) →
    (splitLeaves i (a.o.valP x) ≠ [] → (splitTo i (a.o.valP x) (i.ba.setWidth 64 + 4 * disp.signExtend 64)).toNat < 2 ^ 48) →
    (i.act ≠ 0 → ∀ k, k < 11 → live.getLsbD k = true → x.pending (k, 1) = false) →
    Leaves (.split h a disp live) 0x302 s i ((splitLeaves i (a.o.valP x)).foldl
        (fun u l => u.splitLane i x live (splitTo i (a.o.valP x) (i.ba.setWidth 64 + 4 * disp.signExtend 64)) l) (s.at' i x)) .none
      (if (lanesOf i.act).any (fun l => !(splitLeaves i (a.o.valP x)).contains l && a.o.valP x l && addrOf (i.ba.setWidth 64 + 4 * disp.signExtend 64) != i.ba + 12) then 3 else 1)
      (fun l => if (splitLeaves i (a.o.valP x)).contains l then none
        else some (if a.o.valP x l then addrOf (i.ba.setWidth 64 + 4 * disp.signExtend 64) else i.ba + 12)))

/-- RGIVE returns the registers from 8 NB on to the pool of the quarter, RCLAIM takes them from it, with zeros in them, or waits until the pool can serve it; SEGQ answers for the address of the lowest lane whose guard is true. What becomes of results that a trap frame keeps is the model's choice (log 62). -/
def Obligations.RegisterPoolAndSegments : Prop :=
  (∀ (h : Ctl) (nb : BitVec 6) (s : State) (i : Iss) (x : Wave), Goes h Req.none s i x →
    if i.act = 0 ∨ x.alloc ≤ 8 * nb.toNat then LeavesWave (.rgive h nb) 0x303 s i x .none 1 (fun _ => none)
    else (∀ r, 8 * nb.toNat ≤ r → r < x.alloc → x.pending (r, 1) = false) →
      Leaves (.rgive h nb) 0x303 s i ((s.at' i x).withD fun d =>
        (d.setWave i.w { x with alloc := 8 * nb.toNat, pipe := x.pipe.map (·.upTo (8 * nb.toNat)), bad := x.bad.filter (·.2 < 8 * nb.toNat) }).setBlock i.blk
          { s.dev.block i.blk with pool := (s.dev.block i.blk).pool.upd 0 (x.widx % 4) (· + (x.alloc - 8 * nb.toNat)) }) .none 1 (fun _ => none)) ∧
  (∀ (h : Ctl) (nb : BitVec 6) (s : State) (i : Iss) (x : Wave), Goes h Req.none s i x →
    if i.act = 0 ∨ 8 * nb.toNat ≤ x.alloc then LeavesWave (.rclaim h nb) 0x304 s i x .none 1 (fun _ => none)
    else 8 * nb.toNat + 8 * ((s.at' i x).d.waves.filter (fun e => e.2.live && e.2.blk == i.blk && e.1 != i.w && e.2.widx % 4 == x.widx % 4)).length
        ≤ (s.dev.block i.blk).bq.get 0 (x.widx % 4) →
      ∀ d, (s.at' i x).d.claim i.w (8 * nb.toNat) = some d → (s.at' i x).d.claims i.blk (x.widx % 4) s.dev.turns = false →
        Leaves (.rclaim h nb) 0x304 s i { s.at' i x with d := d } .none 1 (fun _ => none)) ∧
  (∀ (h : Ctl) (nb : BitVec 6) (s : State) (i : Iss) (x : Wave), Goes h Req.none s i x → HandlerGoesOn x → i.act ≠ 0 → x.alloc < 8 * nb.toNat →
    8 * nb.toNat + 8 * ((s.at' i x).d.waves.filter (fun e => e.2.live && e.2.blk == i.blk && e.1 != i.w && e.2.widx % 4 == x.widx % 4)).length
        ≤ (s.dev.block i.blk).bq.get 0 (x.widx % 4) →
    (s.at' i x).d.claim i.w (8 * nb.toNat) = none ∨ (s.at' i x).d.claims i.blk (x.widx % 4) s.dev.turns = true →
    ∃ t, exec (.rclaim h nb) s = .next t ∧ Issued s t i (x.post i 0x304 .none) ∧ (t.dev.wave i.w).wait = .rclaim (8 * nb.toNat) s.dev.turns) ∧
  (∀ (h : Ctl) (d : Opnd) (a : Src) (s : State) (i : Iss) (x : Wave), Goes h { Req.none with srcs := a.rng 2, dsts := d.rng 1 } s i x →
    LeavesWave (.segq h d a) 0x305 s i x
      (match (if i.act = 0 then some 0 else (s.at' i x).d.segWord i.core i.slot (a.x x (lowest i.act)).toNat) with
        | some v => .long (d.dest 1) (valsOf i.act (fun _ => v)) true none false
        | none => .long (d.dest 1) [] true (some (mkDetail 12 0x305 (a.x x (lowest i.act)))) false) 1 (fun _ => none))

/-- LAUNCH leaves a request to read its launch record and enqueue it on LQ, which is carried out at the end of a cycle, once the wave's earlier writes are acknowledged and its reads bound. A record that passes the checks takes a slot, goes to the tail of its queue and gives the slot number; one that fails gives bit 31 and the CODE of the first check that fails and changes no queue. That the lowest free slot is taken is the model's choice (log 9). -/
def Obligations.LaunchEnqueues : Prop :=
  (∀ (h : Ctl) (d : Opnd) (a : Src) (ofs : BitVec 16) (lq : BitVec 4) (s : State) (i : Iss) (x : Wave), Goes h { Req.none with srcs := a.rng 2, dsts := d.rng 1 } s i x →
    if i.act = 0 then LeavesWave (.launch h d a ofs lq) 0x306 s i x (.long (d.dest 1) [] true none false) 1 (fun _ => none)
    else ∀ ps u, (s.at' i x).checks i (lanesOf i.act) (fun _ => a.ea ofs x (lowest i.act)) 128 128 .read = .ok (ps, u) →
      LeavesBound (.launch h d a ofs lq) 0x306 s i x 128 (fun _ => a.ea ofs x (lowest i.act)) ps u
        ((u.releaseOf i.core i.asid 4).withD fun e => { e with
          lreqs := e.lreqs ++ [⟨x.uid, i.opid, lq.toNat, i.core, i.asid, (ps.headD (0, .host 0)).2, x.wseq⟩] })
        (.long (d.dest 1) [] false none false) 1 (fun _ => none)) ∧
  (∀ (s : St) (r : LReq), s.d.lreqs = [r] → s.d.lqrecs = [] → s.d.launchDue r = true → r.core < Config.cores →
    s.runLaunches = s.launchNow r ∧ (s.launchNow r).log = (s.enqueueAt r.core r.asid r.queue r.place).2.log ∧ (s.launchNow r).d.lreqs = ((s.enqueueAt r.core r.asid r.queue r.place).2.d.lreqs).erase r) ∧
  (∀ (s : St) (asid q : Nat) (rd : Option (BitVec 1024)),
    ((s.enqueue asid q rd).1 = 2 ^ 31 + 2 ^ 24 * s.launchCode asid q rd ∧ s.launchCode asid q rd ≠ 0 ∧ (s.enqueue asid q rd).2 = s) ∨
    (s.launchCode asid q rd = 0 ∧ (s.enqueue asid q rd).1 = s.d.freeSlot ∧ (s.enqueue asid q rd).2.log = s.log ∧
      ((s.enqueue asid q rd).2.d.launch s.d.freeSlot).used = true ∧ ((s.enqueue asid q rd).2.d.launch s.d.freeSlot).rcd = rd.getD 0 ∧ ((s.enqueue asid q rd).2.d.launch s.d.freeSlot).prev = s.d.lqLast.get none q ∧
      (s.enqueue asid q rd).2.d.lqs.get [] q = s.d.lqs.get [] q ++ [⟨s.d.freeSlot⟩]))

/-- LD and LDF, where the access checks pass and, for LD, no line is parked away from the core, issue as long-latency operations, performed at once or, behind an earlier access that holds them, later: their results are the bytes that each lane's place holds, extended by TY; an order of release pushes first; an LD counts its recalls and clears the read-once bit of its core in each park that it read without an error. LDF reads the latest value at the home or the park location and makes no copy. The order of lanes that fail (log 19) is the model's reading, and that the accesses of a core are performed in issue order its choice (log 57). -/
def Obligations.LoadsRead : Prop :=
  (∀ (h : Ctl) (d : Opnd) (a : Src) (ofs : BitVec 16) (scope order ty : BitVec 3) (vec ch : BitVec 2) (s : State) (i : Iss) (x : Wave) (ps : List (Nat × Place)) (u : St), Goes h { Req.none with srcs := a.rng 2, dsts := d.rng (groupN ty vec) } s i x →
    (s.at' i x).checks i (lanesOf i.act) (a.ea ofs x) (tySize ty * 2 ^ vec.toNat) (tySize ty * 2 ^ vec.toNat) .read = .ok (ps, u) → u.locateFault i 0 (a.ea ofs x) ps = none →
    Accesses (.ld h d a ofs scope order ty vec ch) 0x400 s i x order.toNat scope.toNat (tySize ty * 2 ^ vec.toNat) true false (a.ea ofs x) ps (some (d.dest (groupN ty vec))) u
      (fun v => 
        let r := (v.countRecalls i ps).loadLanes i (scope.toNat = 2 && (order.toNat = 1 || order.toNat = 4)) (tySize ty * 2 ^ vec.toNat) (loadVal ty) ps
        ⟨r.1, v.readErrs 0x400 (a.ea ofs x) ps, false, [], [], false, r.2.markRead i.core (ps.filter (fun p => (v.readErr p.2).isNone))⟩)) ∧
  (∀ (h : Ctl) (d : Opnd) (a : Src) (ofs : BitVec 16) (ty : BitVec 3) (vec : BitVec 2) (s : State) (i : Iss) (x : Wave) (ps : List (Nat × Place)) (u : St), Goes h { Req.none with srcs := a.rng 2, dsts := d.rng (groupN ty vec) } s i x → (s.at' i x).checks i (lanesOf i.act) (a.ea ofs x) (tySize ty * 2 ^ vec.toNat) (tySize ty * 2 ^ vec.toNat) .read = .ok (ps, u) →
    Accesses (.ldf h d a ofs ty vec) 0x405 s i x 0 0 (tySize ty * 2 ^ vec.toNat) true false (a.ea ofs x) ps (some (d.dest (groupN ty vec))) u
      (fun v => 
        let r := ps.foldl (fun v p => (v.loadFar i.core p.2 (tySize ty * 2 ^ vec.toNat)).2) v
        ⟨ps.map (fun p => (p.1, loadVal ty (r.loadFar i.core p.2 (tySize ty * 2 ^ vec.toNat)).1)), v.readErrs 0x405 (a.ea ofs x) ps, false, [], [], false, r⟩))

/-- ST and both forms of STN, where the access checks pass and the reader set of STN is legal, issue, and at once or, behind what holds them, later store the element or group of each lane at its place, the highest lane last; STN then parks each line under the set of its register, and its report, which the acknowledgement of the store completes, gives the level asked for, the level used and the location. The report of a plain STN is the model's reading (log 27), and that the accesses of a core are performed in issue order its choice (log 57). -/
def Obligations.StoresWrite : Prop :=
  (∀ (h : Ctl) (a b : Src) (ofs : BitVec 16) (scope order ty : BitVec 3) (vec ch : BitVec 2) (s : State) (i : Iss) (x : Wave) (ps : List (Nat × Place)) (u : St), Goes h { Req.none with srcs := a.rng 2 ++ b.rng (groupN ty vec), dsts := [] } s i x → (s.at' i x).checks i (lanesOf i.act) (a.ea ofs x) (tySize ty * 2 ^ vec.toNat) (tySize ty * 2 ^ vec.toNat) .write = .ok (ps, u) →
    Accesses (.st h a b ofs scope order ty vec ch) 0x401 s i x order.toNat scope.toNat (tySize ty * 2 ^ vec.toNat) false true (a.ea ofs x) ps none u
      (fun v => 
        ⟨[], v.writeErrs 0x401 (a.ea ofs x) ps, false, addressed (a.ea ofs x) (ps.filter (fun p => (v.writeErr p.2).isNone)), [], false,
          v.storeAll i.core (v.goodWrites (ps.map (fun p => (p.2, (tySize ty * 2 ^ vec.toNat), groupVal b x p.1 ty vec))))⟩)) ∧
  (∀ (h : Ctl) (a b : Src) (ofs : BitVec 16) (scope order ty : BitVec 3) (nsel : BitVec 4) (s : State) (i : Iss) (x : Wave) (ps : List (Nat × Place)) (u : St), Goes h { Req.none with srcs := a.rng 2 ++ b.rng (intN ty), dsts := [] } s i x → (s.at' i x).checks i (lanesOf i.act) (a.ea ofs x) (tySize ty) (tySize ty) .write = .ok (ps, u) →
    (i.act ≠ 0 → setOk (x.nreg nsel.toNat) = true) →
    Accesses (.stn h a b ofs scope order ty nsel) 0x402 s i x order.toNat scope.toNat (tySize ty) false true (a.ea ofs x) ps none u
      (fun v => 
        let r := (v.storeAll i.core (v.goodWrites (ps.map (fun p => (p.2, (tySize ty), dataVal b x p.1 ty))))).parkLines i (x.nreg nsel.toNat) (a.ea ofs x) (ps.filter (fun p => (v.writeErr p.2).isNone))
        ⟨[], v.writeErrs 0x402 (a.ea ofs x) ps, false, addressed (a.ea ofs x) (ps.filter (fun p => (v.writeErr p.2).isNone)), [], false, r.2⟩)) ∧
  (∀ (h : Ctl) (d : Opnd) (a b : Src) (ofs : BitVec 16) (scope order ty : BitVec 3) (nsel : BitVec 4) (s : State) (i : Iss) (x : Wave) (ps : List (Nat × Place)) (u : St), Goes h { Req.none with srcs := a.rng 2 ++ b.rng (intN ty), dsts := d.rng 1 } s i x → (s.at' i x).checks i (lanesOf i.act) (a.ea ofs x) (tySize ty) (tySize ty) .write = .ok (ps, u) →
    (i.act ≠ 0 → setOk (x.nreg nsel.toNat) = true) →
    Accesses (.stnReport h d a b ofs scope order ty nsel) 0x403 s i x order.toNat scope.toNat (tySize ty) false true (a.ea ofs x) ps (some (d.dest 1)) u
      (fun v => 
        let r := (v.storeAll i.core (v.goodWrites (ps.map (fun p => (p.2, (tySize ty), dataVal b x p.1 ty))))).parkLines i (x.nreg nsel.toNat) (a.ea ofs x) (ps.filter (fun p => (v.writeErr p.2).isNone))
        ⟨ps.map (fun p => (p.1, stnReportVal (x.nreg nsel.toNat) (match p.2 with
          | .dev _ _ => false
          | _ => true) (r.1.get (4, 0) p.1).1 (r.1.get (4, 0) p.1).2)), v.writeErrs 0x403 (a.ea ofs x) ps, false, addressed (a.ea ofs x) (ps.filter (fun p => (v.writeErr p.2).isNone)), [], true, r.2⟩))

/-- PREF issues and changes nothing; DCWB, DCINV and DCFL write back, discard, or both, what the levels of their scope hold of each lane's line, once no earlier access of the wave stands before it; ICINV drops the fetched code of each lane's address and, at a scope that reaches every die, carries the die's clock to the others. That ICINV drops the fetched code at once is the model's choice (log 20), and with no active lane nothing is done (log 21). -/
def Obligations.CacheMaintenance : Prop :=
  (∀ (h : Ctl) (a : Src) (ofs : BitVec 16) (lvl : BitVec 2) (s : State) (i : Iss) (x : Wave), Goes h ({ Req.none with srcs := a.rng 2 }) s i x →
    LeavesWave (.pref h a ofs lvl) 0x404 s i (x) (.none) (1) (fun _ => none)) ∧
  (∀ (h : Ctl) (a : Src) (ofs : BitVec 16) (scope : BitVec 3) (s : State) (i : Iss) (x : Wave) (ps : List (Nat × Place)) (u : St), Goes h { Req.none with srcs := a.rng 2 } s i x → (s.at' i x).checks i (lanesOf i.act) (a.ea ofs x) 1 1 .write false = .ok (ps, u) →
    LeavesBound (.dcwb h a ofs scope) 0x406 s i x 1 (a.ea ofs x) ps u
      (ps.foldl (fun u p => u.maintLine i scope.toNat true false ((a.ea ofs x p.1).toNat, p.2)) u)
      .none 1 (fun _ => none)) ∧
  (∀ (h : Ctl) (a : Src) (ofs : BitVec 16) (scope : BitVec 3) (s : State) (i : Iss) (x : Wave) (ps : List (Nat × Place)) (u : St), Goes h { Req.none with srcs := a.rng 2 } s i x → (s.at' i x).checks i (lanesOf i.act) (a.ea ofs x) 1 1 .write false = .ok (ps, u) →
    LeavesBound (.dcinv h a ofs scope) 0x407 s i x 1 (a.ea ofs x) ps u
      (ps.foldl (fun u p => u.maintLine i scope.toNat false true ((a.ea ofs x p.1).toNat, p.2)) u)
      .none 1 (fun _ => none)) ∧
  (∀ (h : Ctl) (a : Src) (ofs : BitVec 16) (scope : BitVec 3) (s : State) (i : Iss) (x : Wave) (ps : List (Nat × Place)) (u : St), Goes h { Req.none with srcs := a.rng 2 } s i x → (s.at' i x).checks i (lanesOf i.act) (a.ea ofs x) 1 1 .write false = .ok (ps, u) →
    LeavesBound (.dcfl h a ofs scope) 0x408 s i x 1 (a.ea ofs x) ps u
      (ps.foldl (fun u p => u.maintLine i scope.toNat true true ((a.ea ofs x p.1).toNat, p.2)) u)
      .none 1 (fun _ => none)) ∧
  (∀ (h : Ctl) (a : Src) (ofs : BitVec 16) (scope : BitVec 3) (s : State) (i : Iss) (x : Wave) (ps : List (Nat × Place)) (u : St), Goes h { Req.none with srcs := a.rng 2 } s i x → (s.at' i x).checks i (lanesOf i.act) (a.ea ofs x) 1 1 .write false = .ok (ps, u) →
    let v := if 4 ≤ scope.toNat ∧ i.act ≠ 0 then u.withD (·.tellDies (dieOf i.core)) else u
    Leaves (.icinv h a ofs scope) 0x409 s i (ps.foldl (fun u p => u.withD (·.dropBlocks i.core (a.ea ofs x p.1).toNat scope.toNat)) v) .none 1 (fun _ => none))

/-- WFENCE, IFENCE and FENCE issue with no effect of their own once what they wait for is over (for FENCE after the pushes of a release), and until then the wave only waits: nothing issues, no position passes and no byte of memory changes but by those pushes. A release fence of a context one of whose lines cannot be pushed takes the write-back fault, cause 26. TKSAV stores the sixteen bytes of the tokens as a store of each lane does. After a release fence the reads that still wait hold every later access. That a package fence waits for the messages between dies is the model's choice (log 28), and that IFENCE finds nothing outstanding of an ICINV is too (log 20). -/
def Obligations.FencesWait : Prop :=
  (∀ (h : Ctl) (s : State) (i : Iss) (x : Wave), Goes h Req.none s i x → (i.act ≠ 0 → (s.at' i x).d.wfenceReady i.w = true) →
    LeavesWave (.wfence h) 0x284 s i (x) (.none) (1) (fun _ => none)) ∧
  (∀ (h : Ctl) (s : State) (i : Iss) (x : Wave), Goes h Req.none s i x → i.act ≠ 0 → (s.at' i x).d.wfenceReady i.w = false →
    ∃ t, exec (.wfence h) s = .next t ∧ t.mem = s.mem ∧ t.dev = ((s.at' i x).withD (fun d => d.setWave i.w { x with wait := .wfence })).d) ∧
  (∀ (h : Ctl) (s : State) (i : Iss) (x : Wave), Goes h Req.none s i x → (i.act ≠ 0 → (s.at' i x).d.ifenceReady i.w = true) →
    LeavesWave (.ifence h) 0x40A s i (x) (.none) (1) (fun _ => none)) ∧
  (∀ (h : Ctl) (s : State) (i : Iss) (x : Wave), Goes h Req.none s i x → i.act ≠ 0 → (s.at' i x).d.ifenceReady i.w = false →
    ∃ t, exec (.ifence h) s = .next t ∧ t.mem = s.mem ∧ t.dev = ((s.at' i x).withD (fun d => d.setWave i.w { x with wait := .ifence })).d) ∧
  (∀ (h : Ctl) (scope order : BitVec 3) (s : State) (i : Iss) (x : Wave), Goes h Req.none s i x →
    if i.act = 0 then LeavesWave (.fence h scope order) 0x40B s i x .none 1 (fun _ => none)
    else
      let u := (if 2 ≤ order.toNat then (s.at' i x).release i scope.toNat else s.at' i x)
      (2 ≤ order.toNat → ∀ f, u.unwritten i scope.toNat = some f →
        let m := f.data.foldl (fun n c => n + 2 ^ c.1) 0
        Faults (.fence h scope order) s i u 26 (BitVec.ofNat 64 (128 * f.line)) (BitVec.ofNat 64 (f.asid + 2 ^ 16 * (f.cl / 18 * 32 + f.cl % 18))) (BitVec.ofNat 64 m)
          (BitVec.ofNat 64 (m / 2 ^ 64))) ∧
      ((2 ≤ order.toNat → u.unwritten i scope.toNat = none) →
        if u.d.fenceReady i.w order.toNat scope.toNat = true then
          Leaves (.fence h scope order) 0x40B s i (if 2 ≤ order.toNat then u.withD (·.holdReads (u.d.wave i.w).uid) else u) .none 1 (fun _ => none)
        else WaitsOn (.fence h scope order) s i u (.fence order.toNat scope.toNat))) ∧
  (∀ (h : Ctl) (a : Src) (ofs : BitVec 16) (s : State) (i : Iss) (x : Wave) (ps : List (Nat × Place)) (u : St), Goes h { Req.none with srcs := a.rng 2 } s i x → (s.at' i x).checks i (lanesOf i.act) (a.ea ofs x) 16 16 .write = .ok (ps, u) →
    Accesses (.tksav h a ofs) 0x342 s i x 0 0 16 false true (a.ea ofs x) ps none u
      (fun v => 
        ⟨[], v.writeErrs 0x342 (a.ea ofs x) ps, false, addressed (a.ea ofs x) (ps.filter (fun p => (v.writeErr p.2).isNone)), [], false,
          v.storeAll i.core (v.goodWrites (ps.map (fun p => (p.2, 16, x.tokBytes))))⟩))

/-- RSMK builds the reader-set value of its level from its sources; RSREV, once the wave has performed its earlier stores to the line, replaces, widens or demotes the set of each lane's line; RSQRY answers the set of a parked line, with the read-once bits that are still to be read, and ALL for any other place. -/
def Obligations.ReaderSets : Prop :=
  (∀ (h : Ctl) (d : Opnd) (a b : Src) (keep : BitVec 2) (lvl : BitVec 3),
    FixedResult (.rsmk h d a b keep lvl) 0x440 h (req (d.rng 2) [a.rng 1, b.rng 1]) 2 (d.dest 2) (fun _ x l => lvl.toNat * 2 ^ 61 + keep.toNat * 2 ^ 38 +
      (if lvl.toNat = 0 then field (b.w x l).toNat 7 2 * 2 ^ 56 + field (b.w x l).toNat 2 5 * 2 ^ 48 + field (b.w x l).toNat 0 2 * 2 ^ 46
       else if lvl.toNat = 1 then field (b.w x l).toNat 7 2 * 2 ^ 56 + field (b.w x l).toNat 2 5 * 2 ^ 48 + (a.w x l).toNat % 16
       else if lvl.toNat = 2 then field (b.w x l).toNat 7 2 * 2 ^ 56 + (a.w x l).toNat % 2 ^ 18
       else if lvl.toNat = 3 then (a.w x l).toNat % 16 else 0))) ∧
  (∀ (h : Ctl) (a b : Src) (ofs : BitVec 16) (mode : BitVec 2) (s : State) (i : Iss) (x : Wave) (ps : List (Nat × Place)) (u : St), Goes h { Req.none with srcs := a.rng 2 } s i x → (s.at' i x).checks i (lanesOf i.act) (a.ea ofs x) 1 1 .write false = .ok (ps, u) →
    (i.act ≠ 0 → setOk (x.nreg b.o.idx) = true) →
    if u.mustWait (i.late x (.nop i.h) 0 0 1 false false (a.ea ofs x) ps) || ps.any (fun p => u.stillStores x.uid i.opid (lineOf (a.ea ofs x p.1).toNat) p.2)
    then WaitsOn (.rsrev h a b ofs mode) s i u .bound
    else Leaves (.rsrev h a b ofs mode) 0x441 s i (ps.foldl (fun u p => u.reviseLine i mode.toNat (x.nreg b.o.idx) (a.ea ofs x p.1) p.2) u) .none 1 (fun _ => none)) ∧
  (∀ (h : Ctl) (d : Opnd) (a : Src) (ofs : BitVec 16) (s : State) (i : Iss) (x : Wave) (ps : List (Nat × Place)) (u : St), Goes h { Req.none with srcs := a.rng 2, dsts := d.rng 2 } s i x → (s.at' i x).checks i (lanesOf i.act) (a.ea ofs x) 1 1 .read false = .ok (ps, u) → u.locateFault i 3 (a.ea ofs x) ps = none →
    LeavesBound (.rsqry h d a ofs) 0x442 s i x 1 (a.ea ofs x) ps u
      (u)
      (.long (d.dest 2) (ps.map (fun p => (p.1, u.d.rsqryAt p.2))) true none false) 1 (fun _ => none))

/-- ATOM, ACAS and RED, where the access checks pass, no lane meets a parked line it may not reach (RED is never turned away for that) and the host can make the operation, issue, and at once or later make one indivisible request for each effective address, in the order of their lowest lanes: each lane receives what its place held before its own part, and the place takes the new value. One on host memory completes with the host's confirmation. That an ACAS that finds other values writes nothing is the model's reading (log 27). -/
def Obligations.AtomicsReadAndWrite : Prop :=
  (∀ (h : Ctl) (d : Opnd) (a b : Src) (ofs : BitVec 16) (scope order ty : BitVec 3) (aop : BitVec 4) (s : State) (i : Iss) (x : Wave) (ps : List (Nat × Place)) (u : St), Goes h { Req.none with srcs := a.rng 2 ++ b.rng (intN ty), dsts := d.rng (intN ty) } s i x →
    (s.at' i x).checks i (lanesOf i.act) (a.ea ofs x) (tySize ty) (tySize ty) .both = .ok (ps, u) → u.locateFault i 1 (a.ea ofs x) ps = none → hostBadLanes (hostAtomicBad aop.toNat ty) ps = [] →
    Accesses (.atom h d a b ofs scope order ty aop) 0x480 s i x order.toNat scope.toNat (tySize ty) true true (a.ea ofs x) ps (some (d.dest (intN ty))) u
      (fun v => 
        let ok := (ps.filter (fun p => (v.readErr p.2).isNone))
        let r := v.atomAll i scope.toNat (tySize ty) (a.ea ofs x) ok (fun l => dataVal b x l ty) (aopCombine aop ty)
        ⟨r.1, v.readErrs 0x480 (a.ea ofs x) ps, false, r.2.1, [], ps.any (·.2.isHost), r.2.2.markRead i.core ok⟩)) ∧
  (∀ (h : Ctl) (d : Opnd) (a b : Src) (ofs : BitVec 16) (scope order ty : BitVec 3) (s : State) (i : Iss) (x : Wave) (ps : List (Nat × Place)) (u : St), Goes h { Req.none with srcs := a.rng 2 ++ b.rng (2 * intN ty), dsts := d.rng (intN ty) } s i x →
    (s.at' i x).checks i (lanesOf i.act) (a.ea ofs x) (tySize ty) (tySize ty) .both = .ok (ps, u) → u.locateFault i 2 (a.ea ofs x) ps = none →
    Accesses (.acas h d a b ofs scope order ty) 0x481 s i x order.toNat scope.toNat (tySize ty) true true (a.ea ofs x) ps (some (d.dest (intN ty))) u
      (fun v => 
        let ok := (ps.filter (fun p => (v.readErr p.2).isNone))
        let r := v.atomAll i scope.toNat (tySize ty) (a.ea ofs x) ok (fun l => x.group l b.o.idx (2 * intN ty)) (fun bs old => combine (fun old g => if old = g % 2 ^ intW ty then some (g / 2 ^ intW ty) else none) old bs)
        ⟨r.1, v.readErrs 0x481 (a.ea ofs x) ps, false, r.2.1, [], ps.any (·.2.isHost), r.2.2.markRead i.core ok⟩)) ∧
  (∀ (h : Ctl) (a b : Src) (ofs : BitVec 16) (scope order ty : BitVec 3) (aop : BitVec 4) (s : State) (i : Iss) (x : Wave) (ps : List (Nat × Place)) (u : St), Goes h { Req.none with srcs := a.rng 2 ++ b.rng (intN ty), dsts := [] } s i x →
    (s.at' i x).checks i (lanesOf i.act) (a.ea ofs x) (tySize ty) (tySize ty) .both = .ok (ps, u) → hostBadLanes (hostAtomicBad aop.toNat ty) ps = [] →
    Accesses (.red h a b ofs scope order ty aop) 0x482 s i x order.toNat scope.toNat (tySize ty) false true (a.ea ofs x) ps none u
      (fun v => 
        let ok := (ps.filter (fun p => (v.readErr p.2).isNone))
        let r := v.atomAll i scope.toNat (tySize ty) (a.ea ofs x) ok (fun l => dataVal b x l ty) (aopCombine aop ty)
        ⟨r.1, v.readErrs 0x482 (a.ea ofs x) ps, false, r.2.1, [], ps.any (·.2.isHost), r.2.2⟩))

/-- LD and LDF under an order without release, RSQRY and RSREV, and every check of an access before it, leave every byte of memory as it was. -/
def Obligations.LoadsChangeNoByte : Prop :=
  (∀ (h : Ctl) (d : Opnd) (a : Src) (ofs : BitVec 16) (scope order ty : BitVec 3) (vec ch : BitVec 2) (s : State) (i : Iss) (x : Wave) (ps : List (Nat × Place)) (u : St), Goes h { Req.none with srcs := a.rng 2, dsts := d.rng (groupN ty vec) } s i x → HandlerGoesOn x → order.toNat < 2 →
    (s.at' i x).checks i (lanesOf i.act) (a.ea ofs x) (tySize ty * 2 ^ vec.toNat) (tySize ty * 2 ^ vec.toNat) .read = .ok (ps, u) → u.locateFault i 0 (a.ea ofs x) ps = none → ∃ t, exec (.ld h d a ofs scope order ty vec ch) s = .next t ∧ t.mem = s.mem) ∧
  (∀ (h : Ctl) (d : Opnd) (a : Src) (ofs : BitVec 16) (ty : BitVec 3) (vec : BitVec 2) (s : State) (i : Iss) (x : Wave) (ps : List (Nat × Place)) (u : St), Goes h { Req.none with srcs := a.rng 2, dsts := d.rng (groupN ty vec) } s i x → HandlerGoesOn x →
    (s.at' i x).checks i (lanesOf i.act) (a.ea ofs x) (tySize ty * 2 ^ vec.toNat) (tySize ty * 2 ^ vec.toNat) .read = .ok (ps, u) → ∃ t, exec (.ldf h d a ofs ty vec) s = .next t ∧ t.mem = s.mem) ∧
  (∀ (h : Ctl) (a b : Src) (ofs : BitVec 16) (mode : BitVec 2) (s : State) (i : Iss) (x : Wave) (ps : List (Nat × Place)) (u : St), Goes h { Req.none with srcs := a.rng 2 } s i x → HandlerGoesOn x → (s.at' i x).checks i (lanesOf i.act) (a.ea ofs x) 1 1 .write false = .ok (ps, u) →
    (i.act ≠ 0 → setOk (x.nreg b.o.idx) = true) → ∃ t, exec (.rsrev h a b ofs mode) s = .next t ∧ t.mem = s.mem) ∧
  (∀ (h : Ctl) (d : Opnd) (a : Src) (ofs : BitVec 16) (s : State) (i : Iss) (x : Wave) (ps : List (Nat × Place)) (u : St), Goes h { Req.none with srcs := a.rng 2, dsts := d.rng 2 } s i x → HandlerGoesOn x → (s.at' i x).checks i (lanesOf i.act) (a.ea ofs x) 1 1 .read false = .ok (ps, u) → u.locateFault i 3 (a.ea ofs x) ps = none →
    ∃ t, exec (.rsqry h d a ofs) s = .next t ∧ t.mem = s.mem) ∧
  (∀ (s : St) (i : Iss) (ls : List Nat) (ea : Nat → W64) (size al : Nat) (acc : Acc) (tile : Bool) (ps : List (Nat × Place)) (u : St),
    s.checks i ls ea size al acc tile = .ok (ps, u) →
    u.m0 = s.m0 ∧ u.log = s.log ∧ (∀ k, u.d.wave k = s.d.wave k ∨ (k = i.w ∧ u.d.wave k = { s.d.wave k with walking := true })) ∧ ps.map (·.1) = ls ∧ ∀ l p, (l, p) ∈ ps → s.check i.blk (ea l) size al acc tile = .ok p)

/-- After an ST, an STN or a TKSAV that does not release, the byte at every address is the one that the last lane storing there stores, in little-endian order, and where no lane stores it is what it was before. Where an earlier access of the wave stands before it, no byte changes yet. -/
def Obligations.StoresChangeTheirBytes : Prop :=
  (∀ (h : Ctl) (a b : Src) (ofs : BitVec 16) (scope order ty : BitVec 3) (vec ch : BitVec 2) (s : State) (i : Iss) (x : Wave) (ps : List (Nat × Place)) (u : St), s.inv → Goes h { Req.none with srcs := a.rng 2 ++ b.rng (groupN ty vec), dsts := [] } s i x → HandlerGoesOn x → order.toNat < 2 → (s.at' i x).checks i (lanesOf i.act) (a.ea ofs x) (tySize ty * 2 ^ vec.toNat) (tySize ty * 2 ^ vec.toNat) .write = .ok (ps, u) →
    (∀ l pa pte, (l, Place.dev pa pte) ∈ ps → pa + (tySize ty * 2 ^ vec.toNat) ≤ 2 ^ 51) →
    let ws := ps.filterMap (fun p => if (u.writeErr p.2).isNone then some (p.2.key u.d, (tySize ty * 2 ^ vec.toNat), groupVal b x p.1 ty vec) else none)
    ∃ t, exec (.st h a b ofs scope order ty vec ch) s = .next t ∧ t.mem.read = fun n =>
      if u.mustWait (i.late x (.st h a b ofs scope order ty vec ch) order.toNat scope.toNat (tySize ty * 2 ^ vec.toNat) false true (a.ea ofs x) ps) then s.mem.read n else (lastByte ws n).getD (s.mem.read n)) ∧
  (∀ (h : Ctl) (a b : Src) (ofs : BitVec 16) (scope order ty : BitVec 3) (nsel : BitVec 4) (s : State) (i : Iss) (x : Wave) (ps : List (Nat × Place)) (u : St), s.inv → Goes h { Req.none with srcs := a.rng 2 ++ b.rng (intN ty), dsts := [] } s i x → HandlerGoesOn x → order.toNat < 2 → (i.act ≠ 0 → setOk (x.nreg nsel.toNat) = true) → (s.at' i x).checks i (lanesOf i.act) (a.ea ofs x) (tySize ty) (tySize ty) .write = .ok (ps, u) →
    (∀ l pa pte, (l, Place.dev pa pte) ∈ ps → pa + (tySize ty) ≤ 2 ^ 51) →
    let ws := ps.filterMap (fun p => if (u.writeErr p.2).isNone then some (p.2.key u.d, (tySize ty), dataVal b x p.1 ty) else none)
    ∃ t, exec (.stn h a b ofs scope order ty nsel) s = .next t ∧ t.mem.read = fun n =>
      if u.mustWait (i.late x (.stn h a b ofs scope order ty nsel) order.toNat scope.toNat (tySize ty) false true (a.ea ofs x) ps) then s.mem.read n else (lastByte ws n).getD (s.mem.read n)) ∧
  (∀ (h : Ctl) (d : Opnd) (a b : Src) (ofs : BitVec 16) (scope order ty : BitVec 3) (nsel : BitVec 4) (s : State) (i : Iss) (x : Wave) (ps : List (Nat × Place)) (u : St), s.inv → Goes h { Req.none with srcs := a.rng 2 ++ b.rng (intN ty), dsts := d.rng 1 } s i x → HandlerGoesOn x → order.toNat < 2 → (i.act ≠ 0 → setOk (x.nreg nsel.toNat) = true) → (s.at' i x).checks i (lanesOf i.act) (a.ea ofs x) (tySize ty) (tySize ty) .write = .ok (ps, u) →
    (∀ l pa pte, (l, Place.dev pa pte) ∈ ps → pa + (tySize ty) ≤ 2 ^ 51) →
    let ws := ps.filterMap (fun p => if (u.writeErr p.2).isNone then some (p.2.key u.d, (tySize ty), dataVal b x p.1 ty) else none)
    ∃ t, exec (.stnReport h d a b ofs scope order ty nsel) s = .next t ∧ t.mem.read = fun n =>
      if u.mustWait (i.late x (.stnReport h d a b ofs scope order ty nsel) order.toNat scope.toNat (tySize ty) false true (a.ea ofs x) ps) then s.mem.read n else (lastByte ws n).getD (s.mem.read n)) ∧
  (∀ (h : Ctl) (a : Src) (ofs : BitVec 16) (s : State) (i : Iss) (x : Wave) (ps : List (Nat × Place)) (u : St), s.inv → Goes h { Req.none with srcs := a.rng 2 } s i x → HandlerGoesOn x → (s.at' i x).checks i (lanesOf i.act) (a.ea ofs x) 16 16 .write = .ok (ps, u) →
    (∀ l pa pte, (l, Place.dev pa pte) ∈ ps → pa + 16 ≤ 2 ^ 51) →
    let ws := ps.filterMap (fun p => if (u.writeErr p.2).isNone then some (p.2.key u.d, 16, x.tokBytes) else none)
    ∃ t, exec (.tksav h a ofs) s = .next t ∧ t.mem.read = fun n =>
      if u.mustWait (i.late x (.tksav h a ofs) 0 0 16 false true (a.ea ofs x) ps) then s.mem.read n else (lastByte ws n).getD (s.mem.read n))

/-- What a core stores at a place it reads there again, whatever other dies hold of the line: in a scratchpad, in host memory, on a parked line, and on a line of device memory of which its die holds no older copy. -/
def Obligations.StoredValuesReadBack : Prop :=
  ∀ (s : St) (core : Nat) (p : Place) (n v : Nat), n ≤ 16 →
    (∀ pa pte, p = .dev pa pte → pa % 128 + n ≤ 128 ∧ pa < 2 ^ 51 ∧ ∀ k, k < n → s.d.stale.lookup (dieOf core * 2 ^ 52 + pa + k) = none) →
    ((s.store core p n v).load core p n).1 = v % 256 ^ n

/-- ENQ and DEQ issue, and at once or, behind an earlier access that holds them, later serve their lanes in ascending order, each at its header: a lane is served, waits when its form blocks, or receives the status of a full or empty queue; then the requests that waited there and can go on are served. QINIT writes the header anew and resets what waits there; QSTAT answers occupancy and room. A stored LOG2N above 24, the home slice of a scratchpad header and the lanes of one QINIT are the model's choice (log 47). -/
def Obligations.QueuesAtTheirHeaders : Prop :=
  (∀ (h : Ctl) (d : Opnd) (a b : Src) (ofs : BitVec 16) (scope order : BitVec 3) (sz : BitVec 2) (blk : Bool) (s : State) (i : Iss) (x : Wave) (ps : List (Nat × Place)) (u : St), Goes h { Req.none with srcs := a.rng 2 ++ b.rng (slotRegs sz), dsts := d.rng 1 } s i x → (s.at' i x).checks i (lanesOf i.act) (a.ea ofs x) 64 64 .both = .ok (ps, u) →
    hostPlaces ps = [] →
    Accesses (.enq h d a b ofs scope order sz blk) 0x4C0 s i x order.toNat scope.toNat 64 true true (a.ea ofs x) ps (some (d.dest 1)) u
      (fun v => 
        let r := ps.foldl (St.queueLane i x.uid 0x4C0 (a.ea ofs x) sz blk true (acquires order.toNat i.act) (fun l => x.group l b.o.idx (slotRegs sz))) ⟨[], none, false, [], [], false, v⟩
        { r with st := (ps.map (·.2)).eraseDups.foldl (fun s p => s.serveAll p) r.st })) ∧
  (∀ (h : Ctl) (d : Opnd) (a : Src) (ofs : BitVec 16) (scope order : BitVec 3) (sz : BitVec 2) (blk : Bool) (s : State) (i : Iss) (x : Wave) (ps : List (Nat × Place)) (u : St), Goes h { Req.none with srcs := a.rng 2 ++ [], dsts := d.rng (1 + slotRegs sz) } s i x → (s.at' i x).checks i (lanesOf i.act) (a.ea ofs x) 64 64 .both = .ok (ps, u) →
    hostPlaces ps = [] →
    Accesses (.deq h d a ofs scope order sz blk) 0x4C1 s i x order.toNat scope.toNat 64 true true (a.ea ofs x) ps (some (d.dest (1 + slotRegs sz))) u
      (fun v => 
        let r := ps.foldl (St.queueLane i x.uid 0x4C1 (a.ea ofs x) sz blk false (acquires order.toNat i.act) (fun _ => 0)) ⟨[], none, false, [], [], false, v⟩
        { r with st := (ps.map (·.2)).eraseDups.foldl (fun s p => s.serveAll p) r.st })) ∧
  (∀ (h : Ctl) (a b : Src) (ofs : BitVec 16) (sz : BitVec 2) (s : State) (i : Iss) (x : Wave) (ps : List (Nat × Place)) (u : St), Goes h { Req.none with srcs := a.rng 2 ++ b.rng 2 } s i x → (s.at' i x).checks i (lanesOf i.act) (a.ea ofs x) 64 64 .both = .ok (ps, u) →
    (∀ p ∈ ps, (b.x x p.1).toNat % 64 ≤ 24) → hostPlaces ps = [] →
    LeavesBound (.qinit h a b ofs sz) 0x4C2 s i x 64 (a.ea ofs x) ps u
      (ps.foldl (fun u p => u.qinitAt p.2 (b.x x p.1) sz.toNat) u)
      .none 1 (fun _ => none)) ∧
  (∀ (h : Ctl) (d : Opnd) (a : Src) (ofs : BitVec 16) (s : State) (i : Iss) (x : Wave) (ps : List (Nat × Place)) (u : St), Goes h { Req.none with srcs := a.rng 2, dsts := d.rng 2 } s i x → (s.at' i x).checks i (lanesOf i.act) (a.ea ofs x) 64 64 .both = .ok (ps, u) → hostPlaces ps = [] →
    let r := ps.foldl (fun (t : Tab Nat × St) p =>
      let q := (t.2.meetQueue i.core p.2).homeRead p.2 64
      (t.1.put p.1 (qstatVal q.1), q.2)) ([], u)
    LeavesBound (.qstat h d a ofs) 0x4C3 s i x 64 (a.ea ofs x) ps u
      (r.2)
      (.long (d.dest 2) r.1 true (u.readErrs 0x4C3 (a.ea ofs x) ps) false) 1 (fun _ => none))

/-- An enqueue at a header with room advances TAIL by one and answers the slot number that it filled; a dequeue at a header that is not empty advances HEAD by one; at a full or an empty header nothing of it changes. What a stored header with LOG2N above 24 does is the model's choice (log 47). -/
def Obligations.QueueOrder : Prop :=
  ∀ (s : St) (asid : Nat) (hp : Place) (data : Nat),
    let hdr := (s.homeRead hp 64).1
    (hdrN hdr ≤ hdrOcc hdr → (s.enqTry asid hp data) = (.wait, (s.homeRead hp 64).2)) ∧
    (hdrOcc hdr = 0 → (s.deqTry asid hp) = (.wait, (s.homeRead hp 64).2)) ∧
    (hdrOcc hdr < hdrN hdr → ∀ p, (s.homeRead hp 64).2.slotPlace asid hdr (hdrTail hdr) = some p → (s.homeRead hp 64).2.writeErr p = none →
      (s.enqTry asid hp data).1 = .done (hdrTail hdr % 2 ^ 31) (some p) ∧
      (s.enqTry asid hp data).2 = ((s.homeRead hp 64).2.homeWrite p (8 * 2 ^ hdrSz hdr) data).homeWrite hp 64 (hdrClean (setField hdr 0 64 (hdrTail hdr + 1)))) ∧
    (hdrOcc hdr ≠ 0 → ∀ p, (s.homeRead hp 64).2.slotPlace asid hdr (hdrHead hdr) = some p → (s.homeRead hp 64).2.readErr p = none →
      let t := (s.homeRead hp 64).2.homeRead p (8 * 2 ^ hdrSz hdr)
      (s.deqTry asid hp).1 = .done (hdrHead hdr % 2 ^ 31 + 2 ^ 32 * t.1) none ∧
      (s.deqTry asid hp).2 = t.2.homeWrite hp 64 (hdrClean (setField hdr 64 64 (hdrHead hdr + 1)))) ∧
    (∀ h v, h < 2 ^ 512 → hdrTail (hdrClean (setField h 0 64 v)) = v % 2 ^ 64 ∧ hdrHead (hdrClean (setField h 0 64 v)) = hdrHead h ∧
      hdrTail (hdrClean (setField h 64 64 v)) = hdrTail h ∧ hdrHead (hdrClean (setField h 64 64 v)) = v % 2 ^ 64 ∧
      hdrN (hdrClean (setField h 0 64 v)) = hdrN h ∧ hdrRing (hdrClean (setField h 0 64 v)) = hdrRing h)

/-- GJOIN makes a block that was not formed a member of its group and does nothing to one that is a member, leaving or not; GLEAVE marks a member leaving; GMAP maps a window slot to the scratchpad of the group member that the lowest lane names, or to none. -/
def Obligations.SharingGroups : Prop :=
  (∀ (h : Ctl) (s : State) (i : Iss) (x : Wave), Goes h Req.none s i x →
    if i.act = 0 then LeavesWave (.gjoin h) 0x500 s i x .none 1 (fun _ => none)
    else Leaves (.gjoin h) 0x500 s i ((s.at' i x).withD (fun d => d.setBlock i.blk (if (d.block i.blk).formed || (d.block i.blk).member then d.block i.blk else { d.block i.blk with member := true }))) .none 1 (fun _ => none)) ∧
  (∀ (h : Ctl) (s : State) (i : Iss) (x : Wave), Goes h Req.none s i x →
    if i.act = 0 then LeavesWave (.gleave h) 0x501 s i x .none 1 (fun _ => none)
    else Leaves (.gleave h) 0x501 s i ((s.at' i x).withD (fun d => d.setBlock i.blk (if (d.block i.blk).member then { d.block i.blk with leaving := true } else d.block i.blk))) .none 1 (fun _ => none)) ∧
  (∀ (h : Ctl) (a : Src) (slot : BitVec 6) (s : State) (i : Iss) (x : Wave), Goes h { Req.none with srcs := a.rng 1 } s i x →
    if i.act = 0 then LeavesWave (.gmap h a slot) 0x502 s i x .none 1 (fun _ => none)
    else Leaves (.gmap h a slot) 0x502 s i ((s.at' i x).withD (fun d => d.setBlock i.blk { d.block i.blk with
        windows := (d.block i.blk).windows.put slot.toNat ((d.memberOf i.blk (a.w x (lowest i.act)).toNat).map (fun k => ⟨k / 64, k % 64, (d.block k).gen⟩)) }))
      .none 1 (fun _ => none))

/-- BINIT sets the count of a byte-count barrier and clears its error, BARR, a release at the scope that reaches its objects, takes each lane's count off its object, at once or later, BWAIT completes with phase and error once the phase has passed, or waits for that, and BTST answers what is pending and the phase; on an object whose line is poisoned each completes with an error. Taking n bytes off an object: 0 changes nothing; less than what is pending leaves the rest in the same phase; exactly what is pending begins the next phase with the initial count; more sets the error and begins the next phase. That an object acts by its contents as they stand is the model's choice (log 48). -/
def Obligations.ByteCountBarriers : Prop :=
  (∀ (h : Ctl) (a b : Src) (ofs : BitVec 16) (s : State) (i : Iss) (x : Wave), Goes h { Req.none with srcs := a.rng 2 ++ b.rng 1 } s i x →
    if i.act = 0 then LeavesWave (.binit h a b ofs) 0x640 s i x (.long .none [] true none false) 1 (fun _ => none)
    else ∀ p, (s.at' i x).barrierAt i (a.ea ofs x (lowest i.act)) .write = .ok p → b.w x (lowest i.act) ≠ 0 →
      LeavesBound (.binit h a b ofs) 0x640 s i x 16 (fun _ => (a.ea ofs x (lowest i.act))) [(lowest i.act, p)] (s.at' i x)
      (((s.at' i x).meetAt i.core p).objUpd (p.key s.dev)
        (fun o => setField (setField (setField o 0 32 (b.w x (lowest i.act)).toNat) 80 1 0) 96 32 (b.w x (lowest i.act)).toNat))
      (.long .none [] true (((s.at' i x).objErr (p.key s.dev)).map (fun k => mkDetail k 0x640 (a.ea ofs x (lowest i.act)))) false) 1 (fun _ => none)) ∧
  (∀ (h : Ctl) (a b : Src) (ofs : BitVec 16) (s : State) (i : Iss) (x : Wave) (ps : List (Nat × Place)), Goes h { Req.none with srcs := a.rng 2 ++ b.rng 1 } s i x →
    (s.at' i x).barrs i (a.ea ofs x) = .ok ps →
    Accesses (.barr h a b ofs) 0x641 s i x 2 (reachOf i.core ps) 16 false true (a.ea ofs x) ps (some .none) (s.at' i x) (fun v =>
      ⟨[], v.readErrs 0x641 (a.ea ofs x) ps, false, [], [], false, ps.foldl (fun u p => (u.meetAt i.core p.2).objUpd (p.2.key u.d) (fun o => objDec o (b.w x p.1).toNat)) v⟩)) ∧
  (∀ (h : Ctl) (d : Opnd) (a b : Src) (ofs : BitVec 16) (s : State) (i : Iss) (x : Wave), Goes h { Req.none with srcs := a.rng 2 ++ b.rng 1, dsts := d.rng 1 } s i x →
    if i.act = 0 then LeavesWave (.bwait h d a b ofs) 0x642 s i x (.long (d.dest 1) [] true none false) 1 (fun _ => none)
    else ∀ p, (s.at' i x).barrierAt i (a.ea ofs x (lowest i.act)) .read = .ok p →
      let o := objClean ((s.at' i x).rdN (p.key s.dev) 16)
      (∀ k, (s.at' i x).objErr (p.key s.dev) = some k → LeavesBound (.bwait h d a b ofs) 0x642 s i x 16 (fun _ => (a.ea ofs x (lowest i.act))) [(lowest i.act, p)] (s.at' i x)
      ((s.at' i x).meetAt i.core p)
      (.long (d.dest 1) [] true (some (mkDetail k 0x642 (a.ea ofs x (lowest i.act)))) false) 1 (fun _ => none)) ∧
      ((s.at' i x).objErr (p.key s.dev) = none → if objPhase o = ((b.w x (lowest i.act)).setWidth 16 : BitVec 16).toNat then
        LeavesBound (.bwait h d a b ofs) 0x642 s i x 16 (fun _ => (a.ea ofs x (lowest i.act))) [(lowest i.act, p)] (s.at' i x)
      ((s.at' i x).withD fun d => { d with bwaits := d.bwaits ++ [⟨p.key s.dev, (b.w x (lowest i.act)).setWidth 16, x.uid, i.opid, a.ea ofs x (lowest i.act)⟩] })
      (.long (d.dest 1) [] false none false) 1 (fun _ => none)
      else LeavesBound (.bwait h d a b ofs) 0x642 s i x 16 (fun _ => (a.ea ofs x (lowest i.act))) [(lowest i.act, p)] (s.at' i x)
      ((s.at' i x).meetAt i.core p)
      (.long (d.dest 1) (forAll i (objWord o)) true (if objErr o then some (mkDetail 11 0x642 (a.ea ofs x (lowest i.act))) else none) false) 1 (fun _ => none))) ∧
  (∀ (h : Ctl) (d : Opnd) (a : Src) (ofs : BitVec 16) (s : State) (i : Iss) (x : Wave), Goes h { Req.none with srcs := a.rng 2, dsts := d.rng 2 } s i x →
    if i.act = 0 then LeavesWave (.btst h d a ofs) 0x643 s i x (.long (d.dest 2) [] true none false) 1 (fun _ => none)
    else ∀ p, (s.at' i x).barrierAt i (a.ea ofs x (lowest i.act)) .read = .ok p →
      let o := objClean ((s.at' i x).rdN (p.key s.dev) 16)
      LeavesBound (.btst h d a ofs) 0x643 s i x 16 (fun _ => (a.ea ofs x (lowest i.act))) [(lowest i.act, p)] (s.at' i x)
      ((s.at' i x).meetAt i.core p)
      (.long (d.dest 2) (forAll i (objPend o + 2 ^ 32 * objWord o)) true (((s.at' i x).objErr (p.key s.dev)).map (fun k => mkDetail k 0x643 (a.ea ofs x (lowest i.act)))) false) 1 (fun _ => none)) ∧
  (∀ (o n : Nat), o < 2 ^ 128 →
    objDec o 0 = o ∧
    (0 < n → n < objPend o → objPend (objDec o n) = objPend o - n ∧ objPhase (objDec o n) = objPhase o ∧ objErr (objDec o n) = objErr o ∧ objInit (objDec o n) = objInit o) ∧
    (0 < n → objPend o ≤ n → objPend (objDec o n) = objInit o ∧ objPhase (objDec o n) = (objPhase o + 1) % 2 ^ 16 ∧
      objErr (objDec o n) = (objErr o || objPend o < n) ∧ objInit (objDec o n) = objInit o))

/-- TDECL declares a tile of the block, READY or EMPTY, where the range is whole lines of the scratchpad, meets no other tile and the tile is at rest; TSTAT answers its entry; TREL releases a READY tile, which is EMPTY at once or when its last read ends. That a fault of a tile's state carries no address is the model's reading (log 24), and the specifier of an index beyond the grant is free (log 5). -/
def Obligations.TilesAreDeclared : Prop :=
  (∀ (h : Ctl) (a b : Src) (rdy : Bool) (tile : BitVec 6) (s : State) (i : Iss) (x : Wave), Goes h { Req.none with srcs := a.rng 1 ++ b.rng 1 } s i x →
    if i.act = 0 then LeavesWave (.tdecl h a b rdy tile) 0x644 s i x (.long .none [] true none false) 1 (fun _ => none)
    else
      let k := s.dev.block i.blk
      let base := (a.w x (lowest i.act)).toNat
      let size := (b.w x (lowest i.act)).toNat
      tile.toNat < k.tileN → (k.tile tile.toNat).state = 0 ∨ (k.tile tile.toNat).state = 2 → (k.tile tile.toNat).nrd = 0 →
      base % 64 = 0 → size % 64 = 0 → base + size ≤ k.scrsz →
      (size = 0 ∨ ∀ e ∈ k.tiles, e.1 = tile.toNat ∨ e.2.size = 0 ∨ e.2.base + e.2.size ≤ base ∨ base + size ≤ e.2.base) →
      Leaves (.tdecl h a b rdy tile) 0x644 s i ((s.at' i x).withD (·.updTile i.blk tile.toNat (fun _ => ⟨if rdy then 2 else 0, 0, 0, size, base⟩))) (.long .none [] true none false) 1 (fun _ => none)) ∧
  (∀ (h : Ctl) (d : Opnd) (tile : BitVec 6) (s : State) (i : Iss) (x : Wave), Goes h { Req.none with dsts := d.rng 2 } s i x → (i.act ≠ 0 → tile.toNat < (s.dev.block i.blk).tileN) →
    LeavesWave (.tstat h d tile) 0x645 s i x (.long (d.dest 2) (forAll i ((s.dev.block i.blk).tile tile.toNat).word) true none false) 1 (fun _ => none)) ∧
  (∀ (h : Ctl) (tile : BitVec 6) (s : State) (i : Iss) (x : Wave), Goes h Req.none s i x →
    if i.act = 0 then LeavesWave (.trel h tile) 0x646 s i x (.long .none [] true none false) 1 (fun _ => none)
    else
      let y := (s.dev.block i.blk).tile tile.toNat
      tile.toNat < (s.dev.block i.blk).tileN → y.state = 2 →
      Leaves (.trel h tile) 0x646 s i ((s.at' i x).withD (·.updTile i.blk tile.toNat (fun x => { x with state := if x.nrd = 0 then 0 else 3 })))
        (.long .none [(0, tile.toNat)] (y.nrd = 0) none false) 1 (fun _ => none))

/-- CPY, GATH, SCAT and MCAST, where their record lies in the block's scratchpad, a copy slot of the core is free and the checks of R214 pass, take the slot with the record as it stands: their tiles count the copy, and the operation ends when the copy has landed. A record whose line is poisoned completes the operation with an error, and one at an address with bits 63:57 nonzero raises the translation fault. CPYQ answers the report of a record. That a copy goes on with its record as it stood is the model's choice (log 48). -/
def Obligations.CopiesTakeASlot : Prop :=
  (∀ (h : Ctl) (a : Src) (ofs : BitVec 16) (s : State) (i : Iss) (x : Wave), Goes h { Req.none with srcs := a.rng 2 } s i x →
    if i.act = 0 then LeavesWave (.cpy h a ofs) 0x600 s i x (.long .none [] true none false) 1 (fun _ => none)
    else ∀ o, (a.ea ofs x (lowest i.act)).toNat % 64 = 0 → (a.ea ofs x (lowest i.act)).toNat < 2 ^ 57 → s.dev.slotOf i.blk (a.ea ofs x (lowest i.act)).toNat = some (0, o) → o + 64 ≤ (s.dev.block i.blk).scrsz →
      (s.at' i x).readErr (.scratch i.blk o) = none → (s.dev.copies.filter (·.core == i.core)).length < 128 →
      (s.at' i x).copyCheck i ((s.at' i x).copyOf i x 0 o) (a.ea ofs x (lowest i.act)) = none →
      Leaves (.cpy h a ofs) 0x600 s i ((s.at' i x).copyTake i ((s.at' i x).copyOf i x 0 o)) (.long .none [] false none false) 1 (fun _ => none)) ∧
  (∀ (h : Ctl) (a : Src) (ofs : BitVec 16) (s : State) (i : Iss) (x : Wave) (o : Nat) (k : BitVec 8), Goes h { Req.none with srcs := a.rng 2 } s i x → i.act ≠ 0 → (a.ea ofs x (lowest i.act)).toNat % 64 = 0 → (a.ea ofs x (lowest i.act)).toNat < 2 ^ 57 → s.dev.slotOf i.blk (a.ea ofs x (lowest i.act)).toNat = some (0, o) → o + 64 ≤ (s.dev.block i.blk).scrsz →
    (s.at' i x).readErr (.scratch i.blk o) = some k →
    LeavesWave (.cpy h a ofs) 0x600 s i x (.long .none [] true (some (mkDetail k 0x600 (a.ea ofs x (lowest i.act)))) false) 1 (fun _ => none)) ∧
  (∀ (h : Ctl) (a : Src) (ofs : BitVec 16) (s : State) (i : Iss) (x : Wave), Goes h { Req.none with srcs := a.rng 2 } s i x → i.act ≠ 0 → (a.ea ofs x (lowest i.act)).toNat % 64 = 0 → 2 ^ 57 ≤ (a.ea ofs x (lowest i.act)).toNat →
    Faults (.cpy h a ofs) s i (s.at' i x) 9 (a.ea ofs x (lowest i.act)) (BitVec.ofNat 64 (i.act.toNat + 2 ^ 32 * 7 + 2 ^ 36 * Acc.read.code)) 0 0) ∧
  (∀ (h : Ctl) (a : Src) (ofs : BitVec 16) (s : State) (i : Iss) (x : Wave), Goes h { Req.none with srcs := a.rng 2 } s i x →
    if i.act = 0 then LeavesWave (.gath h a ofs) 0x601 s i x (.long .none [] true none false) 1 (fun _ => none)
    else ∀ o, (a.ea ofs x (lowest i.act)).toNat % 64 = 0 → (a.ea ofs x (lowest i.act)).toNat < 2 ^ 57 → s.dev.slotOf i.blk (a.ea ofs x (lowest i.act)).toNat = some (0, o) → o + 64 ≤ (s.dev.block i.blk).scrsz →
      (s.at' i x).readErr (.scratch i.blk o) = none → (s.dev.copies.filter (·.core == i.core)).length < 128 →
      (s.at' i x).copyCheck i ((s.at' i x).copyOf i x 1 o) (a.ea ofs x (lowest i.act)) = none →
      Leaves (.gath h a ofs) 0x601 s i ((s.at' i x).copyTake i ((s.at' i x).copyOf i x 1 o)) (.long .none [] false none false) 1 (fun _ => none)) ∧
  (∀ (h : Ctl) (a : Src) (ofs : BitVec 16) (s : State) (i : Iss) (x : Wave) (o : Nat) (k : BitVec 8), Goes h { Req.none with srcs := a.rng 2 } s i x → i.act ≠ 0 → (a.ea ofs x (lowest i.act)).toNat % 64 = 0 → (a.ea ofs x (lowest i.act)).toNat < 2 ^ 57 → s.dev.slotOf i.blk (a.ea ofs x (lowest i.act)).toNat = some (0, o) → o + 64 ≤ (s.dev.block i.blk).scrsz →
    (s.at' i x).readErr (.scratch i.blk o) = some k →
    LeavesWave (.gath h a ofs) 0x601 s i x (.long .none [] true (some (mkDetail k 0x601 (a.ea ofs x (lowest i.act)))) false) 1 (fun _ => none)) ∧
  (∀ (h : Ctl) (a : Src) (ofs : BitVec 16) (s : State) (i : Iss) (x : Wave), Goes h { Req.none with srcs := a.rng 2 } s i x → i.act ≠ 0 → (a.ea ofs x (lowest i.act)).toNat % 64 = 0 → 2 ^ 57 ≤ (a.ea ofs x (lowest i.act)).toNat →
    Faults (.gath h a ofs) s i (s.at' i x) 9 (a.ea ofs x (lowest i.act)) (BitVec.ofNat 64 (i.act.toNat + 2 ^ 32 * 7 + 2 ^ 36 * Acc.read.code)) 0 0) ∧
  (∀ (h : Ctl) (a : Src) (ofs : BitVec 16) (s : State) (i : Iss) (x : Wave), Goes h { Req.none with srcs := a.rng 2 } s i x →
    if i.act = 0 then LeavesWave (.scat h a ofs) 0x602 s i x (.long .none [] true none false) 1 (fun _ => none)
    else ∀ o, (a.ea ofs x (lowest i.act)).toNat % 64 = 0 → (a.ea ofs x (lowest i.act)).toNat < 2 ^ 57 → s.dev.slotOf i.blk (a.ea ofs x (lowest i.act)).toNat = some (0, o) → o + 64 ≤ (s.dev.block i.blk).scrsz →
      (s.at' i x).readErr (.scratch i.blk o) = none → (s.dev.copies.filter (·.core == i.core)).length < 128 →
      (s.at' i x).copyCheck i ((s.at' i x).copyOf i x 2 o) (a.ea ofs x (lowest i.act)) = none →
      Leaves (.scat h a ofs) 0x602 s i ((s.at' i x).copyTake i ((s.at' i x).copyOf i x 2 o)) (.long .none [] false none false) 1 (fun _ => none)) ∧
  (∀ (h : Ctl) (a : Src) (ofs : BitVec 16) (s : State) (i : Iss) (x : Wave) (o : Nat) (k : BitVec 8), Goes h { Req.none with srcs := a.rng 2 } s i x → i.act ≠ 0 → (a.ea ofs x (lowest i.act)).toNat % 64 = 0 → (a.ea ofs x (lowest i.act)).toNat < 2 ^ 57 → s.dev.slotOf i.blk (a.ea ofs x (lowest i.act)).toNat = some (0, o) → o + 64 ≤ (s.dev.block i.blk).scrsz →
    (s.at' i x).readErr (.scratch i.blk o) = some k →
    LeavesWave (.scat h a ofs) 0x602 s i x (.long .none [] true (some (mkDetail k 0x602 (a.ea ofs x (lowest i.act)))) false) 1 (fun _ => none)) ∧
  (∀ (h : Ctl) (a : Src) (ofs : BitVec 16) (s : State) (i : Iss) (x : Wave), Goes h { Req.none with srcs := a.rng 2 } s i x → i.act ≠ 0 → (a.ea ofs x (lowest i.act)).toNat % 64 = 0 → 2 ^ 57 ≤ (a.ea ofs x (lowest i.act)).toNat →
    Faults (.scat h a ofs) s i (s.at' i x) 9 (a.ea ofs x (lowest i.act)) (BitVec.ofNat 64 (i.act.toNat + 2 ^ 32 * 7 + 2 ^ 36 * Acc.read.code)) 0 0) ∧
  (∀ (h : Ctl) (a : Src) (ofs : BitVec 16) (s : State) (i : Iss) (x : Wave), Goes h { Req.none with srcs := a.rng 2 } s i x →
    if i.act = 0 then LeavesWave (.mcast h a ofs) 0x603 s i x (.long .none [] true none false) 1 (fun _ => none)
    else ∀ o, (a.ea ofs x (lowest i.act)).toNat % 64 = 0 → (a.ea ofs x (lowest i.act)).toNat < 2 ^ 57 → s.dev.slotOf i.blk (a.ea ofs x (lowest i.act)).toNat = some (0, o) → o + 64 ≤ (s.dev.block i.blk).scrsz →
      (s.at' i x).readErr (.scratch i.blk o) = none → (s.dev.copies.filter (·.core == i.core)).length < 128 →
      (s.at' i x).copyCheck i ((s.at' i x).copyOf i x 3 o) (a.ea ofs x (lowest i.act)) = none →
      Leaves (.mcast h a ofs) 0x603 s i ((s.at' i x).copyTake i ((s.at' i x).copyOf i x 3 o)) (.long .none [] false none false) 1 (fun _ => none)) ∧
  (∀ (h : Ctl) (a : Src) (ofs : BitVec 16) (s : State) (i : Iss) (x : Wave) (o : Nat) (k : BitVec 8), Goes h { Req.none with srcs := a.rng 2 } s i x → i.act ≠ 0 → (a.ea ofs x (lowest i.act)).toNat % 64 = 0 → (a.ea ofs x (lowest i.act)).toNat < 2 ^ 57 → s.dev.slotOf i.blk (a.ea ofs x (lowest i.act)).toNat = some (0, o) → o + 64 ≤ (s.dev.block i.blk).scrsz →
    (s.at' i x).readErr (.scratch i.blk o) = some k →
    LeavesWave (.mcast h a ofs) 0x603 s i x (.long .none [] true (some (mkDetail k 0x603 (a.ea ofs x (lowest i.act)))) false) 1 (fun _ => none)) ∧
  (∀ (h : Ctl) (a : Src) (ofs : BitVec 16) (s : State) (i : Iss) (x : Wave), Goes h { Req.none with srcs := a.rng 2 } s i x → i.act ≠ 0 → (a.ea ofs x (lowest i.act)).toNat % 64 = 0 → 2 ^ 57 ≤ (a.ea ofs x (lowest i.act)).toNat →
    Faults (.mcast h a ofs) s i (s.at' i x) 9 (a.ea ofs x (lowest i.act)) (BitVec.ofNat 64 (i.act.toNat + 2 ^ 32 * 7 + 2 ^ 36 * Acc.read.code)) 0 0) ∧
  (∀ (h : Ctl) (d : Opnd) (a : Src) (ofs : BitVec 16) (s : State) (i : Iss) (x : Wave), Goes h { Req.none with srcs := a.rng 2, dsts := d.rng 4 } s i x →
    if i.act = 0 then LeavesWave (.cpyq h d a ofs) 0x604 s i x (.long (d.dest 4) [] true none false) 1 (fun _ => none)
    else ∀ o, (a.ea ofs x (lowest i.act)).toNat % 64 = 0 → (a.ea ofs x (lowest i.act)).toNat < 2 ^ 57 → s.dev.slotOf i.blk (a.ea ofs x (lowest i.act)).toNat = some (0, o) → o + 64 ≤ (s.dev.block i.blk).scrsz →
      LeavesWave (.cpyq h d a ofs) 0x604 s i x (.long (d.dest 4) (forAll i (Report.words ((s.dev.block i.blk).reports.get none o))) true none false) 1 (fun _ => none))

/-- MMA, MMAP, ACCSC, ACCZ, ACCRD, ACCWR, ACCLD and ACCST, issued by every thread of the wave that is not DONE, with operands that pass their checks and fewer than 16 operations outstanding on each of their tiles, join the order of their tiles with the operands read at issue; ACCRD and ACCST leave their destinations and memory alone until their rows commit. The place of the data error among the checks is the model's choice (log 52). -/
def Obligations.MatrixOperationsQueue : Prop :=
  (∀ (h : Ctl) (d : Opnd) (a b c : Src) (ty : BitVec 3) (be5 : Bool) (kq : BitVec 10) (za : Bool) (s : State) (i : Iss) (x : Wave), Goes h { Req.none with srcs := a.rng 2 ++ b.rng 2 ++ c.rng 1, tiles := mmaTiles d ty } s i x →
    Takes (.mma h d a b c ty be5 kq za) 0x680 s i x .none ({ matOp (s.at' i x) i 0 d.idx with
      tile2 := if ty.toNat = 5 then some ((s.dev.block i.blk).accB + d.idx + 1) else none, ty := ty.toNat, be5 := be5, kq := kq.toNat, za := za
      xa := a.x x (lowest i.act), xb := b.x x (lowest i.act), c := c.w x (lowest i.act) })) ∧
  (∀ (h : Ctl) (d : Opnd) (a b c : Src) (ty : BitVec 3) (be5 : Bool) (kq : BitVec 10) (za : Bool) (s : State) (i : Iss) (x : Wave), Goes h { Req.none with srcs := a.rng 2 ++ b.rng 2 ++ c.rng 1, tiles := mmaTiles d ty } s i x →
    Takes (.mmap h d a b c ty be5 kq za) 0x681 s i x .none ({ matOp (s.at' i x) i 1 d.idx with
      tile2 := if ty.toNat = 5 then some ((s.dev.block i.blk).accB + d.idx + 1) else none, ty := ty.toNat, be5 := be5, kq := kq.toNat, za := za
      xa := a.x x (lowest i.act), xb := b.x x (lowest i.act), c := c.w x (lowest i.act) })) ∧
  (∀ (h : Ctl) (d : Opnd) (a b c : Src) (s : State) (i : Iss) (x : Wave), Goes h { Req.none with srcs := b.rng 2 ++ c.rng 1, tiles := [d.idx, a.o.idx] } s i x →
    Takes (.accsc h d a b c) 0x682 s i x .none ({ matOp (s.at' i x) i 2 d.idx with
      tile2 := if a.o.idx = d.idx then none else some ((s.dev.block i.blk).accB + a.o.idx), xa := b.x x (lowest i.act), c := scaleBits c x (lowest i.act) })) ∧
  (∀ (h : Ctl) (d : Opnd) (s : State) (i : Iss) (x : Wave), Goes h { Req.none with tiles := [d.idx] } s i x →
    Takes (.accz h d) 0x683 s i x .none (matOp (s.at' i x) i 3 d.idx)) ∧
  (∀ (h : Ctl) (d : Opnd) (a b : Src) (s : State) (i : Iss) (x : Wave), Goes h { Req.none with srcs := b.rng 1, dsts := d.rng 4, tiles := [a.o.idx], out := some a.o.idx } s i x →
    Takes (.accrd h d a b) 0x684 s i x (d.dest 4) ({ matOp (s.at' i x) i 4 a.o.idx with c := b.w x (lowest i.act) })) ∧
  (∀ (h : Ctl) (d : Opnd) (a b : Src) (s : State) (i : Iss) (x : Wave), Goes h { Req.none with srcs := a.rng 1 ++ b.rng 4, tiles := [d.idx] } s i x →
    Takes (.accwr h d a b) 0x685 s i x .none ({ matOp (s.at' i x) i 5 d.idx with
      c := a.w x (lowest i.act), data := (lanesOf i.act).flatMap (fun l => (List.range 4).map (fun e => (4 * l + e, x.reg l (b.o.idx + e)))) })) ∧
  (∀ (h : Ctl) (d : Opnd) (a : Src) (str : BitVec 16) (s : State) (i : Iss) (x : Wave), Goes h { Req.none with srcs := a.rng 2, tiles := [d.idx] } s i x →
    Takes (.accld h d a str) 0x686 s i x .none ({ matOp (s.at' i x) i 6 d.idx with xa := a.x x (lowest i.act), c := str.setWidth 32 })) ∧
  (∀ (h : Ctl) (a b : Src) (str : BitVec 16) (s : State) (i : Iss) (x : Wave), Goes h { Req.none with srcs := b.rng 2, tiles := [a.o.idx], out := some a.o.idx } s i x →
    Takes (.accst h a b str) 0x687 s i x .none ({ matOp (s.at' i x) i 7 a.o.idx with xa := b.x x (lowest i.act), c := str.setWidth 32 }))

/-- In a launch with a binding, COLL leaves a contribution to a chunk for the engine, or completes with error 9 outside the view; VIEWQ answers a word of the view, or its tag and size; AMSEND sends one record for each lane whose target can be addressed; ARRQ takes the oldest arrival, waits for one, or answers 0x8000_0000. What AMSEND checks without a binding is the model's reading (log 35). -/
def Obligations.CollectiveInstructions : Prop :=
  (∀ (h : Ctl) (d : Opnd) (a b : Src) (ofs : BitVec 16) (s : State) (i : Iss) (x : Wave), Goes h { Req.none with srcs := a.rng 2 ++ b.rng 1, dsts := d.rng 2 } s i x →
    if i.act = 0 then LeavesWave (.coll h d a b ofs) 0x700 s i x (.long (d.dest 2) [] true none true) 1 (fun _ => none)
    else ∀ k y, s.dev.bidOf i.slot = some (k, y) → (b.w x (lowest i.act)).toNat < y.nch →
      if y.st = .isolated ∨ y.st = .candidate then Leaves (.coll h d a b ofs) 0x700 s i (s.at' i x) (.long (d.dest 2) [] true (some (mkDetail 9 0x700 (a.ea ofs x (lowest i.act)))) true) 1 (fun _ => none)
      else Leaves (.coll h d a b ofs) 0x700 s i
        (((s.at' i x).releaseOf i.core i.asid 4).withD fun e => e.setBinding k { y with
          colls := y.colls ++ [⟨x.uid, i.opid, (b.w x (lowest i.act)).toNat, (a.ea ofs x (lowest i.act)), x.wseq, false, e.clkVec (dieOf i.core)⟩] })
        (.long (d.dest 2) [] false none true) 1 (fun _ => none)) ∧
  (∀ (h : Ctl) (d : Opnd) (b : Src) (sl : Bool) (s : State) (i : Iss) (x : Wave), Goes h { Req.none with srcs := b.rng 1, dsts := d.rng 2 } s i x →
    if i.act = 0 then LeavesWave (.viewq h d b sl) 0x701 s i x (.long (d.dest 2) [] true none false) 1 (fun _ => none)
    else ∀ k y, s.dev.bidOf i.slot = some (k, y) →
      LeavesWave (.viewq h d b sl) 0x701 s i x (.long (d.dest 2) (valsOf i.act (fun _ =>
        if sl then (y.view.filter (fun r => r / 64 == (b.w x (lowest i.act)).toNat)).foldl (fun m r => m ||| 2 ^ (r % 64)) 0
        else y.tag.toNat + 2 ^ 32 * y.view.length)) true none false) 1 (fun _ => none)) ∧
  (∀ (h : Ctl) (a : Src) (b : Option Src) (c : Src) (nw : BitVec 4) (s : State) (i : Iss) (x : Wave), Goes h { Req.none with srcs := a.rng 2 ++ srcRng b nw.toNat ++ c.rng 1 } s i x → amBad a c i x = [] →
    let u := if i.act = 0 then s.at' i x else (s.at' i x).releaseOf i.core i.asid 4
    Leaves (.amsend h a b c nw) 0x702 s i (u.withD fun d => { d with transit := d.transit ++ ((s.at' i x).amGood i x c).map (amTransit ((s.dev.partOf i.asid).getD 0) i x a b c nw.toNat) })
      (.long .none [] ((s.at' i x).amGood i x c).isEmpty
        (((lanesOf i.act).find? (fun l => !((s.at' i x).amGood i x c).contains l)).map (fun l => mkDetail 10 0x702 (BitVec.ofNat 64 (amRank c x l)))) false)
      1 (fun _ => none)) ∧
  (∀ (h : Ctl) (d : Opnd) (blk : Bool) (s : State) (i : Iss) (x : Wave), Goes h { Req.none with dsts := d.rng 1 } s i x →
    if i.act = 0 then LeavesWave (.arrq h d blk) 0x703 s i x (.long (d.dest 1) (valsOf i.act (fun _ => 0)) true none blk) 1 (fun _ => none)
    else ∀ k y, s.dev.bidOf i.slot = some (k, y) →
      (∀ e es, y.queue = e :: es → Leaves (.arrq h d blk) 0x703 s i ((s.at' i x).withD (·.setBinding k { y with queue := es }))
        (.long (d.dest 1) (valsOf i.act (fun _ => e.toNat)) true none blk) 1 (fun _ => none)) ∧
      (y.queue = [] → if blk then Leaves (.arrq h d blk) 0x703 s i ((s.at' i x).withD (·.setBinding k { y with arrq := y.arrq ++ [(x.uid, i.opid)] }))
          (.long (d.dest 1) [] false none true) 1 (fun _ => none)
        else LeavesWave (.arrq h d blk) 0x703 s i x (.long (d.dest 1) (valsOf i.act (fun _ => 2 ^ 31)) true none false) 1 (fun _ => none)))

/-- An illegal word kills its wave and is recorded in sr.ctxerr; a result that is due is written; a claim is granted when its pool can serve it; an untracked memory error and a membership change are taken as traps at the next instruction; an arriving hop takes its stack word; the oldest complete operation on a token retires; a wave whose threads are all DONE, with nothing outstanding, ends; a wave that leaves cooperatively sends a SAVE record for each thread. When an event comes (log 1, log 18) and what still keeps an ended wave (log 32) are the model's. -/
def Obligations.WaveEventsHappen : Prop :=
  (∀ (s : State) (g : Lanes) (y : Wave),
    ((s.dev.wave s.dev.cur).landAt 0).choose = some (g, y) →
    (s.dev.wave s.dev.cur).live = true →
    Becomes (.illegalWord) s ((s.dev.setCtx (s.dev.block (s.dev.wave s.dev.cur).blk).asid { s.dev.ctx (s.dev.block (s.dev.wave s.dev.cur).blk).asid with
        ctxerr := ctxErr (s.dev.ctx (s.dev.block (s.dev.wave s.dev.cur).blk).asid).ctxerr (y.thread (lowest g)).pc }).killWave s.dev.cur)) ∧
  (∀ (w : Nat) (s : State),
    (s.dev.wave w).live = true →
    (∃ e ∈ (s.dev.wave w).pipe, (s.dev.wave w).ahead e = 0) →
    Becomes (.fixedLatencyWriteback w) s (s.dev.setWave w ((s.dev.wave w).landAt 0).settle)) ∧
  (∀ (w : Nat) (s : State) (n o : Nat) (d : Device),
    (s.dev.wave w).wait = .rclaim n o →
    (s.dev.wave w).live = true →
    (s.dev.wave w).parked = false →
    s.dev.claims (s.dev.wave w).blk ((s.dev.wave w).widx % 4) o = false →
    s.dev.claim w n = some d →
    Becomes (.rclaimGrant w) s (d.setWave w { d.wave w with wait := .ready })) ∧
  (∀ (w : Nat) (s : State) (d : Detail) (g act : Lanes) (pc : Addr) (t : St),
    (s.dev.wave w).live = true →
    (s.dev.wave w).asyncDue = true →
    (s.dev.wave w).parked = false →
    (s.dev.wave w).untracked = some d →
    (St.of s).boundary w = some (g, pc, act, t) →
    Writes (.asyncMemoryErrorTrap w) s ((t.withD fun e => e.setWave w { e.wave w with asyncDue := false, untracked := none }).takeTrap w
      ⟨27, act, g, pc, pc, 0, BitVec.ofNat 64 (d.kind.toNat + 2 ^ 8 * d.op.toNat), d.v2, d.v3⟩)) ∧
  (∀ (w : Nat) (s : State) (old new : W32) (n : Nat) (g act : Lanes) (pc : Addr) (t : St),
    (s.dev.wave w).membership = some (old, new, n) →
    (s.dev.wave w).live = true →
    (s.dev.wave w).parked = false →
    (s.dev.wave w).tokenFirst = false →
    (St.of s).boundary w = some (g, pc, act, t) →
    Writes (.membershipChangeTrap w) s ((t.withD fun d => d.setWave w { d.wave w with membership := none }).takeTrap w
      ⟨28, act, g, pc, pc, new ++ old, BitVec.ofNat 64 (min n 65535), 0, 0⟩)) ∧
  (∀ (w : Nat) (s : State) (ls : List Nat) (g act : Lanes) (pc : Addr) (t : St) (p : Nat → Place) (top : Nat → W64),
    (s.dev.wave w).live = true →
    (s.dev.wave w).parked = false →
    (s.dev.wave w).frame = none →
    ls = (List.range 32).filter (fun l => ((s.dev.wave w).thread l).arriving && ((s.dev.wave w).thread l).st == .run) →
    ls ≠ [] →
    (St.of s).boundary w = some (g, pc, act, t) →
    top = (fun l => (s.dev.launch (s.dev.block (s.dev.wave w).blk).slot).travelTop ((s.dev.wave w).thread l).workid) →
    (∀ l ∈ ls, t.stackAcc ((St.of s).arrivalIss w g pc) (top l) .read = .ok (p l)) →
    Writes (.hopArrival w) s (ls.foldl (fun t l => (t.load (w / 64) (p l) 8).2.withD fun d =>
      d.setWave w ((d.wave w).updThread l (fun y => y.arrive (top l) (BitVec.ofNat 64 (t.load (w / 64) (p l) 8).1)))) t)) ∧
  (∀ (w : Nat) (tok : Option (BitVec 4)) (s : State) (o : Op),
    w < 2 ^ 20 →
    (s.dev.wave w).live = true →
    (s.dev.wave w).oldestOp (tok.map (·.toNat)) = some o →
    o.done = true →
    (s.dev.wave w).pipeHolds o = false →
    Becomes (.operationRetire w tok) s ({ ((s.dev.setWave w ((s.dev.wave w).retireOp o).settle).freeCopy (s.dev.wave w).uid o.id) with
      mats := s.dev.mats.filter (fun m => !(m.uid == (s.dev.wave w).uid && m.op == o.id && m.ended)) })) ∧
  (∀ (w : Nat) (s : State),
    (s.dev.wave w).live = true →
    (s.dev.wave w).alive = 0 →
    (s.dev.wave w).ops = [] →
    (s.dev.wave w).frame = none →
    (s.dev.wave w).leaving = false →
    (∀ l ∈ s.dev.late, l.uid ≠ (s.dev.wave w).uid) →
    Becomes (.waveEnd w) s (if ((s.dev.dropWave w).wavesOf (s.dev.wave w).blk).isEmpty then (s.dev.dropWave w).blockOver (s.dev.wave w).blk else s.dev.dropWave w)) ∧
  (∀ (w : Nat) (s : State),
    (s.dev.wave w).live = true →
    (s.dev.wave w).leaving = true →
    Writes (.cooperativeLeave w) s (let x := s.dev.wave w
      let b := s.dev.block x.blk
      ((St.of s).releaseOf (w / 64) b.asid 4).withD fun d => ({ d with transit := d.transit ++ (lanesOf x.alive).map (fun l => (⟨mkRec (x.thread l).pc.toNat 0 (x.thread l).workid.toNat b.slot 7 b.idem b.prio 0
          ((List.range 11).map (fun i => if i < x.alloc then x.reg l i else 0)), w / 64, x.uid, x.wseq, x.opn, none, none, false, true, false, d.clkVec (dieOf (w / 64)), w / 64, 0, false⟩ : Transit)) }.setWave w
        { (lanesOf x.alive).foldl (fun (x : Wave) l => x.endLane l) x with leaving := false }).setBlock x.blk { b with left := true }))

/-- Foxglove resolves, resumes, delivers or kills a parked wave, and refuses a system call of no service as it resumes; the host runtime aborts a launch. The debugger reads and writes an item of a parked wave, by force too, steps, resumes and kills it, and answers NOTSTOPPED for a wave that is not parked. The debugger's items and their values, empty ones among them, are the model's choice (log 34, log 67), and that an event whose rule does not apply changes nothing is its reading (log 30). -/
def Obligations.ParkedAndDebugged : Prop :=
  (∀ (w : Nat) (ok : Bool) (s : State),
    (s.dev.wave w).live = true →
    (s.dev.wave w).parked = true →
    routeOf (s.dev.wave w).latched.1 = 2 →
    ok = true →
    Becomes (.faultResolve w ok) s (s.dev.setWave w (s.dev.wave w).resume)) ∧
  (∀ (w : Nat) (s : State),
    (s.dev.wave w).live = true →
    (s.dev.wave w).parked = true →
    (s.dev.wave w).latched.1 ≠ 34 →
    Becomes (.parkedWaveResume w) s (s.dev.setWave w (s.dev.wave w).resume)) ∧
  (∀ (w : Nat) (s : State) (r : Record),
    (s.dev.wave w).live = true →
    (s.dev.wave w).parked = true →
    (s.dev.wave w).latch = some r →
    r.cause = 34 →
    r.v0.toNat % 65536 = 0 ∨ 4 < r.v0.toNat % 65536 →
    Becomes (.parkedWaveResume w) s (s.dev.setWave w ((lanesOf r.active).foldl (fun x l => x.setReg l 0 0x80000001) (s.dev.wave w)).resume)) ∧
  (∀ (w : Nat) (s : State) (r : Record),
    (s.dev.wave w).live = true →
    (s.dev.wave w).parked = true →
    (s.dev.wave w).latch = some r →
    (s.dev.wave w).handler ≠ 0 →
    (s.dev.wave w).fault ≠ 0 →
    (s.dev.wave w).frame = none →
    Writes (.parkedWaveDeliver w) s ((St.of s).deliver w { r with failed := false } (maskLanes (fun l => ((s.dev.wave w).thread l).st == .run && ((s.dev.wave w).thread l).pc == r.pc)))) ∧
  (∀ (w : Nat) (s : State),
    (s.dev.wave w).live = true →
    (s.dev.wave w).parked = true →
    Becomes (.parkedWaveKill w) s (s.dev.killWave w)) ∧
  (∀ (slot : Nat) (s : State),
    (s.dev.launch slot).used = true →
    (s.dev.launch slot).aborted = false →
    Writes (.launchAbort slot) s ((St.of s).abortLaunch slot)) ∧
  (∀ (w : Nat) (item : Item) (s : State),
    (s.dev.wave w).live = true →
    (s.dev.wave w).parked = true →
    (St.of s).itemOk w item = true →
    Becomes (.debugRead w item) s (s.dev.dbgSay (BitVec.ofNat 64 ((St.of s).itemGet w item)) 0)) ∧
  (∀ (w : Nat) (item : Item) (v : BitVec 64) (s : State),
    (s.dev.wave w).live = true →
    (s.dev.wave w).parked = true →
    (St.of s).itemOk w item = true →
    (s.dev.wave w).itemBusy item = false →
    Writes (.debugWrite w item v) s (((St.of s).itemPut w item v).withD (·.dbgSay 0 0))) ∧
  (∀ (w : Nat) (item : Item) (v : BitVec 64) (s : State),
    (s.dev.wave w).live = true →
    (s.dev.wave w).parked = true →
    (St.of s).itemOk w item = true →
    Writes (.debugWriteForce w item v) s ((((St.of s).withD (fun d => d.setWave w ((d.wave w).dropPending item))).itemPut w item v).withD (·.dbgSay 0 0))) ∧
  (∀ (w : Nat) (s : State),
    (s.dev.wave w).live = true →
    (s.dev.wave w).parked = true →
    Becomes (.debugStep w) s ((s.dev.setWave w { (s.dev.wave w).resume with stepping := true }).dbgSay 0 0)) ∧
  (∀ (w : Nat) (s : State),
    (s.dev.wave w).live = true →
    (s.dev.wave w).parked = true →
    Becomes (.debugResume w) s ((s.dev.setWave w (s.dev.wave w).resume).dbgSay 0 0)) ∧
  (∀ (w : Nat) (s : State),
    (s.dev.wave w).live = true →
    (s.dev.wave w).parked = true →
    Becomes (.debugKill w) s ((s.dev.killWave w).dbgSay 0 0)) ∧
  (∀ (w : Nat) (item : Item) (s : State), (s.dev.wave w).live = false ∨ (s.dev.wave w).parked = false →
    Becomes (.debugRead w item) s (s.dev.dbgSay 0 2))

/-- A write is acknowledged or confirmed and leaves the counts that wait for it; a message whose turn it is is applied at its die and a beacon carries a die's count; the slice pushes a copy that it evicts; Foxglove discards a held line, changes translations, creates and tears down contexts, and collects their errors. That the oldest performed write is acknowledged first (log 18), how clocks and messages between dies go (log 28), and that a confirmation clears the retries (log 36) are the model's. -/
def Obligations.MemoryEventsHappen : Prop :=
  (∀ (w : Nat) (s : State) (o : OutW),
    w < 2 ^ 20 →
    (s.dev.wave w).live = true →
    oldestWrite false (s.dev.wave w).outw = some o →
    Becomes (.writeAcknowledge w) s (s.dev.setWave w ((s.dev.wave w).ackWrite o))) ∧
  (∀ (w : Nat) (s : State) (o : OutW),
    s.dev.link ≠ .down →
    w < 2 ^ 20 →
    (s.dev.wave w).live = true →
    oldestWrite true (s.dev.wave w).outw = some o →
    Becomes (.hostWriteConfirm w) s ({ s.dev.setWave w ((s.dev.wave w).ackWrite o) with retries := 0 })) ∧
  (∀ (w : Nat) (s : State),
    s.dev.link = .down →
    Becomes (.hostWriteConfirm w) s (s.dev)) ∧
  (∀ (x : Wave) (o : OutW), (x.ackWrite o).outw = x.outw.filter (fun p => p.seq ≠ o.seq) ∧ (x.ackWrite o).toks = x.toks ∧ (x.ackWrite o).pend = x.pend) ∧
  (∀ (x : Wave) (o : OutW) (p : Op), p ∈ x.ops → o.op = some p.id → (∀ q ∈ x.outw, q.seq ≠ o.seq → q.op ≠ o.op) → { p with done := true } ∈ (x.ackWrite o).ops) ∧
  (∀ (n : Nat) (s : State) (m : Msg),
    s.dev.readyMsgs[n]? = some m →
    Becomes (.vectorClockReceive n) s (s.dev.applyMsg m (s.dev.msgs.erase m))) ∧
  (∀ (die : Nat) (s : State),
    die < 4 →
    Becomes (.beacon die) s ({ s.dev with
      applied := ((List.range 4).filter (fun e => e != die && !s.dev.msgs.any (fun m => m.src == die && m.dst == e))).foldl
        (fun t e => t.put (4 * e + die) (max (t.get 0 (4 * e + die)) (s.dev.clkOf die die))) s.dev.applied })) ∧
  (∀ (cl line : Nat) (s : State) (l : Local),
    s.dev.localOf cl line = some l →
    Writes (.scopeLocalCopyEviction cl line) s ((St.of s).pushLocal l true)) ∧
  (∀ (cl n : Nat) (s : State) (h : Held),
    (s.dev.fbuf.filter (·.cl == cl))[n]? = some h →
    Becomes (.faultBufferDiscard cl n) s ({ s.dev with fbuf := s.dev.fbuf.erase h })) ∧
  (∀ (asid : BitVec 16) (va : BitVec 64) (size : Nat) (s : State),
    (s.dev.ctx asid.toNat).live = true →
    Becomes (.translationChange asid va size) s (((St.of s).changed asid.toNat va.toNat size).d)) ∧
  (∀ (u : St) (asid va size : Nat), ∀ t ∈ (u.changed asid va size).d.tlb, t.meets asid va size = false) ∧
  (∀ (u : St) (asid va size : Nat) (t : Tlb), t ∈ u.d.tlb → t.meets asid va size = false → t ∈ (u.changed asid va size).d.tlb) ∧
  (∀ (u : St) (asid va size ln : Nat) (p : Park), u.d.parks.get none ln = some p → p.asid = asid → va < 128 * (p.vline + 1) → 128 * p.vline < va + size →
    u.mapsTo asid (128 * p.vline) ln = false → (u.changed asid va size).d.parks.get none ln = none) ∧
  (∀ (asid : BitVec 16) (root win : BitVec 64) (q1 q2 q3 : Nat) (s : State),
    (s.dev.ctx asid.toNat).live = false →
    win.toNat % 2 ^ 26 = 0 →
    win.toNat < 2 ^ 57 →
    q1 ≤ 4 →
    q2 ≤ 8 →
    q3 ≤ 8 →
    Becomes (.contextCreate asid root win q1 q2 q3) s (s.dev.setCtx asid.toNat { Context.none with
      live := true, roots := (List.range 4).map (fun k => (k, root)), window := win, q1 := q1, q2 := q2, q3 := q3 })) ∧
  (∀ (asid : BitVec 16) (s : State),
    (s.dev.ctx asid.toNat).live = true →
    (∀ e ∈ s.dev.launches, e.2.used = true → e.2.asid ≠ asid.toNat) →
    Writes (.contextTeardown asid) s (((s.dev.locals.filter (·.asid == asid.toNat)).foldl (fun u l => u.pushLocal l false) (St.of s)).withD fun d =>
      let d := ((d.parks.filter (fun e => e.2.any (·.asid == asid.toNat))).map (·.1)).foldl (fun d ln => d.goHome ln) d
      { d with
      contexts := d.contexts.del asid.toNat
      tlb := d.tlb.filter (·.asid != asid.toNat), iblocks := d.iblocks.filter (·.asid != asid.toNat), fbuf := d.fbuf.filter (·.asid != asid.toNat) })) ∧
  (∀ (asid : BitVec 16) (s : State),
    (s.dev.ctx asid.toNat).live = true →
    Becomes (.contextErrorCollection asid) s (s.dev.setCtx asid.toNat { s.dev.ctx asid.toNat with ctxerr := 0 }))

/-- The oldest waiting copy of a core becomes active; an active copy lands its next segment, settles its deliveries and completes with its report; a walk of it that failed goes on or fails it; a chained command starts, the matrix unit starts its oldest operation at the head of its tiles, commits row by row, and ends with an error that a row meets. The error kinds and the pipes of rows that meet an error (log 24, log 66), the record as it stood at the issue (log 48), and when an event comes (log 1, log 18) are the model's. -/
def Obligations.EngineEventsHappen : Prop :=
  (∀ (core : Nat) (s : State) (c : Copy),
    s.dev.stopped = false →
    ((s.dev.copies.filter (·.core == core)).filter (·.active)).length < 16 →
    (s.dev.copies.filter (·.core == core)).find? (fun c => !c.active && !c.landed) = some c →
    s.dev.acked c.uid c.need = true →
    s.dev.bound c.uid c.op = true →
    Becomes (.copyActivate core) s (s.dev.setCopy { c with active := true, sentAt := s.dev.clock.toNat })) ∧
  (∀ (cp : Nat) (s : State) (c x : Copy) (sr ds : Nat),
    s.dev.copy cp = some c →
    c.active = true →
    c.walk = none →
    s.dev.stopped = false →
    c.row < c.rows →
    (∀ e ∈ c.deliveries, ∀ w, e.2 ≠ .sent w) →
    (St.of s).idxStops c = none →
    x = { c with idxv := if c.kind = 1 ∨ c.kind = 2 then (St.of s).copyIdx c c.row else none } →
    (St.of s).copySrc x c.row = some sr →
    (St.of s).copyDst x c.row = some ds →
    Writes (.segmentLanded cp) s ((St.of s).segmentDo x sr ds)) ∧
  (∀ (u : St) (c : Copy) (sr ds v : Nat), c.kind = 0 → u.srcBytes c ((sr + c.seg) % 2 ^ 64) (segLen ds c.rowlen c.seg) = .ok v →
    u.segmentDo c sr ds = (u.srcTouch c ((sr + c.seg) % 2 ^ 64) (segLen ds c.rowlen c.seg)).segmentAt c ds ((ds + c.seg) % 2 ^ 64) (segLen ds c.rowlen c.seg) v) ∧
  (∀ (u : St) (c : Copy) (ds dva n v pa : Nat) (pte : W64) (t : Option (Nat × Nat)), u.locate c.blk (BitVec.ofNat 64 dva) .write = .ok (.dev pa pte) →
    u.writeErr (.dev pa pte) = none → u.rowTile c ds = .ok t →
    let z := t.toList.foldl (fun z e => z.withD (·.nfillUp e.1 e.2)) u
    let r := (z.cacheTlb (sliceOf c.core) (u.d.block c.blk).asid dva).landAt { c with fills := c.fills ++ t.toList } dva (.dev pa pte) n v
    let q := r.2.copyCount r.1 n
    u.segmentAt c ds dva n v = q.2.copyStep (q.1.next n)) ∧
  (∀ (cp : Nat) (ok : Bool) (s : State) (c : Copy),
    s.dev.copy cp = some c →
    c.walk.isSome = true →
    ok = true →
    Becomes (.engineWalkFailure cp ok) s (s.dev.setCopy { c with walk := none })) ∧
  (∀ (cp : Nat) (ok : Bool) (s : State) (c : Copy) (va : W64),
    s.dev.copy cp = some c →
    c.walk = some va →
    ok = false →
    Writes (.engineWalkFailure cp ok) s ((St.of s).copyFail c (c.detail 5 va.toNat))) ∧
  (∀ (cp ws : Nat) (s : State) (c : Copy) (y : Window) (k : Nat),
    s.dev.copy cp = some c →
    c.active = true →
    c.deliveries.lookup ws = some (.sent y) →
    s.dev.clock.toNat - c.sentAt ≤ 13600 →
    (St.of s).mcastAccept c y (ws == 0) = some (k, none) →
    Becomes (.mcastDelivery cp ws) s (s.dev.setCopy { c with deliveries := c.deliveries.put ws (.accepted k) })) ∧
  (∀ (cp ws : Nat) (s : State) (c : Copy) (y : Window) (k t : Nat),
    s.dev.copy cp = some c →
    c.active = true →
    c.deliveries.lookup ws = some (.sent y) →
    s.dev.clock.toNat - c.sentAt ≤ 13600 →
    (St.of s).mcastAccept c y (ws == 0) = some (k, some t) →
    c.fills.contains (k, t) = false →
    Becomes (.mcastDelivery cp ws) s ((s.dev.nfillUp k t).setCopy { c with deliveries := c.deliveries.put ws (.accepted k), fills := c.fills ++ [(k, t)] })) ∧
  (∀ (cp ws : Nat) (s : State) (c : Copy) (y : Window),
    s.dev.copy cp = some c →
    c.active = true →
    c.deliveries.lookup ws = some (.sent y) →
    (St.of s).mcastAccept c y (ws == 0) = none ∨ 13600 < s.dev.clock.toNat - c.sentAt →
    Becomes (.mcastDelivery cp ws) s (s.dev.setCopy { c with deliveries := c.deliveries.put ws .missed })) ∧
  (∀ (cp ws : Nat) (s : State) (c : Copy) (y : Window),
    s.dev.copy cp = some c →
    c.active = true →
    c.deliveries.lookup ws = some (.sent y) →
    13600 < s.dev.clock.toNat - c.sentAt →
    Becomes (.mcastDeliveryTimeout cp ws) s (s.dev.setCopy { c with deliveries := c.deliveries.put ws .missed })) ∧
  (∀ (cp : Nat) (s : State) (c : Copy),
    s.dev.copy cp = some c →
    c.landed = true →
    c.chained = false →
    s.dev.opDone c.uid c.op = false →
    c.err = none →
    (∀ e ∈ c.deliveries, e.2 ≠ .missed) →
    Becomes (.copyComplete cp) s (((s.dev.setCopy c).reportCopy c true).updOp c.uid c.op (fun o => { o with done := true, err := none }))) ∧
  (∀ (core tile : Nat) (s : State) (m : MatOp) (c : Copy) (ts : List (Nat × Nat × Nat)),
    s.dev.mats.find? (fun m => m.core == core && m.on tile && !m.ended) = some m →
    m.chain.bind s.dev.copy = some c →
    m.go = false →
    c.landed = true →
    s.dev.atHead m = true →
    s.dev.stopped = false →
    (St.of s).matTiles m = some ts →
    (∀ t ∈ ts, t.2.2 = 2) →
    Becomes (.chainedCommandStart core tile) s ((ts.foldl (fun d t => d.updTile t.1 t.2.1 (fun x => { x with nrd := x.nrd + 1 })) s.dev).setMat
      { m with go := true, reads := ts.map (fun t => (t.1, t.2.1)) })) ∧
  (∀ (core : Nat) (s : State) (m : MatOp),
    s.dev.stopped = false →
    (∀ m ∈ s.dev.mats, m.core = core → m.started = true → m.ended = true ∨ m.start + m.kc ≤ s.dev.clock.toNat) →
    (St.of s).arrayStalled core = false →
    (s.dev.mats.filter (·.core == core)).find? (fun m => !m.started && !m.ended && m.go && s.dev.atHead m && (m.selfFed || (s.dev.acked m.uid m.need && s.dev.bound m.uid m.op))) = some m →
    Becomes (.matrixOpStart core) s (s.dev.setMat { m with started := true, start := s.dev.clock.toNat, r0 := m.row })) ∧
  (∀ (core tile : Nat) (s : State) (m : MatOp) (es : List (Nat × Nat × Nat)),
    s.dev.mats.find? (fun m => m.core == core && m.on tile && m.started && !m.ended) = some m →
    m.due s.dev.clock.toNat = true →
    s.dev.stopped = false →
    s.dev.rowBad m = false →
    (St.of s).arrayStalled core = false →
    m.kind ≠ 4 →
    m.kind ≠ 7 →
    (St.of s).rowNew m m.row = .ok es →
    Writes (.rowCommit core tile) s (let u := (es.foldl (fun u e => u.wrN e.1 e.2.1 e.2.2) (St.of s)).withD fun d => { d with
        badAcc := d.badAcc.filter (fun a => !es.any (fun e => e.1 ≤ a && a < e.1 + e.2.1)) }
      let u := u.unitsTouch m (if m.kind = 6 then rowPipe m.row else 0) (m.aRow m.row)
      (if m.kind ≤ 1 && m.row = m.r0 then ((List.range m.k).map m.bRow).foldl (fun u r => u.unitsTouch m 1 r) u else u).rowDone m)) ∧
  (∀ (core tile : Nat) (s : State) (m : MatOp),
    s.dev.mats.find? (fun m => m.core == core && m.on tile && m.started && !m.ended) = some m →
    m.due s.dev.clock.toNat = true →
    s.dev.stopped = false →
    s.dev.rowBad m = false →
    (St.of s).arrayStalled core = false →
    m.kind = 4 →
    Writes (.rowCommit core tile) s (((St.of s).withD (·.updOp m.uid m.op (fun o => { o with vals := (St.of s).readOut m }))).rowDone m)) ∧
  (∀ (core tile : Nat) (s : State) (m : MatOp) (ws : List (Place × Nat × Nat)),
    s.dev.mats.find? (fun m => m.core == core && m.on tile && m.started && !m.ended) = some m →
    m.due s.dev.clock.toNat = true →
    s.dev.stopped = false →
    s.dev.rowBad m = false →
    (St.of s).arrayStalled core = false →
    m.kind = 7 →
    (St.of s).rowStores m m.row = .ok ws →
    Writes (.rowCommit core tile) s (let u := ((St.of s).storeAll core ws).withD (·.updWave m.uid (·.landWrite m.op (some false)))
      let u := (linesIn (m.stRow m.row) 512).foldl (fun u va => match u.unitAt m (rowPipe m.row) (va % 2 ^ 64) .write with
        | .ok p => u.keepPipe m (rowPipe m.row) (va % 2 ^ 64) p
        | .error _ => u) u
      let t := ws.foldl (fun (t : Tab Nat × St) w => t.2.markWrote t.1 (w.1.key t.2.d) 16) (m.wrote, u)
      t.2.rowDone { m with wrote := t.1 })) ∧
  (∀ (u : St) (m : MatOp), (u.rowDone m) = u.withD (fun d => if m.row + 1 < m.rows then d.setMat { m with row := m.row + 1 } else (d.setMat { m with row := m.row + 1 }).matEnd { m with row := m.row + 1 } none)) ∧
  (∀ (core tile : Nat) (kind : BitVec 8) (s : State) (m : MatOp) (e : RowErr),
    s.dev.mats.find? (fun m => m.core == core && m.on tile && m.started && !m.ended) = some m →
    m.chain = none →
    (St.of s).rowErr m = some e →
    e.kind = kind.toNat →
    Becomes (.matrixLoadError core tile kind) s (s.dev.matEnd m (some { mkDetail kind (BitVec.ofNat 12 (0x680 + m.kind)) (BitVec.ofNat 64 e.va) with
      v3 := BitVec.ofNat 64 (m.tile - (s.dev.block m.blk).accB + 2 ^ 8 * m.row) })))

/-- A distributor hands its next block to an OFFER entry or steals one; a slot of INQ is dequeued for it; it is bound when it fits, a formed wave first; Foxglove writes an entry that still holds what it expects; a leaving member is revoked, an ended block makes its contribution, enters OUTQ, and frees its slot; an ended launch frees its own; the head of a launch queue is admitted. The lowest free slot (log 9), Foxglove's rings (log 10), INQ data that an entry did not use (log 49), the ends of waves and blocks (log 32), the fit of an OFFER (log 39), a shared binding (log 40), the demand of a formed wave (log 64) and the entries that Foxglove keeps offered (log 65) are the model's. -/
def Obligations.BlocksComeAndGo : Prop :=
  (∀ (core entry : Nat) (s : State) (b : Nat),
    (s.dev.bind core entry).state = 1 →
    (s.dev.launch (s.dev.bind core entry).slot).open = true →
    (s.dev.launch (s.dev.bind core entry).slot).handed.get none (64 * core + entry) = none →
    s.dev.mayServe core (s.dev.bind core entry).slot = true →
    s.dev.stopped = false →
    (s.dev.launch (s.dev.bind core entry).slot).nextOf (dieOf core) = some b →
    s.dev.outranked core (s.dev.bind core entry).slot (fun l => (l.nextOf (dieOf core)).isSome) = false →
    Becomes (.blockHandout core entry) s (s.dev.setLaunch (s.dev.bind core entry).slot { ((s.dev.launch (s.dev.bind core entry).slot).take (dieOf core) b false) with handed := (s.dev.launch (s.dev.bind core entry).slot).handed.put (64 * core + entry) (some b) })) ∧
  (∀ (core entry : Nat) (s : State) (v b : Nat),
    (s.dev.bind core entry).state = 1 →
    (s.dev.launch (s.dev.bind core entry).slot).open = true →
    (s.dev.launch (s.dev.bind core entry).slot).handed.get none (64 * core + entry) = none →
    s.dev.mayServe core (s.dev.bind core entry).slot = true →
    s.dev.stopped = false →
    (s.dev.launch (s.dev.bind core entry).slot).nextOf (dieOf core) = none →
    [1, 2, 3].findSome? (fun k => ((s.dev.launch (s.dev.bind core entry).slot).lastOf ((dieOf core + k) % 4)).map (fun b => ((dieOf core + k) % 4, b))) = some (v, b) →
    Becomes (.steal core entry) s (s.dev.setLaunch (s.dev.bind core entry).slot { ((s.dev.launch (s.dev.bind core entry).slot).take v b true) with handed := (s.dev.launch (s.dev.bind core entry).slot).handed.put (64 * core + entry) (some b) })) ∧
  (∀ (core entry : Nat) (s : State) (hp : Place),
    (s.dev.bind core entry).state = 1 →
    (s.dev.launch (s.dev.bind core entry).slot).open = true →
    (s.dev.launch (s.dev.bind core entry).slot).inqA ≠ 0 →
    ((s.dev.launch (s.dev.bind core entry).slot).handed.get none (64 * core + entry)).isSome = true →
    (s.dev.launch (s.dev.bind core entry).slot).inq.get none (64 * core + entry) = none →
    s.dev.unitAsked false (64 * core + entry) = false →
    (s.dev.launch (s.dev.bind core entry).slot).spare.find? (·.1 == dieOf core) = none →
    (St.of s).ctxPlace (s.dev.launch (s.dev.bind core entry).slot).asid (s.dev.launch (s.dev.bind core entry).slot).inqA = some hp →
    Writes (.inqDequeue core entry) s ((St.of s).unitAsk hp (s.dev.launch (s.dev.bind core entry).slot).asid false (64 * core + entry) 0)) ∧
  (∀ (core entry : Nat) (s : State) (e : Nat × Nat),
    (s.dev.bind core entry).state = 1 →
    (s.dev.launch (s.dev.bind core entry).slot).open = true →
    (s.dev.launch (s.dev.bind core entry).slot).inqA ≠ 0 →
    ((s.dev.launch (s.dev.bind core entry).slot).handed.get none (64 * core + entry)).isSome = true →
    (s.dev.launch (s.dev.bind core entry).slot).inq.get none (64 * core + entry) = none →
    s.dev.unitAsked false (64 * core + entry) = false →
    (s.dev.launch (s.dev.bind core entry).slot).spare.find? (·.1 == dieOf core) = some e →
    Becomes (.inqDequeue core entry) s (s.dev.setLaunch (s.dev.bind core entry).slot { (s.dev.launch (s.dev.bind core entry).slot) with spare := (s.dev.launch (s.dev.bind core entry).slot).spare.erase e, inq := (s.dev.launch (s.dev.bind core entry).slot).inq.put (64 * core + entry) (some e.2) })) ∧
  (∀ (core entry : Nat) (s : State) (k : Nat) (f : Form),
    (s.dev.bind core entry).state = 1 →
    (s.dev.launch (s.dev.bind core entry).slot).open = true →
    s.dev.stopped = false →
    s.dev.power = 0 →
    (∀ e ∈ s.dev.bindDue, ¬ (e.1 = core ∧ e.2.1 = entry)) →
    core < 288 →
    entry < 64 →
    s.dev.boundNow core = false →
    (s.dev.takeClk (dieOf core) (s.dev.launch (s.dev.bind core entry).slot).vc).formFor core entry = some (k, f) →
    Becomes (.blockBind core entry) s ((s.dev.takeClk (dieOf core) (s.dev.launch (s.dev.bind core entry).slot).vc).bindForm core entry k f)) ∧
  (∀ (core entry : Nat) (s : State) (d : Device) (b : Nat),
    (s.dev.bind core entry).state = 1 →
    (s.dev.launch (s.dev.bind core entry).slot).open = true →
    s.dev.stopped = false →
    s.dev.power = 0 →
    (∀ e ∈ s.dev.bindDue, ¬ (e.1 = core ∧ e.2.1 = entry)) →
    core < 288 →
    entry < 64 →
    s.dev.boundNow core = false →
    d = s.dev.takeClk (dieOf core) (s.dev.launch (s.dev.bind core entry).slot).vc →
    d.formFor core entry = none →
    (s.dev.launch (s.dev.bind core entry).slot).handed.get none (64 * core + entry) = some b →
    (s.dev.launch (s.dev.bind core entry).slot).inqA = 0 ∨ ((s.dev.launch (s.dev.bind core entry).slot).inq.get none (64 * core + entry)).isSome = true →
    d.fits core (s.dev.bind core entry) (s.dev.launch (s.dev.bind core entry).slot) ((s.dev.launch (s.dev.bind core entry).slot).demand b) = true →
    Writes (.blockBind core entry) s (({ St.of s with d := d } : St).bindLaunch core entry b)) ∧
  (∀ (core entry : Nat) (expect : BitVec 2) (rec : BitVec 128) (s : State),
    s.dev.offerOk core rec = true →
    s.dev.agenda.contains (.blockBind core entry) = false →
    s.dev.bindWritable core entry expect rec = true →
    (s.dev.bind core entry).state ≠ 1 →
    Becomes (.bindRecordWrite core entry expect rec) s ({ s.dev.setBind core entry (BindRec.clean rec) with bindOut := some true })) ∧
  (∀ (core entry : Nat) (expect : BitVec 2) (rec : BitVec 128) (s : State),
    s.dev.offerOk core rec = true →
    s.dev.agenda.contains (.blockBind core entry) = false →
    s.dev.bindWritable core entry expect rec = true →
    (s.dev.bind core entry).state = 1 →
    Becomes (.bindRecordWrite core entry expect rec) s ({ (s.dev.handBack core entry).setBind core entry (BindRec.clean rec) with bindOut := some true })) ∧
  (∀ (core entry : Nat) (expect : BitVec 2) (rec : BitVec 128) (s : State),
    s.dev.offerOk core rec = true →
    s.dev.agenda.contains (.blockBind core entry) = true →
    Becomes (.bindRecordWrite core entry expect rec) s ({ s.dev with bindDue := s.dev.bindDue ++ [(core, entry, expect, rec)] })) ∧
  (∀ (core entry : Nat) (expect : BitVec 2) (rec : BitVec 128) (s : State),
    s.dev.offerOk core rec = true →
    s.dev.agenda.contains (.blockBind core entry) = false →
    s.dev.bindWritable core entry expect rec = false →
    Becomes (.bindRecordWrite core entry expect rec) s ({ s.dev with bindOut := some false })) ∧
  (∀ (d : Device) (core entry : Nat) (expect : BitVec 2) (rec : BitVec 128), d.bindWritable core entry expect rec = true ↔
    core < 288 ∧ entry < 64 ∧ (d.bind core entry).state = expect.toNat ∧ (d.bind core entry).state ≠ 3 ∧ BindRec.state rec ≠ 3 ∧ BindRec.within rec = true ∧
      ∀ e ∈ d.binds, e.1 / 64 = core → e.1 ≠ 64 * core + entry → BindRec.state e.2 ≠ 0 → ((BindRec.ranges e.2).zip (BindRec.ranges rec)).any (fun p => rangesMeet p.1 p.2) = false) ∧
  (∀ (blk : Nat) (s : State),
    (s.dev.block blk).live = true →
    (s.dev.block blk).leaving = true →
    s.dev.peerBusy blk = false →
    Becomes (.gleaveTakesEffect blk) s (s.dev.revoke blk)) ∧
  (∀ (blk : Nat) (s : State) (k c : Nat) (x : Binding) (u : St),
    (s.dev.block blk).live = true →
    (s.dev.block blk).auto = true →
    u = (St.of s).releaseOf (blk / 64) (s.dev.block blk).asid 4 →
    u.d.pushed (blk / 64) (s.dev.block blk).asid = true →
    u.d.blockAcked (s.dev.block blk) = true →
    u.d.bidOf (s.dev.block blk).slot = some (k, x) →
    x.st = .normal →
    c = (s.dev.launch (s.dev.block blk).slot).fieldOf ((s.dev.block blk).index * 2 ^ (s.dev.launch (s.dev.block blk).slot).los (s.dev.launch (s.dev.block blk).slot).bb) (x.autof - 1) →
    c < x.nch →
    Writes (.autoContribution blk) s (u.withD fun d => (d.setBlock blk { s.dev.block blk with auto := false }).setBinding k { x with
      colls := x.colls ++ [⟨0, 0, c, BitVec.ofNat 64 (x.f 256 64 + c * x.chsz), 0, false, d.clkVec (dieOf (blk / 64))⟩] })) ∧
  (∀ (blk : Nat) (s : State) (b : Block) (u : St),
    b = s.dev.block blk →
    b.live = true →
    b.outq = true →
    b.auto = false →
    s.dev.unitAsked true blk = false →
    u = (St.of s).releaseOf (blk / 64) b.asid 4 →
    u.d.pushed (blk / 64) b.asid = false ∨ u.d.blockAcked b = false →
    Writes (.outqEnqueue blk) s (u)) ∧
  (∀ (blk : Nat) (s : State) (b : Block) (u : St) (hp : Place),
    b = s.dev.block blk →
    b.live = true →
    b.outq = true →
    b.auto = false →
    s.dev.unitAsked true blk = false →
    u = (St.of s).releaseOf (blk / 64) b.asid 4 →
    u.d.pushed (blk / 64) b.asid = true →
    u.d.blockAcked b = true →
    u.ctxPlace (s.dev.launch b.slot).asid (s.dev.launch b.slot).outqA = some hp →
    Writes (.outqEnqueue blk) s ((u.meetQueue (blk / 64) hp).unitAsk hp (s.dev.launch b.slot).asid true blk b.index)) ∧
  (∀ (blk : Nat) (s : State) (b : Block) (t : St),
    b = s.dev.block blk →
    b.live = true →
    s.dev.wavesOf blk = [] →
    b.outq = false →
    b.auto = false →
    t = (St.of s).leaveFirst blk →
    t.d.mayFree blk = true →
    b.reduces = [] ∨ t.d.blockAcked b = true →
    Writes (.blockLeavePush blk) s (t.withD fun d => (d.freeBlock blk true).reduceEnded b)) ∧
  (∀ (blk : Nat) (s : State) (b : Block) (t : St),
    b = s.dev.block blk →
    b.live = true →
    s.dev.wavesOf blk = [] →
    b.outq = false →
    b.auto = false →
    t = (St.of s).leaveFirst blk →
    t.d.mayFree blk = false →
    Writes (.blockLeavePush blk) s (t)) ∧
  (∀ (slot : Nat) (s : State), (St.of s).launchOver slot = true →
    ∃ d, Becomes (.launchEnd slot) s d ∧ d.launch slot = Launch.free ∧ (d.hreg.get 0 0x38).getLsbD 0 = true ∧
      (∀ k e, d.bind k e = s.dev.bind k e ∨ d.bind k e = BindRec.idle (s.dev.bind k e)) ∧ ∀ p ∈ d.partitions, p.2.am ≠ some slot) ∧
  (∀ (q : Nat) (ovb : BitVec 64) (pins : List (Nat × List Nat)) (s : State) (e : QRec) (rest : List QRec) (l : Launch),
    s.dev.lqs.get [] q = e :: rest →
    l = s.dev.launch e.slot →
    s.dev.afterOk l = true →
    ovb ≠ 0 →
    ovb.toNat % 64 = 0 →
    (St.of s).pinsOk e.slot pins = true →
    s.dev.power = 0 →
    s.dev.stopped = false →
    l.travel = false →
    Writes (.launchAdmit q ovb pins) s (((((St.of s).withD fun d => ({ d with lqs := d.lqs.put q rest }).setLaunch e.slot { l with
        admitted := true, ovb := ovb, adm := 16 * d.clock.toNat + q, lastEnd := none
        lo := (List.range 4).map (fun die => (die, die)), hi := (List.range 4).map (fun die => (die, l.noBlock)) }).writeHeaders e.slot false).startBinding e.slot))) ∧
  (∀ (q : Nat) (ovb : BitVec 64) (pins : List (Nat × List Nat)) (s : State) (e : QRec) (rest : List QRec) (l : Launch) (u : St),
    s.dev.lqs.get [] q = e :: rest →
    l = s.dev.launch e.slot →
    s.dev.afterOk l = true →
    ovb ≠ 0 →
    ovb.toNat % 64 = 0 →
    (St.of s).pinsOk e.slot pins = true →
    s.dev.power = 0 →
    s.dev.stopped = false →
    l.travel = true →
    u = ((St.of s).withD fun d => ({ d with lqs := d.lqs.put q rest }).setLaunch e.slot { l with
        admitted := true, ovb := ovb, adm := 16 * d.clock.toNat + q, lastEnd := none
        lo := (List.range 4).map (fun die => (die, die)), hi := (List.range 4).map (fun die => (die, l.noBlock)) }).writeHeaders e.slot true →
    Writes (.launchAdmit q ovb pins) s ((pins.foldl (fun u p => u.pinSegment e.slot p.1 p.2) (u.takeMap e.slot ovb)).startBinding e.slot))

/-- A pre-emption request and its deadline, the forced save or discard at the deadline, the switch-out of a context, the restore of a saved block, the end of a scheduling period and the suspension of a launch; a record arrives, a forming wave times out and reads its task type, a ring is drained or extended, and the occupancy is reported. The places of save areas (log 12), what the restore takes from State (log 33), the events of firmware (log 38), the discard of malformed records (log 45), the parked share (log 58), the choice among cores and the order of the cold ring (log 59), a task type as it stands (log 64) and the spill area (log 65) are the model's. -/
def Obligations.SavingAndThePosy : Prop :=
  (∀ (blk : Nat) (deadline : BitVec 64) (s : State),
    (s.dev.block blk).live = true →
    s.dev.wavesOf blk ≠ [] →
    Becomes (.preemptionRequest blk deadline) s (s.dev.setBlock blk { s.dev.block blk with preq := true, deadline := deadline })) ∧
  (∀ (blk area : Nat) (s : State) (t : St),
    s.dev.savable blk = true →
    (s.dev.block blk).preq = true →
    (s.dev.block blk).deadline.toNat ≤ s.dev.clock.toNat →
    areaFits area ((s.dev.savedOf blk area 0).size s.dev) = true →
    t = (St.of s).comeOff blk →
    t.d.offReady blk (t.d.goes blk true) = true →
    Writes (.forcedSave blk area) s (t.takeOff blk area 0 true)) ∧
  (∀ (blk area : Nat) (s : State) (t : St),
    s.dev.savable blk = true →
    (s.dev.block blk).preq = true →
    (s.dev.block blk).deadline.toNat ≤ s.dev.clock.toNat →
    areaFits area ((s.dev.savedOf blk area 0).size s.dev) = true →
    t = (St.of s).comeOff blk →
    t.d.offReady blk (t.d.goes blk true) = false →
    Writes (.forcedSave blk area) s (t)) ∧
  (∀ (asid : BitVec 16) (core area : Nat) (discard : List Nat) (s : State) (ks : List Nat) (plan : List (Nat × Nat)) (u : St),
    (s.dev.ctx asid.toNat).live = true →
    areaFits area 4096 = true →
    ks = s.dev.blocksOn asid.toNat core →
    s.dev.planAreas 1 (area + 4096) ks = some plan →
    u = ks.foldl St.comeOff (St.of s) →
    (∀ k ∈ ks, u.d.offReady k (u.d.goes k (discard.contains k)) = true) →
    Writes (.contextSwitchOut asid core area discard) s ((((List.range 16).foldl (fun v i => v.wrN (area + 8 * i) 8 ((u.d.ctx asid.toNat).pmc.get 0 (16 * core + i)).toNat) u).saveAll 1 discard plan).withD fun d =>
      { d with outs := d.outs.filter (fun o => !(o.1 == asid.toNat && o.2.1 == core)) })) ∧
  (∀ (asid : BitVec 16) (core area : Nat) (discard : List Nat) (s : State) (ks : List Nat) (plan : List (Nat × Nat)) (u : St) (k : Nat),
    (s.dev.ctx asid.toNat).live = true →
    areaFits area 4096 = true →
    ks = s.dev.blocksOn asid.toNat core →
    s.dev.planAreas 1 (area + 4096) ks = some plan →
    u = ks.foldl St.comeOff (St.of s) →
    k ∈ ks →
    u.d.offReady k (u.d.goes k (discard.contains k)) = false →
    u.d.outs.contains (asid.toNat, core, area, discard) = false →
    Writes (.contextSwitchOut asid core area discard) s (u.withD fun d => { d with outs := d.outs ++ [(asid.toNat, core, area, discard)] })) ∧
  (∀ (blk core entry : Nat) (s : State) (v : Saved), s.dev.saved[blk]? = some v → s.dev.restorable v core entry = true → core < 288 → entry < 64 → s.dev.stopped = false → s.dev.power = 0 →
    ∃ t, exec (.blockRestore blk core entry) s = .next t ∧ t.dev.saved = s.dev.saved.eraseIdx blk ∧
      t.dev.bind core entry = (s.dev.bind core entry).tgt 3 (s.dev.bind core entry).slot ∧
      t.dev.block (64 * core + entry) = { v.block with
        qb := (s.dev.bind core entry).qb, scrb := 65536 * (s.dev.bind core entry).f 84 4, accB := (s.dev.bind core entry).f 105 3
        gen := s.dev.gens.get 0 core + 1, windows := [], since := s.dev.clock.toNat }) ∧
  (∀ (deadline : BitVec 64) (pins : List (Nat × Nat × List Nat)) (s : State) (u : St),
    u = s.dev.waiting.foldl (fun u x => match u.d.victim x with
      | some k => u.withD fun d => d.setBlock k { d.block k with preq := true, deadline := deadline }
      | none => u) (St.of s) →
    Writes (.schedulingPeriod deadline pins) s ((u.d.launches.filter (fun e => e.2.used && e.2.admitted && e.2.travel)).foldl (fun u e => u.adjustLaunch deadline pins e.1) u)) ∧
  (∀ (slot area : Nat) (s : State) (l : Launch) (ks : List Nat) (u : St) (plan : List (Nat × Nat)),
    l = s.dev.launch slot →
    l.used = true →
    l.admitted = true →
    (∃ e ∈ s.dev.overflowDue, e.1 = slot) →
    ks = (s.dev.blocks.filter (fun e => e.2.slot == slot && s.dev.savable e.1)).map (·.1) →
    u = ks.foldl St.comeOff ((St.of s).withD (·.setLaunch slot { l with suspended := true })) →
    u.d.planAreas 2 area (ks.filter (fun k => u.d.offReady k false)) = some plan →
    Writes (.launchSuspend slot area) s ((u.withD fun d => (ks.filter (fun k => !u.d.offReady k false)).foldl (fun d k => d.setBlock k { d.block k with preq := true, deadline := d.clock }) d).saveAll 2 [] plan)) ∧
  (∀ (n : Nat) (s : State) (t : Transit) (u : St),
    s.dev.arrivals[n]? = some t →
    u = (St.of s).withD (fun d => ({ d with transit := d.transit.erase t }).takeClk (dieOf t.core) (d.sentClk t)) →
    (s.dev.launch (recSlot t.rcd)).used = true →
    (s.dev.launch (recSlot t.rcd)).aborted = false →
    t.cold = false →
    t.toRing = false →
    u.d.strays t = false →
    Writes (.posyRecordArrival n) s ((if recKind t.rcd = 4 then u.withD (·.hopIn (recSlot t.rcd) t.core) else u).deliverRec t.core t.rcd)) ∧
  (∀ (d : Device), (∀ t, t ∈ d.arrivals ↔ t ∈ d.transit ∧ t.rank = none ∧ d.transitDue t = true) ∧ d.arrivals.Pairwise (fun t u => t.src ≤ u.src)) ∧
  (∀ (core n : Nat) (s : State) (k : Nat) (f : Form),
    s.dev.formAt core n = some (k, f) →
    f.released = false →
    17 * (s.dev.launch (recSlot (f.recs.headD 0))).ftime ≤ 10 * (s.dev.clock.toNat - f.since) →
    Becomes (.formTimeout core n) s ((({ s.dev with forms := s.dev.forms.modify k (fun f => { f with released := true }) }).tellOffer (recSlot (f.recs.headD 0)) core).pmc (s.dev.launch (recSlot (f.recs.headD 0))).asid core 13 1)) ∧
  (∀ (core n : Nat) (resolved : Bool) (s : State) (k v : Nat) (f : Form) (l : Launch),
    s.dev.formAt core n = some (k, f) →
    l = s.dev.launch (recSlot (f.recs.headD 0)) →
    recTti (f.recs.headD 0) ≠ 0 →
    recTti (f.recs.headD 0) < l.ttn →
    f.entry = none →
    f.failed = false →
    (St.of s).taskEntry core l.asid (l.ttbase + 32 * recTti (f.recs.headD 0)) = some (.inl v) →
    Becomes (.taskTypeRead core n resolved) s ({ s.dev with forms := s.dev.forms.modify k (fun f => { f with entry := some (field v 64 9, field v 80 32, BitVec.ofNat 16 (field v 112 16)), failed := false }) })) ∧
  (∀ (core slot : Nat) (s : State) (r : BitVec 512) (t : St),
    (St.of s).ringTake slot core = some (r, t) →
    core < 288 →
    recBad r = false →
    s.dev.posyTakes core r = true →
    Writes (.overflowRingDrain core slot) s ((t.meetQueue core (ringSlot ((St.of s).ringHdr slot core) (hdrHead ((St.of s).ringHdr slot core)))).withD (·.posyPut core r))) ∧
  (∀ (slot core : Nat) (base : BitVec 64) (log2n : Nat) (s : State) (rs : List (BitVec 512)) (h : Nat) (u v : St),
    (slot, core) ∈ s.dev.overflowDue →
    ringOk core base.toNat log2n = true →
    log2n ≤ 24 →
    hdrRing ((St.of s).ringHdr slot core) = 0 ∨ hdrN ((St.of s).ringHdr slot core) < 2 ^ log2n →
    rs = (St.of s).ringAll slot core ((St.of s).ringOcc slot core) →
    h = rs.length + 2 ^ 128 * log2n + 2 ^ 134 * (base.toNat / 64) + 2 ^ 192 * 3 →
    u = ((St.of s).ringFill h 0 rs).homeWrite ((St.of s).ringHead slot core) 64 h →
    v = u.unspill slot core u.d.spill →
    v.d.spill = [] →
    Writes (.overflowExtend slot core base log2n) s (v.withD (fun d => ({ d with overflowDue := d.overflowDue.filter (· != (slot, core)) } : Device).setLaunch slot { d.launch slot with suspended := false }))) ∧
  (∀ (core slot : Nat) (s : State),
    (s.dev.launch slot).used = true →
    Becomes (.occupancyReport core slot) s ({ s.dev with
      occ := s.dev.occ.put (4096 * core + slot) ((St.of s).occupancy core slot)
      cool := if (St.of s).occupancy core slot < s.dev.aqt slot && !s.dev.cool.contains (core, slot) then s.dev.cool ++ [(core, slot)] else s.dev.cool }))

/-- Heartbeats are sent and taken; a silent neighbour is suspected, and a suspicion reaches the coordinator; it gathers, proposes, and commits with the acknowledgements of a quorum; a member acknowledges the higher tag and refuses another, installs the view that is committed, and is ISOLATED without a commit, without neighbours, or outside the view; a candidate joins. The lengths of the timers are the model's reading (log 13), and what it does with first heartbeats, joins, NACKs, held packets, suspicions and the chunk plan is its choice (log 14). -/
def Obligations.MembershipViews : Prop :=
  (∀ (bid : Nat) (s : State) (x : Binding),
    s.dev.binding bid = some x →
    (∀ t, x.beat = some t → beatCycles ≤ s.dev.since t) →
    s.dev.fabricUp = true →
    Becomes (.heartbeatSend bid) s (s.dev.setBinding bid ({ x.neighbours.foldl (fun y r => y.send 3 r 0 [] []) x with beat := some s.dev.clock.toNat }))) ∧
  (∀ (bid rank : Nat) (s : State) (x : Binding),
    s.dev.partValid bid = true →
    s.dev.binding bid = some x →
    Becomes (.heartbeat bid rank) s (s.dev.setBinding bid ({ x with beats := x.beats.put rank s.dev.clock.toNat }))) ∧
  (∀ (bid rank : Nat) (s : State) (x y : Binding),
    s.dev.binding bid = some x →
    x.st = .normal ∨ x.st = .agree →
    y = x.suspect rank s.dev.clock.toNat →
    x.neighbours.contains rank = true →
    s.dev.silent x rank = true →
    Becomes (.heartbeatTimeout bid rank) s (s.dev.setBinding bid (if y.leads then y else y.send 4 y.coord 0 [rank] []))) ∧
  (∀ (bid rank : Nat) (s : State) (x : Binding),
    s.dev.partValid bid = true →
    s.dev.binding bid = some x →
    x.st = .normal ∨ x.st = .agree →
    x.view.contains rank = true →
    rank ≠ x.rank →
    Becomes (.suspect bid rank) s (s.dev.setBinding bid (x.suspect rank s.dev.clock.toNat))) ∧
  (∀ (bid : Nat) (s : State) (x : Binding),
    s.dev.binding bid = some x →
    x.st = .normal ∨ (x.st = .agree ∧ x.prop = none) →
    x.gather = true →
    x.leads = true →
    34000 ≤ s.dev.clock.toNat - x.gatherAt →
    Writes (.gatherTimeout bid) s (((St.of s).withD (·.setBinding bid (x.propose (x.seen + 1) x.nextMask s.dev.clock.toNat))).tryCommit bid)) ∧
  (∀ (bid src : Nat) (tag : BitVec 32) (mask : List Nat) (s : State) (x : Binding),
    s.dev.partValid bid = true →
    s.dev.binding bid = some x →
    x.st = .normal ∨ x.st = .agree →
    x.acked.toNat < tag.toNat →
    Becomes (.propose bid src tag mask) s (s.dev.setBinding bid ({ x with
      seen := Machine.later x.seen tag, acked := tag, prop := none, acks := [], gather := false, agreeAt := s.dev.clock.toNat, st := .agree
      sent := x.sent ++ [x.packet 6 x.rank src tag x.opseq 0 x.holds []] }))) ∧
  (∀ (bid src : Nat) (tag : BitVec 32) (mask : List Nat) (s : State) (x : Binding),
    s.dev.partValid bid = true →
    s.dev.binding bid = some x →
    x.st ≠ .isolated →
    tag.toNat ≤ x.acked.toNat →
    Becomes (.propose bid src tag mask) s (s.dev.setBinding bid ({ x with seen := Machine.later x.seen tag, sent := x.sent ++ [x.packet 7 x.rank src tag x.opseq 0 mask []] }))) ∧
  (∀ (bid src : Nat) (tag opseq : BitVec 32) (chunks : List Nat) (s : State) (x : Binding) (mask : List Nat),
    s.dev.partValid bid = true →
    s.dev.binding bid = some x →
    x.tag.toNat ≤ tag.toNat →
    x.prop = some (tag, mask) →
    x.st = .agree →
    mask.contains src = true →
    (∀ a ∈ x.acks, a.1 ≠ src) →
    Writes (.ack bid src tag opseq chunks) s (((St.of s).withD (·.setBinding bid { x with acks := x.acks ++ [(src, if opseq == x.opseq then chunks else [])] })).tryCommit bid)) ∧
  (∀ (bid src : Nat) (tag : BitVec 32) (s : State) (x : Binding) (p : W32 × List Nat),
    s.dev.partValid bid = true →
    s.dev.binding bid = some x →
    x.tag.toNat ≤ tag.toNat →
    x.prop = some p →
    x.st = .agree →
    p.2.contains src = true →
    Becomes (.nack bid src tag) s (s.dev.setBinding bid ({ x with seen := Machine.later x.seen tag }))) ∧
  (∀ (bid : Nat) (s : State) (x : Binding) (t : W32) (mask : List Nat),
    s.dev.binding bid = some x →
    x.prop = some (t, mask) →
    x.st = .agree →
    136000 ≤ s.dev.clock.toNat - x.agreeAt →
    Writes (.ackTimeout bid) s (((St.of s).withD (·.setBinding bid (x.propose (t + 1) (mask.filter (fun r => x.acks.any (·.1 == r))) s.dev.clock.toNat))).tryCommit bid)) ∧
  (∀ (bid : Nat) (tag opseq : BitVec 32) (mask : List Nat) (held : List (Nat × List Nat)) (s : State) (x : Binding),
    s.dev.partValid bid = true →
    s.dev.binding bid = some x →
    x.tag.toNat ≤ tag.toNat →
    mask.contains x.rank = false →
    x.st = .agree →
    x.acked.toNat ≤ tag.toNat →
    Becomes (.commit bid tag opseq mask held) s (s.dev.isolate bid)) ∧
  (∀ (bid : Nat) (tag opseq : BitVec 32) (mask : List Nat) (held : List (Nat × List Nat)) (s : State) (x : Binding),
    s.dev.partValid bid = true →
    s.dev.binding bid = some x →
    x.tag.toNat ≤ tag.toNat →
    x.st = .agree ∨ x.st = .candidate →
    tag = x.acked →
    x.prop = none →
    mask.contains x.rank = true →
    Writes (.commit bid tag opseq mask held) s ((St.of s).installView bid tag opseq mask held)) ∧
  (∀ (bid : Nat) (tag opseq : BitVec 32) (mask : List Nat) (held : List (Nat × List Nat)) (s : State) (x : Binding),
    s.dev.partValid bid = true →
    s.dev.binding bid = some x →
    tag.toNat < x.tag.toNat →
    Becomes (.commit bid tag opseq mask held) s (s.dev.setBinding bid (x.drop))) ∧
  (∀ (bid : Nat) (s : State) (x : Binding),
    s.dev.binding bid = some x →
    x.st = .agree →
    x.prop = none →
    272000 ≤ s.dev.clock.toNat - x.agreeAt →
    Becomes (.commitTimeout bid) s (s.dev.isolate bid)) ∧
  (∀ (bid : Nat) (s : State) (x : Binding),
    s.dev.binding bid = some x →
    x.st = .normal →
    (∀ r ∈ x.neighbours, s.dev.silent x r = true) →
    Becomes (.isolation bid) s (s.dev.isolate bid)) ∧
  (∀ (bid rank : Nat) (s : State) (x : Binding),
    s.dev.partValid bid = true →
    s.dev.binding bid = some x →
    x.st = .normal ∨ x.st = .agree →
    rank < x.f 364 20 →
    rank ≠ x.rank →
    x.leads = true →
    Becomes (.join bid rank) s (s.dev.setBinding bid ({ x with cands := if x.cands.contains rank then x.cands else x.cands ++ [rank] })))

/-- A contribution is staged, a partial, a final or a COMPLETE lands, the OUT of an ended reduce block is taken, a step goes on without a contribution in REWEIGHT mode, and an operation is abandoned; an active message is delivered or refused and answered, its answer counts; slot tables are edited, purged and freed; fabric links go down and are trained. The numbers of links and the forms of packets that R396 leaves open (log 15), and staging, errors and abandonment where the rules are silent (log 14), are the model's. -/
def Obligations.FabricAndCollectives : Prop :=
  (∀ (bid chunk : Nat) (s : State) (x : Binding) (c : CollOp) (bs : List Byte) (u v : St),
    s.dev.binding bid = some x →
    x.colls.find? (fun c => c.chunk == chunk && !c.staged) = some c →
    s.dev.leaves c.uid c.need c.op = true →
    s.dev.collHere c = true →
    x.inTaken chunk = false →
    x.st = .normal ∨ x.st = .agree →
    (x.chunk chunk).flushed = false →
    (St.of s).collRead x.asid c x.chsz = (bs, u, true) →
    v = u.areaWrite x.asid (x.inAt chunk) bs →
    Writes (.collStage bid chunk) s ((v.withD (·.setBinding bid
      (({ x with colls := x.colls.map (fun o => if o == c then { c with staged := true } else o) } : Binding).setChunk chunk { x.chunk chunk with staged := true, vc := v.d.collClk c }))).takeStep bid chunk)) ∧
  (∀ (bid : Nat) (tag opseq : BitVec 32) (chunk : Nat) (mask : List Nat) (data : List (BitVec 8)) (s : State) (x : Binding),
    s.dev.purges (bid / 65536) = false →
    s.dev.partValid bid = true →
    s.dev.binding bid = some x →
    Writes (.partialLand bid tag opseq chunk mask data) s (((St.of s).land bid (x.incoming 1 x.below tag opseq chunk mask data)).followUp bid)) ∧
  (∀ (bid : Nat) (tag opseq : BitVec 32) (chunk : Nat) (mask : List Nat) (data : List (BitVec 8)) (s : State) (x : Binding),
    s.dev.purges (bid / 65536) = false →
    s.dev.partValid bid = true →
    s.dev.binding bid = some x →
    Writes (.finalLand bid tag opseq chunk mask data) s (((St.of s).land bid (x.incoming 2 x.above tag opseq chunk mask data)).followUp bid)) ∧
  (∀ (bid : Nat) (tag opseq : BitVec 32) (s : State) (x : Binding),
    s.dev.purges (bid / 65536) = false →
    s.dev.partValid bid = true →
    s.dev.binding bid = some x →
    Writes (.complete bid tag opseq) s (((St.of s).land bid (x.incoming 10 x.below tag opseq 0 [] [])).followUp bid)) ∧
  (∀ (bid chunk : Nat) (s : State) (x : Binding) (mask : List Nat) (bs : List Byte) (u : St) (ok : Bool) (r : Nat),
    s.dev.binding bid = some x →
    (x.chunk chunk).reducing = true →
    (x.chunk chunk).reduced = true →
    x.st = .normal →
    mask = (x.chunk chunk).acc.getD [] ++ (if (x.chunk chunk).staged && !(x.chunk chunk).flushed then [x.rank] else []) →
    (St.of s).areaRead x.asid (x.outAt chunk) x.chsz = (bs, u, ok) →
    x.above = some r →
    Writes (.reduceBlockEnd bid chunk) s ((u.areaWrite x.asid (x.outMaskAt chunk) (maskList x.mb mask)).withD (·.setBinding bid
      ((x.setChunk chunk { x.chunk chunk with out := some mask, reducing := false, reduced := false }).send 1 r chunk mask bs)))) ∧
  (∀ (bid chunk : Nat) (s : State) (x : Binding),
    s.dev.binding bid = some x →
    1700 * x.f 448 16 ≤ s.dev.clock.toNat - (if x.below.isNone then x.began else (x.chunk chunk).landedAt) →
    x.reweight = true →
    x.st = .normal →
    chunk < x.nch →
    (x.chunk chunk).staged = false →
    (x.chunk chunk).flushed = false →
    (x.chunk chunk).out = none →
    x.below = none ∨ (x.chunk chunk).acc.isSome = true →
    Writes (.stepTimeout bid chunk) s ((((St.of s).withD (·.setBinding bid (x.setChunk chunk { x.chunk chunk with flushed := true }))).takeStep bid chunk).followUp bid)) ∧
  (∀ (bid : Nat) (s : State) (x : Binding),
    s.dev.binding bid = some x →
    Writes (.collectiveAbandon bid) s (((St.of s).withD (·.abandon bid false)).followUp bid)) ∧
  (∀ (part : BitVec 12) (src : BitVec 20) (core : Nat) (rec : BitVec 512) (s : State) (p : Partition) (k : Nat),
    s.dev.purges part.toNat = false →
    s.dev.partitions.lookup part.toNat = some p →
    p.valid = true →
    p.am = some k →
    core < 512 →
    core / 4 % 32 < 18 →
    recKind rec = 5 →
    recBad rec = false →
    recTti rec = 0 →
    Writes (.amsg part src core rec) s (((St.of s).deliverRec (coreOfId core) (BitVec.ofNat 512 (setField (setField rec.toNat 0 48 (recAddr rec)) 128 12 k))).withD (·.answer part.toNat src.toNat true))) ∧
  (∀ (part : BitVec 12) (src : BitVec 20) (core : Nat) (rec : BitVec 512) (s : State),
    s.dev.purges part.toNat = true →
    Becomes (.amsg part src core rec) s ({ s.dev with discards := s.dev.discards + 1 })) ∧
  (∀ (part : BitVec 12) (src : BitVec 20) (core : Nat) (rec : BitVec 512) (s : State),
    s.dev.purges part.toNat = false →
    s.dev.partitions.lookup part.toNat = none →
    Becomes (.amsg part src core rec) s (({ s.dev with discards := s.dev.discards + 1 }   : Device).answer part.toNat src.toNat false)) ∧
  (∀ (w op : Nat) (ok : Bool) (s : State) (t : Transit),
    w < 2 ^ 20 →
    s.dev.transit.find? (fun t => t.uid == (s.dev.wave w).uid && t.op == some op && t.rank.isSome && t.gone) = some t →
    s.dev.purges t.part = false →
    Becomes (.amack w op ok) s (({ s.dev with transit := s.dev.transit.erase t } : Device).updOp (s.dev.wave w).uid op (fun o => { o with
      done := !(s.dev.transit.erase t).any (fun t => t.uid == (s.dev.wave w).uid && t.op == some op)
      err := if ok then o.err else o.err.or (some (mkDetail 10 o.opc (BitVec.ofNat 64 (t.rank.getD 0)))) }))) ∧
  (∀ (w op : Nat) (ok : Bool) (s : State) (t : Transit),
    w < 2 ^ 20 →
    s.dev.transit.find? (fun t => t.uid == (s.dev.wave w).uid && t.op == some op && t.rank.isSome && t.gone) = some t →
    s.dev.purges t.part = true →
    Becomes (.amack w op ok) s ({ s.dev with discards := s.dev.discards + 1 })) ∧
  (∀ (link : Nat) (table : List (BitVec 16)) (s : State),
    slotsOk table = true →
    Becomes (.slotTableEdit link table) s ({ s.dev with slotTabs := s.dev.slotTabs.put link table })) ∧
  (∀ (part : BitVec 12) (s : State),
    Becomes (.partitionReset part) s (s.dev.reslot part.toNat (· == 1) (BitVec.ofNat 16 (2 ^ 15 + part.toNat)))) ∧
  (∀ (part : BitVec 12) (s : State),
    Becomes (.purgeExpiry part) s (s.dev.reslot part.toNat (· == 2) 0)) ∧
  (∀ (link : Nat) (s : State),
    link < 16 * (1 + 786432) →
    s.dev.linksDown.contains link = false →
    Becomes (.fabricLinkDown link) s ({ s.dev with linksDown := s.dev.linksDown ++ [link] })) ∧
  (∀ (s : State),
    s.dev.torus ≠ [] →
    Becomes (.fabricLinkTrained) s ({ s.dev with fabricUp := true, linkFerr := false, linksDown := [] }))

/-- The Dunvia Link detects, trains, agrees on width and rate, replays, retrains and goes down after the third failure within a second; the device enters the deepest power state its latency tolerance allows, and wakes; a fatal error stops it and is dumped; firmware is checked, a report is signed; a package reset and power-on give the machine that reset describes. Times in cycles (log 13), the link's retries (log 36), what a package reset keeps (log 37), the form of a dump (log 17), and the algorithms and the layout of minimum versions (log 7) are the model's. -/
def Obligations.LinkPowerAndReset : Prop :=
  (∀ (lanes : Nat) (s : State),
    s.dev.link = .detect →
    4 ≤ lanes →
    lanes ≤ 16 →
    Becomes (.linkDetect lanes) s ({ s.dev with link := .train, linkWidth := widthOf lanes })) ∧
  (∀ (lanes : Nat) (s : State),
    s.dev.link = .down →
    Becomes (.linkDetect lanes) s ({ s.dev with link := .detect })) ∧
  (∀ (width rate : Nat) (s : State),
    s.dev.link = .train →
    Becomes (.linkTrain width rate) s ({ s.dev with link := .negotiate })) ∧
  (∀ (width rate : Nat) (s : State),
    s.dev.link = .negotiate ∨ (s.dev.link = .retrain ∧ s.dev.retrainLost = false) →
    4 ≤ width →
    rate ≤ 2 →
    Writes (.linkTrain width rate) s (s.dev.hostHeld.foldl St.hostDo ((St.of s).withD fun d =>
      { d with link := .active, linkWidth := min d.linkWidth (widthOf width), linkRate := rate, retries := 0, retrainFails := [], hostHeld := [] }))) ∧
  (∀ (s : State),
    s.dev.link = .active →
    Becomes (.flitReplay) s (if s.dev.retries = 15 then { s.dev with link := .retrain, retries := 0 } else { s.dev with retries := s.dev.retries + 1 })) ∧
  (∀ (ok : Bool) (s : State),
    s.dev.link = .retrain →
    s.dev.retrainLost = false →
    ok = true →
    Writes (.linkRetrain ok) s (s.dev.hostHeld.foldl St.hostDo ((St.of s).withD fun d =>
      { d with link := .active, linkWidth := min d.linkWidth (widthOf d.linkWidth), retries := 0, retrainFails := [], hostHeld := [] }))) ∧
  (∀ (ok : Bool) (s : State),
    s.dev.link = .retrain →
    s.dev.retrainLost = false →
    ok = false →
    Becomes (.linkRetrain ok) s ({ s.dev with retrainFails := s.dev.retrainFails ++ [s.dev.clock.toNat] })) ∧
  (∀ (s : State), s.dev.link = .retrain → s.dev.retrainLost = true →
    ∃ d, Becomes .linkDown s d ∧ d.link = .down ∧ ∀ k, (d.wave k).regs = (s.dev.wave k).regs ∧
      ∀ o, o ∈ (d.wave k).outw ↔ o ∈ (s.dev.wave k).outw ∧ (o.host = false ∨ o.late = true)) ∧
  (∀ (s : State),
    (St.of s).idle = true →
    s.dev.power < s.dev.deepest →
    s.dev.deepest < 3 →
    Becomes (.powerStateEntry) s ({ s.dev with power := s.dev.deepest })) ∧
  (∀ (s : State),
    (St.of s).idle = true →
    s.dev.power < 3 →
    s.dev.deepest = 3 →
    Writes (.powerStateEntry) s ((s.dev.locals.foldl (fun u l => u.pushLocal l true) (St.of s)).withD (fun d => { d.emptyCaches with power := 3 }))) ∧
  (∀ (s : State),
    s.dev.power ≠ 0 →
    (∃ e ∈ s.dev.lqs, e.2 ≠ []) →
    Becomes (.powerWake) s ({ s.dev with power := 0 })) ∧
  (∀ (struct die : BitVec 8) (s : State), s.dev.stopped = false → die.toNat ≤ 4 → struct.toNat ≤ 8 →
    let d := s.dev.countError (16 * die.toNat + struct.toNat) true
    ∃ t, exec (.fatalErrorDump struct die) s = .next t ∧ t.dev.stopped = true ∧ t.dev.waves = s.dev.waves ∧ t.dev.serc = d.serc ∧
      (s.dev.linkUp = true → t.dev.hreg = (d.raise 3).hreg) ∧ (s.dev.linkUp = false → t.mem = s.mem ∧ t.dev.hreg = d.hreg)) ∧
  (∀ (hdr payload : List Byte) (s : State), Becomes (.firmwareImageCheck hdr payload) s (if firmwareOk hdr payload then { s.dev with fwImages := s.dev.fwImages.put (ofBytes ((hdr.drop 4).take 4)) payload } else s.dev)) ∧
  (∀ (nonce : List (BitVec 8)) (s : State),
    nonce.length = 32 →
    Becomes (.attestation nonce) s ({ s.dev with report := s.dev.reportBytes nonce ++ deviceSign (sha512 (s.dev.reportBytes nonce)) })) ∧
  (∀ (s : State),
    Becomes (.packageReset) s ({ Device.reset with
      serc := s.dev.serc, fwImages := s.dev.fwImages, link := s.dev.link, linkWidth := s.dev.linkWidth, linkRate := s.dev.linkRate, free := s.dev.free })) ∧
  (∀ (s : State), s.inv → exec .powerOn s = .next ⟨[], { Device.reset with free := s.dev.free }⟩)

/-- While the link is ACTIVE the host writes PLATD, LTOL, PARTSET, AMREG, the notification ring's registers, LQREC and the plain registers, and reads EVT, which clears it; while it is not, no access has an effect. That accesses act only while the link is ACTIVE and are held while it retrains is the model's reading (log 36). -/
def Obligations.HostRegisters : Prop :=
  (∀ (v : BitVec 64) (s : State), s.dev.linkUp = true →
    ∃ d, Becomes (.platd v) s d ∧ d.fabricUp = false ∧ d.hreg.get 0 0x10 = v ∧ d.waves = s.dev.waves ∧
      (field ((St.of s).rdN (hostAddr v) 64) 64 448 ≠ 0 → d.torus = [] ∧ d.linkFerr = true)) ∧
  (∀ (v : BitVec 64) (s : State),
    s.dev.linkUp = true →
    Becomes (.ltol v) s (s.dev.setReg 0x18 v)) ∧
  (∀ (s : State),
    s.dev.linkUp = true →
    Becomes (.evt) s (s.dev.setReg 0x38 0)) ∧
  (∀ (v : BitVec 64) (s : State),
    s.dev.linkUp = true →
    field v.toNat 16 12 ≠ 0 →
    v.getLsbD 63 = true →
    s.dev.partitions.lookup (field v.toNat 16 12) = none →
    Becomes (.partsetAssign v) s ({ s.dev with partitions := s.dev.partitions.put (field v.toNat 16 12) ⟨true, v.toNat % 65536, none⟩ })) ∧
  (∀ (v : BitVec 64) (s : State),
    s.dev.linkUp = true →
    v.getLsbD 63 = false →
    Becomes (.partsetRemove v) s ({ s.dev with partitions := s.dev.partitions.filter (fun e => e.1 != field v.toNat 16 12 || e.2.asid != v.toNat % 65536) })) ∧
  (∀ (v : BitVec 64) (s : State),
    s.dev.linkUp = true →
    v.getLsbD 63 = true →
    (s.dev.launch (field v.toNat 16 12)).used = false →
    Becomes (.amreg v) s (s.dev.setReg 0x48 (v &&& ~~~(1#64 <<< 63)))) ∧
  (∀ (v : BitVec 64) (s : State) (l : Launch),
    s.dev.linkUp = true →
    v.getLsbD 63 = true →
    l = s.dev.launch (field v.toNat 16 12) →
    l.used = true →
    l.admitted = true →
    l.aborted = false →
    l.asid = v.toNat % 65536 →
    (s.dev.partOf l.asid).isSome = true →
    Becomes (.amreg v) s (({ s.dev with partitions := s.dev.partitions.map (fun e =>
      if e.2.valid && e.2.asid == v.toNat % 65536 then (e.1, { e.2 with am := some (field v.toNat 16 12) }) else e) } : Device).setReg 0x48 v)) ∧
  (∀ (v : BitVec 64) (s : State),
    s.dev.linkUp = true →
    v.getLsbD 63 = false →
    Becomes (.amreg v) s (({ s.dev with partitions := s.dev.partitions.map (fun e =>
      if e.2.valid && e.2.asid == v.toNat % 65536 then (e.1, { e.2 with am := none }) else e) } : Device).setReg 0x48 v)) ∧
  (∀ (v : BitVec 64) (s : State),
    s.dev.linkUp = true →
    Becomes (.ntfbase v) s (s.dev.setRing (fun c => { c with ntfBase := v, ntfHead := 0, ntfTail := 0 }))) ∧
  (∀ (v : BitVec 64) (s : State),
    s.dev.linkUp = true →
    v.toNat % 32 ≤ 20 →
    Becomes (.ntflog v) s (s.dev.setRing (fun c => { c with ntfLog := v.toNat % 32, ntfHead := 0, ntfTail := 0 }))) ∧
  (∀ (v : BitVec 64) (s : State),
    s.dev.linkUp = true →
    Becomes (.ntfhead v) s (s.dev.setRing (fun c => if c.ntfHead ≤ v.toNat && v.toNat ≤ c.ntfTail then { c with ntfHead := v.toNat } else c))) ∧
  (∀ (q : Nat) (v : BitVec 64) (s : State),
    s.dev.linkUp = true →
    q < 16 →
    Becomes (.lqrec q v) s ({ s.dev.setReg (0x200 + 8 * q) 0xFFFFFFFF with lqrecs := s.dev.lqrecs ++ [(q, (s.dev.hreg.get 0 (0x108 + 16 * q)).toNat % 65536, v)] })) ∧
  (∀ (ofs : Nat) (v : BitVec 64) (s : State),
    s.dev.linkUp = true →
    ofs = 0x28 ∨ ofs = 0x30 →
    Becomes (.registerWrite ofs v) s (s.dev.setReg ofs v)) ∧
  (∀ (ofs : Nat) (v : BitVec 64) (s : State),
    s.dev.linkUp = true →
    ofs = 0x50 ∨ (0x108 ≤ ofs ∧ ofs < 0x208 ∧ ofs % 16 = 8) →
    Becomes (.registerWrite ofs v) s (s.dev.setReg ofs (v &&& 0xFFFF))) ∧
  (∀ (v : BitVec 64) (s : State), s.dev.linkUp = false → s.dev.link ≠ .retrain →
    ∀ (q ofs : Nat), ∀ i ∈ [Instr.ltol v, .evt, .platd v, .partsetAssign v, .partsetRemove v, .amreg v, .ntfbase v, .ntflog v, .ntfhead v, .lqrec q v, .registerWrite ofs v],
    Becomes i s s.dev) ∧
  (∀ (v : BitVec 64) (s : State) (q ofs : Nat), s.dev.link = .retrain → q < 16 → ofs = 0x28 ∨ ofs = 0x30 ∨ ofs = 0x50 ∨ ofs = 0x108 + 16 * q →
    ∀ e ∈ [(Instr.ltol v, true, 0x18, v), (.evt, false, 0x38, 0), (.platd v, true, 0x10, v), (.amreg v, true, 0x48, v), (.ntfbase v, true, 0x58, v),
      (.ntflog v, true, 0x60, v), (.ntfhead v, true, 0x68, v), (.lqrec q v, true, 0x100 + 16 * q, v), (.registerWrite ofs v, true, ofs, v),
      (if v.getLsbD 63 then Instr.partsetAssign v else .partsetRemove v, true, 0x40, v)],
    Becomes e.1 s { s.dev with hostHeld := s.dev.hostHeld ++ [e.2] })

/-- NOTIFY, LOOKUP, ABORT and MODSTAT serve the lanes that called, in ascending order, and the wave resumes; a module is loaded into a free entry and is READY, and is unloaded when no launch needs it. That a load and an unload are two events each is the model's choice (log 51), and that the host's services need the link is its reading (log 36). -/
def Obligations.ServicesAndModules : Prop :=
  (∀ (w : Nat) (s : State) (x : Wave) (act : Lanes), s.dev.link = .active ∨ s.dev.ringRoom (s.dev.block x.blk).asid = false → s.dev.caller w 1 = some (x, act) →
    Writes (.notify w) s (((lanesOf act).foldl (fun u l =>
      let asid := (u.d.block (u.d.wave w).blk).asid
      let c := u.d.ctx asid
      if c.ntfLog = 0 ∨ 2 ^ c.ntfLog ≤ c.ntfTail - c.ntfHead then u.answer w l 0x80000005 none
      else
        let msg := (u.d.wave w).group l 0 11 + 2 ^ 352 * (u.d.block (u.d.wave w).blk).slot + 2 ^ 368 * l +
          2 ^ 384 * ((u.d.wave w).thread l).workid.toNat + 2 ^ 448 * (u.d.wave w).parkAt.toNat
        ((u.wrN (hostAddr c.ntfBase + 64 * (c.ntfTail % 2 ^ c.ntfLog)) 64 msg).withD fun d =>
          (d.setCtx asid { c with ntfTail := c.ntfTail + 1 }).raise 1).answer w l 0 none) (St.of s)).withD fun d => d.setWave w (d.wave w).resume)) ∧
  (∀ (w : Nat) (s : State) (x : Wave) (act : Lanes), s.dev.link = .active → s.dev.caller w 1 = some (x, act) →
    ∃ t, exec (.notify w) s = .next t ∧ (t.dev.wave w).parked = false ∧ (t.dev.wave w).latch = none ∧
      ∀ l, act.getLsbD l = true → (t.dev.wave w).reg l 0 = 0 ∨ (t.dev.wave w).reg l 0 = 0x80000005) ∧
  (∀ (w : Nat) (s : State) (x : Wave) (act : Lanes), s.dev.caller w 2 = some (x, act) →
    Writes (.lookup w) s (((lanesOf act).foldl (fun u l => match u.nameAt w 256 ((u.d.wave w).pair l 0) with
      | none => u.answer w l 0x80000003 none
      | some none => u.answer w l 0x80000004 none
      | some (some name) => match u.d.moduleGlobal (u.d.block (u.d.wave w).blk).asid name with
        | some a => u.answer w l (a.setWidth 32) (some (BitVec.ofNat 32 (a.toNat / 2 ^ 32)))
        | none => u.answer w l 0x80000002 none) (St.of s)).withD fun d => d.setWave w (d.wave w).resume)) ∧
  (∀ (w : Nat) (s : State) (x : Wave) (act : Lanes), s.dev.caller w 2 = some (x, act) →
    ∃ t, exec (.lookup w) s = .next t ∧ t.mem = s.mem ∧ (t.dev.wave w).parked = false ∧ (t.dev.wave w).latch = none ∧
      ∀ l, act.getLsbD l = false → l < 32 → ∀ r, r < 256 → (t.dev.wave w).reg l r = x.reg l r) ∧
  (∀ (w : Nat) (s : State) (x : Wave) (act : Lanes),
    s.dev.caller w 3 = some (x, act) →
    Writes (.abort w) s ((St.of s).abortLaunch (s.dev.block x.blk).slot)) ∧
  (∀ (w : Nat) (s : State) (x : Wave) (act : Lanes), s.dev.caller w 4 = some (x, act) →
    ∃ t, exec (.modstat w) s = .next t ∧ t.mem = s.mem ∧ (t.dev.wave w).parked = false ∧ (t.dev.wave w).latch = none ∧
      ∀ l, act.getLsbD l = true → (t.dev.wave w).reg l 0 = (if 256 ≤ (x.reg l 0).toNat then 0x80000004
        else BitVec.ofNat 32 ((s.dev.ctx (s.dev.block x.blk).asid).modules.get Module.free (x.reg l 0).toNat).word)) ∧
  (∀ (asid : BitVec 16) (idx : Nat) (base : BitVec 64) (file len : Nat) (s : State) (c : Context) (r : List Byte × List (List Byte × W64)),
    c = s.dev.ctx asid.toNat →
    c.live = true →
    idx < 256 →
    (c.modules.get Module.free idx).state = 0 →
    (⟨file, len⟩ : Hxo).load s.dev asid.toNat base.toNat = some r →
    (St.of s).areaMapped asid.toNat (r.1.length / 65536 + 2) base.toNat r.1.length = true →
    Becomes (.moduleLoad asid idx base file len) s (s.dev.setCtx asid.toNat { c with modules := c.modules.put idx ⟨1, (c.modules.get Module.free idx).gen + 1, base, r.1.length, r.2, r.1⟩ })) ∧
  (∀ (asid : BitVec 16) (idx : Nat) (base : BitVec 64) (file len : Nat) (s : State) (m : Module),
    (s.dev.ctx asid.toNat).live = true →
    idx < 256 →
    m = (s.dev.ctx asid.toNat).modules.get Module.free idx →
    m.state = 1 →
    m.base = base →
    Writes (.moduleLoad asid idx base file len) s (((St.of s).areaWrite asid.toNat base.toNat m.image).withD fun d =>
      { ((d.setCtx asid.toNat { d.ctx asid.toNat with modules := (s.dev.ctx asid.toNat).modules.put idx { m with state := 2, image := [] } }).dropCode
          asid.toNat base.toNat m.size) with loadReports := d.loadReports ++ [(asid.toNat, idx)] })) ∧
  (∀ (asid : BitVec 16) (idx : Nat) (base : BitVec 64) (file len : Nat) (s : State),
    ((s.dev.ctx asid.toNat).modules.get Module.free idx).state = 0 →
    (∀ r, (⟨file, len⟩ : Hxo).load s.dev asid.toNat base.toNat = some r → (St.of s).areaMapped asid.toNat (r.1.length / 65536 + 2) base.toNat r.1.length = false) →
    Becomes (.moduleLoad asid idx base file len) s (s.dev)) ∧
  (∀ (asid : BitVec 16) (idx : Nat) (s : State) (c : Context),
    c = s.dev.ctx asid.toNat →
    c.live = true →
    (c.modules.get Module.free idx).state = 2 →
    (∀ e ∈ s.dev.launches, e.2.used = true → e.2.admitted = true → e.2.asid ≠ asid.toNat) →
    Becomes (.moduleUnload asid idx) s (s.dev.setCtx asid.toNat { c with modules := c.modules.put idx { c.modules.get Module.free idx with state := 3 } })) ∧
  (∀ (asid : BitVec 16) (idx : Nat) (s : State) (c : Context),
    c = s.dev.ctx asid.toNat →
    c.live = true →
    (c.modules.get Module.free idx).state = 3 →
    Writes (.moduleUnload asid idx) s (((St.of s).unmapRange asid.toNat (c.modules.get Module.free idx).base.toNat (c.modules.get Module.free idx).size).withD fun d =>
      d.setCtx asid.toNat { d.ctx asid.toNat with modules := c.modules.put idx { Module.free with gen := (c.modules.get Module.free idx).gen } }))

/-- A value read under TY lies in its range and is the pattern modulo 2^W; a result without SAT is the exact value modulo 2^W and, under a narrow type, extended to 32 bits; with SAT it is the exact value clamped to the range. On 32-bit patterns the logical operations, shifts, rotations and bit reversal are those of bit vectors, a shift by 32 or more leaving zeros or, for SAR, copies of the sign. -/
def Obligations.IntegerMeanings : Prop :=
  (∀ (ty : BitVec 3) (v : Nat), let lo : Int := if intSigned ty then -2 ^ (intW ty - 1) else 0
    lo ≤ intOf ty v ∧ intOf ty v < lo + 2 ^ intW ty ∧ (intOf ty v - v) % 2 ^ intW ty = 0) ∧
  (∀ (ty : BitVec 3) (v : Int), (intOf ty (intRes ty false v) - v) % 2 ^ intW ty = 0 ∧
    (ty.toNat < 6 → intRes ty false v = (BitVec.ofInt 32 (intOf ty (intRes ty false v))).toNat)) ∧
  (∀ (ty : BitVec 3) (v : Int), let lo : Int := if intSigned ty then -2 ^ (intW ty - 1) else 0
    intOf ty (intRes ty true v) = max lo (min v (lo + 2 ^ intW ty - 1))) ∧
  (∀ (a b : BitVec 32), intRes 4 false (iand a.toNat b.toNat) = (a &&& b).toNat ∧ intRes 5 false (iand a.toInt b.toInt) = (a &&& b).toNat ∧
    intRes 4 false (ior a.toNat b.toNat) = (a ||| b).toNat ∧ intRes 4 false (ixor a.toNat b.toNat) = (a ^^^ b).toNat ∧
    intRes 4 false (iandn a.toNat b.toNat) = (a &&& ~~~b).toNat ∧ intRes 4 false (iorn a.toNat b.toNat) = (a ||| ~~~b).toNat) ∧
  (∀ (a : BitVec 32) (n : Nat), intRes 4 false (shl 32 a.toNat n) = (a <<< n).toNat ∧ intRes 4 false (shr 32 a.toNat n) = (a >>> n).toNat ∧
    intRes 5 false (shr 32 a.toInt n) = (a.sshiftRight n).toNat ∧ intRes 4 false (rot 32 a.toNat n) = (a.rotateLeft n).toNat) ∧
  (∀ (v n i : Nat), i < n → (reverseBits v n).testBit i = v.testBit (n - 1 - i)) ∧
  (∀ (v : Nat), v < 2 ^ 32 → (v ≠ 0 → 2 ^ (31 - leadingZeros v 32) ≤ v) ∧ v < 2 ^ (32 - leadingZeros v 32))
end

