-- ==== Sys2Proof/Laws/Access.lean ====
section
/-! SUPPORT. What reads and writes of memory can do: the bytes they write, and that beyond bytes they change only the memory system's own
records. -/

namespace Sys2Proof.Machine

/-! ### Bytes of a step -/

/-- A write of `n` bytes leaves every other byte as it was. -/
theorem St.rd_wrN (s : St) (a n v b : Nat) (h : b < a ∨ a + n ≤ b) : (s.wrN a n v).rd b = s.rd b := by
  induction n generalizing s a v with
  | zero => rfl
  | succ n ih =>
    rw [St.wrN, ih _ _ _ (by omega)]
    have : (b == a) = false := by simp; omega
    simp only [St.rd, St.wr, List.lookup_cons, this]

/-- The number that was written reads back. -/
theorem St.rdN_wrN (s : St) (a n v : Nat) : (s.wrN a n v).rdN a n = v % 2 ^ (8 * n) := by
  induction n generalizing s a v with
  | zero => simp [St.rdN, Nat.mod_one]
  | succ n ih =>
    rw [St.rdN, St.wrN, ih, St.rd_wrN _ _ _ _ _ (by omega)]
    simp only [St.rd, St.wr, List.lookup_cons, beq_self_eq_true, BitVec.toNat_ofNat]
    rw [show 8 * (n + 1) = 8 * n + 8 by omega, Nat.pow_add, Nat.mul_comm (2 ^ (8 * n)), Nat.mod_mul]

@[simp] theorem St.wrN_d (s : St) (a n v : Nat) : (s.wrN a n v).d = s.d := by
  induction n generalizing s a v with
  | zero => rfl
  | succ n ih => rw [St.wrN, ih]; rfl

/-! ### The device without the memory system's records -/

/-- The device without clocks, messages, copies, owners, parks and poison of memory lines. -/
def Device.machine (d : Device) : Device :=
  { d with clk := [], applied := [], msgs := [], stale := [], readers := [], owners := [], lclk := [], poison := [], parks := [] }

theorem foldl_machine {α : Type} (f : Device → α → Device) (hf : ∀ d a, (f d a).machine = d.machine) (ls : List α) (d : Device) :
    (ls.foldl f d).machine = d.machine := by
  induction ls generalizing d with
  | nil => rfl
  | cons a r ih => rw [List.foldl_cons, ih, hf]

theorem foldl_machineS {α : Type} (f : St → α → St) (hf : ∀ s a, (f s a).d.machine = s.d.machine) (ls : List α) (s : St) :
    (ls.foldl f s).d.machine = s.d.machine := by
  induction ls generalizing s with
  | nil => rfl
  | cons a r ih => rw [List.foldl_cons, ih, hf]

@[simp] theorem machine_takeClk (d : Device) (e : Nat) (vc : Tab Nat) : (d.takeClk e vc).machine = d.machine := by
  show (d.drainUpTo e vc).machine = d.machine
  unfold Device.drainUpTo
  refine foldl_machine _ ?_ _ _
  intros; rfl

/-- A message between dies changes clocks and counts, and what it brings. -/
@[simp] theorem machine_send (d : Device) (o e : Nat) : (d.send o e).machine = d.machine := machine_takeClk _ _ _

@[simp] theorem machine_leaveClk (d : Device) (e ln : Nat) : (d.leaveClk e ln).machine = d.machine := by
  unfold Device.leaveClk; split <;> rfl

@[simp] theorem machine_meetLine (d : Device) (e ln : Nat) : (d.meetLine e ln).machine = d.machine := by
  unfold Device.meetLine; split <;> simp

@[simp] theorem machine_meetDie (d : Device) (e f : Nat) : (d.meetDie e f).machine = d.machine := by
  unfold Device.meetDie; split <;> simp

@[simp] theorem machine_fromOwner (d : Device) (e ln : Nat) : (d.fromOwner e ln).machine = d.machine := by
  unfold Device.fromOwner; dsimp only; split
  · rfl
  · split <;> simp

/-- A meeting at a park location. -/
@[simp] theorem machine_meetPark (d : Device) (e ln : Nat) (p : Park) (wr : Bool) : (d.meetPark e ln p wr).machine = d.machine := by
  have back : ∀ b : Device, ∀ k, (if b.clk.isEmpty then b else b.send k e).machine = b.machine := by
    intro b k; split <;> simp
  unfold Device.meetPark
  split
  · split
    · rfl
    · cases wr
      · exact back _ _
      · exact (back _ _).trans (machine_send d e _)
  · exact machine_meetLine d e ln

@[simp] theorem machine_obtain (d : Device) (e ln : Nat) : (d.obtain e ln).machine = d.machine := by
  unfold Device.obtain; split
  · rfl
  · exact machine_fromOwner d e ln

@[simp] theorem machine_own (d : Device) (e ln : Nat) : (d.own e ln).machine = d.machine := by
  unfold Device.own; split
  · rfl
  · dsimp only
    split <;> exact machine_fromOwner d e ln

/-- Bytes sent to the other dies change nothing else. -/
theorem machine_publish (s : St) (e ln : Nat) (cs : List Host.Cell) : (s.publish e ln cs).d.machine = s.d.machine := by
  unfold St.publish
  refine foldl_machineS _ ?_ _ _
  intros; rfl

theorem machine_meetAt (s : St) (core : Nat) (p : Place) : (s.meetAt core p).d.machine = s.d.machine := by
  cases p
  · exact machine_meetDie _ _ _
  · rfl
  · exact machine_meetLine _ _ _

theorem machine_wrLine (s : St) (e ln : Nat) (cs : List Host.Cell) : (s.wrLine e ln cs).d.machine = s.d.machine := by
  have h : ∀ (c : List Host.Cell) (t : St), (c.foldl (fun s c => s.wr c.1 c.2) t).d.machine = t.d.machine :=
    fun c t => foldl_machineS (fun s c => s.wr c.1 c.2) (by intros; rfl) c t
  have k : (match s.d.parks.get none ln with
      | some p => s.withD (·.meetPark e ln p true)
      | none => (s.withD (·.own e ln)).publish e ln cs).d.machine = s.d.machine := by
    split
    · exact machine_meetPark _ _ _ _ _
    · rw [machine_publish]; exact machine_own _ _ _
  unfold St.wrLine
  exact (h cs _).trans k

/-- A store at a place. -/
theorem machine_store (s : St) (core : Nat) (p : Place) (n v : Nat) : (s.store core p n v).d.machine = s.d.machine := by
  cases p
  · simp only [St.store, St.wrN_d]; exact machine_meetAt _ _ _
  · exact machine_wrLine _ _ _ _
  · simp only [St.store, St.wrN_d]; exact machine_meetAt _ _ _

/-- The writes of one instruction. -/
theorem machine_storeAll (s : St) (core : Nat) (ws : List (Place × Nat × Nat)) : (s.storeAll core ws).d.machine = s.d.machine := by
  unfold St.storeAll
  dsimp only
  refine (foldl_machineS (fun s (c : Nat × Byte) => s.wr c.1 c.2) (by intros; rfl) _ _).trans ?_
  refine (foldl_machineS _ (fun s ln => machine_wrLine s _ ln _) _ _).trans ?_
  exact foldl_machineS _ (fun s (w : Place × Nat × Nat) => machine_meetAt s core w.1) _ _

/-- The writes of one instruction leave every wave, block, context and operation as it was. -/
theorem storeAll_waves (s : St) (core : Nat) (ws : List (Place × Nat × Nat)) : (s.storeAll core ws).d.waves = s.d.waves :=
  congrArg (·.waves) (machine_storeAll s core ws)

end Sys2Proof.Machine
end

