-- ==== Sys2Proof/Laws/Memory.lean ====
section
/-! SUPPORT. The laws of tables and of memory: read after write, and that every write keeps the canonical form. -/

namespace Sys2Proof.Machine

theorem Tab.get_put (dflt : α) (t : Tab α) (a b : Nat) (v : α) :
    (t.put a v).get dflt b = if a = b then v else t.get dflt b := by
  induction t with
  | nil => simp [Tab.put, Tab.get]
  | cons e r ih =>
    obtain ⟨k, x⟩ := e
    simp only [Tab.put]
    split
    · simp only [Tab.get]
    · split
      · subst_vars; simp only [Tab.get]; split <;> simp_all
      · simp only [Tab.get, ih]; split <;> split <;> simp_all

@[simp] theorem Tab.get_put_self (dflt : α) (t : Tab α) (a : Nat) (v : α) : (t.put a v).get dflt a = v := by
  simp [Tab.get_put]

theorem Tab.get_put_ne (dflt : α) (t : Tab α) {a b : Nat} (v : α) (h : a ≠ b) : (t.put a v).get dflt b = t.get dflt b := by
  simp [Tab.get_put, h]

@[simp] theorem Memory.read_nil (a : Nat) : Memory.read [] a = Memory.unlisted := rfl

theorem Memory.read_lt {m : Memory} {lo a : Nat} (h : Memory.wfFrom lo m = true) (ha : a < lo) : m.read a = Memory.unlisted := by
  induction m generalizing lo with
  | nil => rfl
  | cons e r ih =>
    obtain ⟨k, x⟩ := e
    simp only [Memory.wfFrom, Bool.and_eq_true, decide_eq_true_eq] at h
    have hk : k ≠ a := by omega
    simp only [Memory.read, Tab.get, hk, if_false]
    exact ih h.2 (by omega)

theorem Memory.read_write {m : Memory} {lo : Nat} (hm : Memory.wfFrom lo m = true) (a b : Nat) (v : Byte) :
    (m.write a v).read b = if a = b then v else m.read b := by
  induction m generalizing lo with
  | nil =>
    simp only [Memory.write]
    split <;> simp_all [Memory.read, Tab.get, Memory.unlisted]
  | cons e r ih =>
    obtain ⟨k, x⟩ := e
    simp only [Memory.wfFrom, Bool.and_eq_true, decide_eq_true_eq] at hm
    have hr := ih hm.2
    simp only [Memory.write]
    split
    · next hak =>
      split
      · next hv =>
        split
        · next hab =>
          subst hab hv
          refine Memory.read_lt (m := (k, x) :: r) (lo := a + 1) ?_ (by omega)
          simp only [Memory.wfFrom, Bool.and_eq_true, decide_eq_true_eq]
          exact ⟨⟨by omega, hm.1.2⟩, hm.2⟩
        · rfl
      · simp only [Memory.read, Tab.get]
    · split
      · next h1 h2 =>
        subst h2
        split
        · next hv =>
          split
          · next hab => subst hab hv; exact Memory.read_lt hm.2 (by omega)
          · next hab => simp only [Memory.read, Tab.get, hab, if_false]
        · simp only [Memory.read, Tab.get]; split <;> rfl
      · next h1 h2 =>
        simp only [Memory.read, Tab.get]
        split
        · next hkb => subst hkb; simp [h2]
        · exact hr

theorem Memory.wfFrom_mono {m : Memory} {lo lo' : Nat} (h : lo' ≤ lo) (hm : Memory.wfFrom lo m = true) : Memory.wfFrom lo' m = true := by
  cases m with
  | nil => rfl
  | cons e r =>
    obtain ⟨k, x⟩ := e
    simp only [Memory.wfFrom, Bool.and_eq_true, decide_eq_true_eq] at hm ⊢
    exact ⟨⟨by omega, hm.1.2⟩, hm.2⟩

theorem Memory.wfFrom_write {m : Memory} {lo : Nat} (hm : Memory.wfFrom lo m = true) {a : Nat} (v : Byte) (ha : lo ≤ a) :
    Memory.wfFrom lo (m.write a v) = true := by
  induction m generalizing lo with
  | nil => simp only [Memory.write]; split <;> simp_all [Memory.wfFrom]
  | cons e r ih =>
    obtain ⟨k, x⟩ := e
    have hm' := hm
    simp only [Memory.wfFrom, Bool.and_eq_true, decide_eq_true_eq, bne_iff_ne] at hm
    simp only [Memory.write]
    split
    · split
      · exact hm'
      · simp only [Memory.wfFrom, Bool.and_eq_true, decide_eq_true_eq, bne_iff_ne]
        exact ⟨⟨ha, by assumption⟩, ⟨by omega, hm.1.2⟩, hm.2⟩
    · split
      · split
        · exact Memory.wfFrom_mono (by omega) hm.2
        · simp only [Memory.wfFrom, Bool.and_eq_true, decide_eq_true_eq, bne_iff_ne]
          subst_vars
          exact ⟨⟨ha, by assumption⟩, hm.2⟩
      · simp only [Memory.wfFrom, Bool.and_eq_true, decide_eq_true_eq, bne_iff_ne]
        exact ⟨hm.1, ih hm.2 (by omega)⟩

/-- A write keeps the canonical form. -/
theorem Memory.wf_write {m : Memory} (hm : m.wf = true) (a : Nat) (v : Byte) : (m.write a v).wf = true :=
  Memory.wfFrom_write hm v (Nat.zero_le a)

/-- Any list of writes keeps the canonical form. -/
theorem Memory.wf_writeAll {m : Memory} (hm : m.wf = true) (l : List Host.Cell) : (m.writeAll l).wf = true := by
  induction l with
  | nil => exact hm
  | cons c r ih => obtain ⟨a, v⟩ := c; exact Memory.wf_write ih a v

/-- A read after some writes gives what the last write to the address wrote, else what was there. -/
theorem Memory.read_writeAll {m : Memory} (hm : m.wf = true) (l : List Host.Cell) (a : Nat) :
    (m.writeAll l).read a = (l.lookup a).getD (m.read a) := by
  induction l with
  | nil => rfl
  | cons c r ih =>
    obtain ⟨b, v⟩ := c
    simp only [Memory.writeAll, List.lookup_cons]
    rw [Memory.read_write (lo := 0) (Memory.wf_writeAll hm r), ih]
    by_cases h : b = a
    · subst h; simp
    · have : (a == b) = false := by simp; omega
      simp [h, this]

end Sys2Proof.Machine
end

