-- ==== Sys2Proof/Laws/State.lean ====
section
/-! SUPPORT. What each update of the state leaves alone, field by field, so that no proof unfolds a record update. -/

namespace Sys2Proof.Machine

/-- `setThread` writes `thr`, and no other field. -/
@[simp] theorem Wave.setThread_fields (x : Wave) (l : Nat) (t : Thread) :
    (x.setThread l t).live = x.live ∧ (x.setThread l t).uid = x.uid ∧ (x.setThread l t).blk = x.blk ∧ (x.setThread l t).widx = x.widx ∧
    (x.setThread l t).alloc = x.alloc ∧ (x.setThread l t).role = x.role ∧ (x.setThread l t).regs = x.regs ∧
    (x.setThread l t).preds = x.preds ∧ (x.setThread l t).thr = x.thr.put l t ∧ (x.setThread l t).masks = x.masks ∧
    (x.setThread l t).toks = x.toks ∧ (x.setThread l t).ns = x.ns ∧ (x.setThread l t).pend = x.pend ∧ (x.setThread l t).pipe = x.pipe ∧
    (x.setThread l t).pos = x.pos ∧ (x.setThread l t).rc = x.rc ∧ (x.setThread l t).fav = x.fav ∧ (x.setThread l t).handler = x.handler ∧
    (x.setThread l t).fault = x.fault ∧ (x.setThread l t).frame = x.frame ∧ (x.setThread l t).parked = x.parked ∧
    (x.setThread l t).latch = x.latch ∧ (x.setThread l t).parkAt = x.parkAt ∧ (x.setThread l t).ops = x.ops ∧
    (x.setThread l t).opn = x.opn ∧ (x.setThread l t).outw = x.outw ∧ (x.setThread l t).wseq = x.wseq ∧
    (x.setThread l t).untracked = x.untracked ∧ (x.setThread l t).asyncDue = x.asyncDue ∧ (x.setThread l t).spill = x.spill ∧
    (x.setThread l t).membership = x.membership ∧ (x.setThread l t).wait = x.wait ∧ (x.setThread l t).stall = x.stall ∧
    (x.setThread l t).walking = x.walking ∧ (x.setThread l t).lastIssue = x.lastIssue ∧ (x.setThread l t).bad = x.bad ∧
    (x.setThread l t).stepping = x.stepping ∧ (x.setThread l t).leaving = x.leaving ∧ (x.setThread l t).priority = x.priority ∧
    (x.setThread l t).pmcSet = x.pmcSet := by
  and_intros <;> rfl

/-- `updThread` writes `thr`, and no other field. -/
@[simp] theorem Wave.updThread_fields (x : Wave) (l : Nat) (f : Thread → Thread) :
    (x.updThread l f).live = x.live ∧ (x.updThread l f).uid = x.uid ∧ (x.updThread l f).blk = x.blk ∧ (x.updThread l f).widx = x.widx ∧
    (x.updThread l f).alloc = x.alloc ∧ (x.updThread l f).role = x.role ∧ (x.updThread l f).regs = x.regs ∧
    (x.updThread l f).preds = x.preds ∧ (x.updThread l f).masks = x.masks ∧ (x.updThread l f).toks = x.toks ∧ (x.updThread l f).ns = x.ns ∧
    (x.updThread l f).pend = x.pend ∧ (x.updThread l f).pipe = x.pipe ∧ (x.updThread l f).pos = x.pos ∧ (x.updThread l f).rc = x.rc ∧
    (x.updThread l f).fav = x.fav ∧ (x.updThread l f).handler = x.handler ∧ (x.updThread l f).fault = x.fault ∧
    (x.updThread l f).frame = x.frame ∧ (x.updThread l f).parked = x.parked ∧ (x.updThread l f).latch = x.latch ∧
    (x.updThread l f).parkAt = x.parkAt ∧ (x.updThread l f).ops = x.ops ∧ (x.updThread l f).opn = x.opn ∧ (x.updThread l f).outw = x.outw ∧
    (x.updThread l f).wseq = x.wseq ∧ (x.updThread l f).untracked = x.untracked ∧ (x.updThread l f).asyncDue = x.asyncDue ∧
    (x.updThread l f).spill = x.spill ∧ (x.updThread l f).membership = x.membership ∧ (x.updThread l f).wait = x.wait ∧
    (x.updThread l f).stall = x.stall ∧ (x.updThread l f).walking = x.walking ∧ (x.updThread l f).lastIssue = x.lastIssue ∧
    (x.updThread l f).bad = x.bad ∧ (x.updThread l f).stepping = x.stepping ∧ (x.updThread l f).leaving = x.leaving ∧
    (x.updThread l f).priority = x.priority ∧ (x.updThread l f).pmcSet = x.pmcSet := by
  and_intros <;> rfl

/-- `setReg` writes `regs`, and no other field. -/
@[simp] theorem Wave.setReg_fields (x : Wave) (l r : Nat) (v : W32) :
    (x.setReg l r v).live = x.live ∧ (x.setReg l r v).uid = x.uid ∧ (x.setReg l r v).blk = x.blk ∧ (x.setReg l r v).widx = x.widx ∧
    (x.setReg l r v).alloc = x.alloc ∧ (x.setReg l r v).role = x.role ∧ (x.setReg l r v).regs = x.regs.put (256 * l + r) v ∧
    (x.setReg l r v).preds = x.preds ∧ (x.setReg l r v).thr = x.thr ∧ (x.setReg l r v).masks = x.masks ∧ (x.setReg l r v).toks = x.toks ∧
    (x.setReg l r v).ns = x.ns ∧ (x.setReg l r v).pend = x.pend ∧ (x.setReg l r v).pipe = x.pipe ∧ (x.setReg l r v).pos = x.pos ∧
    (x.setReg l r v).rc = x.rc ∧ (x.setReg l r v).fav = x.fav ∧ (x.setReg l r v).handler = x.handler ∧ (x.setReg l r v).fault = x.fault ∧
    (x.setReg l r v).frame = x.frame ∧ (x.setReg l r v).parked = x.parked ∧ (x.setReg l r v).latch = x.latch ∧
    (x.setReg l r v).parkAt = x.parkAt ∧ (x.setReg l r v).ops = x.ops ∧ (x.setReg l r v).opn = x.opn ∧ (x.setReg l r v).outw = x.outw ∧
    (x.setReg l r v).wseq = x.wseq ∧ (x.setReg l r v).untracked = x.untracked ∧ (x.setReg l r v).asyncDue = x.asyncDue ∧
    (x.setReg l r v).spill = x.spill ∧ (x.setReg l r v).membership = x.membership ∧ (x.setReg l r v).wait = x.wait ∧
    (x.setReg l r v).stall = x.stall ∧ (x.setReg l r v).walking = x.walking ∧ (x.setReg l r v).lastIssue = x.lastIssue ∧
    (x.setReg l r v).stepping = x.stepping ∧ (x.setReg l r v).leaving = x.leaving ∧ (x.setReg l r v).priority = x.priority ∧
    (x.setReg l r v).pmcSet = x.pmcSet := by
  and_intros <;> rfl

/-- `setMask` writes `masks`, and no other field. -/
@[simp] theorem Wave.setMask_fields (x : Wave) (i : Nat) (m : Mask) :
    (x.setMask i m).live = x.live ∧ (x.setMask i m).uid = x.uid ∧ (x.setMask i m).blk = x.blk ∧ (x.setMask i m).widx = x.widx ∧
    (x.setMask i m).alloc = x.alloc ∧ (x.setMask i m).role = x.role ∧ (x.setMask i m).regs = x.regs ∧ (x.setMask i m).preds = x.preds ∧
    (x.setMask i m).thr = x.thr ∧ (x.setMask i m).toks = x.toks ∧ (x.setMask i m).ns = x.ns ∧ (x.setMask i m).pend = x.pend ∧
    (x.setMask i m).pipe = x.pipe ∧ (x.setMask i m).pos = x.pos ∧ (x.setMask i m).rc = x.rc ∧ (x.setMask i m).fav = x.fav ∧
    (x.setMask i m).handler = x.handler ∧ (x.setMask i m).fault = x.fault ∧ (x.setMask i m).frame = x.frame ∧
    (x.setMask i m).parked = x.parked ∧ (x.setMask i m).latch = x.latch ∧ (x.setMask i m).parkAt = x.parkAt ∧ (x.setMask i m).ops = x.ops ∧
    (x.setMask i m).opn = x.opn ∧ (x.setMask i m).outw = x.outw ∧ (x.setMask i m).wseq = x.wseq ∧ (x.setMask i m).untracked = x.untracked ∧
    (x.setMask i m).asyncDue = x.asyncDue ∧ (x.setMask i m).spill = x.spill ∧ (x.setMask i m).membership = x.membership ∧
    (x.setMask i m).wait = x.wait ∧ (x.setMask i m).stall = x.stall ∧ (x.setMask i m).walking = x.walking ∧
    (x.setMask i m).lastIssue = x.lastIssue ∧ (x.setMask i m).bad = x.bad ∧ (x.setMask i m).stepping = x.stepping ∧
    (x.setMask i m).leaving = x.leaving ∧ (x.setMask i m).priority = x.priority ∧ (x.setMask i m).pmcSet = x.pmcSet := by
  and_intros <;> rfl

/-- `setTok` writes `toks`, and no other field. -/
@[simp] theorem Wave.setTok_fields (x : Wave) (k : Nat) (t : Token) :
    (x.setTok k t).live = x.live ∧ (x.setTok k t).uid = x.uid ∧ (x.setTok k t).blk = x.blk ∧ (x.setTok k t).widx = x.widx ∧
    (x.setTok k t).alloc = x.alloc ∧ (x.setTok k t).role = x.role ∧ (x.setTok k t).regs = x.regs ∧ (x.setTok k t).preds = x.preds ∧
    (x.setTok k t).thr = x.thr ∧ (x.setTok k t).masks = x.masks ∧ (x.setTok k t).toks = x.toks.put k t ∧ (x.setTok k t).ns = x.ns ∧
    (x.setTok k t).pend = x.pend ∧ (x.setTok k t).pipe = x.pipe ∧ (x.setTok k t).pos = x.pos ∧ (x.setTok k t).rc = x.rc ∧
    (x.setTok k t).fav = x.fav ∧ (x.setTok k t).handler = x.handler ∧ (x.setTok k t).fault = x.fault ∧ (x.setTok k t).frame = x.frame ∧
    (x.setTok k t).parked = x.parked ∧ (x.setTok k t).latch = x.latch ∧ (x.setTok k t).parkAt = x.parkAt ∧ (x.setTok k t).ops = x.ops ∧
    (x.setTok k t).opn = x.opn ∧ (x.setTok k t).outw = x.outw ∧ (x.setTok k t).wseq = x.wseq ∧ (x.setTok k t).untracked = x.untracked ∧
    (x.setTok k t).asyncDue = x.asyncDue ∧ (x.setTok k t).spill = x.spill ∧ (x.setTok k t).membership = x.membership ∧
    (x.setTok k t).wait = x.wait ∧ (x.setTok k t).stall = x.stall ∧ (x.setTok k t).walking = x.walking ∧
    (x.setTok k t).lastIssue = x.lastIssue ∧ (x.setTok k t).bad = x.bad ∧ (x.setTok k t).stepping = x.stepping ∧
    (x.setTok k t).leaving = x.leaving ∧ (x.setTok k t).priority = x.priority ∧ (x.setTok k t).pmcSet = x.pmcSet := by
  and_intros <;> rfl

/-- `setWave` writes `waves`, and no other field. -/
@[simp] theorem Device.setWave_fields (d : Device) (w : Nat) (x : Wave) :
    (d.setWave w x).waves = d.waves.put w x ∧ (d.setWave w x).blocks = d.blocks ∧ (d.setWave w x).saved = d.saved ∧
    (d.setWave w x).copies = d.copies ∧ (d.setWave w x).mats = d.mats ∧ (d.setWave w x).binds = d.binds ∧
    (d.setWave w x).bindOut = d.bindOut ∧ (d.setWave w x).bindDue = d.bindDue ∧ (d.setWave w x).split = d.split ∧
    (d.setWave w x).segs = d.segs ∧ (d.setWave w x).gens = d.gens ∧ (d.setWave w x).forms = d.forms ∧ (d.setWave w x).transit = d.transit ∧
    (d.setWave w x).spill = d.spill ∧ (d.setWave w x).overflowDue = d.overflowDue ∧ (d.setWave w x).offersDue = d.offersDue ∧
    (d.setWave w x).qwaits = d.qwaits ∧ (d.setWave w x).late = d.late ∧ (d.setWave w x).orphans = d.orphans ∧
    (d.setWave w x).bwaits = d.bwaits ∧ (d.setWave w x).parks = d.parks ∧ (d.setWave w x).parkn = d.parkn ∧
    (d.setWave w x).locals = d.locals ∧ (d.setWave w x).fbuf = d.fbuf ∧ (d.setWave w x).clk = d.clk ∧ (d.setWave w x).applied = d.applied ∧
    (d.setWave w x).msgs = d.msgs ∧ (d.setWave w x).stale = d.stale ∧ (d.setWave w x).readers = d.readers ∧
    (d.setWave w x).owners = d.owners ∧ (d.setWave w x).lclk = d.lclk ∧ (d.setWave w x).poison = d.poison ∧
    (d.setWave w x).badAcc = d.badAcc ∧ (d.setWave w x).tlb = d.tlb ∧ (d.setWave w x).iblocks = d.iblocks ∧
    (d.setWave w x).launches = d.launches ∧ (d.setWave w x).lqs = d.lqs ∧ (d.setWave w x).lseq = d.lseq ∧
    (d.setWave w x).lqLast = d.lqLast ∧ (d.setWave w x).lreqs = d.lreqs ∧ (d.setWave w x).lqrecs = d.lqrecs ∧
    (d.setWave w x).contexts = d.contexts ∧ (d.setWave w x).bindings = d.bindings ∧ (d.setWave w x).partitions = d.partitions ∧
    (d.setWave w x).fabWait = d.fabWait ∧ (d.setWave w x).fabOut = d.fabOut ∧ (d.setWave w x).slotTabs = d.slotTabs ∧
    (d.setWave w x).linksDown = d.linksDown ∧ (d.setWave w x).fabricUp = d.fabricUp ∧ (d.setWave w x).torus = d.torus ∧
    (d.setWave w x).coords = d.coords ∧ (d.setWave w x).hreg = d.hreg ∧ (d.setWave w x).link = d.link ∧
    (d.setWave w x).linkWidth = d.linkWidth ∧ (d.setWave w x).linkRate = d.linkRate ∧ (d.setWave w x).linkFerr = d.linkFerr ∧
    (d.setWave w x).retries = d.retries ∧ (d.setWave w x).hostHeld = d.hostHeld ∧ (d.setWave w x).loadReports = d.loadReports ∧
    (d.setWave w x).retrainFails = d.retrainFails ∧ (d.setWave w x).serc = d.serc ∧ (d.setWave w x).power = d.power ∧
    (d.setWave w x).fwImages = d.fwImages ∧ (d.setWave w x).debugOn = d.debugOn ∧ (d.setWave w x).report = d.report ∧
    (d.setWave w x).dbg = d.dbg ∧ (d.setWave w x).dbgStatus = d.dbgStatus ∧ (d.setWave w x).stopped = d.stopped ∧
    (d.setWave w x).clock = d.clock ∧ (d.setWave w x).fp64Now = d.fp64Now ∧ (d.setWave w x).fp64Last = d.fp64Last ∧
    (d.setWave w x).pth = d.pth ∧ (d.setWave w x).period = d.period ∧ (d.setWave w x).outs = d.outs ∧
    (d.setWave w x).discards = d.discards ∧ (d.setWave w x).abandons = d.abandons ∧ (d.setWave w x).occ = d.occ ∧
    (d.setWave w x).cool = d.cool ∧ (d.setWave w x).hopsIn = d.hopsIn ∧ (d.setWave w x).extra = d.extra ∧ (d.setWave w x).logs = d.logs ∧
    (d.setWave w x).agenda = d.agenda ∧ (d.setWave w x).cur = d.cur ∧ (d.setWave w x).turn = d.turn ∧ (d.setWave w x).free = d.free ∧
    (d.setWave w x).iword = d.iword ∧ (d.setWave w x).uidn = d.uidn ∧ (d.setWave w x).idn = d.idn ∧ (d.setWave w x).turns = d.turns ∧
    (d.setWave w x).issued = d.issued ∧ (d.setWave w x).holdback = d.holdback ∧ (d.setWave w x).upsets = d.upsets ∧
    (d.setWave w x).settings = d.settings := by
  and_intros <;> rfl

/-- `setBlock` writes `blocks`, and no other field. -/
@[simp] theorem Device.setBlock_fields (d : Device) (b : Nat) (x : Block) :
    (d.setBlock b x).waves = d.waves ∧ (d.setBlock b x).blocks = d.blocks.put b x ∧ (d.setBlock b x).saved = d.saved ∧
    (d.setBlock b x).copies = d.copies ∧ (d.setBlock b x).mats = d.mats ∧ (d.setBlock b x).binds = d.binds ∧
    (d.setBlock b x).bindOut = d.bindOut ∧ (d.setBlock b x).bindDue = d.bindDue ∧ (d.setBlock b x).split = d.split ∧
    (d.setBlock b x).segs = d.segs ∧ (d.setBlock b x).gens = d.gens ∧ (d.setBlock b x).forms = d.forms ∧
    (d.setBlock b x).transit = d.transit ∧ (d.setBlock b x).spill = d.spill ∧ (d.setBlock b x).overflowDue = d.overflowDue ∧
    (d.setBlock b x).offersDue = d.offersDue ∧ (d.setBlock b x).qwaits = d.qwaits ∧ (d.setBlock b x).late = d.late ∧
    (d.setBlock b x).orphans = d.orphans ∧ (d.setBlock b x).bwaits = d.bwaits ∧ (d.setBlock b x).parks = d.parks ∧
    (d.setBlock b x).parkn = d.parkn ∧ (d.setBlock b x).locals = d.locals ∧ (d.setBlock b x).fbuf = d.fbuf ∧ (d.setBlock b x).clk = d.clk ∧
    (d.setBlock b x).applied = d.applied ∧ (d.setBlock b x).msgs = d.msgs ∧ (d.setBlock b x).stale = d.stale ∧
    (d.setBlock b x).readers = d.readers ∧ (d.setBlock b x).owners = d.owners ∧ (d.setBlock b x).lclk = d.lclk ∧
    (d.setBlock b x).poison = d.poison ∧ (d.setBlock b x).badAcc = d.badAcc ∧ (d.setBlock b x).tlb = d.tlb ∧
    (d.setBlock b x).iblocks = d.iblocks ∧ (d.setBlock b x).launches = d.launches ∧ (d.setBlock b x).lqs = d.lqs ∧
    (d.setBlock b x).lseq = d.lseq ∧ (d.setBlock b x).lqLast = d.lqLast ∧ (d.setBlock b x).lreqs = d.lreqs ∧
    (d.setBlock b x).lqrecs = d.lqrecs ∧ (d.setBlock b x).contexts = d.contexts ∧ (d.setBlock b x).bindings = d.bindings ∧
    (d.setBlock b x).partitions = d.partitions ∧ (d.setBlock b x).fabWait = d.fabWait ∧ (d.setBlock b x).fabOut = d.fabOut ∧
    (d.setBlock b x).slotTabs = d.slotTabs ∧ (d.setBlock b x).linksDown = d.linksDown ∧ (d.setBlock b x).fabricUp = d.fabricUp ∧
    (d.setBlock b x).torus = d.torus ∧ (d.setBlock b x).coords = d.coords ∧ (d.setBlock b x).hreg = d.hreg ∧
    (d.setBlock b x).link = d.link ∧ (d.setBlock b x).linkWidth = d.linkWidth ∧ (d.setBlock b x).linkRate = d.linkRate ∧
    (d.setBlock b x).linkFerr = d.linkFerr ∧ (d.setBlock b x).retries = d.retries ∧ (d.setBlock b x).hostHeld = d.hostHeld ∧
    (d.setBlock b x).loadReports = d.loadReports ∧ (d.setBlock b x).retrainFails = d.retrainFails ∧ (d.setBlock b x).serc = d.serc ∧
    (d.setBlock b x).power = d.power ∧ (d.setBlock b x).fwImages = d.fwImages ∧ (d.setBlock b x).debugOn = d.debugOn ∧
    (d.setBlock b x).report = d.report ∧ (d.setBlock b x).dbg = d.dbg ∧ (d.setBlock b x).dbgStatus = d.dbgStatus ∧
    (d.setBlock b x).stopped = d.stopped ∧ (d.setBlock b x).clock = d.clock ∧ (d.setBlock b x).fp64Now = d.fp64Now ∧
    (d.setBlock b x).fp64Last = d.fp64Last ∧ (d.setBlock b x).pth = d.pth ∧ (d.setBlock b x).period = d.period ∧
    (d.setBlock b x).outs = d.outs ∧ (d.setBlock b x).discards = d.discards ∧ (d.setBlock b x).abandons = d.abandons ∧
    (d.setBlock b x).occ = d.occ ∧ (d.setBlock b x).cool = d.cool ∧ (d.setBlock b x).hopsIn = d.hopsIn ∧ (d.setBlock b x).extra = d.extra ∧
    (d.setBlock b x).logs = d.logs ∧ (d.setBlock b x).agenda = d.agenda ∧ (d.setBlock b x).cur = d.cur ∧ (d.setBlock b x).turn = d.turn ∧
    (d.setBlock b x).free = d.free ∧ (d.setBlock b x).iword = d.iword ∧ (d.setBlock b x).uidn = d.uidn ∧ (d.setBlock b x).idn = d.idn ∧
    (d.setBlock b x).turns = d.turns ∧ (d.setBlock b x).issued = d.issued ∧ (d.setBlock b x).holdback = d.holdback ∧
    (d.setBlock b x).upsets = d.upsets ∧ (d.setBlock b x).settings = d.settings := by
  and_intros <;> rfl

/-- `setCtx` writes `contexts`, and no other field. -/
@[simp] theorem Device.setCtx_fields (d : Device) (a : Nat) (x : Context) :
    (d.setCtx a x).waves = d.waves ∧ (d.setCtx a x).blocks = d.blocks ∧ (d.setCtx a x).saved = d.saved ∧ (d.setCtx a x).copies = d.copies ∧
    (d.setCtx a x).mats = d.mats ∧ (d.setCtx a x).binds = d.binds ∧ (d.setCtx a x).bindOut = d.bindOut ∧
    (d.setCtx a x).bindDue = d.bindDue ∧ (d.setCtx a x).split = d.split ∧ (d.setCtx a x).segs = d.segs ∧ (d.setCtx a x).gens = d.gens ∧
    (d.setCtx a x).forms = d.forms ∧ (d.setCtx a x).transit = d.transit ∧ (d.setCtx a x).spill = d.spill ∧
    (d.setCtx a x).overflowDue = d.overflowDue ∧ (d.setCtx a x).offersDue = d.offersDue ∧ (d.setCtx a x).qwaits = d.qwaits ∧
    (d.setCtx a x).late = d.late ∧ (d.setCtx a x).orphans = d.orphans ∧ (d.setCtx a x).bwaits = d.bwaits ∧ (d.setCtx a x).parks = d.parks ∧
    (d.setCtx a x).parkn = d.parkn ∧ (d.setCtx a x).locals = d.locals ∧ (d.setCtx a x).fbuf = d.fbuf ∧ (d.setCtx a x).clk = d.clk ∧
    (d.setCtx a x).applied = d.applied ∧ (d.setCtx a x).msgs = d.msgs ∧ (d.setCtx a x).stale = d.stale ∧
    (d.setCtx a x).readers = d.readers ∧ (d.setCtx a x).owners = d.owners ∧ (d.setCtx a x).lclk = d.lclk ∧
    (d.setCtx a x).poison = d.poison ∧ (d.setCtx a x).badAcc = d.badAcc ∧ (d.setCtx a x).tlb = d.tlb ∧ (d.setCtx a x).iblocks = d.iblocks ∧
    (d.setCtx a x).launches = d.launches ∧ (d.setCtx a x).lqs = d.lqs ∧ (d.setCtx a x).lseq = d.lseq ∧ (d.setCtx a x).lqLast = d.lqLast ∧
    (d.setCtx a x).lreqs = d.lreqs ∧ (d.setCtx a x).lqrecs = d.lqrecs ∧ (d.setCtx a x).contexts = d.contexts.put a x ∧
    (d.setCtx a x).bindings = d.bindings ∧ (d.setCtx a x).partitions = d.partitions ∧ (d.setCtx a x).fabWait = d.fabWait ∧
    (d.setCtx a x).fabOut = d.fabOut ∧ (d.setCtx a x).slotTabs = d.slotTabs ∧ (d.setCtx a x).linksDown = d.linksDown ∧
    (d.setCtx a x).fabricUp = d.fabricUp ∧ (d.setCtx a x).torus = d.torus ∧ (d.setCtx a x).coords = d.coords ∧
    (d.setCtx a x).hreg = d.hreg ∧ (d.setCtx a x).link = d.link ∧ (d.setCtx a x).linkWidth = d.linkWidth ∧
    (d.setCtx a x).linkRate = d.linkRate ∧ (d.setCtx a x).linkFerr = d.linkFerr ∧ (d.setCtx a x).retries = d.retries ∧
    (d.setCtx a x).hostHeld = d.hostHeld ∧ (d.setCtx a x).loadReports = d.loadReports ∧ (d.setCtx a x).retrainFails = d.retrainFails ∧
    (d.setCtx a x).serc = d.serc ∧ (d.setCtx a x).power = d.power ∧ (d.setCtx a x).fwImages = d.fwImages ∧
    (d.setCtx a x).debugOn = d.debugOn ∧ (d.setCtx a x).report = d.report ∧ (d.setCtx a x).dbg = d.dbg ∧
    (d.setCtx a x).dbgStatus = d.dbgStatus ∧ (d.setCtx a x).stopped = d.stopped ∧ (d.setCtx a x).clock = d.clock ∧
    (d.setCtx a x).fp64Now = d.fp64Now ∧ (d.setCtx a x).fp64Last = d.fp64Last ∧ (d.setCtx a x).pth = d.pth ∧
    (d.setCtx a x).period = d.period ∧ (d.setCtx a x).outs = d.outs ∧ (d.setCtx a x).discards = d.discards ∧
    (d.setCtx a x).abandons = d.abandons ∧ (d.setCtx a x).occ = d.occ ∧ (d.setCtx a x).cool = d.cool ∧ (d.setCtx a x).hopsIn = d.hopsIn ∧
    (d.setCtx a x).extra = d.extra ∧ (d.setCtx a x).logs = d.logs ∧ (d.setCtx a x).agenda = d.agenda ∧ (d.setCtx a x).cur = d.cur ∧
    (d.setCtx a x).turn = d.turn ∧ (d.setCtx a x).free = d.free ∧ (d.setCtx a x).iword = d.iword ∧ (d.setCtx a x).uidn = d.uidn ∧
    (d.setCtx a x).idn = d.idn ∧ (d.setCtx a x).turns = d.turns ∧ (d.setCtx a x).issued = d.issued ∧ (d.setCtx a x).holdback = d.holdback ∧
    (d.setCtx a x).upsets = d.upsets ∧ (d.setCtx a x).settings = d.settings := by
  and_intros <;> rfl

/-- `pmc` writes `contexts`, and no other field. -/
@[simp] theorem Device.pmc_fields (d : Device) (asid core i n : Nat) :
    (d.pmc asid core i n).waves = d.waves ∧ (d.pmc asid core i n).blocks = d.blocks ∧ (d.pmc asid core i n).saved = d.saved ∧
    (d.pmc asid core i n).copies = d.copies ∧ (d.pmc asid core i n).mats = d.mats ∧ (d.pmc asid core i n).binds = d.binds ∧
    (d.pmc asid core i n).bindOut = d.bindOut ∧ (d.pmc asid core i n).bindDue = d.bindDue ∧ (d.pmc asid core i n).split = d.split ∧
    (d.pmc asid core i n).segs = d.segs ∧ (d.pmc asid core i n).gens = d.gens ∧ (d.pmc asid core i n).forms = d.forms ∧
    (d.pmc asid core i n).transit = d.transit ∧ (d.pmc asid core i n).spill = d.spill ∧ (d.pmc asid core i n).overflowDue = d.overflowDue ∧
    (d.pmc asid core i n).offersDue = d.offersDue ∧ (d.pmc asid core i n).qwaits = d.qwaits ∧ (d.pmc asid core i n).late = d.late ∧
    (d.pmc asid core i n).orphans = d.orphans ∧ (d.pmc asid core i n).bwaits = d.bwaits ∧ (d.pmc asid core i n).parks = d.parks ∧
    (d.pmc asid core i n).parkn = d.parkn ∧ (d.pmc asid core i n).locals = d.locals ∧ (d.pmc asid core i n).fbuf = d.fbuf ∧
    (d.pmc asid core i n).clk = d.clk ∧ (d.pmc asid core i n).applied = d.applied ∧ (d.pmc asid core i n).msgs = d.msgs ∧
    (d.pmc asid core i n).stale = d.stale ∧ (d.pmc asid core i n).readers = d.readers ∧ (d.pmc asid core i n).owners = d.owners ∧
    (d.pmc asid core i n).lclk = d.lclk ∧ (d.pmc asid core i n).poison = d.poison ∧ (d.pmc asid core i n).badAcc = d.badAcc ∧
    (d.pmc asid core i n).tlb = d.tlb ∧ (d.pmc asid core i n).iblocks = d.iblocks ∧ (d.pmc asid core i n).launches = d.launches ∧
    (d.pmc asid core i n).lqs = d.lqs ∧ (d.pmc asid core i n).lseq = d.lseq ∧ (d.pmc asid core i n).lqLast = d.lqLast ∧
    (d.pmc asid core i n).lreqs = d.lreqs ∧ (d.pmc asid core i n).lqrecs = d.lqrecs ∧ (d.pmc asid core i n).bindings = d.bindings ∧
    (d.pmc asid core i n).partitions = d.partitions ∧ (d.pmc asid core i n).fabWait = d.fabWait ∧ (d.pmc asid core i n).fabOut = d.fabOut ∧
    (d.pmc asid core i n).slotTabs = d.slotTabs ∧ (d.pmc asid core i n).linksDown = d.linksDown ∧
    (d.pmc asid core i n).fabricUp = d.fabricUp ∧ (d.pmc asid core i n).torus = d.torus ∧ (d.pmc asid core i n).coords = d.coords ∧
    (d.pmc asid core i n).hreg = d.hreg ∧ (d.pmc asid core i n).link = d.link ∧ (d.pmc asid core i n).linkWidth = d.linkWidth ∧
    (d.pmc asid core i n).linkRate = d.linkRate ∧ (d.pmc asid core i n).linkFerr = d.linkFerr ∧ (d.pmc asid core i n).retries = d.retries ∧
    (d.pmc asid core i n).hostHeld = d.hostHeld ∧ (d.pmc asid core i n).loadReports = d.loadReports ∧
    (d.pmc asid core i n).retrainFails = d.retrainFails ∧ (d.pmc asid core i n).serc = d.serc ∧ (d.pmc asid core i n).power = d.power ∧
    (d.pmc asid core i n).fwImages = d.fwImages ∧ (d.pmc asid core i n).debugOn = d.debugOn ∧ (d.pmc asid core i n).report = d.report ∧
    (d.pmc asid core i n).dbg = d.dbg ∧ (d.pmc asid core i n).dbgStatus = d.dbgStatus ∧ (d.pmc asid core i n).stopped = d.stopped ∧
    (d.pmc asid core i n).clock = d.clock ∧ (d.pmc asid core i n).fp64Now = d.fp64Now ∧ (d.pmc asid core i n).fp64Last = d.fp64Last ∧
    (d.pmc asid core i n).pth = d.pth ∧ (d.pmc asid core i n).period = d.period ∧ (d.pmc asid core i n).outs = d.outs ∧
    (d.pmc asid core i n).discards = d.discards ∧ (d.pmc asid core i n).abandons = d.abandons ∧ (d.pmc asid core i n).occ = d.occ ∧
    (d.pmc asid core i n).cool = d.cool ∧ (d.pmc asid core i n).hopsIn = d.hopsIn ∧ (d.pmc asid core i n).extra = d.extra ∧
    (d.pmc asid core i n).logs = d.logs ∧ (d.pmc asid core i n).agenda = d.agenda ∧ (d.pmc asid core i n).cur = d.cur ∧
    (d.pmc asid core i n).turn = d.turn ∧ (d.pmc asid core i n).free = d.free ∧ (d.pmc asid core i n).iword = d.iword ∧
    (d.pmc asid core i n).uidn = d.uidn ∧ (d.pmc asid core i n).idn = d.idn ∧ (d.pmc asid core i n).turns = d.turns ∧
    (d.pmc asid core i n).issued = d.issued ∧ (d.pmc asid core i n).holdback = d.holdback ∧ (d.pmc asid core i n).upsets = d.upsets ∧
    (d.pmc asid core i n).settings = d.settings := by
  and_intros <;> rfl

/-! Reading back -/

@[simp] theorem Device.wave_setWave (d : Device) (w k : Nat) (x : Wave) : (d.setWave w x).wave k = if w = k then x else d.wave k :=
  Tab.get_put _ _ _ _ _

/-- A block or a context that is set is what is read. -/
@[simp] theorem Device.readBack (d : Device) (k : Nat) : (∀ b x, (d.setBlock b x).block k = if b = k then x else d.block k) ∧
    ∀ a x, (d.setCtx a x).ctx k = if a = k then x else d.ctx k :=
  ⟨fun _ _ => Tab.get_put _ _ _ _ _, fun _ _ => Tab.get_put _ _ _ _ _⟩

/-- The waves, the blocks and the contexts stand apart. -/
@[simp] theorem Device.apart (d : Device) (k : Nat) :
    (∀ b x, (d.setBlock b x).wave k = d.wave k) ∧ (∀ a x, (d.setCtx a x).wave k = d.wave k) ∧ (∀ a c i n, (d.pmc a c i n).wave k = d.wave k) ∧
    (∀ w x, (d.setWave w x).block k = d.block k) ∧ (∀ a x, (d.setCtx a x).block k = d.block k) ∧
    (∀ a c i n, (d.pmc a c i n).block k = d.block k) ∧ (∀ w x, (d.setWave w x).ctx k = d.ctx k) ∧ (∀ b x, (d.setBlock b x).ctx k = d.ctx k) := by
  and_intros <;> intros <;> rfl

/-- A change of the device writes no byte. -/
@[simp] theorem St.withD_fields (s : St) (f : Device → Device) :
    (s.withD f).d = f s.d ∧ (s.withD f).log = s.log ∧ (s.withD f).m0 = s.m0 ∧ ∀ g, (s.withD f).withD g = s.withD (fun d => g (f d)) := by
  and_intros <;> intros <;> rfl

/-- A step begins with what the state holds and nothing written. -/
@[simp] theorem St.of_fields (s : State) : (St.of s).d = s.dev ∧ (St.of s).log = [] ∧ (St.of s).m0 = s.mem := by and_intros <;> rfl

@[simp] theorem Wave.thread_setThread (x : Wave) (l k : Nat) (t : Thread) : (x.setThread l t).thread k = if l = k then t else x.thread k :=
  Tab.get_put _ _ _ _ _

/-- Masks, registers and tokens stand apart from the threads. -/
@[simp] theorem Wave.thread_apart (x : Wave) (k : Nat) : (∀ i m, (x.setMask i m).thread k = x.thread k) ∧
    (∀ l r v, (x.setReg l r v).thread k = x.thread k) ∧ ∀ i t, (x.setTok i t).thread k = x.thread k := by
  and_intros <;> intros <;> rfl

@[simp] theorem Wave.thread_updThread (x : Wave) (l k : Nat) (f : Thread → Thread) :
    (x.updThread l f).thread k = if l = k then f (x.thread l) else x.thread k := Tab.get_put _ _ _ _ _

/-- What `wr` of lane `l` reads after a write to it: keys of different lanes and registers differ (R15). -/
theorem Wave.reg_setReg (x : Wave) (l r k q : Nat) (v : W32) (hr : r < 256) (hq : q < 256) :
    (x.setReg l r v).reg k q = if l = k ∧ r = q then v else x.reg k q := by
  simp only [Wave.reg, Wave.setReg, Tab.get_put]
  by_cases h : l = k ∧ r = q
  · simp [h.1, h.2]
  · have : ¬ 256 * l + r = 256 * k + q := by omega
    simp [h, this]

@[simp] theorem Wave.tok_setTok (x : Wave) (i k : Nat) (t : Token) : (x.setTok i t).tok k = if i = k then t else x.tok k :=
  Tab.get_put _ _ _ _ _

end Sys2Proof.Machine
end

