-- ==== Sys2Proof/Laws/Wave.lean ====
section
/-! SUPPORT. What the operations on a wave can do: lanes, positions and landing results, rotation, holds and releases. -/

namespace Sys2Proof.Machine

/-! ### Lanes -/

theorem mem_lanesOf {m : Lanes} {l : Nat} : l ∈ lanesOf m ↔ l < 32 ∧ m.getLsbD l = true := by
  simp [lanesOf]

theorem lt_of_getLsbD {m : Lanes} {l : Nat} (h : m.getLsbD l = true) : l < 32 := by
  rcases Nat.lt_or_ge l 32 with hl | hl
  · exact hl
  · rw [BitVec.getLsbD_of_ge m l hl] at h
    exact absurd h (by decide)

theorem lanesOf_nodup (m : Lanes) : (lanesOf m).Nodup := List.Pairwise.filter _ List.nodup_range

/-- Threads of some lanes, each changed once. -/
theorem Wave.thread_foldl_upd (ls : List Nat) (h : ls.Nodup) (g : Nat → Thread → Thread) (x : Wave) (k : Nat) :
    ((ls.foldl (fun x l => x.updThread l (g l)) x).thread k) = if k ∈ ls then g k (x.thread k) else x.thread k := by
  induction ls generalizing x with
  | nil => simp
  | cons a r ih =>
    obtain ⟨ha, hr⟩ := List.nodup_cons.mp h
    rw [List.foldl_cons, ih hr]
    by_cases hk : k = a
    · subst hk; simp [ha]
    · have : ¬ a = k := fun e => hk e.symm
      simp [this, hk]

theorem Wave.thread_updLanes (x : Wave) (m : Lanes) (f : Thread → Thread) (k : Nat) :
    (x.updLanes m f).thread k = if m.getLsbD k then f (x.thread k) else x.thread k := by
  rw [Wave.updLanes, Wave.thread_foldl_upd _ (lanesOf_nodup m)]
  by_cases h : m.getLsbD k
  · simp [mem_lanesOf, h, lt_of_getLsbD h]
  · simp [mem_lanesOf, h]

/-- A fold that keeps a property of the wave keeps it to the end. -/
theorem Wave.foldl_keeps {α β : Type} (p : Wave → β) (f : Wave → α → Wave) (hf : ∀ x a, p (f x a) = p x) (ls : List α) (x : Wave) :
    p (ls.foldl f x) = p x := by
  induction ls generalizing x with
  | nil => rfl
  | cons a r ih => rw [List.foldl_cons, ih, hf]

/-! ### The wave without its threads and masks -/

@[simp] theorem Wave.arch_fields (x : Wave) : x.arch.arch = x.arch ∧ (∀ l t, (x.setThread l t).arch = x.arch) ∧
    (∀ l f, (x.updThread l f).arch = x.arch) ∧ ∀ i m, (x.setMask i m).arch = x.arch := by
  and_intros <;> intros <;> rfl

@[simp] theorem Wave.arch_updLanes (x : Wave) (m : Lanes) (f : Thread → Thread) : (x.updLanes m f).arch = x.arch :=
  Wave.foldl_keeps Wave.arch (fun x l => x.updThread l f) (fun _ _ => rfl) _ _

@[simp] theorem Wave.arch_holdAt (x : Wave) : x.holdAt.arch = x.arch := by
  unfold Wave.holdAt
  refine Wave.foldl_keeps Wave.arch _ (fun x l => ?_) _ _
  dsimp only
  split <;> (try split) <;> rfl

@[simp] theorem Wave.arch_syncRelease (x : Wave) : x.syncRelease.arch = x.arch := by
  unfold Wave.syncRelease
  refine Wave.foldl_keeps Wave.arch _ (fun y l => ?_) _ _
  dsimp only
  split <;> rfl

@[simp] theorem Wave.arch_settleN (n : Nat) (x : Wave) : (Wave.settleN n x).arch = x.arch := by
  induction n generalizing x with
  | zero => rfl
  | succ n ih =>
    simp only [Wave.settleN]
    split
    · simp
    · rw [ih, Wave.foldl_keeps Wave.arch (fun (x : Wave) i => x.setMask i ⟨0, 0⟩) (fun _ _ => rfl)]; simp

@[simp] theorem Wave.arch_settle (x : Wave) : x.settle.arch = x.arch := Wave.arch_settleN 13 x

@[simp] theorem Wave.arch_rotate (x : Wave) (g : Lanes) : (x.rotate g).arch = x.arch := by
  simp only [Wave.rotate]
  show Wave.arch (Wave.updLanes (Wave.updLanes x _ _) _ _) = x.arch
  simp

theorem Wave.setGroup_arch (x : Wave) (l r n v : Nat) : (x.setGroup l r n v).arch = (x.arch.setGroup l r n v).arch := by
  induction n generalizing x r v with
  | zero => rfl
  | succ n ih =>
    simp only [Wave.setGroup]
    rw [ih, ih (x := if r < x.arch.alloc then _ else _)]
    by_cases h : r < x.alloc
    · have h' : r < x.arch.alloc := h
      simp only [h, h', if_true]; rfl
    · have h' : ¬ r < x.arch.alloc := h
      simp only [h, h', if_false]; rfl

/-- What a fold writes does not depend on threads and masks, if no step does. -/
theorem Wave.foldl_arch {α : Type} (f : Wave → α → Wave) (hf : ∀ x a, (f x a).arch = (f x.arch a).arch) (ls : List α) (x : Wave) :
    (ls.foldl f x).arch = (ls.foldl f x.arch).arch := by
  induction ls generalizing x with
  | nil => rfl
  | cons a r ih => rw [List.foldl_cons, List.foldl_cons, ih, ih (f x.arch a), hf]

theorem Wave.writeLane_arch (x : Wave) (dst : Dest) (l v : Nat) : (x.writeLane dst l v).arch = (x.arch.writeLane dst l v).arch := by
  cases dst with
  | w r n => exact Wave.setGroup_arch x l r n v
  | p i => simp only [Wave.writeLane, Wave.setPred]; split <;> rfl
  | ps m =>
    simp only [Wave.writeLane]
    refine Wave.foldl_arch _ (fun x i => ?_) _ _
    split
    · simp only [Wave.setPred]; split <;> rfl
    · rfl
  | sr i => simp only [Wave.writeLane]; split <;> (try split) <;> (try split) <;> (try split) <;> rfl
  | none => rfl
  | m _ => rfl
  | n i => rfl
  | lc i => rfl

theorem Wave.landOne_arch (x : Wave) (e : PipeEnt) : (x.landOne e).arch = (x.arch.landOne e).arch := by
  have key : ∀ y z : Wave, y.arch = z.arch →
      (match e.post with | some n => y.complete n id | none => y).arch = (match e.post with | some n => z.complete n id | none => z).arch := by
    intro y z h
    cases e.post with
    | none => exact h
    | some n =>
      have : y.ops = z.ops := by show y.arch.ops = z.arch.ops; rw [h]
      show Wave.arch { y with ops := _ } = Wave.arch { z with ops := _ }
      have h2 : Wave.arch { y with ops := z.ops.map (fun o => if o.id = n then { id o with done := true } else o) } =
          { y.arch with ops := z.ops.map (fun o => if o.id = n then { id o with done := true } else o) } := rfl
      rw [this, h2, h]; rfl
  unfold Wave.landOne
  apply key
  cases e.dst with
  | m i => dsimp only; split <;> rfl
  | _ => exact Wave.foldl_arch (fun (x : Wave) l => x.writeLane _ l (e.vals.get 0 l)) (fun x l => Wave.writeLane_arch x _ l _) _ _

theorem Wave.landAt_arch (x : Wave) (k : Nat) : (x.landAt k).arch = (x.arch.landAt k).arch := by
  unfold Wave.landAt
  exact Wave.foldl_arch _ (fun x e => Wave.landOne_arch x e) _ _

theorem Wave.advance_arch (x : Wave) (n : Nat) : (x.advance n).arch = (x.arch.advance n).arch := by
  induction n generalizing x with
  | zero => exact Wave.landAt_arch x 0
  | succ n ih =>
    simp only [Wave.advance]
    rw [ih, ih (x := { x.arch.landAt 0 with pos := x.arch.pos + 1 })]
    have := Wave.landAt_arch x 0
    have h1 : Wave.arch { x.landAt 0 with pos := x.pos + 1 } = { (x.landAt 0).arch with pos := x.pos + 1 } := rfl
    have h2 : Wave.arch { x.arch.landAt 0 with pos := x.arch.pos + 1 } = { (x.arch.landAt 0).arch with pos := x.pos + 1 } := rfl
    rw [h1, h2, this]

/-- Waves that differ in threads and masks only take the same results at every position. -/
theorem Wave.advance_congr {x y : Wave} (h : x.arch = y.arch) (n : Nat) : (x.advance n).arch = (y.advance n).arch := by
  rw [Wave.advance_arch x, Wave.advance_arch y, h]

/-! ### What landing results, holds and releases leave of a thread -/

/-- What no landing result changes of a thread. -/
def Thread.fixed (t : Thread) : Addr × List W64 × BitVec 16 × W64 × ThSt × Hold × Bool × Bool × Bool × Bool :=
  (t.pc, t.rs, t.rsd, t.workid, t.st, t.hold, t.frozen, t.stopped, t.passed, t.arriving)

theorem Wave.fixed_foldl {α : Type} (f : Wave → α → Wave) (hf : ∀ x a l, ((f x a).thread l).fixed = (x.thread l).fixed) (ls : List α) (x : Wave)
    (l : Nat) : ((ls.foldl f x).thread l).fixed = (x.thread l).fixed :=
  Wave.foldl_keeps (fun x => (x.thread l).fixed) f (fun x a => hf x a l) ls x

theorem Wave.thread_setGroup (x : Wave) (l r n v k : Nat) : (x.setGroup l r n v).thread k = x.thread k := by
  induction n generalizing x r v with
  | zero => rfl
  | succ n ih => simp only [Wave.setGroup]; rw [ih]; split <;> simp

theorem Wave.fixed_updThread (x : Wave) (l k : Nat) (f : Thread → Thread) (hf : ∀ t, (f t).fixed = t.fixed) :
    ((x.updThread l f).thread k).fixed = (x.thread k).fixed := by
  rw [Wave.thread_updThread]
  split
  · next h => subst h; exact hf _
  · rfl

theorem Wave.fixed_writeLane (x : Wave) (dst : Dest) (l v k : Nat) : ((x.writeLane dst l v).thread k).fixed = (x.thread k).fixed := by
  cases dst with
  | w r n => simp only [Wave.writeLane, Wave.thread_setGroup]
  | p i => simp only [Wave.writeLane, Wave.setPred]; split <;> rfl
  | ps m =>
    simp only [Wave.writeLane]
    refine Wave.fixed_foldl _ (fun x i l => ?_) _ _ _
    split
    · simp only [Wave.setPred]; split <;> rfl
    · rfl
  | sr i =>
    simp only [Wave.writeLane]
    split
    · exact Wave.fixed_updThread _ _ _ _ (fun _ => rfl)
    · split <;> (try split) <;> (try split) <;> rfl
  | none => rfl
  | m _ => rfl
  | n i => rfl
  | lc i =>
    unfold Wave.writeLane
    apply Wave.fixed_updThread
    intro t
    split <;> rfl

theorem Wave.fixed_landOne (x : Wave) (e : PipeEnt) (k : Nat) : ((x.landOne e).thread k).fixed = (x.thread k).fixed := by
  have key : ∀ y : Wave, ((match e.post with | some n => y.complete n id | none => y).thread k).fixed = (y.thread k).fixed := by
    intro y; cases e.post <;> rfl
  unfold Wave.landOne
  refine (key _).trans ?_
  cases e.dst with
  | m i => dsimp only; split <;> rfl
  | _ => exact Wave.fixed_foldl (fun (x : Wave) l => x.writeLane _ l (e.vals.get 0 l)) (fun x a l => Wave.fixed_writeLane x _ a _ l) _ _ _

theorem Wave.fixed_landAt (x : Wave) (n k : Nat) : ((x.landAt n).thread k).fixed = (x.thread k).fixed :=
  Wave.fixed_foldl _ (fun x e l => Wave.fixed_landOne x e l) _ _ _

/-- Landing results changes no PC, state, return stack or work identifier. -/
theorem Wave.fixed_advance (x : Wave) (n k : Nat) : ((x.advance n).thread k).fixed = (x.thread k).fixed := by
  induction n generalizing x with
  | zero => exact Wave.fixed_landAt x 0 k
  | succ n ih => simp only [Wave.advance]; rw [ih]; exact Wave.fixed_landAt x 0 k

/-- What no hold and no release changes of a thread; the last part says whether it is DONE. -/
def Thread.firm (t : Thread) : Addr × List W64 × BitVec 16 × W64 × Bool × Bool := (t.pc, t.rs, t.rsd, t.workid, t.frozen, t.st == .done)

theorem Thread.firm_of_fixed {t u : Thread} (h : t.fixed = u.fixed) : t.firm = u.firm := by
  simp only [Thread.fixed, Prod.mk.injEq] at h
  simp only [Thread.firm, h]

theorem Wave.firm_foldl {α : Type} (f : Wave → α → Wave) (hf : ∀ x a l, ((f x a).thread l).firm = (x.thread l).firm) (ls : List α) (x : Wave)
    (l : Nat) : ((ls.foldl f x).thread l).firm = (x.thread l).firm :=
  Wave.foldl_keeps (fun x => (x.thread l).firm) f (fun x a => hf x a l) ls x

theorem Wave.firm_setThread (x : Wave) (l k : Nat) (t : Thread) (h : t.firm = (x.thread l).firm) :
    ((x.setThread l t).thread k).firm = (x.thread k).firm := by
  rw [Wave.thread_setThread]
  split
  · next e => subst e; exact h
  · rfl

theorem Wave.firm_holdAt (x : Wave) (k : Nat) : (x.holdAt.thread k).firm = (x.thread k).firm := by
  unfold Wave.holdAt
  refine Wave.firm_foldl _ (fun x l k => ?_) _ _ _
  dsimp only
  split <;> (try split) <;> first | rfl | (apply Wave.firm_setThread; simp_all [Thread.firm]; rfl) | (apply Wave.firm_setThread; simp_all [Thread.firm])

theorem Wave.firm_syncRelease (x : Wave) (k : Nat) : (x.syncRelease.thread k).firm = (x.thread k).firm := by
  have held : ∀ t, x.syncFree t = true → t.st = .held := by
    intro t h
    unfold Wave.syncFree at h
    split at h
    · next h' _ => exact h'
    · exact absurd h (by decide)
  have all : ∀ (ls : List Nat) (y : Wave), (∀ l, (y.thread l).firm = (x.thread l).firm) → ∀ k,
      ((ls.foldl (fun y l => if x.syncFree (x.thread l) then y.setThread l { x.thread l with st := .run, hold := .meet } else y) y).thread k).firm =
        (x.thread k).firm := by
    intro ls
    induction ls with
    | nil => intro y hy k; exact hy k
    | cons a r ih =>
      intro y hy k
      rw [List.foldl_cons]
      refine ih _ (fun l => ?_) k
      split
      · next h =>
        rw [Wave.thread_setThread]
        split
        · next e => subst e; simp only [Thread.firm, held _ h]; rfl
        · exact hy l
      · exact hy l
  exact all _ x (fun _ => rfl) k

theorem Wave.firm_settleN (n : Nat) (x : Wave) (k : Nat) : ((Wave.settleN n x).thread k).firm = (x.thread k).firm := by
  have step : ∀ y : Wave, (y.holdAt.syncRelease.holdAt.thread k).firm = (y.thread k).firm := by
    intro y; rw [Wave.firm_holdAt, Wave.firm_syncRelease, Wave.firm_holdAt]
  induction n generalizing x with
  | zero => rfl
  | succ n ih =>
    simp only [Wave.settleN]
    split
    · exact step x
    · rw [ih]
      refine Eq.trans ?_ (step x)
      exact Wave.foldl_keeps (fun y => (y.thread k).firm) (fun (x : Wave) i => x.setMask i ⟨0, 0⟩) (fun _ _ => rfl) _ _

/-- Holds and releases change no PC, return stack or work identifier, and make no thread DONE. -/
theorem Wave.firm_settle (x : Wave) (k : Nat) : (x.settle.thread k).firm = (x.thread k).firm := Wave.firm_settleN 13 x k

/-! ### What a landing result writes depends on no PC, state or age -/

/-- A wave takes the same results as `y`: it differs in PCs, states, ages and what schedules it, and in masks that have been released. -/
def Wave.Same (x y : Wave) : Prop :=
  x.arch = y.arch ∧ (∀ m, x.mask m = y.mask m ∨ x.mask m = ⟨0, 0⟩) ∧ ∀ l, (x.thread l).loops = (y.thread l).loops

theorem Wave.Same.rfl' (x : Wave) : x.Same x := ⟨rfl, fun _ => .inl rfl, fun _ => rfl⟩
theorem Wave.Same.trans {x y z : Wave} (h : x.Same y) (k : y.Same z) : x.Same z :=
  ⟨h.1.trans k.1, fun m => (h.2.1 m).elim (fun e => e ▸ k.2.1 m) .inr, fun l => (h.2.2 l).trans (k.2.2 l)⟩

theorem Wave.mask_of_masks {x y : Wave} (h : x.masks = y.masks) (m : Nat) : x.mask m = y.mask m := by unfold Wave.mask; rw [h]

theorem Wave.loops_updThread {x y : Wave} (h : ∀ l, (x.thread l).loops = (y.thread l).loops) (k : Nat) (f g : Thread → Thread)
    (hf : ∀ t u : Thread, t.loops = u.loops → (f t).loops = (g u).loops) (l : Nat) :
    ((x.updThread k f).thread l).loops = ((y.updThread k g).thread l).loops := by
  rw [Wave.thread_updThread, Wave.thread_updThread]
  split
  · exact hf _ _ (h _)
  · exact h l

theorem Wave.same_foldl {α : Type} (f : Wave → α → Wave) (hf : ∀ x y a, x.Same y → (f x a).Same (f y a)) (ls : List α) {x y : Wave}
    (h : x.Same y) : (ls.foldl f x).Same (ls.foldl f y) := by
  induction ls generalizing x y with
  | nil => exact h
  | cons a r ih => exact ih (hf _ _ a h)

theorem Wave.masks_setGroup (x : Wave) (l r n v : Nat) : (x.setGroup l r n v).masks = x.masks := by
  induction n generalizing x r v with
  | zero => rfl
  | succ n ih => simp only [Wave.setGroup]; rw [ih]; split <;> rfl

theorem Wave.thread_setPred (x : Wave) (l i k : Nat) (v : Bool) : (x.setPred l i v).thread k = x.thread k := by
  unfold Wave.setPred; split <;> rfl

theorem Wave.masks_setPred (x : Wave) (l i : Nat) (v : Bool) : (x.setPred l i v).masks = x.masks := by
  unfold Wave.setPred; split <;> rfl

theorem Wave.masks_writeLane (z : Wave) (dst : Dest) (l v : Nat) : (z.writeLane dst l v).masks = z.masks := by
  cases dst with
  | w r n => exact Wave.masks_setGroup z l r n v
  | p i => exact Wave.masks_setPred z l i _
  | ps m => exact Wave.foldl_keeps Wave.masks _ (fun x i => by split <;> simp [Wave.masks_setPred]) _ _
  | sr i => simp only [Wave.writeLane]; split <;> (try split) <;> (try split) <;> (try split) <;> rfl
  | _ => rfl

theorem Wave.same_writeLane {x y : Wave} (h : x.Same y) (dst : Dest) (l v : Nat) : (x.writeLane dst l v).Same (y.writeLane dst l v) := by
  refine ⟨?_, ?_, ?_⟩
  · rw [Wave.writeLane_arch x, Wave.writeLane_arch y, h.1]
  · intro m
    rw [Wave.mask_of_masks (Wave.masks_writeLane x dst l v), Wave.mask_of_masks (Wave.masks_writeLane y dst l v)]
    exact h.2.1 m
  · intro k
    cases dst with
    | w r n => simp only [Wave.writeLane, Wave.thread_setGroup, h.2.2]
    | p i => simp only [Wave.writeLane, Wave.thread_setPred, h.2.2]
    | ps m =>
      have key : ∀ z : Wave, (z.writeLane (.ps m) l v).thread k = z.thread k := fun z =>
        Wave.foldl_keeps (fun z => Wave.thread z k) _ (fun x i => by split <;> simp [Wave.thread_setPred]) _ _
      rw [key, key, h.2.2]
    | sr i =>
      simp only [Wave.writeLane]
      split
      · exact Wave.loops_updThread h.2.2 _ _ _ (fun t u e => by simp only [Thread.loops, Prod.mk.injEq, and_true] at *; exact e.1) k
      · split
        · exact h.2.2 k
        · split
          · exact h.2.2 k
          · split <;> exact h.2.2 k
    | lc i =>
      exact Wave.loops_updThread h.2.2 l
        (fun t => if i < t.ls.length then { t with ls := t.ls.modify i (fun c => { c with count := BitVec.ofNat 32 v }) } else t)
        (fun t => if i < t.ls.length then { t with ls := t.ls.modify i (fun c => { c with count := BitVec.ofNat 32 v }) } else t)
        (fun t u e => by
          simp only [Thread.loops, Prod.mk.injEq] at e
          simp only [e.1]
          split <;> simp only [Thread.loops, e.1, e.2]) k
    | _ => exact h.2.2 k

theorem Wave.same_setMask {x y : Wave} (h : x.Same y) (i : Nat) (m : Mask) : (x.setMask i m).Same (y.setMask i m) :=
  ⟨h.1, fun k => by
    simp only [Wave.mask, Wave.setMask, Tab.get_put]
    split
    · exact .inl rfl
    · exact h.2.1 k, h.2.2⟩

theorem Wave.same_complete {x y : Wave} (h : x.Same y) (n : Nat) : (x.complete n id).Same (y.complete n id) := by
  refine ⟨?_, h.2.1, h.2.2⟩
  have : x.ops = y.ops := by show x.arch.ops = y.arch.ops; rw [h.1]
  show Wave.arch { x with ops := _ } = Wave.arch { y with ops := _ }
  have hx : ∀ (z : Wave) (o : List Op), Wave.arch { z with ops := o } = { z.arch with ops := o } := fun _ _ => rfl
  rw [hx x, hx y, this, h.1]

theorem Wave.same_landOne {x y : Wave} (h : x.Same y) (e : PipeEnt) : (x.landOne e).Same (y.landOne e) := by
  have key : ∀ u v : Wave, u.Same v →
      (match e.post with | some n => u.complete n id | none => u).Same (match e.post with | some n => v.complete n id | none => v) := by
    intro u v k
    cases e.post with
    | none => exact k
    | some n => exact Wave.same_complete k n
  unfold Wave.landOne
  apply key
  cases e.dst with
  | m i => dsimp only; split
           · exact h
           · exact Wave.same_setMask h _ _
  | _ => exact Wave.same_foldl (fun (x : Wave) l => x.writeLane _ l (e.vals.get 0 l)) (fun _ _ l k => Wave.same_writeLane k _ l _) _ h

theorem Wave.same_landAt {x y : Wave} (h : x.Same y) (k : Nat) : (x.landAt k).Same (y.landAt k) := by
  have hp : x.pipe = y.pipe := by show x.arch.pipe = y.arch.pipe; rw [h.1]
  have hq : x.pos = y.pos := by show x.arch.pos = y.arch.pos; rw [h.1]
  unfold Wave.landAt
  have ha : ∀ e, x.ahead e = y.ahead e := fun e => by simp only [Wave.ahead, hq]
  simp only [hp, ha]
  refine Wave.same_foldl _ (fun _ _ e h => Wave.same_landOne h e) _ ⟨?_, h.2.1, h.2.2⟩
  have hx : ∀ p, Wave.arch { x with pipe := p } = { x.arch with pipe := p } := fun _ => rfl
  have hy : ∀ p, Wave.arch { y with pipe := p } = { y.arch with pipe := p } := fun _ => rfl
  exact (hx _).trans ((congrArg (fun z : Wave => { z with pipe := y.pipe.filter (fun e => y.ahead e != k) }) h.1).trans (hy _).symm)

/-- Waves that differ in PCs, states and ages take the same results at every position. -/
theorem Wave.same_advance {x y : Wave} (h : x.Same y) (n : Nat) : (x.advance n).Same (y.advance n) := by
  induction n generalizing x y with
  | zero => exact Wave.same_landAt h 0
  | succ n ih =>
    simp only [Wave.advance]
    apply ih
    have k := Wave.same_landAt h 0
    refine ⟨?_, k.2.1, k.2.2⟩
    have hx : ∀ p, Wave.arch { x.landAt 0 with pos := p } = { (x.landAt 0).arch with pos := p } := fun _ => rfl
    have hy : ∀ p, Wave.arch { y.landAt 0 with pos := p } = { (y.landAt 0).arch with pos := p } := fun _ => rfl
    have hq : x.pos = y.pos := by show x.arch.pos = y.arch.pos; rw [h.1]
    rw [hq]
    exact (hx _).trans ((congrArg (fun z : Wave => { z with pos := y.pos + 1 }) k.1).trans (hy _).symm)

/-! ### What rotation, holds and releases leave of the loop stacks and masks -/

theorem Wave.loops_foldl {α : Type} (f : Wave → α → Wave) (hf : ∀ x a l, ((f x a).thread l).loops = (x.thread l).loops) (ls : List α) (x : Wave)
    (l : Nat) : ((ls.foldl f x).thread l).loops = (x.thread l).loops :=
  Wave.foldl_keeps (fun x => (x.thread l).loops) f (fun x a => hf x a l) ls x

theorem Wave.loops_setThread (x : Wave) (l k : Nat) (t : Thread) (h : t.loops = (x.thread l).loops) :
    ((x.setThread l t).thread k).loops = (x.thread k).loops := by
  rw [Wave.thread_setThread]
  split
  · next e => subst e; exact h
  · rfl

theorem Wave.same_rotate (x : Wave) (g : Lanes) : (x.rotate g).Same x := by
  refine ⟨Wave.arch_rotate x g, ?_, fun k => ?_⟩
  · have hm : ∀ (z : Wave) m f, (z.updLanes m f).masks = z.masks := fun z m f =>
      Wave.foldl_keeps Wave.masks (fun (x : Wave) l => x.updThread l f) (fun _ _ => rfl) _ _
    unfold Wave.rotate
    exact fun m => .inl (Wave.mask_of_masks ((hm _ _ _).trans (hm _ _ _)) m)
  · unfold Wave.rotate
    show Thread.loops (Wave.thread (Wave.updLanes (Wave.updLanes x _ _) _ _) k) = _
    simp only [Wave.thread_updLanes]
    split <;> split <;> rfl

theorem Wave.loops_holdAt (x : Wave) (k : Nat) : (x.holdAt.thread k).loops = (x.thread k).loops := by
  unfold Wave.holdAt
  refine Wave.loops_foldl _ (fun x l k => ?_) _ _ _
  dsimp only
  split <;> (try split) <;> first | rfl | exact Wave.loops_setThread _ _ _ _ rfl

theorem Wave.loops_syncRelease (x : Wave) (k : Nat) : (x.syncRelease.thread k).loops = (x.thread k).loops := by
  have all : ∀ (ls : List Nat) (y : Wave), (∀ l, (y.thread l).loops = (x.thread l).loops) → ∀ k,
      ((ls.foldl (fun y l => if x.syncFree (x.thread l) then y.setThread l { x.thread l with st := .run, hold := .meet } else y) y).thread k).loops =
        (x.thread k).loops := by
    intro ls
    induction ls with
    | nil => intro y hy k; exact hy k
    | cons a r ih =>
      intro y hy k
      rw [List.foldl_cons]
      refine ih _ (fun l => ?_) k
      split
      · rw [Wave.thread_setThread]
        split
        · next e => subst e; rfl
        · exact hy l
      · exact hy l
  exact all _ x (fun _ => rfl) k

theorem Wave.masks_holds (x : Wave) : x.holdAt.syncRelease.holdAt.masks = x.masks := by
  have h : ∀ x : Wave, x.holdAt.masks = x.masks := fun x =>
    Wave.foldl_keeps Wave.masks _ (fun x l => by dsimp only; split <;> (try split) <;> rfl) _ _
  have k : ∀ x : Wave, x.syncRelease.masks = x.masks := fun x =>
    Wave.foldl_keeps Wave.masks _ (fun y l => by split <;> rfl) _ _
  rw [h, k, h]

/-- Holds and releases change no loop stack or stack pointer, and a mask only by its release. -/
theorem Wave.settle_loops (x : Wave) : (∀ l, (x.settle.thread l).loops = (x.thread l).loops) ∧
    ∀ m, x.settle.mask m = x.mask m ∨ x.settle.mask m = ⟨0, 0⟩ := by
  have base : ∀ y : Wave, (∀ l, (y.holdAt.syncRelease.holdAt.thread l).loops = (y.thread l).loops) ∧
      ∀ m, y.holdAt.syncRelease.holdAt.mask m = y.mask m := fun y =>
    ⟨fun l => by rw [Wave.loops_holdAt, Wave.loops_syncRelease, Wave.loops_holdAt], fun m => by unfold Wave.mask; rw [Wave.masks_holds]⟩
  have rel : ∀ (ls : List Nat) (y : Wave), (∀ l, ((ls.foldl (fun (x : Wave) i => x.setMask i ⟨0, 0⟩) y).thread l) = y.thread l) ∧
      ∀ m, (ls.foldl (fun (x : Wave) i => x.setMask i ⟨0, 0⟩) y).mask m = y.mask m ∨
        (ls.foldl (fun (x : Wave) i => x.setMask i ⟨0, 0⟩) y).mask m = ⟨0, 0⟩ := by
    intro ls
    induction ls with
    | nil => exact fun y => ⟨fun _ => rfl, fun _ => .inl rfl⟩
    | cons a r ih =>
      intro y
      obtain ⟨h1, h2⟩ := ih (y.setMask a ⟨0, 0⟩)
      refine ⟨fun l => (h1 l).trans rfl, fun m => ?_⟩
      rw [List.foldl_cons]
      rcases h2 m with h | h
      · rw [h]
        simp only [Wave.mask, Wave.setMask, Tab.get_put]
        split
        · right; rfl
        · left; rfl
      · exact .inr h
  have all : ∀ n (x : Wave), (∀ l, ((Wave.settleN n x).thread l).loops = (x.thread l).loops) ∧
      ∀ m, (Wave.settleN n x).mask m = x.mask m ∨ (Wave.settleN n x).mask m = ⟨0, 0⟩ := by
    intro n
    induction n with
    | zero => exact fun x => ⟨fun _ => rfl, fun _ => .inl rfl⟩
    | succ n ih =>
      intro x
      simp only [Wave.settleN]
      split
      · exact ⟨(base x).1, fun m => .inl ((base x).2 m)⟩
      · obtain ⟨h1, h2⟩ := ih (List.foldl (fun (x : Wave) i => x.setMask i ⟨0, 0⟩) x.holdAt.syncRelease.holdAt
          (List.filter (fun x_1 => x.holdAt.syncRelease.holdAt.releasable x_1) (List.range 12)))
        obtain ⟨r1, r2⟩ := rel (List.filter (fun x_1 => x.holdAt.syncRelease.holdAt.releasable x_1) (List.range 12)) x.holdAt.syncRelease.holdAt
        refine ⟨fun l => ?_, fun m => ?_⟩
        · rw [h1, r1, (base x).1]
        · rcases h2 m with h | h
          · rw [h]
            rcases r2 m with k | k
            · rw [k, (base x).2]; exact .inl rfl
            · exact .inr k
          · exact .inr h
  exact all 13 x

theorem Wave.same_settle (x : Wave) : x.settle.Same x := ⟨Wave.arch_settle x, (Wave.settle_loops x).2, (Wave.settle_loops x).1⟩

theorem Wave.same_nextPos {x y : Wave} (h : x.Same y) : x.nextPos.Same y.nextPos :=
  ⟨congrArg (fun z : Wave => { z with pos := z.pos + 1 }) h.1, h.2.1, h.2.2⟩

theorem Wave.pos_landAt (x : Wave) (k : Nat) : (x.landAt k).pos = x.pos := by
  have w : ∀ (z : Wave) d l v, (z.writeLane d l v).pos = z.pos := by
    intro z d l v
    cases d with
    | w r n =>
      simp only [Wave.writeLane]
      induction n generalizing z r v with
      | zero => rfl
      | succ n ih => simp only [Wave.setGroup]; rw [ih]; split <;> rfl
    | p i => simp only [Wave.writeLane, Wave.setPred]; split <;> rfl
    | ps m => exact Wave.foldl_keeps Wave.pos _ (fun x i => by split <;> simp only [Wave.setPred] <;> (try split) <;> rfl) _ _
    | sr i => simp only [Wave.writeLane]; split <;> (try split) <;> (try split) <;> (try split) <;> rfl
    | _ => rfl
  have c : ∀ (z : Wave) (e : PipeEnt), (match e.post with | some n => z.complete n id | none => z).pos = z.pos := by
    intro z e; cases e.post <;> rfl
  refine Wave.foldl_keeps Wave.pos _ (fun z e => ?_) _ _
  unfold Wave.landOne
  refine (c _ _).trans ?_
  cases e.dst with
  | m i => dsimp only; split <;> rfl
  | _ => exact Wave.foldl_keeps Wave.pos (fun (x : Wave) l => x.writeLane _ l (e.vals.get 0 l)) (fun x a => w x _ a _) _ _

theorem Wave.advance_succ (x : Wave) (n : Nat) : x.advance (n + 1) = (x.advance n).nextPos.landAt 0 := by
  have first : ∀ y : Wave, { y.landAt 0 with pos := y.pos + 1 } = (y.landAt 0).nextPos := fun y => by
    rw [Wave.nextPos, Wave.pos_landAt]
  induction n generalizing x with
  | zero => simp only [Wave.advance, first]
  | succ n ih => rw [Wave.advance, ih, first, Wave.advance, first]

/-- The cycles of an issue land the results that its positions land; on the way masks may be released. -/
theorem Wave.same_cycles {x y : Wave} (h : x.Same y) (n : Nat) : (x.cycles n).Same (y.advance n) := by
  induction n with
  | zero =>
    simp only [Wave.cycles, Wave.cycle]
    exact (Wave.same_settle _).trans (Wave.same_landAt h 0)
  | succ n ih =>
    rw [Wave.advance_succ]
    simp only [Wave.cycles, Wave.cycle]
    exact (Wave.same_settle _).trans (Wave.same_landAt (Wave.same_nextPos ih) 0)

/-- The cycles of an issue change no PC, return stack or work identifier, and make no thread DONE. -/
theorem Wave.firm_cycles (x : Wave) (n k : Nat) : ((x.cycles n).thread k).firm = (x.thread k).firm := by
  have one : ∀ y : Wave, (y.cycle.thread k).firm = (y.thread k).firm := fun y =>
    (Wave.firm_settle _ k).trans (Thread.firm_of_fixed (Wave.fixed_landAt y 0 k))
  induction n with
  | zero => simp only [Wave.cycles]; exact one x
  | succ n ih => simp only [Wave.cycles]; exact (one _).trans ih

/-! ### What only schedules a wave -/

/-- The wave with other values in the fields that only schedule it. -/
def Wave.sched (x : Wave) (rc stall turn : Nat) (wt : Wait) (sp : Option Spill) : Wave :=
  { x with rc := rc, stall := stall, wait := wt, spill := sp, lastIssue := turn }

section
variable (rc stall turn : Nat) (wt : Wait) (sp : Option Spill)

theorem Wave.foldl_sched {α : Type} (f : Wave → α → Wave)
    (hf : ∀ x a, f (x.sched rc stall turn wt sp) a = (f x a).sched rc stall turn wt sp) (ls : List α) (x : Wave) :
    ls.foldl f (x.sched rc stall turn wt sp) = (ls.foldl f x).sched rc stall turn wt sp := by
  induction ls generalizing x with
  | nil => rfl
  | cons a r ih => rw [List.foldl_cons, List.foldl_cons, hf, ih]

theorem Wave.sched_ite (c : Prop) [Decidable c] (x y : Wave) :
    (if c then x.sched rc stall turn wt sp else y.sched rc stall turn wt sp) = (if c then x else y).sched rc stall turn wt sp := by
  split <;> rfl

theorem Wave.setGroup_sched (x : Wave) (l r n v : Nat) :
    (x.sched rc stall turn wt sp).setGroup l r n v = (x.setGroup l r n v).sched rc stall turn wt sp := by
  induction n generalizing x r v with
  | zero => rfl
  | succ n ih =>
    simp only [Wave.setGroup]
    by_cases h : r < x.alloc
    · have h' : r < (x.sched rc stall turn wt sp).alloc := h
      rw [if_pos h, if_pos h']; exact ih (x.setReg l r _) _ _
    · have h' : ¬ r < (x.sched rc stall turn wt sp).alloc := h
      rw [if_neg h, if_neg h']; exact ih x _ _

theorem Wave.writeLane_sched (x : Wave) (d : Dest) (l v : Nat) :
    (x.sched rc stall turn wt sp).writeLane d l v = (x.writeLane d l v).sched rc stall turn wt sp := by
  have p : ∀ (x : Wave) i b, (x.sched rc stall turn wt sp).setPred l i b = (x.setPred l i b).sched rc stall turn wt sp := by
    intro x i b; unfold Wave.setPred; split <;> rfl
  cases d with
  | w r n => exact Wave.setGroup_sched rc stall turn wt sp x l r n v
  | p i => exact p x i _
  | ps m =>
    refine Wave.foldl_sched rc stall turn wt sp _ (fun x i => ?_) _ _
    split
    · exact p x i _
    · rfl
  | sr i => simp only [Wave.writeLane]; split <;> (try split) <;> (try split) <;> (try split) <;> rfl
  | none => rfl
  | m _ => rfl
  | n i => rfl
  | lc i => rfl

theorem Wave.landOne_sched (x : Wave) (e : PipeEnt) :
    (x.sched rc stall turn wt sp).landOne e = (x.landOne e).sched rc stall turn wt sp := by
  have c : ∀ y : Wave, (match e.post with | some n => (y.sched rc stall turn wt sp).complete n id | none => y.sched rc stall turn wt sp) =
      (match e.post with | some n => y.complete n id | none => y).sched rc stall turn wt sp := by
    intro y; cases e.post <;> rfl
  unfold Wave.landOne
  refine Eq.trans ?_ (c _)
  cases e.dst with
  | m i => dsimp only; by_cases h : e.lanes = 0 <;> simp only [h, if_true, if_false] <;> rfl
  | _ =>
    dsimp only
    rw [Wave.foldl_sched rc stall turn wt sp _ (fun x a => Wave.writeLane_sched rc stall turn wt sp x _ a _)] <;> rfl

theorem Wave.landAt_sched (x : Wave) (k : Nat) : (x.sched rc stall turn wt sp).landAt k = (x.landAt k).sched rc stall turn wt sp :=
  Wave.foldl_sched rc stall turn wt sp _ (fun x e => Wave.landOne_sched rc stall turn wt sp x e) _ { x with pipe := _ }

theorem Wave.holdAt_sched (x : Wave) : (x.sched rc stall turn wt sp).holdAt = x.holdAt.sched rc stall turn wt sp := by
  refine Wave.foldl_sched rc stall turn wt sp _ (fun x l => ?_) _ _
  have ht : (x.sched rc stall turn wt sp).thread l = x.thread l := rfl
  have hm : ∀ i, (x.sched rc stall turn wt sp).mask i = x.mask i := fun _ => rfl
  have hs : ∀ t, (x.sched rc stall turn wt sp).setThread l t = (x.setThread l t).sched rc stall turn wt sp := fun _ => rfl
  simp only [ht, hm, hs]
  split <;> first
    | rfl
    | exact Wave.sched_ite rc stall turn wt sp _ _ _

theorem Wave.syncRelease_sched (x : Wave) : (x.sched rc stall turn wt sp).syncRelease = x.syncRelease.sched rc stall turn wt sp := by
  unfold Wave.syncRelease
  refine Wave.foldl_sched rc stall turn wt sp _ (fun y l => ?_) _ _
  exact Wave.sched_ite rc stall turn wt sp (x.syncFree (x.thread l) = true) (y.setThread l _) y

theorem Wave.settle_sched (x : Wave) : (x.sched rc stall turn wt sp).settle = x.settle.sched rc stall turn wt sp := by
  have all : ∀ n (x : Wave), Wave.settleN n (x.sched rc stall turn wt sp) = (Wave.settleN n x).sched rc stall turn wt sp := by
    intro n
    induction n with
    | zero => exact fun _ => rfl
    | succ n ih =>
      intro x
      simp only [Wave.settleN]
      rw [Wave.holdAt_sched, Wave.syncRelease_sched, Wave.holdAt_sched]
      have hr : ∀ y : Wave, (List.range 12).filter ((y.sched rc stall turn wt sp).releasable ·) = (List.range 12).filter (y.releasable ·) :=
        fun _ => rfl
      rw [hr]
      split
      · rfl
      · rw [Wave.foldl_sched rc stall turn wt sp (fun (x : Wave) i => x.setMask i ⟨0, 0⟩) (fun _ _ => rfl), ih]
  exact all 13 x

/-- The cycles of an issue do not look at what only schedules the wave, and leave it. -/
theorem Wave.cycles_sched (x : Wave) (n : Nat) : (x.sched rc stall turn wt sp).cycles n = (x.cycles n).sched rc stall turn wt sp := by
  have one : ∀ y : Wave, (y.sched rc stall turn wt sp).cycle = y.cycle.sched rc stall turn wt sp := by
    intro y; unfold Wave.cycle; rw [Wave.landAt_sched, Wave.settle_sched]
  induction n with
  | zero => exact one x
  | succ n ih =>
    simp only [Wave.cycles]
    rw [ih]
    exact one (x.cycles n).nextPos

end

end Sys2Proof.Machine
end

