-- ==== Sys2Proof/Laws/Issue.lean ====
section
/-! SUPPORT. What an issue can do: how an instruction that issues goes on, and what an issue without an effect of its own outside its wave
leaves. -/

namespace Sys2Proof.Machine

/-! ### Reaching the instruction's own effect -/

theorem goes_iff {h : Ctl} {q : Req} {s : State} : goes h q s = true ↔ ∃ i x, Goes h q s i x := by
  unfold goes Goes
  constructor
  · intro hg
    split at hg
    · next i x e => exact ⟨i, x, e, by simpa [Option.isNone_iff_eq_none] using hg⟩
    · exact absurd hg (by decide)
  · rintro ⟨i, x, e, n⟩
    rw [e]
    simp [n]

/-- An instruction that issues goes on as its body says. -/
theorem issue_goes {opc : BitVec 12} {h : Ctl} {q : Req} {body : Iss → St → Res} {s : State} {i : Iss} {x : Wave} (g : Goes h q s i x) :
    issue opc h q body s = .next (s.after ((s.at' i x).carryOut i opc (body i (s.at' i x)))) := by
  unfold issue run
  simp only [g.1, State.at'] at *
  rw [g.2]

/-- What `group` says of the issue and the wave. -/
theorem group_spec {s : St} {h : Ctl} {i : Iss} {x : Wave} (g : s.group h = some (i, x)) :
    i.w = s.d.cur ∧ i.h = h ∧ i.core = i.w / 64 ∧ i.blk = x.blk ∧ i.opid = x.opn ∧ x.live = true ∧
      ((s.d.wave i.w).landAt 0).choose = some (i.grp, x) ∧
      i.act = maskLanes (fun l => i.grp.getLsbD l && (x.pred l h.pred.toNat != h.neg)) := by
  unfold St.group at g
  dsimp only at g
  split at g
  · exact absurd g (by simp)
  · next grp y e =>
    split at g
    · exact absurd g (by simp)
    · next hl =>
      simp only [Option.some.injEq, Prod.mk.injEq] at g
      obtain ⟨gi, gx⟩ := g
      subst gi gx
      simp only [Bool.not_eq_true', Bool.not_eq_false] at hl
      exact ⟨rfl, rfl, rfl, rfl, rfl, hl, e, rfl⟩

@[simp] theorem at'_wave (s : State) (i : Iss) (x : Wave) : (s.at' i x).d.wave i.w = x := by simp [State.at']
theorem at'_wave_ne (s : State) (i : Iss) (x : Wave) {k : Nat} (h : k ≠ i.w) : (s.at' i x).d.wave k = s.dev.wave k := by
  simp only [State.at', St.withD_fields, St.of_fields, Device.wave_setWave]
  split
  · next e => exact absurd e.symm h
  · rfl
@[simp] theorem at'_fields (s : State) (i : Iss) (x : Wave) :
    (∀ k, (s.at' i x).d.block k = s.dev.block k) ∧ (s.at' i x).log = [] ∧ (s.at' i x).m0 = s.mem := by
  and_intros <;> intros <;> rfl

/-! ### Lanes of a group -/

theorem maskLanes_getLsbD (f : Nat → Bool) (l : Nat) : (maskLanes f).getLsbD l = (decide (l < 32) && f l) := by
  have aux : ∀ (ls : List Nat) (m : Lanes), (∀ k ∈ ls, k < 32) →
      (ls.foldl (fun (m : Lanes) l => if f l then m ||| (1#32 <<< l) else m) m).getLsbD l = (m.getLsbD l || (decide (l ∈ ls) && f l)) := by
    intro ls
    induction ls with
    | nil => intro m _; simp
    | cons a r ih =>
      intro m hk
      rw [List.foldl_cons, ih _ (fun k hr => hk k (List.mem_cons_of_mem _ hr))]
      have ha := hk a (List.mem_cons_self ..)
      by_cases e : l = a
      · subst e
        by_cases hf : f l
        · simp [hf, ha]
        · simp [hf]
      · by_cases hf : f a
        · have : (1#32 <<< a).getLsbD l = false := by
            simp only [BitVec.getLsbD_shiftLeft, BitVec.getLsbD_one]
            by_cases hla : l < a <;> simp <;> omega
          simp [hf, this, e]
        · simp [hf, e]
  unfold maskLanes
  rw [aux _ _ (by simp)]
  simp

/-! ### The parts of an issue -/

theorem agree_refl (d : Device) (w : Nat) : d.agree d w := ⟨rfl, fun _ _ => rfl, fun _ => rfl, fun _ => rfl⟩

theorem agree_trans {d e f : Device} {w : Nat} (h : d.agree e w) (k : e.agree f w) : d.agree f w :=
  ⟨k.1.trans h.1, fun n hn => (k.2.1 n hn).trans (h.2.1 n hn), fun n => (k.2.2.1 n).trans (h.2.2.1 n), fun n => (k.2.2.2 n).trans (h.2.2.2 n)⟩

theorem agree_setWave (d : Device) (w : Nat) (x : Wave) : d.agree (d.setWave w x) w :=
  ⟨rfl, fun k hk => by rw [Device.wave_setWave, if_neg (Ne.symm hk)], fun _ => rfl, fun _ => rfl⟩

theorem agree_tookTurn (d : Device) (a v w : Nat) (o : BitVec 12) : d.agree (d.tookTurn a v o) w := by
  refine ⟨rfl, fun _ _ => rfl, fun _ => rfl, fun k => ?_⟩
  show ((d.pmc a (v / 64) 1 1).ctx k).rest = _
  simp only [Device.pmc, Device.readBack]
  split
  · next e => subst e; rfl
  · rfl

@[simp] theorem tookTurn_wave (d : Device) (a v w : Nat) (o : BitVec 12) : (d.tookTurn a v o).wave w = d.wave w := rfl

theorem agree_setCtx_pmc (d : Device) (a : Nat) (t : Tab W64) (w : Nat) : d.agree (d.setCtx a { d.ctx a with pmc := t }) w := by
  refine ⟨rfl, fun _ _ => rfl, fun _ => rfl, fun k => ?_⟩
  simp only [Device.readBack]
  split
  · next e => subst e; rfl
  · rfl

theorem agree_flushPmc (d : Device) (w : Nat) : d.agree (d.flushPmc w) w := by
  unfold Device.flushPmc
  dsimp only
  split
  · exact agree_refl d w
  · exact agree_trans (agree_setCtx_pmc d _ _ w) (agree_setWave _ w _)

theorem flushPmc_arch (d : Device) (w : Nat) : ((d.flushPmc w).wave w).arch = (d.wave w).arch := by
  unfold Device.flushPmc
  dsimp only
  split
  · rfl
  · simp only [Device.wave_setWave, if_true]; rfl

theorem flushPmc_thread (d : Device) (w l : Nat) : ((d.flushPmc w).wave w).thread l = (d.wave w).thread l := by
  unfold Device.flushPmc
  dsimp only
  split
  · rfl
  · simp only [Device.wave_setWave, if_true]; rfl

theorem nextOf_firm (t : Thread) (tgt : Option Addr) :
    (nextOf t tgt).rs = t.rs ∧ (nextOf t tgt).rsd = t.rsd ∧ (nextOf t tgt).workid = t.workid ∧ (nextOf t tgt).st = t.st := by
  unfold nextOf
  split
  · exact ⟨rfl, rfl, rfl, rfl⟩
  · split <;> exact ⟨rfl, rfl, rfl, rfl⟩

theorem firm_rotate (x : Wave) (g : Lanes) (k : Nat) : ((x.rotate g).thread k).firm = (x.thread k).firm := by
  unfold Wave.rotate
  show Thread.firm (Wave.thread (Wave.updLanes (Wave.updLanes x _ _) _ _) k) = _
  simp only [Wave.thread_updLanes]
  split <;> split <;> rfl

theorem post_thread (x : Wave) (i : Iss) (opc : BitVec 12) (o : Out) (k : Nat) : (x.post i opc o).thread k = x.thread k := by
  unfold Wave.post
  dsimp only
  cases o <;> (repeat' split) <;> rfl

theorem agree_publish (d : Device) (b w : Nat) : d.agree (d.publish b) w := by
  unfold Device.publish
  dsimp only
  split
  · refine ⟨rfl, fun _ _ => rfl, fun k => ?_, fun _ => rfl⟩
    rw [(Device.readBack _ _).1]
    split
    · next e => subst e; rfl
    · rfl
  · exact agree_refl d w

theorem wave_publish (d : Device) (b w : Nat) : (d.publish b).wave w = d.wave w := by
  unfold Device.publish
  dsimp only
  split <;> rfl

theorem agree_stepped (d : Device) (w : Nat) : d.agree (d.stepped w) w := by
  unfold Device.stepped
  dsimp only
  split
  · exact agree_setWave _ _ _
  · exact agree_refl d w

theorem stepped_arch (d : Device) (w : Nat) : ((d.stepped w).wave w).arch = (d.wave w).arch := by
  unfold Device.stepped
  dsimp only
  split
  · rw [Device.wave_setWave, if_pos rfl]; rfl
  · rfl

theorem stepped_thread (d : Device) (w l : Nat) : ((d.stepped w).wave w).thread l = (d.wave w).thread l := by
  unfold Device.stepped
  dsimp only
  split
  · rw [Device.wave_setWave, if_pos rfl]; rfl
  · rfl

theorem goOn_eq (x : Wave) (i : Iss) (e : Eff) (hp : e.post = none) (hl : e.leave = none) : x.goOn i e = x.wentOn i e.next := by
  unfold Wave.goOn
  rw [hp, hl, if_neg (by simp), if_neg (by simp)]; rfl

theorem wentOn_arch (z : Wave) (i : Iss) (tgt : Nat → Option Addr) : (z.wentOn i tgt).arch = z.arch :=
  Wave.foldl_keeps Wave.arch (fun (x : Wave) l => x.updThread l _) (fun _ _ => rfl) _ _

theorem wentOn_masks (z : Wave) (i : Iss) (tgt : Nat → Option Addr) : (z.wentOn i tgt).masks = z.masks :=
  Wave.foldl_keeps Wave.masks (fun (x : Wave) l => x.updThread l _) (fun _ _ => rfl) _ _

/-- What each thread is after the group has gone on. -/
theorem wentOn_thread (z : Wave) (i : Iss) (tgt : Nat → Option Addr) (l : Nat) :
    (z.wentOn i tgt).thread l =
      if i.grp.getLsbD l then nextOf (z.thread l) (if i.act.getLsbD l then tgt l else none) else z.thread l := by
  unfold Wave.wentOn
  rw [Wave.thread_foldl_upd _ (lanesOf_nodup _)]
  by_cases h : i.grp.getLsbD l
  · simp [mem_lanesOf, h, lt_of_getLsbD h]
  · simp [mem_lanesOf, h]

theorem same_of_fields {x y : Wave} (h : x.Same y) (rc stall turn : Nat) (wt : Wait) (sp : Option Spill) :
    (x.sched rc stall turn wt sp).Same y := ⟨h.1, h.2.1, h.2.2⟩

/-- A wave that is the group gone on, but for what only schedules it, rotated, advanced and settled, has gone on. -/
theorem goesOn_of {i : Iss} {z u : Wave} {n : Nat} {tgt : Nat → Option Addr} (rc stall turn : Nat) (wt : Wait) (sp : Option Spill)
    (hu : u = ((z.wentOn i tgt).rotate i.grp).sched rc stall turn wt sp) : WaveGoesOn i z (u.cycles n) n tgt := by
  have hs : u.Same (z.wentOn i tgt) := by subst hu; exact same_of_fields (Wave.same_rotate _ _) _ _ _ _ _
  have hf : ∀ l, (u.thread l).firm = ((z.wentOn i tgt).thread l).firm := by subst hu; exact fun l => firm_rotate _ _ _
  obtain ⟨ha, -, hl⟩ := Wave.same_cycles hs n
  have hc := Wave.cycles_sched rc stall turn wt sp ((z.wentOn i tgt).rotate i.grp) n
  refine ⟨ha, fun l => ?_, hl, fun m => by rw [hu, hc]; rfl, fun l => by rw [hu, hc]; rfl⟩
  · have h := (Wave.firm_cycles u n l).trans (hf l)
    rw [wentOn_thread] at h
    simp only [Thread.firm, Prod.mk.injEq] at h
    obtain ⟨h1, h2, h3, h4, -, h6⟩ := h
    split at h1
    · next hg =>
      rw [if_pos hg]
      simp only [hg, if_true] at h2 h3 h4 h6
      have hn := nextOf_firm (z.thread l) (if i.act.getLsbD l then tgt l else none)
      refine ⟨h1, h2.trans hn.1, h3.trans hn.2.1, h4.trans hn.2.2.1, ?_⟩
      rw [hn.2.2.2] at h6
      rw [← beq_iff_eq, h6, beq_iff_eq]
    · next hg =>
      rw [if_neg hg]
      simp only [hg] at h2 h3 h4 h6
      refine ⟨h1, h2, h3, h4, ?_⟩
      rw [← beq_iff_eq, h6]
      exact beq_iff_eq

theorem writeLane_wait (x : Wave) (d : Dest) (l v : Nat) : (x.writeLane d l v).wait = x.wait := by
  cases d with
  | w r n =>
    simp only [Wave.writeLane]
    induction n generalizing x r v with
    | zero => rfl
    | succ n ih => simp only [Wave.setGroup]; rw [ih]; split <;> rfl
  | p i => simp only [Wave.writeLane, Wave.setPred]; split <;> rfl
  | ps m =>
    refine Wave.foldl_keeps Wave.wait _ (fun x i => ?_) _ _
    split
    · simp only [Wave.setPred]; split <;> rfl
    · rfl
  | sr i => simp only [Wave.writeLane]; split <;> (try split) <;> (try split) <;> (try split) <;> rfl
  | none => rfl
  | m _ => rfl
  | n i => rfl
  | lc i => rfl

theorem landOne_wait (x : Wave) (e : PipeEnt) : (x.landOne e).wait = x.wait := by
  have key : ∀ y : Wave, (match e.post with | some n => y.complete n id | none => y).wait = y.wait := by
    intro y; cases e.post <;> rfl
  unfold Wave.landOne
  refine (key _).trans ?_
  cases e.dst with
  | m i => dsimp only; split <;> rfl
  | _ => exact Wave.foldl_keeps Wave.wait (fun (x : Wave) l => x.writeLane _ l (e.vals.get 0 l)) (fun x a => writeLane_wait x _ a _) _ _

/-- No landing result ends a wait. -/
theorem advance_wait (x : Wave) (n : Nat) : (x.advance n).wait = x.wait := by
  have land : ∀ (y : Wave) k, (y.landAt k).wait = y.wait := fun y k =>
    Wave.foldl_keeps Wave.wait _ (fun x e => landOne_wait x e) _ _
  induction n generalizing x with
  | zero => exact land x 0
  | succ n ih => simp only [Wave.advance]; rw [ih]; exact land x 0

/-- Holds and releases end no wait of the wave. -/
theorem settle_wait (x : Wave) : x.settle.wait = x.wait := by
  have h : ∀ x : Wave, x.holdAt.wait = x.wait := fun x =>
    Wave.foldl_keeps Wave.wait _ (fun x l => by dsimp only; split <;> (try split) <;> rfl) _ _
  have k : ∀ x : Wave, x.syncRelease.wait = x.wait := fun x =>
    Wave.foldl_keeps Wave.wait _ (fun y l => by split <;> rfl) _ _
  have all : ∀ n (x : Wave), (Wave.settleN n x).wait = x.wait := by
    intro n
    induction n with
    | zero => exact fun _ => rfl
    | succ n ih =>
      intro x
      simp only [Wave.settleN]
      split
      · rw [h, k, h]
      · rw [ih, Wave.foldl_keeps Wave.wait (fun (x : Wave) i => x.setMask i ⟨0, 0⟩) (fun _ _ => rfl), h, k, h]
  exact all 13 x

/-- No cycle of an issue ends a wait. -/
theorem cycles_wait (x : Wave) (n : Nat) : (x.cycles n).wait = x.wait := by
  have land : ∀ y : Wave, (y.landAt 0).wait = y.wait := fun y => Wave.foldl_keeps Wave.wait _ (fun x e => landOne_wait x e) _ _
  induction n with
  | zero => simp only [Wave.cycles, Wave.cycle]; rw [settle_wait, land]
  | succ n ih => simp only [Wave.cycles, Wave.cycle]; rw [settle_wait, land]; exact ih

theorem issued_wait (x : Wave) (i : Iss) (opc : BitVec 12) (e : Eff) (preq : Bool) (turn : Nat) (hp : e.post = none) (hl : e.leave = none) :
    (x.issued i opc e preq turn).wait = e.waits.getD .ready := by
  unfold Wave.issued
  rw [hl, hp, if_neg (by simp)]
  dsimp only
  rw [cycles_wait]

theorem flushPmc_wait (d : Device) (w : Nat) : ((d.flushPmc w).wave w).wait = (d.wave w).wait := by
  unfold Device.flushPmc
  dsimp only
  split
  · rfl
  · simp only [Device.wave_setWave, if_true]

theorem stepped_wait (d : Device) (w : Nat) : ((d.stepped w).wave w).wait = (d.wave w).wait := by
  unfold Device.stepped
  dsimp only
  split
  · rw [Device.wave_setWave, if_pos rfl]
  · rfl

theorem issued_goesOn (x : Wave) (i : Iss) (opc : BitVec 12) (e : Eff) (preq : Bool) (turn : Nat) (hp : e.post = none) (hl : e.leave = none) :
    WaveGoesOn i (x.post i opc e.out) (x.issued i opc e preq turn) (e.positions i) e.next := by
  unfold Wave.issued
  rw [hl, goOn_eq _ _ _ hp hl, hp, if_neg (by simp)]
  dsimp only
  exact goesOn_of _ _ _ _ _ rfl

/-- What the device does to a wave after its issue leaves it gone on. -/
theorem goesOn_congr {i : Iss} {z y u : Wave} {n : Nat} {tgt : Nat → Option Addr} (h : WaveGoesOn i z y n tgt) (ha : u.arch = y.arch)
    (ht : ∀ l, u.thread l = y.thread l) (hm : ∀ m, u.mask m = y.mask m) : WaveGoesOn i z u n tgt :=
  ⟨ha.trans h.1, fun l => by rw [ht]; exact h.2.1 l, fun l => by rw [ht]; exact h.2.2.1 l, fun m => by rw [hm]; exact h.2.2.2.1 m,
    fun l => by rw [ht]; exact h.2.2.2.2 l⟩

theorem flushPmc_mask (d : Device) (w m : Nat) : ((d.flushPmc w).wave w).mask m = (d.wave w).mask m := by
  unfold Device.flushPmc
  dsimp only
  split
  · rfl
  · simp only [Device.wave_setWave, if_true]; rfl

theorem stepped_mask (d : Device) (w m : Nat) : ((d.stepped w).wave w).mask m = (d.wave w).mask m := by
  unfold Device.stepped
  dsimp only
  split
  · rw [Device.wave_setWave, if_pos rfl]; rfl
  · rfl

/-- WHAT AN ISSUE LEAVES, for an effect with no trap of its own, no `YIELD` and no return from a handler: the wave with its post, gone on
and advanced; everything else as the effect left it. -/
theorem finish_spec (i : Iss) (opc : BitVec 12) (e : Eff) (hp : e.post = none) (hy : e.yields = false) (hl : e.leave = none) :
    (St.finish i opc e).log = e.st.log ∧ (St.finish i opc e).m0 = e.st.m0 ∧ e.st.d.agree (St.finish i opc e).d i.w ∧
      ((St.finish i opc e).d.wave i.w).wait = e.waits.getD .ready ∧
      WaveGoesOn i ((e.st.d.wave i.w).post i opc e.out) ((St.finish i opc e).d.wave i.w) (e.positions i) e.next := by
  have hg := issued_goesOn (e.st.d.wave i.w) i opc e (e.st.d.block i.blk).preq e.st.d.turns hp hl
  have hwt := issued_wait (e.st.d.wave i.w) i opc e (e.st.d.block i.blk).preq e.st.d.turns hp hl
  unfold St.finish
  rw [hp, hy]
  dsimp only
  simp only [Bool.false_and, Bool.false_eq_true, if_false]
  cases hpub : e.pub
  · simp only [Bool.false_eq_true, if_false, St.withD_fields, true_and]
    refine ⟨?_, ?_, ?_⟩
    · exact agree_trans (agree_setWave _ _ _) (agree_trans (agree_flushPmc _ _) (agree_trans (agree_tookTurn _ _ _ _ _) (agree_stepped _ _)))
    · rw [stepped_wait, tookTurn_wave, flushPmc_wait, Device.wave_setWave, if_pos rfl, hwt]
    · refine goesOn_congr hg ?_ (fun l => ?_) (fun m => ?_)
      · rw [stepped_arch, tookTurn_wave, flushPmc_arch, Device.wave_setWave, if_pos rfl]
      · rw [stepped_thread, tookTurn_wave, flushPmc_thread, Device.wave_setWave, if_pos rfl]
      · rw [stepped_mask, tookTurn_wave, flushPmc_mask, Device.wave_setWave, if_pos rfl]
  · simp only [if_true, St.withD_fields, true_and]
    refine ⟨?_, ?_, ?_⟩
    · exact agree_trans (agree_setWave _ _ _) (agree_trans (agree_flushPmc _ _)
        (agree_trans (agree_tookTurn _ _ _ _ _) (agree_trans (agree_publish _ _ _) (agree_stepped _ _))))
    · rw [stepped_wait, wave_publish, tookTurn_wave, flushPmc_wait, Device.wave_setWave, if_pos rfl, hwt]
    · refine goesOn_congr hg ?_ (fun l => ?_) (fun m => ?_)
      · rw [stepped_arch, wave_publish, tookTurn_wave, flushPmc_arch, Device.wave_setWave, if_pos rfl]
      · rw [stepped_thread, wave_publish, tookTurn_wave, flushPmc_thread, Device.wave_setWave, if_pos rfl]
      · rw [stepped_mask, wave_publish, tookTurn_wave, flushPmc_mask, Device.wave_setWave, if_pos rfl]

/-- A handler goes on while one of its lanes is not DONE. -/
theorem handlerEnd_goes {s : St} {w : Nat}
    (h : ∀ f, (s.d.wave w).frame = some f → ∃ l, f.lanes.getLsbD l = true ∧ ((s.d.wave w).thread l).st ≠ .done) : s.handlerEnd w = s := by
  unfold St.handlerEnd
  dsimp only
  split
  · next f hf =>
    obtain ⟨l, hl, hd⟩ := h f hf
    rw [if_neg]
    intro hall
    have := List.all_eq_true.mp hall l (mem_lanesOf.mpr ⟨lt_of_getLsbD hl, hl⟩)
    simp only [beq_iff_eq] at this
    exact hd this
  · rfl

theorem frame_of_arch {x y : Wave} (h : x.arch = y.arch) : x.frame = y.frame := by
  show x.arch.frame = y.arch.frame; rw [h]

theorem writeLane_frame (x : Wave) (d : Dest) (l v : Nat) : (x.writeLane d l v).frame = x.frame := by
  cases d with
  | w r n =>
    simp only [Wave.writeLane]
    induction n generalizing x r v with
    | zero => rfl
    | succ n ih => simp only [Wave.setGroup]; rw [ih]; split <;> rfl
  | p i => simp only [Wave.writeLane, Wave.setPred]; split <;> rfl
  | ps m =>
    refine Wave.foldl_keeps Wave.frame _ (fun x i => ?_) _ _
    split
    · simp only [Wave.setPred]; split <;> rfl
    · rfl
  | sr i => simp only [Wave.writeLane]; split <;> (try split) <;> (try split) <;> (try split) <;> rfl
  | none => rfl
  | m _ => rfl
  | n i => rfl
  | lc i => rfl

theorem landOne_frame (x : Wave) (e : PipeEnt) : (x.landOne e).frame = x.frame := by
  have key : ∀ y : Wave, (match e.post with | some n => y.complete n id | none => y).frame = y.frame := by
    intro y; cases e.post <;> rfl
  unfold Wave.landOne
  refine (key _).trans ?_
  cases e.dst with
  | m i => dsimp only; split <;> rfl
  | _ => exact Wave.foldl_keeps Wave.frame (fun (x : Wave) l => x.writeLane _ l (e.vals.get 0 l)) (fun x a => writeLane_frame x _ a _) _ _

theorem advance_frame (x : Wave) (n : Nat) : (x.advance n).frame = x.frame := by
  have land : ∀ (y : Wave) k, (y.landAt k).frame = y.frame := fun y k =>
    Wave.foldl_keeps Wave.frame _ (fun x e => landOne_frame x e) _ _
  induction n generalizing x with
  | zero => exact land x 0
  | succ n ih => simp only [Wave.advance]; rw [ih]; exact land x 0

theorem post_frame (x : Wave) (i : Iss) (opc : BitVec 12) (o : Out) : (x.post i opc o).frame = x.frame := by
  unfold Wave.post
  dsimp only
  cases o <;> (repeat' split) <;> rfl

/-- AN INSTRUCTION THAT ISSUES AND GOES ON, stated once for every body that ends in an issue: the next state, its memory, the wave, the
threads, and that nothing else has changed but what the effect changed. -/
theorem issue_goesOn {opc : BitVec 12} {h : Ctl} {q : Req} {body : Iss → St → Res} {s : State} {i : Iss} {x : Wave} (g : Goes h q s i x)
    {e : Eff} (hb : body i (s.at' i x) = .ok e) (hp : e.post = none) (hy : e.yields = false) (hl : e.leave = none)
    (hh : HandlerGoesOn (e.st.d.wave i.w)) :
    ∃ t, issue opc h q body s = .next t ∧ t.mem = (s.after e.st).mem ∧ e.st.d.agree t.dev i.w ∧
      (t.dev.wave i.w).wait = e.waits.getD .ready ∧ WaveGoesOn i ((e.st.d.wave i.w).post i opc e.out) (t.dev.wave i.w) (e.positions i) e.next := by
  obtain ⟨f1, f2, f3, f5, f4⟩ := finish_spec i opc e hp hy hl
  have hend : (St.finish i opc e).handlerEnd i.w = St.finish i opc e := by
    apply handlerEnd_goes
    intro f hf
    rw [frame_of_arch f4.1, advance_frame, show ∀ z : Wave, (z.wentOn i e.next).frame = z.frame from
      fun z => frame_of_arch (wentOn_arch z i _), post_frame] at hf
    obtain ⟨l, -, h1, h2⟩ := hh f hf
    refine ⟨l, h1, fun hd => h2 ?_⟩
    have := (f4.2.1 l).2.2.2.2.mp hd
    rwa [post_thread] at this
  refine ⟨s.after (St.finish i opc e), ?_, ?_, f3, f5, f4⟩
  · rw [issue_goes g, hb]
    simp only [St.carryOut, hend]
  · show s.mem.writeAll (St.finish i opc e).log = _
    rw [f1]; rfl

end Sys2Proof.Machine
end

