-- ==== Sys2Proof/Laws/Results.lean ====
section
/-! SUPPORT. The instructions that only compute a result: whatever their family, their issue posts the result and leaves the rest. -/

namespace Sys2Proof.Machine

/-- Until its own effect an issue has changed the wave only. -/
theorem agree_at' (s : State) (i : Iss) (x : Wave) : s.dev.agree (s.at' i x).d i.w := agree_setWave _ _ _

/-- An issue whose body ends in an effect leaves that effect's state. -/
theorem leaves_of {ins : Instr} {opc : BitVec 12} {h : Ctl} {q : Req} {body : Iss → St → Res} {s : State} {i : Iss} {x : Wave}
    (he : ∀ s, exec ins s = issue opc h q body s) (g : Goes h q s i x) {e : Eff} (hb : body i (s.at' i x) = .ok e)
    (hp : e.post = none) (hy : e.yields = false) (hl : e.leave = none) :
    LeavesWaiting ins opc s i e.st e.out (if e.taken i then 3 else e.pos) e.next (e.waits.getD .ready) := by
  intro hh
  obtain ⟨t, h1, h2, h3, h5, h4⟩ := issue_goesOn (opc := opc) g hb hp hy hl hh
  exact ⟨t, (he s).trans h1, h2, h3, h5, h4⟩

/-- The same, where the effect is a change of the wave only. -/
theorem leavesWave_of {ins : Instr} {opc : BitVec 12} {h : Ctl} {q : Req} {body : Iss → St → Res} {s : State} {i : Iss} {x z : Wave}
    (he : ∀ s, exec ins s = issue opc h q body s) (g : Goes h q s i x) {e : Eff} (hb : body i (s.at' i x) = .ok e)
    (hp : e.post = none) (hy : e.yields = false) (hl : e.leave = none) (hw : e.waits = none) (hlog : e.st.log = [])
    (hd : s.dev.agree e.st.d i.w) (hz : e.st.d.wave i.w = z) :
    LeavesWave ins opc s i z e.out (if e.taken i then 3 else e.pos) e.next := by
  subst hz
  intro hh
  obtain ⟨t, h1, h2, h3, h5, h4⟩ := issue_goesOn (opc := opc) g hb hp hy hl hh
  rw [hw] at h5
  refine ⟨t, (he s).trans h1, ?_, h5, agree_trans hd h3, h4⟩
  rw [h2]
  show s.mem.writeAll e.st.log = s.mem
  rw [hlog]; rfl

/-- A state that only the wave of differs leaves that wave. -/
theorem Leaves.wave {ins : Instr} {opc : BitVec 12} {s : State} {i : Iss} {u : St} {out : Out} {n : Nat} {tgt : Nat → Option Addr} {z : Wave}
    (hl : Leaves ins opc s i u out n tgt) (hlog : u.log = []) (hd : s.dev.agree u.d i.w) (hz : u.d.wave i.w = z) :
    LeavesWave ins opc s i z out n tgt := by
  subst hz
  intro hh
  obtain ⟨t, h1, h2, h3, h5, h4⟩ := hl hh
  refine ⟨t, h1, ?_, h5, agree_trans hd h3, h4⟩
  rw [h2]
  show s.mem.writeAll u.log = s.mem
  rw [hlog]; rfl

/-- An issue whose body holds waits, and does nothing else. -/
theorem issue_hold {opc : BitVec 12} {h : Ctl} {q : Req} {body : Iss → St → Res} {s : State} {i : Iss} {x : Wave} (g : Goes h q s i x)
    {t : St} {w : Wait} (hb : body i (s.at' i x) = .hold t w) :
    issue opc h q body s = .next (s.after (t.withD (fun d => d.setWave i.w { d.wave i.w with wait := w }))) := by
  unfold issue run
  simp only [g.1]
  rw [g.2]
  simp only [show (St.of s).withD (·.setWave i.w x) = s.at' i x from rfl, hb]
  rfl

/-- An issue whose body faults takes that exception. -/
theorem issue_trap {opc : BitVec 12} {h : Ctl} {q : Req} {body : Iss → St → Res} {s : State} {i : Iss} {x : Wave} (g : Goes h q s i x)
    {c : Nat} {v0 v1 v2 v3 : W64} (hb : body i (s.at' i x) = .trap c v0 v1 v2 v3) :
    issue opc h q body s = .next (s.after ((s.at' i x).faultAt i c v0 v1 v2 v3)) := by
  unfold issue run
  simp only [g.1]
  rw [g.2]
  simp only [show (St.of s).withD (·.setWave i.w x) = s.at' i x from rfl, hb]
  rfl

theorem taken_plain (i : Iss) {e : Eff} (h : e.next = fun _ => none) : e.taken i = false := by
  unfold Eff.taken
  rw [h]
  simp

/-- A body that goes on in sequence, with a state that only the wave of differs. -/
theorem leavesSeq_of {ins : Instr} {opc : BitVec 12} {h : Ctl} {q : Req} {body : Iss → St → Res} {s : State} {i : Iss} {x z : Wave} {u : St}
    {out : Out} {n : Nat} (he : ∀ s, exec ins s = issue opc h q body s) (g : Goes h q s i x)
    (hb : body i (s.at' i x) = .ok { Eff.plain u with out := out, pos := n }) (hlog : u.log = [])
    (hd : s.dev.agree u.d i.w) (hz : u.d.wave i.w = z) : LeavesWave ins opc s i z out n (fun _ => none) := by
  have hl := leavesWave_of he g hb rfl rfl rfl rfl hlog hd hz
  rw [taken_plain i rfl] at hl
  exact hl

/-- The same for a change `f` of the wave. -/
theorem leavesOn_of {ins : Instr} {opc : BitVec 12} {h : Ctl} {q : Req} {body : Iss → St → Res} {s : State} {i : Iss} {x : Wave}
    {f : Wave → Wave} {out : Out} {n : Nat} (he : ∀ s, exec ins s = issue opc h q body s) (g : Goes h q s i x)
    (hb : body i (s.at' i x) = .ok { Eff.plain ((s.at' i x).withD (fun d => d.setWave i.w (f (d.wave i.w)))) with out := out, pos := n }) :
    LeavesWave ins opc s i (f x) out n (fun _ => none) :=
  leavesSeq_of he g hb rfl (agree_trans (agree_at' s i x) (agree_setWave _ _ _)) (by simp)

/-- A body that changes nothing. -/
theorem leavesSame_of {ins : Instr} {opc : BitVec 12} {h : Ctl} {q : Req} {body : Iss → St → Res} {s : State} {i : Iss} {x : Wave}
    {out : Out} {n : Nat} (he : ∀ s, exec ins s = issue opc h q body s) (g : Goes h q s i x)
    (hb : body i (s.at' i x) = .ok { Eff.plain (s.at' i x) with out := out, pos := n }) : LeavesWave ins opc s i x out n (fun _ => none) :=
  leavesSeq_of he g hb rfl (agree_at' s i x) (by simp)

/-- A body that only gives the pipe a result. -/
theorem fixedResult_of {ins : Instr} {opc : BitVec 12} {h : Ctl} {q : Req} {lat : Nat} {d : Dest} {f : Iss → Wave → Nat → Nat}
    {body : Iss → St → Res} (he : ∀ s, exec ins s = issue opc h q body s)
    (hb : ∀ i t, body i t = .ok { Eff.plain t with out := .fixed lat d (valsOf i.act (f i (t.d.wave i.w))) }) :
    FixedResult ins opc h q lat d f := by
  intro s i x g hh
  obtain ⟨t, h1, h2, h3, h5, h4⟩ := issue_goesOn (opc := opc) g (hb i _) rfl rfl rfl (by simpa [Eff.plain] using hh)
  refine ⟨t, (he s).trans h1, h2, agree_trans (agree_at' s i x) h3, ?_⟩
  have hpos : Eff.positions { Eff.plain (s.at' i x) with out := .fixed lat d (valsOf i.act (f i ((s.at' i x).d.wave i.w))) } i =
      1 + i.h.gap.toNat := by
    unfold Eff.positions
    rw [if_neg (by simp [Eff.taken, Eff.plain])]; rfl
  rw [hpos] at h4
  simpa [Eff.plain] using h4

/-- A body that only starts an operation with its results. -/
theorem longResult_of {ins : Instr} {opc : BitVec 12} {h : Ctl} {q : Req} {d : Dest} {f : Iss → Wave → Nat → Nat}
    {body : Iss → St → Res} (he : ∀ s, exec ins s = issue opc h q body s)
    (hb : ∀ i t, body i t = .ok { Eff.plain t with out := .long d (valsOf i.act (f i (t.d.wave i.w))) true none false }) :
    LongResult ins opc h q d f := by
  intro s i x g hh
  obtain ⟨t, h1, h2, h3, h5, h4⟩ := issue_goesOn (opc := opc) g (hb i _) rfl rfl rfl (by simpa [Eff.plain] using hh)
  refine ⟨t, (he s).trans h1, h2, agree_trans (agree_at' s i x) h3, ?_⟩
  have hpos : Eff.positions { Eff.plain (s.at' i x) with out := .long d (valsOf i.act (f i ((s.at' i x).d.wave i.w))) true none false } i =
      1 + i.h.gap.toNat := by
    unfold Eff.positions
    rw [if_neg (by simp [Eff.taken, Eff.plain])]; rfl
  rw [hpos] at h4
  simpa [Eff.plain] using h4

/-- A body that ends in an access leaves it performed or held, or waits. -/
theorem accesses_of {ins : Instr} {opc : BitVec 12} {h : Ctl} {q : Req} {body : Iss → St → Res} {s : State} {i : Iss} {x : Wave}
    (he : ∀ s, exec ins s = issue opc h q body s) (g : Goes h q s i x) {order scope size : Nat} {rd wr : Bool} {ea : Nat → W64}
    {ps : List (Nat × Place)} {dst : Option Dest} {u : St} {pub : Bool} {perf : St → Perf}
    (hb : body i (s.at' i x) = u.access i x ins order scope size rd wr ea ps dst pub perf) :
    Accesses ins opc s i x order scope size rd wr ea ps dst u perf := by
  have wt : (if i.act = 0 then none else scOf order scope).getD Wait.ready = if i.act = 0 then .ready else (scOf order scope).getD .ready := by
    split <;> rfl
  refine ⟨fun v hv => ⟨fun hm => ?_, fun hm => ?_⟩, fun v w hv => ?_, fun v c v0 v1 v2 v3 hv => ?_⟩
  · have := leaves_of he g (e := { Eff.plain ((perf v).after i) with
      out := (perf v).out dst, pub := pub, waits := if i.act = 0 then none else scOf order scope }) (by simp only [hb, St.access, hv, hm]; rfl) rfl rfl rfl
    rw [taken_plain i rfl] at this
    rw [← wt]
    exact this
  · have := leaves_of he g (e := { Eff.plain (v.holdAccess i (i.late x ins order scope size rd wr ea ps) (addressed ea ps)) with
      out := heldOut dst, pub := pub, waits := if i.act = 0 then none else scOf order scope })
      (by simp only [hb, St.access, hv, hm]; rfl) rfl rfl rfl
    rw [taken_plain i rfl] at this
    rw [← wt]
    exact this
  · unfold WaitsOn
    rw [he]
    exact issue_hold g (by rw [hb, St.access, hv])
  · unfold Faults
    rw [he, issue_goes g, hb, St.access, hv]; rfl

/-- A body that ends in an access of the other kind waits, or leaves its effect. -/
theorem bound_of {ins : Instr} {opc : BitVec 12} {h : Ctl} {q : Req} {body : Iss → St → Res} {s : State} {i : Iss} {x : Wave}
    (he : ∀ s, exec ins s = issue opc h q body s) (g : Goes h q s i x) {size : Nat} {ea : Nat → W64} {ps : List (Nat × Place)} {u : St} {e : Eff}
    (hb : body i (s.at' i x) = u.boundFirst i x ea size ps (.ok e)) (hp : e.post = none) (hy : e.yields = false) (hl : e.leave = none)
    (hw : e.waits = none) : LeavesBound ins opc s i x size ea ps u e.st e.out (if e.taken i then 3 else e.pos) e.next := by
  unfold LeavesBound
  split
  · next hm =>
    unfold WaitsOn
    rw [he]
    exact issue_hold g (by rw [hb, St.boundFirst, if_pos hm])
  · next hm =>
    have := leaves_of he g (e := e) (by rw [hb, St.boundFirst, if_neg hm]) hp hy hl
    rw [hw] at this
    exact this

theorem alu_result {ins : Instr} {opc : BitVec 12} {h : Ctl} {lat n : Nat} {d : Opnd} {srcs : List (List (Nat × Nat × Bool))}
    {f : Wave → Nat → Nat} (he : ∀ s, exec ins s = alu opc lat h d n srcs f s) :
    FixedResult ins opc h (req (d.rng n) srcs) lat (d.dest n) (fun _ => f) := fixedResult_of he (fun _ _ => rfl)

theorem laneOp_result {ins : Instr} {opc : BitVec 12} {h : Ctl} {n : Nat} {d : Opnd} {srcs : List (List (Nat × Nat × Bool))}
    {f : Iss → Wave → Nat → Nat} (he : ∀ s, exec ins s = laneOp opc h d n srcs f s) :
    FixedResult ins opc h (req (d.rng n) srcs) 6 (d.dest n) f := fixedResult_of he (fun _ _ => rfl)

theorem sfu_result {ins : Instr} {opc : BitVec 12} {h : Ctl} {n : Nat} {d : Opnd} {srcs : List (List (Nat × Nat × Bool))}
    {f : Wave → Nat → Nat} (he : ∀ s, exec ins s = sfu opc h d n srcs f s) :
    LongResult ins opc h (req (d.rng n) srcs) (d.dest n) (fun _ => f) := longResult_of he (fun _ _ => rfl)

theorem valsOf_congr {m : Lanes} {f g : Nat → Nat} (h : ∀ l, m.getLsbD l = true → f l = g l) : valsOf m f = valsOf m g := by
  unfold valsOf
  apply List.map_congr_left
  intro l hl
  rw [h l (mem_lanesOf.mp hl).2]

/-- A result may be said in any way that gives the same values in the active lanes. -/
theorem FixedResult.congr {ins : Instr} {opc : BitVec 12} {h : Ctl} {q : Req} {lat : Nat} {d : Dest} {f g : Iss → Wave → Nat → Nat}
    (hr : FixedResult ins opc h q lat d f) (hf : ∀ i x l, i.act.getLsbD l = true → f i x l = g i x l) : FixedResult ins opc h q lat d g := by
  intro s i x hg hh
  rw [← valsOf_congr (hf i x)]
  exact hr s i x hg hh

/-- A matrix instruction takes its place with the operation it makes. -/
theorem takes_of {ins : Instr} {opc : BitVec 12} {h : Ctl} {q : Req} {dst : Dest} {mk : St → Iss → MatOp} {s : State} {i : Iss} {x : Wave}
    (he : ∀ s, exec ins s = matrix opc h q dst mk s) (g : Goes h q s i x) {m : MatOp} (hb : mk (s.at' i x) i = m) :
    Takes ins opc s i x dst m := by
  subst hb
  have hx : ∀ s, exec ins s = issue opc h q _ s := fun s => (he s).trans (by unfold matrix; rfl)
  refine ⟨?_, ?_⟩
  · intro h0
    refine leavesSame_of hx g ?_; dsimp only; rw [if_pos h0]; rfl
  · intro h0 hbad h1 h2 h3
    have hb := leaves_of hx g (e := { Eff.plain ((s.at' i x).withD fun d =>
        let rd := if (mk (s.at' i x) i).kind = 7 then [] else (((s.at' i x).matTiles (mk (s.at' i x) i)).getD []).map (fun t => (t.1, t.2.1))
        let d := rd.foldl (fun d r => d.updTile r.1 r.2 (fun t => { t with nrd := t.nrd + 1 })) d
        let d : Device := { d with mats := d.mats ++ [{ (mk (s.at' i x) i) with reads := rd }], idn := d.idn + 1 }
        if (mk (s.at' i x) i).kind = 7 then
          d.setWave i.w ((d.wave i.w).addWrites (some i.opid) true ((List.range 128).map (fun k => ((mk (s.at' i x) i).stRow k, .scratch i.blk 0))))
        else d) with
        out := .long dst [] false none false, pub := (mk (s.at' i x) i).outside ((s.at' i x).d.ctx i.asid).window.toNat }) ?_ rfl rfl rfl
    · rw [taken_plain i rfl] at hb; exact hb
    · dsimp only; rw [if_neg h0, hbad]
      dsimp only
      rw [at'_wave, if_neg (by simpa using h1), h2]
      dsimp only
      have : ((mk (s.at' i x) i).tile :: (mk (s.at' i x) i).tile2.toList).find? (fun t => decide (16 ≤ (s.at' i x).d.tileDepth i.core t)) = none := by
        rw [List.find?_eq_none]
        intro t ht
        have := h3 t ht
        rw [show (s.at' i x).d.tileDepth i.core t = s.dev.tileDepth i.core t from rfl]
        simp; omega
      rw [this]
end Sys2Proof.Machine
end

