-- ==== Sys2Proof/Laws/Lanes.lean ====
section
/-! SUPPORT. Work done lane by lane: when no lane's part fails, and folds over the lanes of a mask. -/

namespace Sys2Proof.Machine

theorem act_of_mem {m : Lanes} {l : Nat} (h : l ∈ lanesOf m) : m.getLsbD l = true := (mem_lanesOf.mp h).2

theorem mem_of_act {m : Lanes} {l : Nat} (h : m.getLsbD l = true) : l ∈ lanesOf m := mem_lanesOf.mpr ⟨lt_of_getLsbD h, h⟩

@[simp] theorem lanesOf_zero : lanesOf 0#32 = [] := by decide

theorem lanesOf_eq_nil {m : Lanes} : lanesOf m = [] ↔ m = 0 := by
  constructor
  · intro h
    apply BitVec.eq_of_getLsbD_eq
    intro l hl
    cases hb : m.getLsbD l
    · simp
    · have := mem_of_act hb
      rw [h] at this
      cases this
  · rintro rfl; decide

theorem filter_eq_nil_of {α : Type} {p : α → Bool} {ls : List α} (h : ∀ a ∈ ls, p a = false) : ls.filter p = [] := by
  rw [List.filter_eq_nil_iff]; intro a ha; simp [h a ha]

theorem failures_nil {ε α : Type} {ls : List Nat} {f : Nat → Except ε α} {g : Nat → α} (h : ∀ l ∈ ls, f l = .ok (g l)) :
    failures (ls.map (fun l => (l, f l))) = [] := by
  unfold failures
  rw [List.filterMap_eq_nil_iff]
  intro r hr
  obtain ⟨l, hl, rfl⟩ := List.mem_map.mp hr
  simp [h l hl]

theorem successes_map {ε α : Type} {ls : List Nat} {f : Nat → Except ε α} {g : Nat → α} (h : ∀ l ∈ ls, f l = .ok (g l)) :
    successes (ls.map (fun l => (l, f l))) = ls.map (fun l => (l, g l)) := by
  induction ls with
  | nil => rfl
  | cons a r ih =>
    have ha := h a (List.mem_cons_self ..)
    have hr := ih (fun l hl => h l (List.mem_cons_of_mem _ hl))
    unfold successes at hr ⊢
    rw [List.map_cons, List.filterMap_cons]
    simp only [ha]
    rw [hr]; rfl

theorem gotten_map {ε α : Type} {ls : List Nat} {f : Nat → Except ε α} {g : Nat → α} (d : α) (h : ∀ l ∈ ls, f l = .ok (g l)) {l : Nat} (hl : l ∈ ls) :
    gotten d (ls.map (fun l => (l, f l))) l = g l := by
  unfold gotten
  rw [successes_map h]
  have : ∀ ks : List Nat, l ∈ ks → (ks.map (fun l => (l, g l))).lookup l = some (g l) := by
    intro ks
    induction ks with
    | nil => intro h; cases h
    | cons a r ih =>
      intro hk
      rw [List.map_cons, List.lookup_cons]
      by_cases e : l = a
      · subst e; simp
      · have hne : (l == a) = false := by simpa using e
        simp only [hne]
        exact ih ((List.mem_cons.mp hk).resolve_left e)
  rw [this ls hl]; rfl

theorem foldl_congr_mem {α β : Type} {ls : List α} {f g : β → α → β} (h : ∀ b, ∀ a ∈ ls, f b a = g b a) (b : β) :
    ls.foldl f b = ls.foldl g b := by
  induction ls generalizing b with
  | nil => rfl
  | cons a r ih =>
    rw [List.foldl_cons, List.foldl_cons, h b a (List.mem_cons_self ..)]
    exact ih (fun b c hc => h b c (List.mem_cons_of_mem _ hc)) _

theorem any_congr_mem {α : Type} {ls : List α} {f g : α → Bool} (h : ∀ a ∈ ls, f a = g a) : ls.any f = ls.any g := by
  induction ls with
  | nil => rfl
  | cons a r ih =>
    rw [List.any_cons, List.any_cons, h a (List.mem_cons_self ..), ih (fun b hb => h b (List.mem_cons_of_mem _ hb))]

/-! ### Going on depends on the targets of the active lanes only -/

theorem wentOn_congr (z : Wave) (i : Iss) {f g : Nat → Option Addr} (h : ∀ l, i.act.getLsbD l = true → f l = g l) :
    z.wentOn i f = z.wentOn i g := by
  unfold Wave.wentOn
  apply foldl_congr_mem
  intro b l _
  by_cases ha : i.act.getLsbD l
  · rw [h l ha]
  · simp [ha]

theorem waveGoesOn_congr {i : Iss} {z y : Wave} {n : Nat} {f g : Nat → Option Addr} (h : ∀ l, i.act.getLsbD l = true → f l = g l)
    (w : WaveGoesOn i z y n f) : WaveGoesOn i z y n g := by
  unfold WaveGoesOn ThreadsGoOn at *
  rw [← wentOn_congr z i h]
  refine ⟨w.1, fun l => ?_, w.2.2⟩
  obtain ⟨h1, h2⟩ := w.2.1 l
  refine ⟨?_, h2⟩
  rw [h1]
  by_cases ha : i.act.getLsbD l
  · rw [h l ha]
  · simp [ha]

theorem leaves_congr {ins : Instr} {opc : BitVec 12} {s : State} {i : Iss} {u : St} {out : Out} {n : Nat} {f g : Nat → Option Addr}
    (h : ∀ l, i.act.getLsbD l = true → f l = g l) (hl : Leaves ins opc s i u out n f) : Leaves ins opc s i u out n g := by
  intro hh
  obtain ⟨t, h1, h2, h3, h5, h4⟩ := hl hh
  exact ⟨t, h1, h2, h3, h5, waveGoesOn_congr h h4⟩

theorem leavesWave_congr {ins : Instr} {opc : BitVec 12} {s : State} {i : Iss} {z : Wave} {out : Out} {n : Nat} {f g : Nat → Option Addr}
    (h : ∀ l, i.act.getLsbD l = true → f l = g l) (hl : LeavesWave ins opc s i z out n f) : LeavesWave ins opc s i z out n g := by
  intro hh
  obtain ⟨t, h1, h2, h3, h5, h4⟩ := hl hh
  exact ⟨t, h1, h2, h3, h5, waveGoesOn_congr h h4⟩
/-- A fold of states whose every step changes one thread of the wave changes those threads of the wave, and nothing else. -/
theorem foldl_threads {i : Iss} {f : St → Nat → St} {gg : Thread → Thread} {P : Thread → Prop} (hf : ∀ (u : St) l, P ((u.d.wave i.w).thread l) →
    (f u l).log = u.log ∧ (f u l).m0 = u.m0 ∧ u.d.agree (f u l).d i.w ∧ (f u l).d.wave i.w = (u.d.wave i.w).updThread l gg)
    (ls : List Nat) (hn : ls.Nodup) (u : St) (hP : ∀ l ∈ ls, P ((u.d.wave i.w).thread l)) :
    (ls.foldl f u).log = u.log ∧ (ls.foldl f u).m0 = u.m0 ∧ u.d.agree (ls.foldl f u).d i.w ∧
      (ls.foldl f u).d.wave i.w = ls.foldl (fun z l => z.updThread l gg) (u.d.wave i.w) := by
  induction ls generalizing u with
  | nil => exact ⟨rfl, rfl, agree_refl _ _, rfl⟩
  | cons a r ih =>
    obtain ⟨h1, h2, h3, h4⟩ := hf u a (hP a (List.mem_cons_self ..))
    obtain ⟨ha, hr⟩ := List.nodup_cons.mp hn
    obtain ⟨k1, k2, k3, k4⟩ := ih hr (f u a) (fun l hl => by
      rw [h4, Wave.thread_updThread, if_neg (by rintro rfl; exact ha hl)]
      exact hP l (List.mem_cons_of_mem _ hl))
    refine ⟨k1.trans h1, k2.trans h2, agree_trans h3 k3, ?_⟩
    rw [List.foldl_cons, List.foldl_cons, k4, h4]

end Sys2Proof.Machine
end

