-- ==== Sys2Proof/Laws/Control.lean ====
section
/-! SUPPORT. Control transfers: when none of their checks fails, and that they look at the lanes whose guard is true only. -/

namespace Sys2Proof.Machine

theorem find_none_late {x : Wave} (h : ∀ n, 8 ≤ n → n < 16 → (x.tok n).count = 0) :
    (List.range 16).find? (fun k => 8 ≤ k && (x.tok k).count != 0) = none := by
  rw [List.find?_eq_none]
  intro k hk
  simp only [List.mem_range] at hk
  by_cases h8 : 8 ≤ k
  · simp [h k h8 hk]
  · simp [h8]

theorem busyToks_nil {x : Wave} (h : ∀ n, n < 16 → (x.tok n).count = 0) : x.busyToks = [] := by
  unfold Wave.busyToks
  apply filter_eq_nil_of
  intro k hk
  simp [h k (List.mem_range.mp hk)]

theorem farLanes_nil {i : Iss} {x : Wave} {k : Xfer} {target : Target} (h : k ≠ .ret → ∀ l, i.act.getLsbD l = true → (target i x l).toNat < 2 ^ 57) :
    farLanes i x k target = [] := by
  unfold farLanes
  split
  · rfl
  · next hk => exact filter_eq_nil_of (fun l hl => by have := h hk l (act_of_mem hl); simp only [decide_eq_false_iff_not]; omega)

theorem lateTok_none {i : Iss} {x : Wave} {k : Xfer} (h : k = .ret → i.act ≠ 0 → ∀ n, 8 ≤ n → n < 16 → (x.tok n).count = 0) : lateTok i x k = none := by
  unfold lateTok
  split
  · next hk =>
    simp only [Bool.and_eq_true, decide_eq_true_eq, bne_iff_ne] at hk
    exact find_none_late (h hk.1 hk.2)
  · rfl

theorem xferTo_congr {s : St} {i : Iss} {x : Wave} {k : Xfer} {target : Target} {p q : Nat → Option Place} {l : Nat} (h : p l = q l) :
    s.xferTo i x k target p l = s.xferTo i x k target q l := by unfold St.xferTo; rw [h]

theorem hopsOf_congr {s : St} {i : Iss} {f g : Nat → Addr} (h : ∀ l, i.act.getLsbD l = true → f l = g l) : s.hopsOf i f = s.hopsOf i g := by
  unfold St.hopsOf
  split
  · apply List.filter_congr
    intro l hl
    rw [h l (act_of_mem hl)]
  · rfl

theorem hopsOf_sub {s : St} {i : Iss} {f : Nat → Addr} {l : Nat} (h : l ∈ s.hopsOf i f) : i.act.getLsbD l = true := by
  unfold St.hopsOf at h
  split at h
  · exact act_of_mem (List.mem_filter.mp h).1
  · cases h

theorem xferDo_congr {s : St} {i : Iss} {k : Xfer} {live : BitVec 11} {f g : Nat → Addr} {p q w v : Nat → Option Place}
    (hf : ∀ l, i.act.getLsbD l = true → f l = g l) (hp : ∀ l, i.act.getLsbD l = true → p l = q l) (hw : ∀ l ∈ s.hopsOf i f, w l = v l) :
    s.xferDo i k live f p w = s.xferDo i k live g q v := by
  unfold St.xferDo
  have h1 : s.xferStack i k (s.d.launch i.slot).travel p = s.xferStack i k (s.d.launch i.slot).travel q := by
    unfold St.xferStack
    apply foldl_congr_mem
    intro b l hl
    cases k <;> simp only [hp l (act_of_mem hl)]
  have h2 : ∀ z : Wave, z.unloop i.act f = z.unloop i.act g := by
    intro z
    unfold Wave.unloop
    apply foldl_congr_mem
    intro b l hl
    rw [hf l (act_of_mem hl)]
  rw [h1, ← hopsOf_congr hf]
  have h3 : ∀ b : St, (s.hopsOf i f).foldl (fun s l => s.hopLane i live l (f l) (w l)) b = (s.hopsOf i f).foldl (fun s l => s.hopLane i live l (g l) (v l)) b := by
    intro b
    apply foldl_congr_mem
    intro b l hl
    rw [hf l (hopsOf_sub hl), hw l hl]
  simp only [h2, h3]

end Sys2Proof.Machine
end

