-- ==== Sys2Proof/Laws/Encoding.lean ====
section
/-! SUPPORT. Reading back what an encoding puts together: fields, hints, operands. -/

namespace Sys2Proof

theorem bits_append_lo {a b : Nat} (x : BitVec a) (y : BitVec b) (lo n : Nat) (h : lo + n ≤ b) : bits (x ++ y) lo n = bits y lo n := by
  apply BitVec.eq_of_getLsbD_eq
  intro i hi
  simp only [bits, BitVec.getLsbD_extractLsb', BitVec.getLsbD_append]
  rw [if_pos (by omega)]

theorem bits_append_hi {a b : Nat} (x : BitVec a) (y : BitVec b) (lo n : Nat) (h : b ≤ lo) : bits (x ++ y) lo n = bits x (lo - b) n := by
  apply BitVec.eq_of_getLsbD_eq
  intro i hi
  simp only [bits, BitVec.getLsbD_extractLsb', BitVec.getLsbD_append]
  rw [if_neg (by omega)]
  congr 2
  omega

@[simp] theorem bits_self {n : Nat} (x : BitVec n) : bits x 0 n = x := by
  apply BitVec.eq_of_getLsbD_eq
  intro i hi
  simp [bits, hi]

@[simp] theorem bits_zero (w lo n : Nat) : bits (0 : BitVec w) lo n = 0 := by
  apply BitVec.eq_of_getLsbD_eq
  intro i _
  simp [bits]

@[simp] theorem bits_bool (b : Bool) : (bits (BitVec.ofBool b) 0 1 == 1#1) = b := by cases b <;> rfl

/-- Neighbouring bits, put side by side. -/
theorem bits_glue {w : Nat} (x : BitVec w) (lo n k hi : Nat) (h : hi = lo + n) : bits x hi k ++ bits x lo n = bits x lo (k + n) := by
  apply BitVec.eq_of_getLsbD_eq
  intro i hi'
  simp only [bits, BitVec.getLsbD_extractLsb', BitVec.getLsbD_append]
  split
  · simp [*]
  · next hn =>
    simp only [hi', decide_true, Bool.true_and, show i - n < k by omega, h]
    congr 1
    omega

/-- The fields of a word that was put together from fields. -/
theorem Fields.of_word (f : Fields) : Fields.of f.word = f := by
  obtain ⟨op, g, h, d, a, b, m⟩ := f
  unfold Fields.of Fields.word
  dsimp only
  congr 1
  · repeat rw [bits_append_hi _ _ _ _ (by omega)]
    exact bits_self _
  · iterate 5 rw [bits_append_hi _ _ _ _ (by omega)]
    rw [bits_append_lo _ _ _ _ (by omega)]
    exact bits_self _
  · iterate 4 rw [bits_append_hi _ _ _ _ (by omega)]
    rw [bits_append_lo _ _ _ _ (by omega)]
    exact bits_self _
  · iterate 3 rw [bits_append_hi _ _ _ _ (by omega)]
    rw [bits_append_lo _ _ _ _ (by omega)]
    exact bits_self _
  · iterate 2 rw [bits_append_hi _ _ _ _ (by omega)]
    rw [bits_append_lo _ _ _ _ (by omega)]
    exact bits_self _
  · rw [bits_append_hi _ _ _ _ (by omega), bits_append_lo _ _ _ _ (by omega)]
    exact bits_self _
  · rw [bits_append_lo _ _ _ _ (by omega)]
    exact bits_self _

/-- The hints that were put into G and H. -/
theorem Ctl.of_bits (c : Ctl) : Ctl.of c.gBits c.hBits = c := by
  obtain ⟨neg, pred, gap, post, wait, sp⟩ := c
  unfold Ctl.of Ctl.gBits Ctl.hBits bit
  dsimp only
  have e17 : bits (gap ++ BitVec.ofBool post.isSome ++ post.getD 0 ++ BitVec.ofBool wait.isSome ++ (wait.getD (0, 0)).1 ++
      (wait.getD (0, 0)).2 ++ BitVec.ofBool sp) 17 3 = gap := by
    repeat rw [bits_append_hi _ _ _ _ (by omega)]
    exact bits_self _
  have e16 : bits (gap ++ BitVec.ofBool post.isSome ++ post.getD 0 ++ BitVec.ofBool wait.isSome ++ (wait.getD (0, 0)).1 ++
      (wait.getD (0, 0)).2 ++ BitVec.ofBool sp) 16 1 = BitVec.ofBool post.isSome := by
    iterate 5 rw [bits_append_hi _ _ _ _ (by omega)]
    rw [bits_append_lo _ _ _ _ (by omega)]
    exact bits_self _
  have e12 : bits (gap ++ BitVec.ofBool post.isSome ++ post.getD 0 ++ BitVec.ofBool wait.isSome ++ (wait.getD (0, 0)).1 ++
      (wait.getD (0, 0)).2 ++ BitVec.ofBool sp) 12 4 = post.getD 0 := by
    iterate 4 rw [bits_append_hi _ _ _ _ (by omega)]
    rw [bits_append_lo _ _ _ _ (by omega)]
    exact bits_self _
  have e11 : bits (gap ++ BitVec.ofBool post.isSome ++ post.getD 0 ++ BitVec.ofBool wait.isSome ++ (wait.getD (0, 0)).1 ++
      (wait.getD (0, 0)).2 ++ BitVec.ofBool sp) 11 1 = BitVec.ofBool wait.isSome := by
    iterate 3 rw [bits_append_hi _ _ _ _ (by omega)]
    rw [bits_append_lo _ _ _ _ (by omega)]
    exact bits_self _
  have e7 : bits (gap ++ BitVec.ofBool post.isSome ++ post.getD 0 ++ BitVec.ofBool wait.isSome ++ (wait.getD (0, 0)).1 ++
      (wait.getD (0, 0)).2 ++ BitVec.ofBool sp) 7 4 = (wait.getD (0, 0)).1 := by
    iterate 2 rw [bits_append_hi _ _ _ _ (by omega)]
    rw [bits_append_lo _ _ _ _ (by omega)]
    exact bits_self _
  have e1 : bits (gap ++ BitVec.ofBool post.isSome ++ post.getD 0 ++ BitVec.ofBool wait.isSome ++ (wait.getD (0, 0)).1 ++
      (wait.getD (0, 0)).2 ++ BitVec.ofBool sp) 1 6 = (wait.getD (0, 0)).2 := by
    rw [bits_append_hi _ _ _ _ (by omega), bits_append_lo _ _ _ _ (by omega)]
    exact bits_self _
  have e0 : bits (gap ++ BitVec.ofBool post.isSome ++ post.getD 0 ++ BitVec.ofBool wait.isSome ++ (wait.getD (0, 0)).1 ++
      (wait.getD (0, 0)).2 ++ BitVec.ofBool sp) 0 1 = BitVec.ofBool sp := by
    rw [bits_append_lo _ _ _ _ (by omega)]
    exact bits_self _
  have g3 : bits (BitVec.ofBool neg ++ pred) 3 1 = BitVec.ofBool neg := by
    rw [bits_append_hi _ _ _ _ (by omega)]
    exact bits_self _
  have g0 : bits (BitVec.ofBool neg ++ pred) 0 3 = pred := by
    rw [bits_append_lo _ _ _ _ (by omega)]
    exact bits_self _
  have ob : ∀ b : Bool, (BitVec.ofBool b == 1#1) = b := by decide
  simp only [e17, e16, e12, e11, e7, e1, e0, g3, g0, ob]
  cases post <;> cases wait <;> rfl

/-- An operand whose class exists at its index: the only specifier that names none is a mask above `m11`. -/
theorem Opnd.ofSpec_spec (o : Opnd) (h : ∀ r, o = .m r → r.toNat < 12) : Opnd.ofSpec o.spec = some o := by
  have e : ∀ n : Nat, n < 512 → (BitVec.ofNat 9 n).toNat = n := fun n hn => by simp; omega
  cases o with
  | w r =>
    unfold Opnd.ofSpec Opnd.spec Opnd.specNat
    dsimp only
    rw [e _ (by omega), if_pos (by omega)]
    simp
  | p r =>
    unfold Opnd.ofSpec Opnd.spec Opnd.specNat
    dsimp only
    rw [e _ (by omega), if_neg (by omega), if_pos (by omega)]
    simp
  | m r =>
    have := h r rfl
    unfold Opnd.ofSpec Opnd.spec Opnd.specNat
    dsimp only
    rw [e _ (by omega)]
    iterate 2 rw [if_neg (by omega)]
    rw [if_pos (by omega)]
    simp
  | n r =>
    unfold Opnd.ofSpec Opnd.spec Opnd.specNat
    dsimp only
    rw [e _ (by omega)]
    iterate 3 rw [if_neg (by omega)]
    rw [if_pos (by omega)]
    simp
  | k r =>
    unfold Opnd.ofSpec Opnd.spec Opnd.specNat
    dsimp only
    rw [e _ (by omega)]
    iterate 4 rw [if_neg (by omega)]
    rw [if_pos (by omega)]
    simp
  | acc r =>
    unfold Opnd.ofSpec Opnd.spec Opnd.specNat
    dsimp only
    rw [e _ (by omega)]
    iterate 5 rw [if_neg (by omega)]
    rw [if_pos (by omega)]
    simp
  | lc r =>
    unfold Opnd.ofSpec Opnd.spec Opnd.specNat
    dsimp only
    rw [e _ (by omega)]
    iterate 6 rw [if_neg (by omega)]
    rw [if_pos (by omega)]
    simp
  | sr r =>
    unfold Opnd.ofSpec Opnd.spec Opnd.specNat
    dsimp only
    rw [e _ (by omega)]
    iterate 7 rw [if_neg (by omega)]
    rw [if_pos (by omega)]
    simp
  | imm r =>
    unfold Opnd.ofSpec Opnd.spec Opnd.specNat
    dsimp only
    rw [e _ (by omega)]
    iterate 9 rw [if_neg (by omega)]
    simp

/-- An operand that a slot takes exists at its index. -/
theorem Opnd.chk_index {o : Opnd} {s : Slot} (h : o.chk s = none) : ∀ r, o = .m r → r.toNat < 12 := by
  rintro r rfl
  unfold Opnd.chk at h
  split at h
  · exact absurd h (by simp)
  · next ha =>
    cases s <;> simp_all [Slot.accepts]

/-- A destination that its slot takes reads back. -/
theorem dOp_bits {o : Opnd} {s : Slot} (h : o.chk s = none) : dOp o.dBits = .ok o := by
  unfold dOp Opnd.dBits bit
  rw [bits_append_hi _ _ _ _ (by omega), bits_append_lo _ _ _ _ (by omega), bits_self o.spec, Opnd.ofSpec_spec o (o.chk_index h)]
  rfl

/-- A source that its slot takes reads back. -/
theorem sOp_bits {x : Src} {s : Slot} (h : x.chk s = none) : sOp x.bits = .ok x := by
  have hc : x.o.chk s = none := by
    unfold Src.chk at h
    split at h
    · exact absurd h (by simp)
    · exact h
  unfold sOp Src.bits bit
  rw [bits_append_lo _ _ _ _ (by omega), bits_self, Opnd.ofSpec_spec x.o (x.o.chk_index hc), bits_append_hi _ _ _ _ (by omega)]
  dsimp only
  rw [bits_bool]

/-- A list of checks passes when each passes. -/
@[simp] theorem firstIllegal_cons (c : Option Illegal) (l : List (Option Illegal)) :
    firstIllegal (c :: l) = none ↔ c = none ∧ firstIllegal l = none := by
  cases c <;> simp [firstIllegal]

@[simp] theorem firstIllegal_nil : firstIllegal [] = none := rfl

/-- The round trip of a word, from the round trip of its fields. -/
theorem decode_of_parse {i : Instr} {f : Fields} (hw : i.wf = true) (hf : i.fields = some f) (hp : parse f = .ok i) :
    decode f.word = .ok i := by
  unfold decode
  rw [Fields.of_word, hp]
  dsimp only
  have hi : i.illegal = none := by simpa [Instr.wf] using hw
  have he : encode i = some f.word := by simp [encode, hf]
  rw [hi]
  dsimp only
  rw [if_pos he]

end Sys2Proof
end

