-- ==== Sys2Proof/Laws/Exec.lean ====
section
/-! SUPPORT. The meaning of each constructor, one equation each: no proof about an instruction unfolds the dispatch. -/

namespace Sys2Proof.Machine
theorem exec_bra (h : Ctl) (disp : BitVec 30) (live : BitVec 11) (s : State) :
    exec (.bra h disp live) s = execBra h disp live s := rfl
theorem exec_call (h : Ctl) (disp : BitVec 30) (live : BitVec 11) (s : State) :
    exec (.call h disp live) s = execCall h disp live s := rfl
theorem exec_brl (h : Ctl) (disp : BitVec 60) (s : State) :
    exec (.brl h disp) s = execBrl h disp s := rfl
theorem exec_calll (h : Ctl) (disp : BitVec 60) (s : State) :
    exec (.calll h disp) s = execCalll h disp s := rfl
theorem exec_brx (h : Ctl) (a : Src) (live : BitVec 11) (s : State) :
    exec (.brx h a live) s = execBrx h a live s := rfl
theorem exec_callx (h : Ctl) (a : Src) (live : BitVec 11) (s : State) :
    exec (.callx h a live) s = execCallx h a live s := rfl
theorem exec_ret (h : Ctl) (live : BitVec 11) (s : State) :
    exec (.ret h live) s = execRet h live s := rfl
theorem exec_exit (h : Ctl) (s : State) :
    exec (.exit h) s = execExit h s := rfl
theorem exec_loop (h : Ctl) (a : Src) (len : BitVec 20) (s : State) :
    exec (.loop h a len) s = execLoop h a len s := rfl
theorem exec_lbrk (h : Ctl) (n : BitVec 3) (s : State) :
    exec (.lbrk h n) s = execLbrk h n s := rfl
theorem exec_dly (h : Ctl) (n : BitVec 6) (s : State) :
    exec (.dly h n) s = execDly h n s := rfl
theorem exec_nop (h : Ctl) (s : State) :
    exec (.nop h) s = execNop h s := rfl
theorem exec_yield (h : Ctl) (s : State) :
    exec (.yield h) s = execYield h s := rfl
theorem exec_ipref (h : Ctl) (a : Src) (ofs : BitVec 16) (nb : BitVec 8) (lvl : BitVec 2) (s : State) :
    exec (.ipref h a ofs nb lvl) s = execIpref h a ofs nb lvl s := rfl
theorem exec_trap (h : Ctl) (code : BitVec 16) (s : State) :
    exec (.trap h code) s = execTrap h code s := rfl
theorem exec_eret (h : Ctl) (s : State) :
    exec (.eret h) s = execEret h s := rfl
theorem exec_bkpt (h : Ctl) (code : BitVec 16) (s : State) :
    exec (.bkpt h code) s = execBkpt h code s := rfl
theorem exec_sysc (h : Ctl) (code : BitVec 16) (s : State) :
    exec (.sysc h code) s = execSysc h code s := rfl
theorem exec_iadd (h : Ctl) (d : Opnd) (a : Src) (b : Src) (ty : BitVec 3) (sat : Bool) (s : State) :
    exec (.iadd h d a b ty sat) s = execIadd h d a b ty sat s := rfl
theorem exec_isub (h : Ctl) (d : Opnd) (a : Src) (b : Src) (ty : BitVec 3) (sat : Bool) (s : State) :
    exec (.isub h d a b ty sat) s = execIsub h d a b ty sat s := rfl
theorem exec_imul (h : Ctl) (d : Opnd) (a : Src) (b : Src) (ty : BitVec 3) (s : State) :
    exec (.imul h d a b ty) s = execImul h d a b ty s := rfl
theorem exec_imulh (h : Ctl) (d : Opnd) (a : Src) (b : Src) (ty : BitVec 3) (s : State) :
    exec (.imulh h d a b ty) s = execImulh h d a b ty s := rfl
theorem exec_imad (h : Ctl) (d : Opnd) (a : Src) (b : Src) (c : Src) (ty : BitVec 3) (s : State) :
    exec (.imad h d a b c ty) s = execImad h d a b c ty s := rfl
theorem exec_imadw (h : Ctl) (d : Opnd) (a : Src) (b : Src) (c : Src) (ty : BitVec 3) (s : State) :
    exec (.imadw h d a b c ty) s = execImadw h d a b c ty s := rfl
theorem exec_imin (h : Ctl) (d : Opnd) (a : Src) (b : Src) (ty : BitVec 3) (s : State) :
    exec (.imin h d a b ty) s = execImin h d a b ty s := rfl
theorem exec_imax (h : Ctl) (d : Opnd) (a : Src) (b : Src) (ty : BitVec 3) (s : State) :
    exec (.imax h d a b ty) s = execImax h d a b ty s := rfl
theorem exec_iabs (h : Ctl) (d : Opnd) (a : Src) (ty : BitVec 3) (sat : Bool) (s : State) :
    exec (.iabs h d a ty sat) s = execIabs h d a ty sat s := rfl
theorem exec_and (h : Ctl) (d : Opnd) (a : Src) (b : Src) (ty : BitVec 3) (s : State) :
    exec (.and h d a b ty) s = execAnd h d a b ty s := rfl
theorem exec_or (h : Ctl) (d : Opnd) (a : Src) (b : Src) (ty : BitVec 3) (s : State) :
    exec (.or h d a b ty) s = execOr h d a b ty s := rfl
theorem exec_xor (h : Ctl) (d : Opnd) (a : Src) (b : Src) (ty : BitVec 3) (s : State) :
    exec (.xor h d a b ty) s = execXor h d a b ty s := rfl
theorem exec_andn (h : Ctl) (d : Opnd) (a : Src) (b : Src) (ty : BitVec 3) (s : State) :
    exec (.andn h d a b ty) s = execAndn h d a b ty s := rfl
theorem exec_orn (h : Ctl) (d : Opnd) (a : Src) (b : Src) (ty : BitVec 3) (s : State) :
    exec (.orn h d a b ty) s = execOrn h d a b ty s := rfl
theorem exec_shl (h : Ctl) (d : Opnd) (a : Src) (b : Src) (ty : BitVec 3) (s : State) :
    exec (.shl h d a b ty) s = execShl h d a b ty s := rfl
theorem exec_shr (h : Ctl) (d : Opnd) (a : Src) (b : Src) (ty : BitVec 3) (s : State) :
    exec (.shr h d a b ty) s = execShr h d a b ty s := rfl
theorem exec_sar (h : Ctl) (d : Opnd) (a : Src) (b : Src) (ty : BitVec 3) (s : State) :
    exec (.sar h d a b ty) s = execSar h d a b ty s := rfl
theorem exec_rot (h : Ctl) (d : Opnd) (a : Src) (b : Src) (ty : BitVec 3) (s : State) :
    exec (.rot h d a b ty) s = execRot h d a b ty s := rfl
theorem exec_fsh (h : Ctl) (d : Opnd) (a : Src) (b : Src) (c : Src) (ty : BitVec 3) (dir : Bool) (s : State) :
    exec (.fsh h d a b c ty dir) s = execFsh h d a b c ty dir s := rfl
theorem exec_bfx (h : Ctl) (d : Opnd) (a : Src) (ty : BitVec 3) (pos : BitVec 6) (len : BitVec 7) (s : State) :
    exec (.bfx h d a ty pos len) s = execBfx h d a ty pos len s := rfl
theorem exec_bfi (h : Ctl) (d : Opnd) (a : Src) (b : Src) (ty : BitVec 3) (pos : BitVec 6) (len : BitVec 7) (s : State) :
    exec (.bfi h d a b ty pos len) s = execBfi h d a b ty pos len s := rfl
theorem exec_popc (h : Ctl) (d : Opnd) (a : Src) (ty : BitVec 3) (s : State) :
    exec (.popc h d a ty) s = execPopc h d a ty s := rfl
theorem exec_clz (h : Ctl) (d : Opnd) (a : Src) (ty : BitVec 3) (s : State) :
    exec (.clz h d a ty) s = execClz h d a ty s := rfl
theorem exec_brev (h : Ctl) (d : Opnd) (a : Src) (ty : BitVec 3) (s : State) :
    exec (.brev h d a ty) s = execBrev h d a ty s := rfl
theorem exec_prmb (h : Ctl) (d : Opnd) (a : Src) (b : Src) (c : Src) (ty : BitVec 3) (s : State) :
    exec (.prmb h d a b c ty) s = execPrmb h d a b c ty s := rfl
theorem exec_sel (h : Ctl) (d : Opnd) (a : Src) (b : Src) (c : Src) (ty : BitVec 3) (s : State) :
    exec (.sel h d a b c ty) s = execSel h d a b c ty s := rfl
theorem exec_mov (h : Ctl) (d : Opnd) (a : Src) (ty : BitVec 3) (s : State) :
    exec (.mov h d a ty) s = execMov h d a ty s := rfl
theorem exec_lea (h : Ctl) (d : Opnd) (a : Src) (b : Src) (ty : BitVec 3) (sh : BitVec 3) (s : State) :
    exec (.lea h d a b ty sh) s = execLea h d a b ty sh s := rfl
theorem exec_iadd64 (h : Ctl) (d : Opnd) (a : Src) (b : Src) (ty : BitVec 3) (sat : Bool) (s : State) :
    exec (.iadd64 h d a b ty sat) s = execIadd64 h d a b ty sat s := rfl
theorem exec_isub64 (h : Ctl) (d : Opnd) (a : Src) (b : Src) (ty : BitVec 3) (sat : Bool) (s : State) :
    exec (.isub64 h d a b ty sat) s = execIsub64 h d a b ty sat s := rfl
theorem exec_icvt (h : Ctl) (d : Opnd) (a : Src) (ty : BitVec 3) (sat : Bool) (sty : BitVec 3) (s : State) :
    exec (.icvt h d a ty sat sty) s = execIcvt h d a ty sat sty s := rfl
theorem exec_iaddLit (h : Ctl) (d : Opnd) (a : Src) (imm : BitVec 32) (ty : BitVec 3) (sat : Bool) (s : State) :
    exec (.iaddLit h d a imm ty sat) s = execIaddLit h d a imm ty sat s := rfl
theorem exec_isubLit (h : Ctl) (d : Opnd) (a : Src) (imm : BitVec 32) (ty : BitVec 3) (sat : Bool) (s : State) :
    exec (.isubLit h d a imm ty sat) s = execIsubLit h d a imm ty sat s := rfl
theorem exec_imulLit (h : Ctl) (d : Opnd) (a : Src) (imm : BitVec 32) (ty : BitVec 3) (s : State) :
    exec (.imulLit h d a imm ty) s = execImulLit h d a imm ty s := rfl
theorem exec_imulhLit (h : Ctl) (d : Opnd) (a : Src) (imm : BitVec 32) (ty : BitVec 3) (s : State) :
    exec (.imulhLit h d a imm ty) s = execImulhLit h d a imm ty s := rfl
theorem exec_iminLit (h : Ctl) (d : Opnd) (a : Src) (imm : BitVec 32) (ty : BitVec 3) (s : State) :
    exec (.iminLit h d a imm ty) s = execIminLit h d a imm ty s := rfl
theorem exec_imaxLit (h : Ctl) (d : Opnd) (a : Src) (imm : BitVec 32) (ty : BitVec 3) (s : State) :
    exec (.imaxLit h d a imm ty) s = execImaxLit h d a imm ty s := rfl
theorem exec_andLit (h : Ctl) (d : Opnd) (a : Src) (imm : BitVec 32) (ty : BitVec 3) (s : State) :
    exec (.andLit h d a imm ty) s = execAndLit h d a imm ty s := rfl
theorem exec_orLit (h : Ctl) (d : Opnd) (a : Src) (imm : BitVec 32) (ty : BitVec 3) (s : State) :
    exec (.orLit h d a imm ty) s = execOrLit h d a imm ty s := rfl
theorem exec_xorLit (h : Ctl) (d : Opnd) (a : Src) (imm : BitVec 32) (ty : BitVec 3) (s : State) :
    exec (.xorLit h d a imm ty) s = execXorLit h d a imm ty s := rfl
theorem exec_andnLit (h : Ctl) (d : Opnd) (a : Src) (imm : BitVec 32) (ty : BitVec 3) (s : State) :
    exec (.andnLit h d a imm ty) s = execAndnLit h d a imm ty s := rfl
theorem exec_ornLit (h : Ctl) (d : Opnd) (a : Src) (imm : BitVec 32) (ty : BitVec 3) (s : State) :
    exec (.ornLit h d a imm ty) s = execOrnLit h d a imm ty s := rfl
theorem exec_shlLit (h : Ctl) (d : Opnd) (a : Src) (imm : BitVec 32) (ty : BitVec 3) (s : State) :
    exec (.shlLit h d a imm ty) s = execShlLit h d a imm ty s := rfl
theorem exec_shrLit (h : Ctl) (d : Opnd) (a : Src) (imm : BitVec 32) (ty : BitVec 3) (s : State) :
    exec (.shrLit h d a imm ty) s = execShrLit h d a imm ty s := rfl
theorem exec_sarLit (h : Ctl) (d : Opnd) (a : Src) (imm : BitVec 32) (ty : BitVec 3) (s : State) :
    exec (.sarLit h d a imm ty) s = execSarLit h d a imm ty s := rfl
theorem exec_rotLit (h : Ctl) (d : Opnd) (a : Src) (imm : BitVec 32) (ty : BitVec 3) (s : State) :
    exec (.rotLit h d a imm ty) s = execRotLit h d a imm ty s := rfl
theorem exec_movi (h : Ctl) (d : Opnd) (imm : BitVec 32) (ty : BitVec 3) (s : State) :
    exec (.movi h d imm ty) s = execMovi h d imm ty s := rfl
theorem exec_movh (h : Ctl) (d : Opnd) (a : Src) (imm : BitVec 32) (ty : BitVec 3) (s : State) :
    exec (.movh h d a imm ty) s = execMovh h d a imm ty s := rfl
theorem exec_icmp (h : Ctl) (d : Opnd) (a : Src) (b : Src) (c : Option Src) (ty : BitVec 3) (cond : BitVec 3) (comb : BitVec 2) (s : State) :
    exec (.icmp h d a b c ty cond comb) s = execIcmp h d a b c ty cond comb s := rfl
theorem exec_plop (h : Ctl) (d : Opnd) (a : Src) (b : Src) (c : Src) (lut : BitVec 8) (s : State) :
    exec (.plop h d a b c lut) s = execPlop h d a b c lut s := rfl
theorem exec_pmov (h : Ctl) (d : Option Opnd) (a : Option Src) (mask : BitVec 7) (mode : BitVec 2) (s : State) :
    exec (.pmov h d a mask mode) s = execPmov h d a mask mode s := rfl
theorem exec_fadd (h : Ctl) (d : Opnd) (a : Src) (b : Src) (ty : BitVec 3) (f : FMod) (s : State) :
    exec (.fadd h d a b ty f) s = execFadd h d a b ty f s := rfl
theorem exec_faddF64 (h : Ctl) (d : Opnd) (a : Src) (b : Src) (ty : BitVec 3) (f : FMod) (s : State) :
    exec (.faddF64 h d a b ty f) s = execFaddF64 h d a b ty f s := rfl
theorem exec_fsub (h : Ctl) (d : Opnd) (a : Src) (b : Src) (ty : BitVec 3) (f : FMod) (s : State) :
    exec (.fsub h d a b ty f) s = execFsub h d a b ty f s := rfl
theorem exec_fsubF64 (h : Ctl) (d : Opnd) (a : Src) (b : Src) (ty : BitVec 3) (f : FMod) (s : State) :
    exec (.fsubF64 h d a b ty f) s = execFsubF64 h d a b ty f s := rfl
theorem exec_fmul (h : Ctl) (d : Opnd) (a : Src) (b : Src) (ty : BitVec 3) (f : FMod) (s : State) :
    exec (.fmul h d a b ty f) s = execFmul h d a b ty f s := rfl
theorem exec_fmulF64 (h : Ctl) (d : Opnd) (a : Src) (b : Src) (ty : BitVec 3) (f : FMod) (s : State) :
    exec (.fmulF64 h d a b ty f) s = execFmulF64 h d a b ty f s := rfl
theorem exec_ffma (h : Ctl) (d : Opnd) (a : Src) (b : Src) (c : Src) (ty : BitVec 3) (f : FMod) (s : State) :
    exec (.ffma h d a b c ty f) s = execFfma h d a b c ty f s := rfl
theorem exec_ffmaF64 (h : Ctl) (d : Opnd) (a : Src) (b : Src) (c : Src) (ty : BitVec 3) (f : FMod) (s : State) :
    exec (.ffmaF64 h d a b c ty f) s = execFfmaF64 h d a b c ty f s := rfl
theorem exec_fmin (h : Ctl) (d : Opnd) (a : Src) (b : Src) (ty : BitVec 3) (f : FMod) (s : State) :
    exec (.fmin h d a b ty f) s = execFmin h d a b ty f s := rfl
theorem exec_fminF64 (h : Ctl) (d : Opnd) (a : Src) (b : Src) (ty : BitVec 3) (f : FMod) (s : State) :
    exec (.fminF64 h d a b ty f) s = execFminF64 h d a b ty f s := rfl
theorem exec_fmax (h : Ctl) (d : Opnd) (a : Src) (b : Src) (ty : BitVec 3) (f : FMod) (s : State) :
    exec (.fmax h d a b ty f) s = execFmax h d a b ty f s := rfl
theorem exec_fmaxF64 (h : Ctl) (d : Opnd) (a : Src) (b : Src) (ty : BitVec 3) (f : FMod) (s : State) :
    exec (.fmaxF64 h d a b ty f) s = execFmaxF64 h d a b ty f s := rfl
theorem exec_fcmp (h : Ctl) (d : Opnd) (a : Src) (b : Src) (c : Option Src) (ty : BitVec 3) (cond : BitVec 3) (comb : BitVec 2) (s : State) :
    exec (.fcmp h d a b c ty cond comb) s = execFcmp h d a b c ty cond comb s := rfl
theorem exec_fcls (h : Ctl) (d : Opnd) (a : Src) (ty : BitVec 3) (mask : BitVec 9) (s : State) :
    exec (.fcls h d a ty mask) s = execFcls h d a ty mask s := rfl
theorem exec_fcmpF64 (h : Ctl) (d : Opnd) (a : Src) (b : Src) (c : Option Src) (ty : BitVec 3) (cond : BitVec 3) (comb : BitVec 2) (s : State) :
    exec (.fcmpF64 h d a b c ty cond comb) s = execFcmpF64 h d a b c ty cond comb s := rfl
theorem exec_fclsF64 (h : Ctl) (d : Opnd) (a : Src) (ty : BitVec 3) (mask : BitVec 9) (s : State) :
    exec (.fclsF64 h d a ty mask) s = execFclsF64 h d a ty mask s := rfl
theorem exec_fscl (h : Ctl) (d : Opnd) (a : Src) (b : Src) (ty : BitVec 3) (f : FMod) (s : State) :
    exec (.fscl h d a b ty f) s = execFscl h d a b ty f s := rfl
theorem exec_fsclF64 (h : Ctl) (d : Opnd) (a : Src) (b : Src) (ty : BitVec 3) (f : FMod) (s : State) :
    exec (.fsclF64 h d a b ty f) s = execFsclF64 h d a b ty f s := rfl
theorem exec_frnd (h : Ctl) (d : Opnd) (a : Src) (ty : BitVec 3) (f : FMod) (s : State) :
    exec (.frnd h d a ty f) s = execFrnd h d a ty f s := rfl
theorem exec_frndF64 (h : Ctl) (d : Opnd) (a : Src) (ty : BitVec 3) (f : FMod) (s : State) :
    exec (.frndF64 h d a ty f) s = execFrndF64 h d a ty f s := rfl
theorem exec_faddLit (h : Ctl) (d : Opnd) (a : Src) (imm : BitVec 32) (ty : BitVec 3) (f : FMod) (s : State) :
    exec (.faddLit h d a imm ty f) s = execFaddLit h d a imm ty f s := rfl
theorem exec_fsubLit (h : Ctl) (d : Opnd) (a : Src) (imm : BitVec 32) (ty : BitVec 3) (f : FMod) (s : State) :
    exec (.fsubLit h d a imm ty f) s = execFsubLit h d a imm ty f s := rfl
theorem exec_fmulLit (h : Ctl) (d : Opnd) (a : Src) (imm : BitVec 32) (ty : BitVec 3) (f : FMod) (s : State) :
    exec (.fmulLit h d a imm ty f) s = execFmulLit h d a imm ty f s := rfl
theorem exec_fminLit (h : Ctl) (d : Opnd) (a : Src) (imm : BitVec 32) (ty : BitVec 3) (f : FMod) (s : State) :
    exec (.fminLit h d a imm ty f) s = execFminLit h d a imm ty f s := rfl
theorem exec_fmaxLit (h : Ctl) (d : Opnd) (a : Src) (imm : BitVec 32) (ty : BitVec 3) (f : FMod) (s : State) :
    exec (.fmaxLit h d a imm ty f) s = execFmaxLit h d a imm ty f s := rfl
theorem exec_fcmpLit (h : Ctl) (d : Opnd) (a : Src) (imm : BitVec 32) (ty : BitVec 3) (cond : BitVec 2) (s : State) :
    exec (.fcmpLit h d a imm ty cond) s = execFcmpLit h d a imm ty cond s := rfl
theorem exec_frcp (h : Ctl) (d : Opnd) (a : Src) (ty : BitVec 3) (f : FMod) (s : State) :
    exec (.frcp h d a ty f) s = execFrcp h d a ty f s := rfl
theorem exec_frsq (h : Ctl) (d : Opnd) (a : Src) (ty : BitVec 3) (f : FMod) (s : State) :
    exec (.frsq h d a ty f) s = execFrsq h d a ty f s := rfl
theorem exec_fsqrt (h : Ctl) (d : Opnd) (a : Src) (ty : BitVec 3) (f : FMod) (s : State) :
    exec (.fsqrt h d a ty f) s = execFsqrt h d a ty f s := rfl
theorem exec_fex2 (h : Ctl) (d : Opnd) (a : Src) (ty : BitVec 3) (f : FMod) (s : State) :
    exec (.fex2 h d a ty f) s = execFex2 h d a ty f s := rfl
theorem exec_flg2 (h : Ctl) (d : Opnd) (a : Src) (ty : BitVec 3) (f : FMod) (s : State) :
    exec (.flg2 h d a ty f) s = execFlg2 h d a ty f s := rfl
theorem exec_fsin (h : Ctl) (d : Opnd) (a : Src) (ty : BitVec 3) (f : FMod) (s : State) :
    exec (.fsin h d a ty f) s = execFsin h d a ty f s := rfl
theorem exec_fcos (h : Ctl) (d : Opnd) (a : Src) (ty : BitVec 3) (f : FMod) (s : State) :
    exec (.fcos h d a ty f) s = execFcos h d a ty f s := rfl
theorem exec_hfma2 (h : Ctl) (d : Opnd) (a : Src) (b : Src) (c : Src) (ty : BitVec 3) (f : FMod) (s : State) :
    exec (.hfma2 h d a b c ty f) s = execHfma2 h d a b c ty f s := rfl
theorem exec_hadd2 (h : Ctl) (d : Opnd) (a : Src) (b : Src) (ty : BitVec 3) (f : FMod) (s : State) :
    exec (.hadd2 h d a b ty f) s = execHadd2 h d a b ty f s := rfl
theorem exec_hmul2 (h : Ctl) (d : Opnd) (a : Src) (b : Src) (ty : BitVec 3) (f : FMod) (s : State) :
    exec (.hmul2 h d a b ty f) s = execHmul2 h d a b ty f s := rfl
theorem exec_qdot4 (h : Ctl) (d : Opnd) (a : Src) (b : Src) (c : Src) (ty : BitVec 3) (rm : BitVec 2) (sat : Bool) (bty : Bool) (s : State) :
    exec (.qdot4 h d a b c ty rm sat bty) s = execQdot4 h d a b c ty rm sat bty s := rfl
theorem exec_idot4 (h : Ctl) (d : Opnd) (a : Src) (b : Src) (c : Src) (ty : BitVec 3) (sat : Bool) (bsgn : Bool) (s : State) :
    exec (.idot4 h d a b c ty sat bsgn) s = execIdot4 h d a b c ty sat bsgn s := rfl
theorem exec_fcvt (h : Ctl) (d : Opnd) (a : Src) (ty : BitVec 3) (rm : BitVec 2) (sat : Bool) (sty : BitVec 3) (s : State) :
    exec (.fcvt h d a ty rm sat sty) s = execFcvt h d a ty rm sat sty s := rfl
theorem exec_f2i (h : Ctl) (d : Opnd) (a : Src) (ty : BitVec 3) (rm : BitVec 2) (sty : BitVec 3) (s : State) :
    exec (.f2i h d a ty rm sty) s = execF2i h d a ty rm sty s := rfl
theorem exec_i2f (h : Ctl) (d : Opnd) (a : Src) (ty : BitVec 3) (rm : BitVec 2) (sat : Bool) (sty : BitVec 3) (s : State) :
    exec (.i2f h d a ty rm sat sty) s = execI2f h d a ty rm sat sty s := rfl
theorem exec_pack8 (h : Ctl) (d : Opnd) (a : Src) (b : Src) (c : Src) (ty : BitVec 3) (rm : BitVec 2) (sat : Bool) (half : Bool) (s : State) :
    exec (.pack8 h d a b c ty rm sat half) s = execPack8 h d a b c ty rm sat half s := rfl
theorem exec_unpk8 (h : Ctl) (d : Opnd) (a : Src) (ty : BitVec 3) (ety : Bool) (half : Bool) (s : State) :
    exec (.unpk8 h d a ty ety half) s = execUnpk8 h d a ty ety half s := rfl
theorem exec_shfl (h : Ctl) (d : Opnd) (a : Src) (b : Src) (ty : BitVec 3) (seg : BitVec 3) (mode : BitVec 2) (s : State) :
    exec (.shfl h d a b ty seg mode) s = execShfl h d a b ty seg mode s := rfl
theorem exec_vote (h : Ctl) (d : Opnd) (a : Src) (cnt : Bool) (neg : Bool) (mode : BitVec 2) (s : State) :
    exec (.vote h d a cnt neg mode) s = execVote h d a cnt neg mode s := rfl
theorem exec_matchLanes (h : Ctl) (d : Opnd) (a : Src) (ty : BitVec 3) (s : State) :
    exec (.matchLanes h d a ty) s = execMatchLanes h d a ty s := rfl
theorem exec_redux (h : Ctl) (d : Opnd) (a : Src) (ty : BitVec 3) (rop : BitVec 3) (s : State) :
    exec (.redux h d a ty rop) s = execRedux h d a ty rop s := rfl
theorem exec_wfence (h : Ctl) (s : State) :
    exec (.wfence h) s = execWfence h s := rfl
theorem exec_mjoin (h : Ctl) (d : Opnd) (disp : BitVec 20) (s : State) :
    exec (.mjoin h d disp) s = execMjoin h d disp s := rfl
theorem exec_mleave (h : Ctl) (set : BitVec 12) (s : State) :
    exec (.mleave h set) s = execMleave h set s := rfl
theorem exec_mwait (h : Ctl) (a : Src) (s : State) :
    exec (.mwait h a) s = execMwait h a s := rfl
theorem exec_mmov (h : Ctl) (d : Opnd) (a : Src) (b : Option Src) (mode : BitVec 2) (s : State) :
    exec (.mmov h d a b mode) s = execMmov h d a b mode s := rfl
theorem exec_msync (h : Ctl) (a : Src) (s : State) :
    exec (.msync h a) s = execMsync h a s := rfl
theorem exec_spawn (h : Ctl) (a : Src) (b : Option Src) (wsrc : Option Src) (wid : Bool) (tgt : BitVec 2) (nw : BitVec 4) (prio : BitVec 2) (idem : Bool) (s : State) :
    exec (.spawn h a b wsrc wid tgt nw prio idem) s = execSpawn h a b wsrc wid tgt nw prio idem s := rfl
theorem exec_cont (h : Ctl) (a : Src) (b : Option Src) (wsrc : Option Src) (wid : Bool) (tgt : BitVec 2) (nw : BitVec 4) (prio : BitVec 2) (idem : Bool) (s : State) :
    exec (.cont h a b wsrc wid tgt nw prio idem) s = execCont h a b wsrc wid tgt nw prio idem s := rfl
theorem exec_split (h : Ctl) (a : Src) (disp : BitVec 20) (live : BitVec 11) (s : State) :
    exec (.split h a disp live) s = execSplit h a disp live s := rfl
theorem exec_rgive (h : Ctl) (nb : BitVec 6) (s : State) :
    exec (.rgive h nb) s = execRgive h nb s := rfl
theorem exec_rclaim (h : Ctl) (nb : BitVec 6) (s : State) :
    exec (.rclaim h nb) s = execRclaim h nb s := rfl
theorem exec_segq (h : Ctl) (d : Opnd) (a : Src) (s : State) :
    exec (.segq h d a) s = execSegq h d a s := rfl
theorem exec_launch (h : Ctl) (d : Opnd) (a : Src) (ofs : BitVec 16) (lq : BitVec 4) (s : State) :
    exec (.launch h d a ofs lq) s = execLaunch h d a ofs lq s := rfl
theorem exec_waitk (h : Ctl) (a : Src) (n : BitVec 6) (s : State) :
    exec (.waitk h a n) s = execWaitk h a n s := rfl
theorem exec_tkrd (h : Ctl) (d : Opnd) (s : State) :
    exec (.tkrd h d) s = execTkrd h d s := rfl
theorem exec_tksav (h : Ctl) (a : Src) (ofs : BitVec 16) (s : State) :
    exec (.tksav h a ofs) s = execTksav h a ofs s := rfl
theorem exec_tkrst (h : Ctl) (opn : Bool) (set : BitVec 16) (s : State) :
    exec (.tkrst h opn set) s = execTkrst h opn set s := rfl
theorem exec_ld (h : Ctl) (d : Opnd) (a : Src) (ofs : BitVec 16) (scope : BitVec 3) (order : BitVec 3) (ty : BitVec 3) (vec : BitVec 2) (ch : BitVec 2) (s : State) :
    exec (.ld h d a ofs scope order ty vec ch) s = execLd h d a ofs scope order ty vec ch s := rfl
theorem exec_st (h : Ctl) (a : Src) (b : Src) (ofs : BitVec 16) (scope : BitVec 3) (order : BitVec 3) (ty : BitVec 3) (vec : BitVec 2) (ch : BitVec 2) (s : State) :
    exec (.st h a b ofs scope order ty vec ch) s = execSt h a b ofs scope order ty vec ch s := rfl
theorem exec_stn (h : Ctl) (a : Src) (b : Src) (ofs : BitVec 16) (scope : BitVec 3) (order : BitVec 3) (ty : BitVec 3) (nsel : BitVec 4) (s : State) :
    exec (.stn h a b ofs scope order ty nsel) s = execStn h a b ofs scope order ty nsel s := rfl
theorem exec_stnReport (h : Ctl) (d : Opnd) (a : Src) (b : Src) (ofs : BitVec 16) (scope : BitVec 3) (order : BitVec 3) (ty : BitVec 3) (nsel : BitVec 4) (s : State) :
    exec (.stnReport h d a b ofs scope order ty nsel) s = execStnReport h d a b ofs scope order ty nsel s := rfl
theorem exec_pref (h : Ctl) (a : Src) (ofs : BitVec 16) (lvl : BitVec 2) (s : State) :
    exec (.pref h a ofs lvl) s = execPref h a ofs lvl s := rfl
theorem exec_ldf (h : Ctl) (d : Opnd) (a : Src) (ofs : BitVec 16) (ty : BitVec 3) (vec : BitVec 2) (s : State) :
    exec (.ldf h d a ofs ty vec) s = execLdf h d a ofs ty vec s := rfl
theorem exec_dcwb (h : Ctl) (a : Src) (ofs : BitVec 16) (scope : BitVec 3) (s : State) :
    exec (.dcwb h a ofs scope) s = execDcwb h a ofs scope s := rfl
theorem exec_dcinv (h : Ctl) (a : Src) (ofs : BitVec 16) (scope : BitVec 3) (s : State) :
    exec (.dcinv h a ofs scope) s = execDcinv h a ofs scope s := rfl
theorem exec_dcfl (h : Ctl) (a : Src) (ofs : BitVec 16) (scope : BitVec 3) (s : State) :
    exec (.dcfl h a ofs scope) s = execDcfl h a ofs scope s := rfl
theorem exec_icinv (h : Ctl) (a : Src) (ofs : BitVec 16) (scope : BitVec 3) (s : State) :
    exec (.icinv h a ofs scope) s = execIcinv h a ofs scope s := rfl
theorem exec_ifence (h : Ctl) (s : State) :
    exec (.ifence h) s = execIfence h s := rfl
theorem exec_fence (h : Ctl) (scope : BitVec 3) (order : BitVec 3) (s : State) :
    exec (.fence h scope order) s = execFence h scope order s := rfl
theorem exec_rsmk (h : Ctl) (d : Opnd) (a : Src) (b : Src) (keep : BitVec 2) (lvl : BitVec 3) (s : State) :
    exec (.rsmk h d a b keep lvl) s = execRsmk h d a b keep lvl s := rfl
theorem exec_rsrev (h : Ctl) (a : Src) (b : Src) (ofs : BitVec 16) (mode : BitVec 2) (s : State) :
    exec (.rsrev h a b ofs mode) s = execRsrev h a b ofs mode s := rfl
theorem exec_rsqry (h : Ctl) (d : Opnd) (a : Src) (ofs : BitVec 16) (s : State) :
    exec (.rsqry h d a ofs) s = execRsqry h d a ofs s := rfl
theorem exec_atom (h : Ctl) (d : Opnd) (a : Src) (b : Src) (ofs : BitVec 16) (scope : BitVec 3) (order : BitVec 3) (ty : BitVec 3) (aop : BitVec 4) (s : State) :
    exec (.atom h d a b ofs scope order ty aop) s = execAtom h d a b ofs scope order ty aop s := rfl
theorem exec_acas (h : Ctl) (d : Opnd) (a : Src) (b : Src) (ofs : BitVec 16) (scope : BitVec 3) (order : BitVec 3) (ty : BitVec 3) (s : State) :
    exec (.acas h d a b ofs scope order ty) s = execAcas h d a b ofs scope order ty s := rfl
theorem exec_red (h : Ctl) (a : Src) (b : Src) (ofs : BitVec 16) (scope : BitVec 3) (order : BitVec 3) (ty : BitVec 3) (aop : BitVec 4) (s : State) :
    exec (.red h a b ofs scope order ty aop) s = execRed h a b ofs scope order ty aop s := rfl
theorem exec_enq (h : Ctl) (d : Opnd) (a : Src) (b : Src) (ofs : BitVec 16) (scope : BitVec 3) (order : BitVec 3) (sz : BitVec 2) (blk : Bool) (s : State) :
    exec (.enq h d a b ofs scope order sz blk) s = execEnq h d a b ofs scope order sz blk s := rfl
theorem exec_deq (h : Ctl) (d : Opnd) (a : Src) (ofs : BitVec 16) (scope : BitVec 3) (order : BitVec 3) (sz : BitVec 2) (blk : Bool) (s : State) :
    exec (.deq h d a ofs scope order sz blk) s = execDeq h d a ofs scope order sz blk s := rfl
theorem exec_qinit (h : Ctl) (a : Src) (b : Src) (ofs : BitVec 16) (sz : BitVec 2) (s : State) :
    exec (.qinit h a b ofs sz) s = execQinit h a b ofs sz s := rfl
theorem exec_qstat (h : Ctl) (d : Opnd) (a : Src) (ofs : BitVec 16) (s : State) :
    exec (.qstat h d a ofs) s = execQstat h d a ofs s := rfl
theorem exec_gjoin (h : Ctl) (s : State) :
    exec (.gjoin h) s = execGjoin h s := rfl
theorem exec_gleave (h : Ctl) (s : State) :
    exec (.gleave h) s = execGleave h s := rfl
theorem exec_gmap (h : Ctl) (a : Src) (slot : BitVec 6) (s : State) :
    exec (.gmap h a slot) s = execGmap h a slot s := rfl
theorem exec_cpy (h : Ctl) (a : Src) (ofs : BitVec 16) (s : State) :
    exec (.cpy h a ofs) s = execCpy h a ofs s := rfl
theorem exec_gath (h : Ctl) (a : Src) (ofs : BitVec 16) (s : State) :
    exec (.gath h a ofs) s = execGath h a ofs s := rfl
theorem exec_scat (h : Ctl) (a : Src) (ofs : BitVec 16) (s : State) :
    exec (.scat h a ofs) s = execScat h a ofs s := rfl
theorem exec_mcast (h : Ctl) (a : Src) (ofs : BitVec 16) (s : State) :
    exec (.mcast h a ofs) s = execMcast h a ofs s := rfl
theorem exec_cpyq (h : Ctl) (d : Opnd) (a : Src) (ofs : BitVec 16) (s : State) :
    exec (.cpyq h d a ofs) s = execCpyq h d a ofs s := rfl
theorem exec_binit (h : Ctl) (a : Src) (b : Src) (ofs : BitVec 16) (s : State) :
    exec (.binit h a b ofs) s = execBinit h a b ofs s := rfl
theorem exec_barr (h : Ctl) (a : Src) (b : Src) (ofs : BitVec 16) (s : State) :
    exec (.barr h a b ofs) s = execBarr h a b ofs s := rfl
theorem exec_bwait (h : Ctl) (d : Opnd) (a : Src) (b : Src) (ofs : BitVec 16) (s : State) :
    exec (.bwait h d a b ofs) s = execBwait h d a b ofs s := rfl
theorem exec_btst (h : Ctl) (d : Opnd) (a : Src) (ofs : BitVec 16) (s : State) :
    exec (.btst h d a ofs) s = execBtst h d a ofs s := rfl
theorem exec_tdecl (h : Ctl) (a : Src) (b : Src) (rdy : Bool) (tile : BitVec 6) (s : State) :
    exec (.tdecl h a b rdy tile) s = execTdecl h a b rdy tile s := rfl
theorem exec_tstat (h : Ctl) (d : Opnd) (tile : BitVec 6) (s : State) :
    exec (.tstat h d tile) s = execTstat h d tile s := rfl
theorem exec_trel (h : Ctl) (tile : BitVec 6) (s : State) :
    exec (.trel h tile) s = execTrel h tile s := rfl
theorem exec_mma (h : Ctl) (d : Opnd) (a : Src) (b : Src) (c : Src) (ty : BitVec 3) (be5 : Bool) (kq : BitVec 10) (za : Bool) (s : State) :
    exec (.mma h d a b c ty be5 kq za) s = execMma h d a b c ty be5 kq za s := rfl
theorem exec_mmap (h : Ctl) (d : Opnd) (a : Src) (b : Src) (c : Src) (ty : BitVec 3) (be5 : Bool) (kq : BitVec 10) (za : Bool) (s : State) :
    exec (.mmap h d a b c ty be5 kq za) s = execMmap h d a b c ty be5 kq za s := rfl
theorem exec_accsc (h : Ctl) (d : Opnd) (a : Src) (b : Src) (c : Src) (s : State) :
    exec (.accsc h d a b c) s = execAccsc h d a b c s := rfl
theorem exec_accz (h : Ctl) (d : Opnd) (s : State) :
    exec (.accz h d) s = execAccz h d s := rfl
theorem exec_accrd (h : Ctl) (d : Opnd) (a : Src) (b : Src) (s : State) :
    exec (.accrd h d a b) s = execAccrd h d a b s := rfl
theorem exec_accwr (h : Ctl) (d : Opnd) (a : Src) (b : Src) (s : State) :
    exec (.accwr h d a b) s = execAccwr h d a b s := rfl
theorem exec_accld (h : Ctl) (d : Opnd) (a : Src) (str : BitVec 16) (s : State) :
    exec (.accld h d a str) s = execAccld h d a str s := rfl
theorem exec_accst (h : Ctl) (a : Src) (b : Src) (str : BitVec 16) (s : State) :
    exec (.accst h a b str) s = execAccst h a b str s := rfl
theorem exec_coll (h : Ctl) (d : Opnd) (a : Src) (b : Src) (ofs : BitVec 16) (s : State) :
    exec (.coll h d a b ofs) s = execColl h d a b ofs s := rfl
theorem exec_viewq (h : Ctl) (d : Opnd) (b : Src) (sl : Bool) (s : State) :
    exec (.viewq h d b sl) s = execViewq h d b sl s := rfl
theorem exec_amsend (h : Ctl) (a : Src) (b : Option Src) (c : Src) (nw : BitVec 4) (s : State) :
    exec (.amsend h a b c nw) s = execAmsend h a b c nw s := rfl
theorem exec_arrq (h : Ctl) (d : Opnd) (blk : Bool) (s : State) :
    exec (.arrq h d blk) s = execArrq h d blk s := rfl
theorem exec_mfs (h : Ctl) (d : Opnd) (a : Src) (s : State) :
    exec (.mfs h d a) s = execMfs h d a s := rfl
theorem exec_mts (h : Ctl) (d : Opnd) (a : Src) (s : State) :
    exec (.mts h d a) s = execMts h d a s := rfl
theorem exec_illegalWord (s : State) :
    exec (.illegalWord) s = execIllegalWord s := rfl
theorem exec_operationRetire (w : Nat) (tok : Option (BitVec 4)) (s : State) :
    exec (.operationRetire w tok) s = execOperationRetire w tok s := rfl
theorem exec_asyncMemoryErrorTrap (w : Nat) (s : State) :
    exec (.asyncMemoryErrorTrap w) s = execAsyncMemoryErrorTrap w s := rfl
theorem exec_membershipChangeTrap (w : Nat) (s : State) :
    exec (.membershipChangeTrap w) s = execMembershipChangeTrap w s := rfl
theorem exec_waveEnd (w : Nat) (s : State) :
    exec (.waveEnd w) s = execWaveEnd w s := rfl
theorem exec_rclaimGrant (w : Nat) (s : State) :
    exec (.rclaimGrant w) s = execRclaimGrant w s := rfl
theorem exec_writeAcknowledge (w : Nat) (s : State) :
    exec (.writeAcknowledge w) s = execWriteAcknowledge w s := rfl
theorem exec_autoContribution (blk : Nat) (s : State) :
    exec (.autoContribution blk) s = execAutoContribution blk s := rfl
theorem exec_gleaveTakesEffect (blk : Nat) (s : State) :
    exec (.gleaveTakesEffect blk) s = execGleaveTakesEffect blk s := rfl
theorem exec_cooperativeLeave (w : Nat) (s : State) :
    exec (.cooperativeLeave w) s = execCooperativeLeave w s := rfl
theorem exec_hopArrival (w : Nat) (s : State) :
    exec (.hopArrival w) s = execHopArrival w s := rfl
theorem exec_copyActivate (core : Nat) (s : State) :
    exec (.copyActivate core) s = execCopyActivate core s := rfl
theorem exec_segmentLanded (cp : Nat) (s : State) :
    exec (.segmentLanded cp) s = execSegmentLanded cp s := rfl
theorem exec_mcastDelivery (cp : Nat) (ws : Nat) (s : State) :
    exec (.mcastDelivery cp ws) s = execMcastDelivery cp ws s := rfl
theorem exec_copyComplete (cp : Nat) (s : State) :
    exec (.copyComplete cp) s = execCopyComplete cp s := rfl
theorem exec_chainedCommandStart (core : Nat) (tile : Nat) (s : State) :
    exec (.chainedCommandStart core tile) s = execChainedCommandStart core tile s := rfl
theorem exec_matrixOpStart (core : Nat) (s : State) :
    exec (.matrixOpStart core) s = execMatrixOpStart core s := rfl
theorem exec_rowCommit (core : Nat) (tile : Nat) (s : State) :
    exec (.rowCommit core tile) s = execRowCommit core tile s := rfl
theorem exec_matrixLoadError (core : Nat) (tile : Nat) (kind : BitVec 8) (s : State) :
    exec (.matrixLoadError core tile kind) s = execMatrixLoadError core tile kind s := rfl
theorem exec_vectorClockReceive (n : Nat) (s : State) :
    exec (.vectorClockReceive n) s = execVectorClockReceive n s := rfl
theorem exec_posyRecordArrival (n : Nat) (s : State) :
    exec (.posyRecordArrival n) s = execPosyRecordArrival n s := rfl
theorem exec_formTimeout (core : Nat) (n : Nat) (s : State) :
    exec (.formTimeout core n) s = execFormTimeout core n s := rfl
theorem exec_taskTypeRead (core : Nat) (n : Nat) (resolved : Bool) (s : State) :
    exec (.taskTypeRead core n resolved) s = execTaskTypeRead core n resolved s := rfl
theorem exec_blockHandout (core : Nat) (entry : Nat) (s : State) :
    exec (.blockHandout core entry) s = execBlockHandout core entry s := rfl
theorem exec_inqDequeue (core : Nat) (entry : Nat) (s : State) :
    exec (.inqDequeue core entry) s = execInqDequeue core entry s := rfl
theorem exec_blockBind (core : Nat) (entry : Nat) (s : State) :
    exec (.blockBind core entry) s = execBlockBind core entry s := rfl
theorem exec_outqEnqueue (blk : Nat) (s : State) :
    exec (.outqEnqueue blk) s = execOutqEnqueue blk s := rfl
theorem exec_powerWake (s : State) :
    exec (.powerWake) s = execPowerWake s := rfl
theorem exec_collStage (bid : Nat) (chunk : Nat) (s : State) :
    exec (.collStage bid chunk) s = execCollStage bid chunk s := rfl
theorem exec_reduceBlockEnd (bid : Nat) (chunk : Nat) (s : State) :
    exec (.reduceBlockEnd bid chunk) s = execReduceBlockEnd bid chunk s := rfl
theorem exec_launchEnd (slot : Nat) (s : State) :
    exec (.launchEnd slot) s = execLaunchEnd slot s := rfl
theorem exec_blockLeavePush (blk : Nat) (s : State) :
    exec (.blockLeavePush blk) s = execBlockLeavePush blk s := rfl
theorem exec_beacon (die : Nat) (s : State) :
    exec (.beacon die) s = execBeacon die s := rfl
theorem exec_overflowRingDrain (core : Nat) (slot : Nat) (s : State) :
    exec (.overflowRingDrain core slot) s = execOverflowRingDrain core slot s := rfl
theorem exec_steal (core : Nat) (entry : Nat) (s : State) :
    exec (.steal core entry) s = execSteal core entry s := rfl
theorem exec_heartbeatSend (bid : Nat) (s : State) :
    exec (.heartbeatSend bid) s = execHeartbeatSend bid s := rfl
theorem exec_occupancyReport (core : Nat) (slot : Nat) (s : State) :
    exec (.occupancyReport core slot) s = execOccupancyReport core slot s := rfl
theorem exec_hostWriteConfirm (w : Nat) (s : State) :
    exec (.hostWriteConfirm w) s = execHostWriteConfirm w s := rfl
theorem exec_fixedLatencyWriteback (w : Nat) (s : State) :
    exec (.fixedLatencyWriteback w) s = execFixedLatencyWriteback w s := rfl
theorem exec_faultResolve (w : Nat) (ok : Bool) (s : State) :
    exec (.faultResolve w ok) s = execFaultResolve w ok s := rfl
theorem exec_parkedWaveResume (w : Nat) (s : State) :
    exec (.parkedWaveResume w) s = execParkedWaveResume w s := rfl
theorem exec_parkedWaveDeliver (w : Nat) (s : State) :
    exec (.parkedWaveDeliver w) s = execParkedWaveDeliver w s := rfl
theorem exec_parkedWaveKill (w : Nat) (s : State) :
    exec (.parkedWaveKill w) s = execParkedWaveKill w s := rfl
theorem exec_launchAbort (slot : Nat) (s : State) :
    exec (.launchAbort slot) s = execLaunchAbort slot s := rfl
theorem exec_debugRead (w : Nat) (item : Item) (s : State) :
    exec (.debugRead w item) s = execDebugRead w item s := rfl
theorem exec_debugWrite (w : Nat) (item : Item) (v : BitVec 64) (s : State) :
    exec (.debugWrite w item v) s = execDebugWrite w item v s := rfl
theorem exec_debugWriteForce (w : Nat) (item : Item) (v : BitVec 64) (s : State) :
    exec (.debugWriteForce w item v) s = execDebugWriteForce w item v s := rfl
theorem exec_debugStep (w : Nat) (s : State) :
    exec (.debugStep w) s = execDebugStep w s := rfl
theorem exec_debugResume (w : Nat) (s : State) :
    exec (.debugResume w) s = execDebugResume w s := rfl
theorem exec_debugKill (w : Nat) (s : State) :
    exec (.debugKill w) s = execDebugKill w s := rfl
theorem exec_preemptionRequest (blk : Nat) (deadline : BitVec 64) (s : State) :
    exec (.preemptionRequest blk deadline) s = execPreemptionRequest blk deadline s := rfl
theorem exec_forcedSave (blk : Nat) (area : Nat) (s : State) :
    exec (.forcedSave blk area) s = execForcedSave blk area s := rfl
theorem exec_contextSwitchOut (asid : BitVec 16) (core : Nat) (area : Nat) (discard : List Nat) (s : State) :
    exec (.contextSwitchOut asid core area discard) s = execContextSwitchOut asid core area discard s := rfl
theorem exec_blockRestore (blk : Nat) (core : Nat) (entry : Nat) (s : State) :
    exec (.blockRestore blk core entry) s = execBlockRestore blk core entry s := rfl
theorem exec_scopeLocalCopyEviction (cl : Nat) (line : Nat) (s : State) :
    exec (.scopeLocalCopyEviction cl line) s = execScopeLocalCopyEviction cl line s := rfl
theorem exec_contextTeardown (asid : BitVec 16) (s : State) :
    exec (.contextTeardown asid) s = execContextTeardown asid s := rfl
theorem exec_translationChange (asid : BitVec 16) (va : BitVec 64) (size : Nat) (s : State) :
    exec (.translationChange asid va size) s = execTranslationChange asid va size s := rfl
theorem exec_launchAdmit (q : Nat) (ovb : BitVec 64) (pins : List (Nat × List Nat)) (s : State) :
    exec (.launchAdmit q ovb pins) s = execLaunchAdmit q ovb pins s := rfl
theorem exec_bindRecordWrite (core : Nat) (entry : Nat) (expect : BitVec 2) (rec : BitVec 128) (s : State) :
    exec (.bindRecordWrite core entry expect rec) s = execBindRecordWrite core entry expect rec s := rfl
theorem exec_schedulingPeriod (deadline : BitVec 64) (pins : List (Nat × Nat × List Nat)) (s : State) :
    exec (.schedulingPeriod deadline pins) s = execSchedulingPeriod deadline pins s := rfl
theorem exec_overflowExtend (slot : Nat) (core : Nat) (base : BitVec 64) (log2n : Nat) (s : State) :
    exec (.overflowExtend slot core base log2n) s = execOverflowExtend slot core base log2n s := rfl
theorem exec_launchSuspend (slot : Nat) (area : Nat) (s : State) :
    exec (.launchSuspend slot area) s = execLaunchSuspend slot area s := rfl
theorem exec_engineWalkFailure (cp : Nat) (ok : Bool) (s : State) :
    exec (.engineWalkFailure cp ok) s = execEngineWalkFailure cp ok s := rfl
theorem exec_mcastDeliveryTimeout (cp : Nat) (ws : Nat) (s : State) :
    exec (.mcastDeliveryTimeout cp ws) s = execMcastDeliveryTimeout cp ws s := rfl
theorem exec_heartbeatTimeout (bid : Nat) (rank : Nat) (s : State) :
    exec (.heartbeatTimeout bid rank) s = execHeartbeatTimeout bid rank s := rfl
theorem exec_suspect (bid : Nat) (rank : Nat) (s : State) :
    exec (.suspect bid rank) s = execSuspect bid rank s := rfl
theorem exec_gatherTimeout (bid : Nat) (s : State) :
    exec (.gatherTimeout bid) s = execGatherTimeout bid s := rfl
theorem exec_propose (bid : Nat) (src : Nat) (tag : BitVec 32) (mask : List Nat) (s : State) :
    exec (.propose bid src tag mask) s = execPropose bid src tag mask s := rfl
theorem exec_ack (bid : Nat) (src : Nat) (tag : BitVec 32) (opseq : BitVec 32) (chunks : List Nat) (s : State) :
    exec (.ack bid src tag opseq chunks) s = execAck bid src tag opseq chunks s := rfl
theorem exec_nack (bid : Nat) (src : Nat) (tag : BitVec 32) (s : State) :
    exec (.nack bid src tag) s = execNack bid src tag s := rfl
theorem exec_ackTimeout (bid : Nat) (s : State) :
    exec (.ackTimeout bid) s = execAckTimeout bid s := rfl
theorem exec_commit (bid : Nat) (tag : BitVec 32) (opseq : BitVec 32) (mask : List Nat) (held : List (Nat × List Nat)) (s : State) :
    exec (.commit bid tag opseq mask held) s = execCommit bid tag opseq mask held s := rfl
theorem exec_commitTimeout (bid : Nat) (s : State) :
    exec (.commitTimeout bid) s = execCommitTimeout bid s := rfl
theorem exec_isolation (bid : Nat) (s : State) :
    exec (.isolation bid) s = execIsolation bid s := rfl
theorem exec_join (bid : Nat) (rank : Nat) (s : State) :
    exec (.join bid rank) s = execJoin bid rank s := rfl
theorem exec_partialLand (bid : Nat) (tag : BitVec 32) (opseq : BitVec 32) (chunk : Nat) (mask : List Nat) (data : List (BitVec 8)) (s : State) :
    exec (.partialLand bid tag opseq chunk mask data) s = execPartialLand bid tag opseq chunk mask data s := rfl
theorem exec_finalLand (bid : Nat) (tag : BitVec 32) (opseq : BitVec 32) (chunk : Nat) (mask : List Nat) (data : List (BitVec 8)) (s : State) :
    exec (.finalLand bid tag opseq chunk mask data) s = execFinalLand bid tag opseq chunk mask data s := rfl
theorem exec_complete (bid : Nat) (tag : BitVec 32) (opseq : BitVec 32) (s : State) :
    exec (.complete bid tag opseq) s = execComplete bid tag opseq s := rfl
theorem exec_stepTimeout (bid : Nat) (chunk : Nat) (s : State) :
    exec (.stepTimeout bid chunk) s = execStepTimeout bid chunk s := rfl
theorem exec_collectiveAbandon (bid : Nat) (s : State) :
    exec (.collectiveAbandon bid) s = execCollectiveAbandon bid s := rfl
theorem exec_amsg (part : BitVec 12) (src : BitVec 20) (core : Nat) (rec : BitVec 512) (s : State) :
    exec (.amsg part src core rec) s = execAmsg part src core rec s := rfl
theorem exec_amack (w : Nat) (op : Nat) (ok : Bool) (s : State) :
    exec (.amack w op ok) s = execAmack w op ok s := rfl
theorem exec_slotTableEdit (link : Nat) (table : List (BitVec 16)) (s : State) :
    exec (.slotTableEdit link table) s = execSlotTableEdit link table s := rfl
theorem exec_partitionReset (part : BitVec 12) (s : State) :
    exec (.partitionReset part) s = execPartitionReset part s := rfl
theorem exec_purgeExpiry (part : BitVec 12) (s : State) :
    exec (.purgeExpiry part) s = execPurgeExpiry part s := rfl
theorem exec_linkDetect (lanes : Nat) (s : State) :
    exec (.linkDetect lanes) s = execLinkDetect lanes s := rfl
theorem exec_linkTrain (width : Nat) (rate : Nat) (s : State) :
    exec (.linkTrain width rate) s = execLinkTrain width rate s := rfl
theorem exec_flitReplay (s : State) :
    exec (.flitReplay) s = execFlitReplay s := rfl
theorem exec_linkRetrain (ok : Bool) (s : State) :
    exec (.linkRetrain ok) s = execLinkRetrain ok s := rfl
theorem exec_linkDown (s : State) :
    exec (.linkDown) s = execLinkDown s := rfl
theorem exec_platd (v : BitVec 64) (s : State) :
    exec (.platd v) s = execPlatd v s := rfl
theorem exec_ltol (v : BitVec 64) (s : State) :
    exec (.ltol v) s = execLtol v s := rfl
theorem exec_evt (s : State) :
    exec (.evt) s = execEvt s := rfl
theorem exec_partsetAssign (v : BitVec 64) (s : State) :
    exec (.partsetAssign v) s = execPartsetAssign v s := rfl
theorem exec_partsetRemove (v : BitVec 64) (s : State) :
    exec (.partsetRemove v) s = execPartsetRemove v s := rfl
theorem exec_amreg (v : BitVec 64) (s : State) :
    exec (.amreg v) s = execAmreg v s := rfl
theorem exec_ntfbase (v : BitVec 64) (s : State) :
    exec (.ntfbase v) s = execNtfbase v s := rfl
theorem exec_ntflog (v : BitVec 64) (s : State) :
    exec (.ntflog v) s = execNtflog v s := rfl
theorem exec_ntfhead (v : BitVec 64) (s : State) :
    exec (.ntfhead v) s = execNtfhead v s := rfl
theorem exec_lqrec (q : Nat) (v : BitVec 64) (s : State) :
    exec (.lqrec q v) s = execLqrec q v s := rfl
theorem exec_registerWrite (ofs : Nat) (v : BitVec 64) (s : State) :
    exec (.registerWrite ofs v) s = execRegisterWrite ofs v s := rfl
theorem exec_notify (w : Nat) (s : State) :
    exec (.notify w) s = execNotify w s := rfl
theorem exec_lookup (w : Nat) (s : State) :
    exec (.lookup w) s = execLookup w s := rfl
theorem exec_abort (w : Nat) (s : State) :
    exec (.abort w) s = execAbort w s := rfl
theorem exec_modstat (w : Nat) (s : State) :
    exec (.modstat w) s = execModstat w s := rfl
theorem exec_moduleLoad (asid : BitVec 16) (idx : Nat) (base : BitVec 64) (file : Nat) (len : Nat) (s : State) :
    exec (.moduleLoad asid idx base file len) s = execModuleLoad asid idx base file len s := rfl
theorem exec_moduleUnload (asid : BitVec 16) (idx : Nat) (s : State) :
    exec (.moduleUnload asid idx) s = execModuleUnload asid idx s := rfl
theorem exec_powerStateEntry (s : State) :
    exec (.powerStateEntry) s = execPowerStateEntry s := rfl
theorem exec_fatalErrorDump (struct : BitVec 8) (die : BitVec 8) (s : State) :
    exec (.fatalErrorDump struct die) s = execFatalErrorDump struct die s := rfl
theorem exec_firmwareImageCheck (hdr : List (BitVec 8)) (payload : List (BitVec 8)) (s : State) :
    exec (.firmwareImageCheck hdr payload) s = execFirmwareImageCheck hdr payload s := rfl
theorem exec_attestation (nonce : List (BitVec 8)) (s : State) :
    exec (.attestation nonce) s = execAttestation nonce s := rfl
theorem exec_packageReset (s : State) :
    exec (.packageReset) s = execPackageReset s := rfl
theorem exec_powerOn (s : State) :
    exec (.powerOn) s = execPowerOn s := rfl
theorem exec_heartbeat (bid : Nat) (rank : Nat) (s : State) :
    exec (.heartbeat bid rank) s = execHeartbeat bid rank s := rfl
theorem exec_fabricLinkDown (link : Nat) (s : State) :
    exec (.fabricLinkDown link) s = execFabricLinkDown link s := rfl
theorem exec_fabricLinkTrained (s : State) :
    exec (.fabricLinkTrained) s = execFabricLinkTrained s := rfl
theorem exec_contextCreate (asid : BitVec 16) (root : BitVec 64) (win : BitVec 64) (q1 : Nat) (q2 : Nat) (q3 : Nat) (s : State) :
    exec (.contextCreate asid root win q1 q2 q3) s = execContextCreate asid root win q1 q2 q3 s := rfl
theorem exec_contextErrorCollection (asid : BitVec 16) (s : State) :
    exec (.contextErrorCollection asid) s = execContextErrorCollection asid s := rfl
theorem exec_faultBufferDiscard (cl : Nat) (n : Nat) (s : State) :
    exec (.faultBufferDiscard cl n) s = execFaultBufferDiscard cl n s := rfl

end Sys2Proof.Machine
end

