-- ==== Sys2Proof/Laws/Parse.lean ====
section
/-! SUPPORT. What the decoder reads from the fields of each point of R63. -/

namespace Sys2Proof

theorem parse_bra (g : BitVec 4) (fh : BitVec 20) (fd fa fb : BitVec 10) (fm : BitVec 30) :
    parse ⟨0x040#12, g, fh, fd, fa, fb, fm⟩ = .ok (.bra (Ctl.of g fh) (fa ++ fb ++ bits fm 20 10) (bits fm 9 11)) := by
  unfold parse
  simp only [show (bits (0x040#12) 6 6).toNat = 0x01 from by decide]
  unfold parse01
  simp only [show (bits (0x040#12) 0 6).toNat = 0x00 from by decide]

theorem parse_brl (g : BitVec 4) (fh : BitVec 20) (fd fa fb : BitVec 10) (fm : BitVec 30) :
    parse ⟨0x041#12, g, fh, fd, fa, fb, fm⟩ = .ok (.brl (Ctl.of g fh) (fd ++ fa ++ fb ++ fm)) := by
  unfold parse
  simp only [show (bits (0x041#12) 6 6).toNat = 0x01 from by decide]
  unfold parse01
  simp only [show (bits (0x041#12) 0 6).toNat = 0x01 from by decide]

theorem parse_brx (g : BitVec 4) (fh : BitVec 20) (fd fa fb : BitVec 10) (fm : BitVec 30) :
    parse ⟨0x042#12, g, fh, fd, fa, fb, fm⟩ = (do
    let a ← sOp fa
    .ok (.brx (Ctl.of g fh) a (bits fm 9 11))) := by
  unfold parse
  simp only [show (bits (0x042#12) 6 6).toNat = 0x01 from by decide]
  unfold parse01
  simp only [show (bits (0x042#12) 0 6).toNat = 0x02 from by decide]

theorem parse_call (g : BitVec 4) (fh : BitVec 20) (fd fa fb : BitVec 10) (fm : BitVec 30) :
    parse ⟨0x043#12, g, fh, fd, fa, fb, fm⟩ = .ok (.call (Ctl.of g fh) (fa ++ fb ++ bits fm 20 10) (bits fm 9 11)) := by
  unfold parse
  simp only [show (bits (0x043#12) 6 6).toNat = 0x01 from by decide]
  unfold parse01
  simp only [show (bits (0x043#12) 0 6).toNat = 0x03 from by decide]

theorem parse_calll (g : BitVec 4) (fh : BitVec 20) (fd fa fb : BitVec 10) (fm : BitVec 30) :
    parse ⟨0x044#12, g, fh, fd, fa, fb, fm⟩ = .ok (.calll (Ctl.of g fh) (fd ++ fa ++ fb ++ fm)) := by
  unfold parse
  simp only [show (bits (0x044#12) 6 6).toNat = 0x01 from by decide]
  unfold parse01
  simp only [show (bits (0x044#12) 0 6).toNat = 0x04 from by decide]

theorem parse_callx (g : BitVec 4) (fh : BitVec 20) (fd fa fb : BitVec 10) (fm : BitVec 30) :
    parse ⟨0x045#12, g, fh, fd, fa, fb, fm⟩ = (do
    let a ← sOp fa
    .ok (.callx (Ctl.of g fh) a (bits fm 9 11))) := by
  unfold parse
  simp only [show (bits (0x045#12) 6 6).toNat = 0x01 from by decide]
  unfold parse01
  simp only [show (bits (0x045#12) 0 6).toNat = 0x05 from by decide]

theorem parse_ret (g : BitVec 4) (fh : BitVec 20) (fd fa fb : BitVec 10) (fm : BitVec 30) :
    parse ⟨0x046#12, g, fh, fd, fa, fb, fm⟩ = .ok (.ret (Ctl.of g fh) (bits fm 9 11)) := by
  unfold parse
  simp only [show (bits (0x046#12) 6 6).toNat = 0x01 from by decide]
  unfold parse01
  simp only [show (bits (0x046#12) 0 6).toNat = 0x06 from by decide]

theorem parse_exit (g : BitVec 4) (fh : BitVec 20) (fd fa fb : BitVec 10) (fm : BitVec 30) :
    parse ⟨0x047#12, g, fh, fd, fa, fb, fm⟩ = .ok (.exit (Ctl.of g fh)) := by
  unfold parse
  simp only [show (bits (0x047#12) 6 6).toNat = 0x01 from by decide]
  unfold parse01
  simp only [show (bits (0x047#12) 0 6).toNat = 0x07 from by decide]

theorem parse_loop (g : BitVec 4) (fh : BitVec 20) (fd fa fb : BitVec 10) (fm : BitVec 30) :
    parse ⟨0x048#12, g, fh, fd, fa, fb, fm⟩ = (do
    let a ← sOp fa
    .ok (.loop (Ctl.of g fh) a (bits fm 0 20))) := by
  unfold parse
  simp only [show (bits (0x048#12) 6 6).toNat = 0x01 from by decide]
  unfold parse01
  simp only [show (bits (0x048#12) 0 6).toNat = 0x08 from by decide]

theorem parse_lbrk (g : BitVec 4) (fh : BitVec 20) (fd fa fb : BitVec 10) (fm : BitVec 30) :
    parse ⟨0x049#12, g, fh, fd, fa, fb, fm⟩ = .ok (.lbrk (Ctl.of g fh) (bits fm 0 3)) := by
  unfold parse
  simp only [show (bits (0x049#12) 6 6).toNat = 0x01 from by decide]
  unfold parse01
  simp only [show (bits (0x049#12) 0 6).toNat = 0x09 from by decide]

theorem parse_dly (g : BitVec 4) (fh : BitVec 20) (fd fa fb : BitVec 10) (fm : BitVec 30) :
    parse ⟨0x04A#12, g, fh, fd, fa, fb, fm⟩ = .ok (.dly (Ctl.of g fh) (bits fm 0 6)) := by
  unfold parse
  simp only [show (bits (0x04A#12) 6 6).toNat = 0x01 from by decide]
  unfold parse01
  simp only [show (bits (0x04A#12) 0 6).toNat = 0x0A from by decide]

theorem parse_nop (g : BitVec 4) (fh : BitVec 20) (fd fa fb : BitVec 10) (fm : BitVec 30) :
    parse ⟨0x04B#12, g, fh, fd, fa, fb, fm⟩ = .ok (.nop (Ctl.of g fh)) := by
  unfold parse
  simp only [show (bits (0x04B#12) 6 6).toNat = 0x01 from by decide]
  unfold parse01
  simp only [show (bits (0x04B#12) 0 6).toNat = 0x0B from by decide]

theorem parse_yield (g : BitVec 4) (fh : BitVec 20) (fd fa fb : BitVec 10) (fm : BitVec 30) :
    parse ⟨0x04C#12, g, fh, fd, fa, fb, fm⟩ = .ok (.yield (Ctl.of g fh)) := by
  unfold parse
  simp only [show (bits (0x04C#12) 6 6).toNat = 0x01 from by decide]
  unfold parse01
  simp only [show (bits (0x04C#12) 0 6).toNat = 0x0C from by decide]

theorem parse_ipref (g : BitVec 4) (fh : BitVec 20) (fd fa fb : BitVec 10) (fm : BitVec 30) :
    parse ⟨0x04D#12, g, fh, fd, fa, fb, fm⟩ = (do
    let a ← sOp fa
    .ok (.ipref (Ctl.of g fh) a (bits fm 14 16) (bits fm 2 8) (bits fm 0 2))) := by
  unfold parse
  simp only [show (bits (0x04D#12) 6 6).toNat = 0x01 from by decide]
  unfold parse01
  simp only [show (bits (0x04D#12) 0 6).toNat = 0x0D from by decide]

theorem parse_trap (g : BitVec 4) (fh : BitVec 20) (fd fa fb : BitVec 10) (fm : BitVec 30) :
    parse ⟨0x04E#12, g, fh, fd, fa, fb, fm⟩ = .ok (.trap (Ctl.of g fh) (bits fm 0 16)) := by
  unfold parse
  simp only [show (bits (0x04E#12) 6 6).toNat = 0x01 from by decide]
  unfold parse01
  simp only [show (bits (0x04E#12) 0 6).toNat = 0x0E from by decide]

theorem parse_eret (g : BitVec 4) (fh : BitVec 20) (fd fa fb : BitVec 10) (fm : BitVec 30) :
    parse ⟨0x04F#12, g, fh, fd, fa, fb, fm⟩ = .ok (.eret (Ctl.of g fh)) := by
  unfold parse
  simp only [show (bits (0x04F#12) 6 6).toNat = 0x01 from by decide]
  unfold parse01
  simp only [show (bits (0x04F#12) 0 6).toNat = 0x0F from by decide]

theorem parse_bkpt (g : BitVec 4) (fh : BitVec 20) (fd fa fb : BitVec 10) (fm : BitVec 30) :
    parse ⟨0x050#12, g, fh, fd, fa, fb, fm⟩ = .ok (.bkpt (Ctl.of g fh) (bits fm 0 16)) := by
  unfold parse
  simp only [show (bits (0x050#12) 6 6).toNat = 0x01 from by decide]
  unfold parse01
  simp only [show (bits (0x050#12) 0 6).toNat = 0x10 from by decide]

theorem parse_sysc (g : BitVec 4) (fh : BitVec 20) (fd fa fb : BitVec 10) (fm : BitVec 30) :
    parse ⟨0x051#12, g, fh, fd, fa, fb, fm⟩ = .ok (.sysc (Ctl.of g fh) (bits fm 0 16)) := by
  unfold parse
  simp only [show (bits (0x051#12) 6 6).toNat = 0x01 from by decide]
  unfold parse01
  simp only [show (bits (0x051#12) 0 6).toNat = 0x11 from by decide]

theorem parse_iadd (g : BitVec 4) (fh : BitVec 20) (fd fa fb : BitVec 10) (fm : BitVec 30) :
    parse ⟨0x080#12, g, fh, fd, fa, fb, fm⟩ = (do
    let d ← dOp fd
    let a ← sOp fa
    let b ← sOp fb
    .ok (.iadd (Ctl.of g fh) d a b (bits fm 17 3) (bit fm 14))) := by
  unfold parse
  simp only [show (bits (0x080#12) 6 6).toNat = 0x02 from by decide]
  unfold parse02
  simp only [show (bits (0x080#12) 0 6).toNat = 0x00 from by decide]

theorem parse_isub (g : BitVec 4) (fh : BitVec 20) (fd fa fb : BitVec 10) (fm : BitVec 30) :
    parse ⟨0x081#12, g, fh, fd, fa, fb, fm⟩ = (do
    let d ← dOp fd
    let a ← sOp fa
    let b ← sOp fb
    .ok (.isub (Ctl.of g fh) d a b (bits fm 17 3) (bit fm 14))) := by
  unfold parse
  simp only [show (bits (0x081#12) 6 6).toNat = 0x02 from by decide]
  unfold parse02
  simp only [show (bits (0x081#12) 0 6).toNat = 0x01 from by decide]

theorem parse_imul (g : BitVec 4) (fh : BitVec 20) (fd fa fb : BitVec 10) (fm : BitVec 30) :
    parse ⟨0x082#12, g, fh, fd, fa, fb, fm⟩ = (do
    let d ← dOp fd
    let a ← sOp fa
    let b ← sOp fb
    .ok (.imul (Ctl.of g fh) d a b (bits fm 17 3))) := by
  unfold parse
  simp only [show (bits (0x082#12) 6 6).toNat = 0x02 from by decide]
  unfold parse02
  simp only [show (bits (0x082#12) 0 6).toNat = 0x02 from by decide]

theorem parse_imulh (g : BitVec 4) (fh : BitVec 20) (fd fa fb : BitVec 10) (fm : BitVec 30) :
    parse ⟨0x083#12, g, fh, fd, fa, fb, fm⟩ = (do
    let d ← dOp fd
    let a ← sOp fa
    let b ← sOp fb
    .ok (.imulh (Ctl.of g fh) d a b (bits fm 17 3))) := by
  unfold parse
  simp only [show (bits (0x083#12) 6 6).toNat = 0x02 from by decide]
  unfold parse02
  simp only [show (bits (0x083#12) 0 6).toNat = 0x03 from by decide]

theorem parse_imad (g : BitVec 4) (fh : BitVec 20) (fd fa fb : BitVec 10) (fm : BitVec 30) :
    parse ⟨0x084#12, g, fh, fd, fa, fb, fm⟩ = (do
    let d ← dOp fd
    let a ← sOp fa
    let b ← sOp fb
    let c ← sOp (bits fm 20 10)
    .ok (.imad (Ctl.of g fh) d a b c (bits fm 17 3))) := by
  unfold parse
  simp only [show (bits (0x084#12) 6 6).toNat = 0x02 from by decide]
  unfold parse02
  simp only [show (bits (0x084#12) 0 6).toNat = 0x04 from by decide]

theorem parse_imadw (g : BitVec 4) (fh : BitVec 20) (fd fa fb : BitVec 10) (fm : BitVec 30) :
    parse ⟨0x085#12, g, fh, fd, fa, fb, fm⟩ = (do
    let d ← dOp fd
    let a ← sOp fa
    let b ← sOp fb
    let c ← sOp (bits fm 20 10)
    .ok (.imadw (Ctl.of g fh) d a b c (bits fm 17 3))) := by
  unfold parse
  simp only [show (bits (0x085#12) 6 6).toNat = 0x02 from by decide]
  unfold parse02
  simp only [show (bits (0x085#12) 0 6).toNat = 0x05 from by decide]

theorem parse_imin (g : BitVec 4) (fh : BitVec 20) (fd fa fb : BitVec 10) (fm : BitVec 30) :
    parse ⟨0x086#12, g, fh, fd, fa, fb, fm⟩ = (do
    let d ← dOp fd
    let a ← sOp fa
    let b ← sOp fb
    .ok (.imin (Ctl.of g fh) d a b (bits fm 17 3))) := by
  unfold parse
  simp only [show (bits (0x086#12) 6 6).toNat = 0x02 from by decide]
  unfold parse02
  simp only [show (bits (0x086#12) 0 6).toNat = 0x06 from by decide]

theorem parse_imax (g : BitVec 4) (fh : BitVec 20) (fd fa fb : BitVec 10) (fm : BitVec 30) :
    parse ⟨0x087#12, g, fh, fd, fa, fb, fm⟩ = (do
    let d ← dOp fd
    let a ← sOp fa
    let b ← sOp fb
    .ok (.imax (Ctl.of g fh) d a b (bits fm 17 3))) := by
  unfold parse
  simp only [show (bits (0x087#12) 6 6).toNat = 0x02 from by decide]
  unfold parse02
  simp only [show (bits (0x087#12) 0 6).toNat = 0x07 from by decide]

theorem parse_iabs (g : BitVec 4) (fh : BitVec 20) (fd fa fb : BitVec 10) (fm : BitVec 30) :
    parse ⟨0x088#12, g, fh, fd, fa, fb, fm⟩ = (do
    let d ← dOp fd
    let a ← sOp fa
    .ok (.iabs (Ctl.of g fh) d a (bits fm 17 3) (bit fm 14))) := by
  unfold parse
  simp only [show (bits (0x088#12) 6 6).toNat = 0x02 from by decide]
  unfold parse02
  simp only [show (bits (0x088#12) 0 6).toNat = 0x08 from by decide]

theorem parse_and (g : BitVec 4) (fh : BitVec 20) (fd fa fb : BitVec 10) (fm : BitVec 30) :
    parse ⟨0x089#12, g, fh, fd, fa, fb, fm⟩ = (do
    let d ← dOp fd
    let a ← sOp fa
    let b ← sOp fb
    .ok (.and (Ctl.of g fh) d a b (bits fm 17 3))) := by
  unfold parse
  simp only [show (bits (0x089#12) 6 6).toNat = 0x02 from by decide]
  unfold parse02
  simp only [show (bits (0x089#12) 0 6).toNat = 0x09 from by decide]

theorem parse_or (g : BitVec 4) (fh : BitVec 20) (fd fa fb : BitVec 10) (fm : BitVec 30) :
    parse ⟨0x08A#12, g, fh, fd, fa, fb, fm⟩ = (do
    let d ← dOp fd
    let a ← sOp fa
    let b ← sOp fb
    .ok (.or (Ctl.of g fh) d a b (bits fm 17 3))) := by
  unfold parse
  simp only [show (bits (0x08A#12) 6 6).toNat = 0x02 from by decide]
  unfold parse02
  simp only [show (bits (0x08A#12) 0 6).toNat = 0x0A from by decide]

theorem parse_xor (g : BitVec 4) (fh : BitVec 20) (fd fa fb : BitVec 10) (fm : BitVec 30) :
    parse ⟨0x08B#12, g, fh, fd, fa, fb, fm⟩ = (do
    let d ← dOp fd
    let a ← sOp fa
    let b ← sOp fb
    .ok (.xor (Ctl.of g fh) d a b (bits fm 17 3))) := by
  unfold parse
  simp only [show (bits (0x08B#12) 6 6).toNat = 0x02 from by decide]
  unfold parse02
  simp only [show (bits (0x08B#12) 0 6).toNat = 0x0B from by decide]

theorem parse_andn (g : BitVec 4) (fh : BitVec 20) (fd fa fb : BitVec 10) (fm : BitVec 30) :
    parse ⟨0x08C#12, g, fh, fd, fa, fb, fm⟩ = (do
    let d ← dOp fd
    let a ← sOp fa
    let b ← sOp fb
    .ok (.andn (Ctl.of g fh) d a b (bits fm 17 3))) := by
  unfold parse
  simp only [show (bits (0x08C#12) 6 6).toNat = 0x02 from by decide]
  unfold parse02
  simp only [show (bits (0x08C#12) 0 6).toNat = 0x0C from by decide]

theorem parse_orn (g : BitVec 4) (fh : BitVec 20) (fd fa fb : BitVec 10) (fm : BitVec 30) :
    parse ⟨0x08D#12, g, fh, fd, fa, fb, fm⟩ = (do
    let d ← dOp fd
    let a ← sOp fa
    let b ← sOp fb
    .ok (.orn (Ctl.of g fh) d a b (bits fm 17 3))) := by
  unfold parse
  simp only [show (bits (0x08D#12) 6 6).toNat = 0x02 from by decide]
  unfold parse02
  simp only [show (bits (0x08D#12) 0 6).toNat = 0x0D from by decide]

theorem parse_shl (g : BitVec 4) (fh : BitVec 20) (fd fa fb : BitVec 10) (fm : BitVec 30) :
    parse ⟨0x08E#12, g, fh, fd, fa, fb, fm⟩ = (do
    let d ← dOp fd
    let a ← sOp fa
    let b ← sOp fb
    .ok (.shl (Ctl.of g fh) d a b (bits fm 17 3))) := by
  unfold parse
  simp only [show (bits (0x08E#12) 6 6).toNat = 0x02 from by decide]
  unfold parse02
  simp only [show (bits (0x08E#12) 0 6).toNat = 0x0E from by decide]

theorem parse_shr (g : BitVec 4) (fh : BitVec 20) (fd fa fb : BitVec 10) (fm : BitVec 30) :
    parse ⟨0x08F#12, g, fh, fd, fa, fb, fm⟩ = (do
    let d ← dOp fd
    let a ← sOp fa
    let b ← sOp fb
    .ok (.shr (Ctl.of g fh) d a b (bits fm 17 3))) := by
  unfold parse
  simp only [show (bits (0x08F#12) 6 6).toNat = 0x02 from by decide]
  unfold parse02
  simp only [show (bits (0x08F#12) 0 6).toNat = 0x0F from by decide]

theorem parse_sar (g : BitVec 4) (fh : BitVec 20) (fd fa fb : BitVec 10) (fm : BitVec 30) :
    parse ⟨0x090#12, g, fh, fd, fa, fb, fm⟩ = (do
    let d ← dOp fd
    let a ← sOp fa
    let b ← sOp fb
    .ok (.sar (Ctl.of g fh) d a b (bits fm 17 3))) := by
  unfold parse
  simp only [show (bits (0x090#12) 6 6).toNat = 0x02 from by decide]
  unfold parse02
  simp only [show (bits (0x090#12) 0 6).toNat = 0x10 from by decide]

theorem parse_rot (g : BitVec 4) (fh : BitVec 20) (fd fa fb : BitVec 10) (fm : BitVec 30) :
    parse ⟨0x091#12, g, fh, fd, fa, fb, fm⟩ = (do
    let d ← dOp fd
    let a ← sOp fa
    let b ← sOp fb
    .ok (.rot (Ctl.of g fh) d a b (bits fm 17 3))) := by
  unfold parse
  simp only [show (bits (0x091#12) 6 6).toNat = 0x02 from by decide]
  unfold parse02
  simp only [show (bits (0x091#12) 0 6).toNat = 0x11 from by decide]

theorem parse_fsh (g : BitVec 4) (fh : BitVec 20) (fd fa fb : BitVec 10) (fm : BitVec 30) :
    parse ⟨0x092#12, g, fh, fd, fa, fb, fm⟩ = (do
    let d ← dOp fd
    let a ← sOp fa
    let b ← sOp fb
    let c ← sOp (bits fm 20 10)
    .ok (.fsh (Ctl.of g fh) d a b c (bits fm 17 3) (bit fm 0))) := by
  unfold parse
  simp only [show (bits (0x092#12) 6 6).toNat = 0x02 from by decide]
  unfold parse02
  simp only [show (bits (0x092#12) 0 6).toNat = 0x12 from by decide]

theorem parse_bfx (g : BitVec 4) (fh : BitVec 20) (fd fa fb : BitVec 10) (fm : BitVec 30) :
    parse ⟨0x093#12, g, fh, fd, fa, fb, fm⟩ = (do
    let d ← dOp fd
    let a ← sOp fa
    .ok (.bfx (Ctl.of g fh) d a (bits fm 17 3) (bits fm 7 6) (bits fm 0 7))) := by
  unfold parse
  simp only [show (bits (0x093#12) 6 6).toNat = 0x02 from by decide]
  unfold parse02
  simp only [show (bits (0x093#12) 0 6).toNat = 0x13 from by decide]

theorem parse_bfi (g : BitVec 4) (fh : BitVec 20) (fd fa fb : BitVec 10) (fm : BitVec 30) :
    parse ⟨0x094#12, g, fh, fd, fa, fb, fm⟩ = (do
    let d ← dOp fd
    let a ← sOp fa
    let b ← sOp fb
    .ok (.bfi (Ctl.of g fh) d a b (bits fm 17 3) (bits fm 7 6) (bits fm 0 7))) := by
  unfold parse
  simp only [show (bits (0x094#12) 6 6).toNat = 0x02 from by decide]
  unfold parse02
  simp only [show (bits (0x094#12) 0 6).toNat = 0x14 from by decide]

theorem parse_popc (g : BitVec 4) (fh : BitVec 20) (fd fa fb : BitVec 10) (fm : BitVec 30) :
    parse ⟨0x095#12, g, fh, fd, fa, fb, fm⟩ = (do
    let d ← dOp fd
    let a ← sOp fa
    .ok (.popc (Ctl.of g fh) d a (bits fm 17 3))) := by
  unfold parse
  simp only [show (bits (0x095#12) 6 6).toNat = 0x02 from by decide]
  unfold parse02
  simp only [show (bits (0x095#12) 0 6).toNat = 0x15 from by decide]

theorem parse_clz (g : BitVec 4) (fh : BitVec 20) (fd fa fb : BitVec 10) (fm : BitVec 30) :
    parse ⟨0x096#12, g, fh, fd, fa, fb, fm⟩ = (do
    let d ← dOp fd
    let a ← sOp fa
    .ok (.clz (Ctl.of g fh) d a (bits fm 17 3))) := by
  unfold parse
  simp only [show (bits (0x096#12) 6 6).toNat = 0x02 from by decide]
  unfold parse02
  simp only [show (bits (0x096#12) 0 6).toNat = 0x16 from by decide]

theorem parse_brev (g : BitVec 4) (fh : BitVec 20) (fd fa fb : BitVec 10) (fm : BitVec 30) :
    parse ⟨0x097#12, g, fh, fd, fa, fb, fm⟩ = (do
    let d ← dOp fd
    let a ← sOp fa
    .ok (.brev (Ctl.of g fh) d a (bits fm 17 3))) := by
  unfold parse
  simp only [show (bits (0x097#12) 6 6).toNat = 0x02 from by decide]
  unfold parse02
  simp only [show (bits (0x097#12) 0 6).toNat = 0x17 from by decide]

theorem parse_prmb (g : BitVec 4) (fh : BitVec 20) (fd fa fb : BitVec 10) (fm : BitVec 30) :
    parse ⟨0x098#12, g, fh, fd, fa, fb, fm⟩ = (do
    let d ← dOp fd
    let a ← sOp fa
    let b ← sOp fb
    let c ← sOp (bits fm 20 10)
    .ok (.prmb (Ctl.of g fh) d a b c (bits fm 17 3))) := by
  unfold parse
  simp only [show (bits (0x098#12) 6 6).toNat = 0x02 from by decide]
  unfold parse02
  simp only [show (bits (0x098#12) 0 6).toNat = 0x18 from by decide]

theorem parse_sel (g : BitVec 4) (fh : BitVec 20) (fd fa fb : BitVec 10) (fm : BitVec 30) :
    parse ⟨0x099#12, g, fh, fd, fa, fb, fm⟩ = (do
    let d ← dOp fd
    let a ← sOp fa
    let b ← sOp fb
    let c ← sOp (bits fm 20 10)
    .ok (.sel (Ctl.of g fh) d a b c (bits fm 17 3))) := by
  unfold parse
  simp only [show (bits (0x099#12) 6 6).toNat = 0x02 from by decide]
  unfold parse02
  simp only [show (bits (0x099#12) 0 6).toNat = 0x19 from by decide]

theorem parse_mov (g : BitVec 4) (fh : BitVec 20) (fd fa fb : BitVec 10) (fm : BitVec 30) :
    parse ⟨0x09A#12, g, fh, fd, fa, fb, fm⟩ = (do
    let d ← dOp fd
    let a ← sOp fa
    .ok (.mov (Ctl.of g fh) d a (bits fm 17 3))) := by
  unfold parse
  simp only [show (bits (0x09A#12) 6 6).toNat = 0x02 from by decide]
  unfold parse02
  simp only [show (bits (0x09A#12) 0 6).toNat = 0x1A from by decide]

theorem parse_lea (g : BitVec 4) (fh : BitVec 20) (fd fa fb : BitVec 10) (fm : BitVec 30) :
    parse ⟨0x09B#12, g, fh, fd, fa, fb, fm⟩ = (do
    let d ← dOp fd
    let a ← sOp fa
    let b ← sOp fb
    .ok (.lea (Ctl.of g fh) d a b (bits fm 17 3) (bits fm 0 3))) := by
  unfold parse
  simp only [show (bits (0x09B#12) 6 6).toNat = 0x02 from by decide]
  unfold parse02
  simp only [show (bits (0x09B#12) 0 6).toNat = 0x1B from by decide]

theorem parse_iadd64 (g : BitVec 4) (fh : BitVec 20) (fd fa fb : BitVec 10) (fm : BitVec 30) :
    parse ⟨0x09C#12, g, fh, fd, fa, fb, fm⟩ = (do
    let d ← dOp fd
    let a ← sOp fa
    let b ← sOp fb
    .ok (.iadd64 (Ctl.of g fh) d a b (bits fm 17 3) (bit fm 14))) := by
  unfold parse
  simp only [show (bits (0x09C#12) 6 6).toNat = 0x02 from by decide]
  unfold parse02
  simp only [show (bits (0x09C#12) 0 6).toNat = 0x1C from by decide]

theorem parse_isub64 (g : BitVec 4) (fh : BitVec 20) (fd fa fb : BitVec 10) (fm : BitVec 30) :
    parse ⟨0x09D#12, g, fh, fd, fa, fb, fm⟩ = (do
    let d ← dOp fd
    let a ← sOp fa
    let b ← sOp fb
    .ok (.isub64 (Ctl.of g fh) d a b (bits fm 17 3) (bit fm 14))) := by
  unfold parse
  simp only [show (bits (0x09D#12) 6 6).toNat = 0x02 from by decide]
  unfold parse02
  simp only [show (bits (0x09D#12) 0 6).toNat = 0x1D from by decide]

theorem parse_icvt (g : BitVec 4) (fh : BitVec 20) (fd fa fb : BitVec 10) (fm : BitVec 30) :
    parse ⟨0x09E#12, g, fh, fd, fa, fb, fm⟩ = (do
    let d ← dOp fd
    let a ← sOp fa
    .ok (.icvt (Ctl.of g fh) d a (bits fm 17 3) (bit fm 14) (bits fm 0 3))) := by
  unfold parse
  simp only [show (bits (0x09E#12) 6 6).toNat = 0x02 from by decide]
  unfold parse02
  simp only [show (bits (0x09E#12) 0 6).toNat = 0x1E from by decide]

theorem parse_iaddLit (g : BitVec 4) (fh : BitVec 20) (fd fa fb : BitVec 10) (fm : BitVec 30) :
    parse ⟨0x0C0#12, g, fh, fd, fa, fb, fm⟩ = (do
    let d ← dOp fd
    let a ← sOp fa
    .ok (.iaddLit (Ctl.of g fh) d a (fb ++ bits fm 8 22) (bits fm 5 3) (bit fm 4))) := by
  unfold parse
  simp only [show (bits (0x0C0#12) 6 6).toNat = 0x03 from by decide]
  unfold parse03
  simp only [show (bits (0x0C0#12) 0 6).toNat = 0x00 from by decide]

theorem parse_isubLit (g : BitVec 4) (fh : BitVec 20) (fd fa fb : BitVec 10) (fm : BitVec 30) :
    parse ⟨0x0C1#12, g, fh, fd, fa, fb, fm⟩ = (do
    let d ← dOp fd
    let a ← sOp fa
    .ok (.isubLit (Ctl.of g fh) d a (fb ++ bits fm 8 22) (bits fm 5 3) (bit fm 4))) := by
  unfold parse
  simp only [show (bits (0x0C1#12) 6 6).toNat = 0x03 from by decide]
  unfold parse03
  simp only [show (bits (0x0C1#12) 0 6).toNat = 0x01 from by decide]

theorem parse_imulLit (g : BitVec 4) (fh : BitVec 20) (fd fa fb : BitVec 10) (fm : BitVec 30) :
    parse ⟨0x0C2#12, g, fh, fd, fa, fb, fm⟩ = (do
    let d ← dOp fd
    let a ← sOp fa
    .ok (.imulLit (Ctl.of g fh) d a (fb ++ bits fm 8 22) (bits fm 5 3))) := by
  unfold parse
  simp only [show (bits (0x0C2#12) 6 6).toNat = 0x03 from by decide]
  unfold parse03
  simp only [show (bits (0x0C2#12) 0 6).toNat = 0x02 from by decide]

theorem parse_imulhLit (g : BitVec 4) (fh : BitVec 20) (fd fa fb : BitVec 10) (fm : BitVec 30) :
    parse ⟨0x0C3#12, g, fh, fd, fa, fb, fm⟩ = (do
    let d ← dOp fd
    let a ← sOp fa
    .ok (.imulhLit (Ctl.of g fh) d a (fb ++ bits fm 8 22) (bits fm 5 3))) := by
  unfold parse
  simp only [show (bits (0x0C3#12) 6 6).toNat = 0x03 from by decide]
  unfold parse03
  simp only [show (bits (0x0C3#12) 0 6).toNat = 0x03 from by decide]

theorem parse_iminLit (g : BitVec 4) (fh : BitVec 20) (fd fa fb : BitVec 10) (fm : BitVec 30) :
    parse ⟨0x0C6#12, g, fh, fd, fa, fb, fm⟩ = (do
    let d ← dOp fd
    let a ← sOp fa
    .ok (.iminLit (Ctl.of g fh) d a (fb ++ bits fm 8 22) (bits fm 5 3))) := by
  unfold parse
  simp only [show (bits (0x0C6#12) 6 6).toNat = 0x03 from by decide]
  unfold parse03
  simp only [show (bits (0x0C6#12) 0 6).toNat = 0x06 from by decide]

theorem parse_imaxLit (g : BitVec 4) (fh : BitVec 20) (fd fa fb : BitVec 10) (fm : BitVec 30) :
    parse ⟨0x0C7#12, g, fh, fd, fa, fb, fm⟩ = (do
    let d ← dOp fd
    let a ← sOp fa
    .ok (.imaxLit (Ctl.of g fh) d a (fb ++ bits fm 8 22) (bits fm 5 3))) := by
  unfold parse
  simp only [show (bits (0x0C7#12) 6 6).toNat = 0x03 from by decide]
  unfold parse03
  simp only [show (bits (0x0C7#12) 0 6).toNat = 0x07 from by decide]

theorem parse_andLit (g : BitVec 4) (fh : BitVec 20) (fd fa fb : BitVec 10) (fm : BitVec 30) :
    parse ⟨0x0C9#12, g, fh, fd, fa, fb, fm⟩ = (do
    let d ← dOp fd
    let a ← sOp fa
    .ok (.andLit (Ctl.of g fh) d a (fb ++ bits fm 8 22) (bits fm 5 3))) := by
  unfold parse
  simp only [show (bits (0x0C9#12) 6 6).toNat = 0x03 from by decide]
  unfold parse03
  simp only [show (bits (0x0C9#12) 0 6).toNat = 0x09 from by decide]

theorem parse_orLit (g : BitVec 4) (fh : BitVec 20) (fd fa fb : BitVec 10) (fm : BitVec 30) :
    parse ⟨0x0CA#12, g, fh, fd, fa, fb, fm⟩ = (do
    let d ← dOp fd
    let a ← sOp fa
    .ok (.orLit (Ctl.of g fh) d a (fb ++ bits fm 8 22) (bits fm 5 3))) := by
  unfold parse
  simp only [show (bits (0x0CA#12) 6 6).toNat = 0x03 from by decide]
  unfold parse03
  simp only [show (bits (0x0CA#12) 0 6).toNat = 0x0A from by decide]

theorem parse_xorLit (g : BitVec 4) (fh : BitVec 20) (fd fa fb : BitVec 10) (fm : BitVec 30) :
    parse ⟨0x0CB#12, g, fh, fd, fa, fb, fm⟩ = (do
    let d ← dOp fd
    let a ← sOp fa
    .ok (.xorLit (Ctl.of g fh) d a (fb ++ bits fm 8 22) (bits fm 5 3))) := by
  unfold parse
  simp only [show (bits (0x0CB#12) 6 6).toNat = 0x03 from by decide]
  unfold parse03
  simp only [show (bits (0x0CB#12) 0 6).toNat = 0x0B from by decide]

theorem parse_andnLit (g : BitVec 4) (fh : BitVec 20) (fd fa fb : BitVec 10) (fm : BitVec 30) :
    parse ⟨0x0CC#12, g, fh, fd, fa, fb, fm⟩ = (do
    let d ← dOp fd
    let a ← sOp fa
    .ok (.andnLit (Ctl.of g fh) d a (fb ++ bits fm 8 22) (bits fm 5 3))) := by
  unfold parse
  simp only [show (bits (0x0CC#12) 6 6).toNat = 0x03 from by decide]
  unfold parse03
  simp only [show (bits (0x0CC#12) 0 6).toNat = 0x0C from by decide]

theorem parse_ornLit (g : BitVec 4) (fh : BitVec 20) (fd fa fb : BitVec 10) (fm : BitVec 30) :
    parse ⟨0x0CD#12, g, fh, fd, fa, fb, fm⟩ = (do
    let d ← dOp fd
    let a ← sOp fa
    .ok (.ornLit (Ctl.of g fh) d a (fb ++ bits fm 8 22) (bits fm 5 3))) := by
  unfold parse
  simp only [show (bits (0x0CD#12) 6 6).toNat = 0x03 from by decide]
  unfold parse03
  simp only [show (bits (0x0CD#12) 0 6).toNat = 0x0D from by decide]

theorem parse_shlLit (g : BitVec 4) (fh : BitVec 20) (fd fa fb : BitVec 10) (fm : BitVec 30) :
    parse ⟨0x0CE#12, g, fh, fd, fa, fb, fm⟩ = (do
    let d ← dOp fd
    let a ← sOp fa
    .ok (.shlLit (Ctl.of g fh) d a (fb ++ bits fm 8 22) (bits fm 5 3))) := by
  unfold parse
  simp only [show (bits (0x0CE#12) 6 6).toNat = 0x03 from by decide]
  unfold parse03
  simp only [show (bits (0x0CE#12) 0 6).toNat = 0x0E from by decide]

theorem parse_shrLit (g : BitVec 4) (fh : BitVec 20) (fd fa fb : BitVec 10) (fm : BitVec 30) :
    parse ⟨0x0CF#12, g, fh, fd, fa, fb, fm⟩ = (do
    let d ← dOp fd
    let a ← sOp fa
    .ok (.shrLit (Ctl.of g fh) d a (fb ++ bits fm 8 22) (bits fm 5 3))) := by
  unfold parse
  simp only [show (bits (0x0CF#12) 6 6).toNat = 0x03 from by decide]
  unfold parse03
  simp only [show (bits (0x0CF#12) 0 6).toNat = 0x0F from by decide]

theorem parse_sarLit (g : BitVec 4) (fh : BitVec 20) (fd fa fb : BitVec 10) (fm : BitVec 30) :
    parse ⟨0x0D0#12, g, fh, fd, fa, fb, fm⟩ = (do
    let d ← dOp fd
    let a ← sOp fa
    .ok (.sarLit (Ctl.of g fh) d a (fb ++ bits fm 8 22) (bits fm 5 3))) := by
  unfold parse
  simp only [show (bits (0x0D0#12) 6 6).toNat = 0x03 from by decide]
  unfold parse03
  simp only [show (bits (0x0D0#12) 0 6).toNat = 0x10 from by decide]

theorem parse_rotLit (g : BitVec 4) (fh : BitVec 20) (fd fa fb : BitVec 10) (fm : BitVec 30) :
    parse ⟨0x0D1#12, g, fh, fd, fa, fb, fm⟩ = (do
    let d ← dOp fd
    let a ← sOp fa
    .ok (.rotLit (Ctl.of g fh) d a (fb ++ bits fm 8 22) (bits fm 5 3))) := by
  unfold parse
  simp only [show (bits (0x0D1#12) 6 6).toNat = 0x03 from by decide]
  unfold parse03
  simp only [show (bits (0x0D1#12) 0 6).toNat = 0x11 from by decide]

theorem parse_movi (g : BitVec 4) (fh : BitVec 20) (fd fa fb : BitVec 10) (fm : BitVec 30) :
    parse ⟨0x0E0#12, g, fh, fd, fa, fb, fm⟩ = (do
    let d ← dOp fd
    .ok (.movi (Ctl.of g fh) d (fb ++ bits fm 8 22) (bits fm 5 3))) := by
  unfold parse
  simp only [show (bits (0x0E0#12) 6 6).toNat = 0x03 from by decide]
  unfold parse03
  simp only [show (bits (0x0E0#12) 0 6).toNat = 0x20 from by decide]

theorem parse_movh (g : BitVec 4) (fh : BitVec 20) (fd fa fb : BitVec 10) (fm : BitVec 30) :
    parse ⟨0x0E1#12, g, fh, fd, fa, fb, fm⟩ = (do
    let d ← dOp fd
    let a ← sOp fa
    .ok (.movh (Ctl.of g fh) d a (fb ++ bits fm 8 22) (bits fm 5 3))) := by
  unfold parse
  simp only [show (bits (0x0E1#12) 6 6).toNat = 0x03 from by decide]
  unfold parse03
  simp only [show (bits (0x0E1#12) 0 6).toNat = 0x21 from by decide]

theorem parse_icmp (g : BitVec 4) (fh : BitVec 20) (fd fa fb : BitVec 10) (fm : BitVec 30) :
    parse ⟨0x100#12, g, fh, fd, fa, fb, fm⟩ = (do
    let d ← dOp fd
    let a ← sOp fa
    let b ← sOp fb
    let comb := bits fm 12 2
    let c ← optS (comb != 0) (bits fm 20 10)
    .ok (.icmp (Ctl.of g fh) d a b c (bits fm 17 3) (bits fm 0 3) comb)) := by
  unfold parse
  simp only [show (bits (0x100#12) 6 6).toNat = 0x04 from by decide]
  unfold parse04
  simp only [show (bits (0x100#12) 0 6).toNat = 0x00 from by decide]

theorem parse_plop (g : BitVec 4) (fh : BitVec 20) (fd fa fb : BitVec 10) (fm : BitVec 30) :
    parse ⟨0x101#12, g, fh, fd, fa, fb, fm⟩ = (do
    let d ← dOp fd
    let a ← sOp fa
    let b ← sOp fb
    let c ← sOp (bits fm 20 10)
    .ok (.plop (Ctl.of g fh) d a b c (bits fm 0 8))) := by
  unfold parse
  simp only [show (bits (0x101#12) 6 6).toNat = 0x04 from by decide]
  unfold parse04
  simp only [show (bits (0x101#12) 0 6).toNat = 0x01 from by decide]

theorem parse_pmov (g : BitVec 4) (fh : BitVec 20) (fd fa fb : BitVec 10) (fm : BitVec 30) :
    parse ⟨0x102#12, g, fh, fd, fa, fb, fm⟩ = (do
    let mode := bits fm 0 2
    let d ← optD (mode.toNat ≠ 1) fd
    let a ← optS (mode.toNat ≠ 0) fa
    .ok (.pmov (Ctl.of g fh) d a (bits fm 2 7) mode)) := by
  unfold parse
  simp only [show (bits (0x102#12) 6 6).toNat = 0x04 from by decide]
  unfold parse04
  simp only [show (bits (0x102#12) 0 6).toNat = 0x02 from by decide]

theorem parse_fadd (g : BitVec 4) (fh : BitVec 20) (fd fa fb : BitVec 10) (fm : BitVec 30) :
    parse ⟨0x140#12, g, fh, fd, fa, fb, fm⟩ = (do
    let d ← dOp fd
    let a ← sOp fa
    let b ← sOp fb
    .ok (.fadd (Ctl.of g fh) d a b (bits fm 17 3) ⟨bits fm 15 2, bit fm 14, bit fm 4, bit fm 3, bit fm 2, bit fm 1, bit fm 0⟩)) := by
  unfold parse
  simp only [show (bits (0x140#12) 6 6).toNat = 0x05 from by decide]
  unfold parse05
  simp only [show (bits (0x140#12) 0 6).toNat = 0x00 from by decide]

theorem parse_fsub (g : BitVec 4) (fh : BitVec 20) (fd fa fb : BitVec 10) (fm : BitVec 30) :
    parse ⟨0x141#12, g, fh, fd, fa, fb, fm⟩ = (do
    let d ← dOp fd
    let a ← sOp fa
    let b ← sOp fb
    .ok (.fsub (Ctl.of g fh) d a b (bits fm 17 3) ⟨bits fm 15 2, bit fm 14, bit fm 4, bit fm 3, bit fm 2, bit fm 1, bit fm 0⟩)) := by
  unfold parse
  simp only [show (bits (0x141#12) 6 6).toNat = 0x05 from by decide]
  unfold parse05
  simp only [show (bits (0x141#12) 0 6).toNat = 0x01 from by decide]

theorem parse_fmul (g : BitVec 4) (fh : BitVec 20) (fd fa fb : BitVec 10) (fm : BitVec 30) :
    parse ⟨0x142#12, g, fh, fd, fa, fb, fm⟩ = (do
    let d ← dOp fd
    let a ← sOp fa
    let b ← sOp fb
    .ok (.fmul (Ctl.of g fh) d a b (bits fm 17 3) ⟨bits fm 15 2, bit fm 14, bit fm 4, bit fm 3, bit fm 2, bit fm 1, bit fm 0⟩)) := by
  unfold parse
  simp only [show (bits (0x142#12) 6 6).toNat = 0x05 from by decide]
  unfold parse05
  simp only [show (bits (0x142#12) 0 6).toNat = 0x02 from by decide]

theorem parse_ffma (g : BitVec 4) (fh : BitVec 20) (fd fa fb : BitVec 10) (fm : BitVec 30) :
    parse ⟨0x143#12, g, fh, fd, fa, fb, fm⟩ = (do
    let d ← dOp fd
    let a ← sOp fa
    let b ← sOp fb
    let c ← sOp (bits fm 20 10)
    .ok (.ffma (Ctl.of g fh) d a b c (bits fm 17 3) ⟨bits fm 15 2, bit fm 14, bit fm 4, bit fm 3, bit fm 2, bit fm 1, bit fm 0⟩)) := by
  unfold parse
  simp only [show (bits (0x143#12) 6 6).toNat = 0x05 from by decide]
  unfold parse05
  simp only [show (bits (0x143#12) 0 6).toNat = 0x03 from by decide]

theorem parse_fmin (g : BitVec 4) (fh : BitVec 20) (fd fa fb : BitVec 10) (fm : BitVec 30) :
    parse ⟨0x144#12, g, fh, fd, fa, fb, fm⟩ = (do
    let d ← dOp fd
    let a ← sOp fa
    let b ← sOp fb
    .ok (.fmin (Ctl.of g fh) d a b (bits fm 17 3) ⟨bits fm 15 2, bit fm 14, bit fm 4, bit fm 3, bit fm 2, bit fm 1, bit fm 0⟩)) := by
  unfold parse
  simp only [show (bits (0x144#12) 6 6).toNat = 0x05 from by decide]
  unfold parse05
  simp only [show (bits (0x144#12) 0 6).toNat = 0x04 from by decide]

theorem parse_fmax (g : BitVec 4) (fh : BitVec 20) (fd fa fb : BitVec 10) (fm : BitVec 30) :
    parse ⟨0x145#12, g, fh, fd, fa, fb, fm⟩ = (do
    let d ← dOp fd
    let a ← sOp fa
    let b ← sOp fb
    .ok (.fmax (Ctl.of g fh) d a b (bits fm 17 3) ⟨bits fm 15 2, bit fm 14, bit fm 4, bit fm 3, bit fm 2, bit fm 1, bit fm 0⟩)) := by
  unfold parse
  simp only [show (bits (0x145#12) 6 6).toNat = 0x05 from by decide]
  unfold parse05
  simp only [show (bits (0x145#12) 0 6).toNat = 0x05 from by decide]

theorem parse_fcmp (g : BitVec 4) (fh : BitVec 20) (fd fa fb : BitVec 10) (fm : BitVec 30) :
    parse ⟨0x146#12, g, fh, fd, fa, fb, fm⟩ = (do
    let d ← dOp fd
    let a ← sOp fa
    let b ← sOp fb
    let comb := bits fm 12 2
    let c ← optS (comb != 0) (bits fm 20 10)
    .ok (.fcmp (Ctl.of g fh) d a b c (bits fm 17 3) (bits fm 0 3) comb)) := by
  unfold parse
  simp only [show (bits (0x146#12) 6 6).toNat = 0x05 from by decide]
  unfold parse05
  simp only [show (bits (0x146#12) 0 6).toNat = 0x06 from by decide]

theorem parse_fcls (g : BitVec 4) (fh : BitVec 20) (fd fa fb : BitVec 10) (fm : BitVec 30) :
    parse ⟨0x147#12, g, fh, fd, fa, fb, fm⟩ = (do
    let d ← dOp fd
    let a ← sOp fa
    .ok (.fcls (Ctl.of g fh) d a (bits fm 17 3) (bits fm 0 9))) := by
  unfold parse
  simp only [show (bits (0x147#12) 6 6).toNat = 0x05 from by decide]
  unfold parse05
  simp only [show (bits (0x147#12) 0 6).toNat = 0x07 from by decide]

theorem parse_fscl (g : BitVec 4) (fh : BitVec 20) (fd fa fb : BitVec 10) (fm : BitVec 30) :
    parse ⟨0x148#12, g, fh, fd, fa, fb, fm⟩ = (do
    let d ← dOp fd
    let a ← sOp fa
    let b ← sOp fb
    .ok (.fscl (Ctl.of g fh) d a b (bits fm 17 3) ⟨bits fm 15 2, bit fm 14, bit fm 4, bit fm 3, bit fm 2, bit fm 1, bit fm 0⟩)) := by
  unfold parse
  simp only [show (bits (0x148#12) 6 6).toNat = 0x05 from by decide]
  unfold parse05
  simp only [show (bits (0x148#12) 0 6).toNat = 0x08 from by decide]

theorem parse_frnd (g : BitVec 4) (fh : BitVec 20) (fd fa fb : BitVec 10) (fm : BitVec 30) :
    parse ⟨0x149#12, g, fh, fd, fa, fb, fm⟩ = (do
    let d ← dOp fd
    let a ← sOp fa
    .ok (.frnd (Ctl.of g fh) d a (bits fm 17 3) ⟨bits fm 15 2, bit fm 14, bit fm 4, bit fm 3, bit fm 2, bit fm 1, bit fm 0⟩)) := by
  unfold parse
  simp only [show (bits (0x149#12) 6 6).toNat = 0x05 from by decide]
  unfold parse05
  simp only [show (bits (0x149#12) 0 6).toNat = 0x09 from by decide]

theorem parse_faddLit (g : BitVec 4) (fh : BitVec 20) (fd fa fb : BitVec 10) (fm : BitVec 30) :
    parse ⟨0x180#12, g, fh, fd, fa, fb, fm⟩ = (do
    let d ← dOp fd
    let a ← sOp fa
    .ok (.faddLit (Ctl.of g fh) d a (fb ++ bits fm 8 22) (bits fm 5 3) ⟨bits fm 2 2, bit fm 4, false, false, false, bit fm 1, bit fm 0⟩)) := by
  unfold parse
  simp only [show (bits (0x180#12) 6 6).toNat = 0x06 from by decide]
  unfold parse06
  simp only [show (bits (0x180#12) 0 6).toNat = 0x00 from by decide]

theorem parse_fsubLit (g : BitVec 4) (fh : BitVec 20) (fd fa fb : BitVec 10) (fm : BitVec 30) :
    parse ⟨0x181#12, g, fh, fd, fa, fb, fm⟩ = (do
    let d ← dOp fd
    let a ← sOp fa
    .ok (.fsubLit (Ctl.of g fh) d a (fb ++ bits fm 8 22) (bits fm 5 3) ⟨bits fm 2 2, bit fm 4, false, false, false, bit fm 1, bit fm 0⟩)) := by
  unfold parse
  simp only [show (bits (0x181#12) 6 6).toNat = 0x06 from by decide]
  unfold parse06
  simp only [show (bits (0x181#12) 0 6).toNat = 0x01 from by decide]

theorem parse_fmulLit (g : BitVec 4) (fh : BitVec 20) (fd fa fb : BitVec 10) (fm : BitVec 30) :
    parse ⟨0x182#12, g, fh, fd, fa, fb, fm⟩ = (do
    let d ← dOp fd
    let a ← sOp fa
    .ok (.fmulLit (Ctl.of g fh) d a (fb ++ bits fm 8 22) (bits fm 5 3) ⟨bits fm 2 2, bit fm 4, false, false, false, bit fm 1, bit fm 0⟩)) := by
  unfold parse
  simp only [show (bits (0x182#12) 6 6).toNat = 0x06 from by decide]
  unfold parse06
  simp only [show (bits (0x182#12) 0 6).toNat = 0x02 from by decide]

theorem parse_fminLit (g : BitVec 4) (fh : BitVec 20) (fd fa fb : BitVec 10) (fm : BitVec 30) :
    parse ⟨0x184#12, g, fh, fd, fa, fb, fm⟩ = (do
    let d ← dOp fd
    let a ← sOp fa
    .ok (.fminLit (Ctl.of g fh) d a (fb ++ bits fm 8 22) (bits fm 5 3) ⟨bits fm 2 2, bit fm 4, false, false, false, bit fm 1, bit fm 0⟩)) := by
  unfold parse
  simp only [show (bits (0x184#12) 6 6).toNat = 0x06 from by decide]
  unfold parse06
  simp only [show (bits (0x184#12) 0 6).toNat = 0x04 from by decide]

theorem parse_fmaxLit (g : BitVec 4) (fh : BitVec 20) (fd fa fb : BitVec 10) (fm : BitVec 30) :
    parse ⟨0x185#12, g, fh, fd, fa, fb, fm⟩ = (do
    let d ← dOp fd
    let a ← sOp fa
    .ok (.fmaxLit (Ctl.of g fh) d a (fb ++ bits fm 8 22) (bits fm 5 3) ⟨bits fm 2 2, bit fm 4, false, false, false, bit fm 1, bit fm 0⟩)) := by
  unfold parse
  simp only [show (bits (0x185#12) 6 6).toNat = 0x06 from by decide]
  unfold parse06
  simp only [show (bits (0x185#12) 0 6).toNat = 0x05 from by decide]

theorem parse_fcmpLit (g : BitVec 4) (fh : BitVec 20) (fd fa fb : BitVec 10) (fm : BitVec 30) :
    parse ⟨0x186#12, g, fh, fd, fa, fb, fm⟩ = (do
    let d ← dOp fd
    let a ← sOp fa
    .ok (.fcmpLit (Ctl.of g fh) d a (fb ++ bits fm 8 22) (bits fm 5 3) (bits fm 0 2))) := by
  unfold parse
  simp only [show (bits (0x186#12) 6 6).toNat = 0x06 from by decide]
  unfold parse06
  simp only [show (bits (0x186#12) 0 6).toNat = 0x06 from by decide]

theorem parse_faddF64 (g : BitVec 4) (fh : BitVec 20) (fd fa fb : BitVec 10) (fm : BitVec 30) :
    parse ⟨0x1C0#12, g, fh, fd, fa, fb, fm⟩ = (do
    let d ← dOp fd
    let a ← sOp fa
    let b ← sOp fb
    .ok (.faddF64 (Ctl.of g fh) d a b (bits fm 17 3) ⟨bits fm 15 2, bit fm 14, bit fm 4, bit fm 3, bit fm 2, bit fm 1, bit fm 0⟩)) := by
  unfold parse
  simp only [show (bits (0x1C0#12) 6 6).toNat = 0x07 from by decide]
  unfold parse07
  simp only [show (bits (0x1C0#12) 0 6).toNat = 0x00 from by decide]

theorem parse_fsubF64 (g : BitVec 4) (fh : BitVec 20) (fd fa fb : BitVec 10) (fm : BitVec 30) :
    parse ⟨0x1C1#12, g, fh, fd, fa, fb, fm⟩ = (do
    let d ← dOp fd
    let a ← sOp fa
    let b ← sOp fb
    .ok (.fsubF64 (Ctl.of g fh) d a b (bits fm 17 3) ⟨bits fm 15 2, bit fm 14, bit fm 4, bit fm 3, bit fm 2, bit fm 1, bit fm 0⟩)) := by
  unfold parse
  simp only [show (bits (0x1C1#12) 6 6).toNat = 0x07 from by decide]
  unfold parse07
  simp only [show (bits (0x1C1#12) 0 6).toNat = 0x01 from by decide]

theorem parse_fmulF64 (g : BitVec 4) (fh : BitVec 20) (fd fa fb : BitVec 10) (fm : BitVec 30) :
    parse ⟨0x1C2#12, g, fh, fd, fa, fb, fm⟩ = (do
    let d ← dOp fd
    let a ← sOp fa
    let b ← sOp fb
    .ok (.fmulF64 (Ctl.of g fh) d a b (bits fm 17 3) ⟨bits fm 15 2, bit fm 14, bit fm 4, bit fm 3, bit fm 2, bit fm 1, bit fm 0⟩)) := by
  unfold parse
  simp only [show (bits (0x1C2#12) 6 6).toNat = 0x07 from by decide]
  unfold parse07
  simp only [show (bits (0x1C2#12) 0 6).toNat = 0x02 from by decide]

theorem parse_ffmaF64 (g : BitVec 4) (fh : BitVec 20) (fd fa fb : BitVec 10) (fm : BitVec 30) :
    parse ⟨0x1C3#12, g, fh, fd, fa, fb, fm⟩ = (do
    let d ← dOp fd
    let a ← sOp fa
    let b ← sOp fb
    let c ← sOp (bits fm 20 10)
    .ok (.ffmaF64 (Ctl.of g fh) d a b c (bits fm 17 3) ⟨bits fm 15 2, bit fm 14, bit fm 4, bit fm 3, bit fm 2, bit fm 1, bit fm 0⟩)) := by
  unfold parse
  simp only [show (bits (0x1C3#12) 6 6).toNat = 0x07 from by decide]
  unfold parse07
  simp only [show (bits (0x1C3#12) 0 6).toNat = 0x03 from by decide]

theorem parse_fminF64 (g : BitVec 4) (fh : BitVec 20) (fd fa fb : BitVec 10) (fm : BitVec 30) :
    parse ⟨0x1C4#12, g, fh, fd, fa, fb, fm⟩ = (do
    let d ← dOp fd
    let a ← sOp fa
    let b ← sOp fb
    .ok (.fminF64 (Ctl.of g fh) d a b (bits fm 17 3) ⟨bits fm 15 2, bit fm 14, bit fm 4, bit fm 3, bit fm 2, bit fm 1, bit fm 0⟩)) := by
  unfold parse
  simp only [show (bits (0x1C4#12) 6 6).toNat = 0x07 from by decide]
  unfold parse07
  simp only [show (bits (0x1C4#12) 0 6).toNat = 0x04 from by decide]

theorem parse_fmaxF64 (g : BitVec 4) (fh : BitVec 20) (fd fa fb : BitVec 10) (fm : BitVec 30) :
    parse ⟨0x1C5#12, g, fh, fd, fa, fb, fm⟩ = (do
    let d ← dOp fd
    let a ← sOp fa
    let b ← sOp fb
    .ok (.fmaxF64 (Ctl.of g fh) d a b (bits fm 17 3) ⟨bits fm 15 2, bit fm 14, bit fm 4, bit fm 3, bit fm 2, bit fm 1, bit fm 0⟩)) := by
  unfold parse
  simp only [show (bits (0x1C5#12) 6 6).toNat = 0x07 from by decide]
  unfold parse07
  simp only [show (bits (0x1C5#12) 0 6).toNat = 0x05 from by decide]

theorem parse_fcmpF64 (g : BitVec 4) (fh : BitVec 20) (fd fa fb : BitVec 10) (fm : BitVec 30) :
    parse ⟨0x1C6#12, g, fh, fd, fa, fb, fm⟩ = (do
    let d ← dOp fd
    let a ← sOp fa
    let b ← sOp fb
    let comb := bits fm 12 2
    let c ← optS (comb != 0) (bits fm 20 10)
    .ok (.fcmpF64 (Ctl.of g fh) d a b c (bits fm 17 3) (bits fm 0 3) comb)) := by
  unfold parse
  simp only [show (bits (0x1C6#12) 6 6).toNat = 0x07 from by decide]
  unfold parse07
  simp only [show (bits (0x1C6#12) 0 6).toNat = 0x06 from by decide]

theorem parse_fclsF64 (g : BitVec 4) (fh : BitVec 20) (fd fa fb : BitVec 10) (fm : BitVec 30) :
    parse ⟨0x1C7#12, g, fh, fd, fa, fb, fm⟩ = (do
    let d ← dOp fd
    let a ← sOp fa
    .ok (.fclsF64 (Ctl.of g fh) d a (bits fm 17 3) (bits fm 0 9))) := by
  unfold parse
  simp only [show (bits (0x1C7#12) 6 6).toNat = 0x07 from by decide]
  unfold parse07
  simp only [show (bits (0x1C7#12) 0 6).toNat = 0x07 from by decide]

theorem parse_fsclF64 (g : BitVec 4) (fh : BitVec 20) (fd fa fb : BitVec 10) (fm : BitVec 30) :
    parse ⟨0x1C8#12, g, fh, fd, fa, fb, fm⟩ = (do
    let d ← dOp fd
    let a ← sOp fa
    let b ← sOp fb
    .ok (.fsclF64 (Ctl.of g fh) d a b (bits fm 17 3) ⟨bits fm 15 2, bit fm 14, bit fm 4, bit fm 3, bit fm 2, bit fm 1, bit fm 0⟩)) := by
  unfold parse
  simp only [show (bits (0x1C8#12) 6 6).toNat = 0x07 from by decide]
  unfold parse07
  simp only [show (bits (0x1C8#12) 0 6).toNat = 0x08 from by decide]

theorem parse_frndF64 (g : BitVec 4) (fh : BitVec 20) (fd fa fb : BitVec 10) (fm : BitVec 30) :
    parse ⟨0x1C9#12, g, fh, fd, fa, fb, fm⟩ = (do
    let d ← dOp fd
    let a ← sOp fa
    .ok (.frndF64 (Ctl.of g fh) d a (bits fm 17 3) ⟨bits fm 15 2, bit fm 14, bit fm 4, bit fm 3, bit fm 2, bit fm 1, bit fm 0⟩)) := by
  unfold parse
  simp only [show (bits (0x1C9#12) 6 6).toNat = 0x07 from by decide]
  unfold parse07
  simp only [show (bits (0x1C9#12) 0 6).toNat = 0x09 from by decide]

theorem parse_frcp (g : BitVec 4) (fh : BitVec 20) (fd fa fb : BitVec 10) (fm : BitVec 30) :
    parse ⟨0x200#12, g, fh, fd, fa, fb, fm⟩ = (do
    let d ← dOp fd
    let a ← sOp fa
    .ok (.frcp (Ctl.of g fh) d a (bits fm 17 3) ⟨bits fm 15 2, bit fm 14, bit fm 4, bit fm 3, bit fm 2, bit fm 1, bit fm 0⟩)) := by
  unfold parse
  simp only [show (bits (0x200#12) 6 6).toNat = 0x08 from by decide]
  unfold parse08
  simp only [show (bits (0x200#12) 0 6).toNat = 0x00 from by decide]

theorem parse_frsq (g : BitVec 4) (fh : BitVec 20) (fd fa fb : BitVec 10) (fm : BitVec 30) :
    parse ⟨0x201#12, g, fh, fd, fa, fb, fm⟩ = (do
    let d ← dOp fd
    let a ← sOp fa
    .ok (.frsq (Ctl.of g fh) d a (bits fm 17 3) ⟨bits fm 15 2, bit fm 14, bit fm 4, bit fm 3, bit fm 2, bit fm 1, bit fm 0⟩)) := by
  unfold parse
  simp only [show (bits (0x201#12) 6 6).toNat = 0x08 from by decide]
  unfold parse08
  simp only [show (bits (0x201#12) 0 6).toNat = 0x01 from by decide]

theorem parse_fsqrt (g : BitVec 4) (fh : BitVec 20) (fd fa fb : BitVec 10) (fm : BitVec 30) :
    parse ⟨0x202#12, g, fh, fd, fa, fb, fm⟩ = (do
    let d ← dOp fd
    let a ← sOp fa
    .ok (.fsqrt (Ctl.of g fh) d a (bits fm 17 3) ⟨bits fm 15 2, bit fm 14, bit fm 4, bit fm 3, bit fm 2, bit fm 1, bit fm 0⟩)) := by
  unfold parse
  simp only [show (bits (0x202#12) 6 6).toNat = 0x08 from by decide]
  unfold parse08
  simp only [show (bits (0x202#12) 0 6).toNat = 0x02 from by decide]

theorem parse_fex2 (g : BitVec 4) (fh : BitVec 20) (fd fa fb : BitVec 10) (fm : BitVec 30) :
    parse ⟨0x203#12, g, fh, fd, fa, fb, fm⟩ = (do
    let d ← dOp fd
    let a ← sOp fa
    .ok (.fex2 (Ctl.of g fh) d a (bits fm 17 3) ⟨bits fm 15 2, bit fm 14, bit fm 4, bit fm 3, bit fm 2, bit fm 1, bit fm 0⟩)) := by
  unfold parse
  simp only [show (bits (0x203#12) 6 6).toNat = 0x08 from by decide]
  unfold parse08
  simp only [show (bits (0x203#12) 0 6).toNat = 0x03 from by decide]

theorem parse_flg2 (g : BitVec 4) (fh : BitVec 20) (fd fa fb : BitVec 10) (fm : BitVec 30) :
    parse ⟨0x204#12, g, fh, fd, fa, fb, fm⟩ = (do
    let d ← dOp fd
    let a ← sOp fa
    .ok (.flg2 (Ctl.of g fh) d a (bits fm 17 3) ⟨bits fm 15 2, bit fm 14, bit fm 4, bit fm 3, bit fm 2, bit fm 1, bit fm 0⟩)) := by
  unfold parse
  simp only [show (bits (0x204#12) 6 6).toNat = 0x08 from by decide]
  unfold parse08
  simp only [show (bits (0x204#12) 0 6).toNat = 0x04 from by decide]

theorem parse_fsin (g : BitVec 4) (fh : BitVec 20) (fd fa fb : BitVec 10) (fm : BitVec 30) :
    parse ⟨0x205#12, g, fh, fd, fa, fb, fm⟩ = (do
    let d ← dOp fd
    let a ← sOp fa
    .ok (.fsin (Ctl.of g fh) d a (bits fm 17 3) ⟨bits fm 15 2, bit fm 14, bit fm 4, bit fm 3, bit fm 2, bit fm 1, bit fm 0⟩)) := by
  unfold parse
  simp only [show (bits (0x205#12) 6 6).toNat = 0x08 from by decide]
  unfold parse08
  simp only [show (bits (0x205#12) 0 6).toNat = 0x05 from by decide]

theorem parse_fcos (g : BitVec 4) (fh : BitVec 20) (fd fa fb : BitVec 10) (fm : BitVec 30) :
    parse ⟨0x206#12, g, fh, fd, fa, fb, fm⟩ = (do
    let d ← dOp fd
    let a ← sOp fa
    .ok (.fcos (Ctl.of g fh) d a (bits fm 17 3) ⟨bits fm 15 2, bit fm 14, bit fm 4, bit fm 3, bit fm 2, bit fm 1, bit fm 0⟩)) := by
  unfold parse
  simp only [show (bits (0x206#12) 6 6).toNat = 0x08 from by decide]
  unfold parse08
  simp only [show (bits (0x206#12) 0 6).toNat = 0x06 from by decide]

theorem parse_hfma2 (g : BitVec 4) (fh : BitVec 20) (fd fa fb : BitVec 10) (fm : BitVec 30) :
    parse ⟨0x240#12, g, fh, fd, fa, fb, fm⟩ = (do
    let d ← dOp fd
    let a ← sOp fa
    let b ← sOp fb
    let c ← sOp (bits fm 20 10)
    .ok (.hfma2 (Ctl.of g fh) d a b c (bits fm 17 3) ⟨bits fm 15 2, bit fm 14, bit fm 4, bit fm 3, bit fm 2, bit fm 1, bit fm 0⟩)) := by
  unfold parse
  simp only [show (bits (0x240#12) 6 6).toNat = 0x09 from by decide]
  unfold parse09
  simp only [show (bits (0x240#12) 0 6).toNat = 0x00 from by decide]

theorem parse_hadd2 (g : BitVec 4) (fh : BitVec 20) (fd fa fb : BitVec 10) (fm : BitVec 30) :
    parse ⟨0x241#12, g, fh, fd, fa, fb, fm⟩ = (do
    let d ← dOp fd
    let a ← sOp fa
    let b ← sOp fb
    .ok (.hadd2 (Ctl.of g fh) d a b (bits fm 17 3) ⟨bits fm 15 2, bit fm 14, bit fm 4, bit fm 3, bit fm 2, bit fm 1, bit fm 0⟩)) := by
  unfold parse
  simp only [show (bits (0x241#12) 6 6).toNat = 0x09 from by decide]
  unfold parse09
  simp only [show (bits (0x241#12) 0 6).toNat = 0x01 from by decide]

theorem parse_hmul2 (g : BitVec 4) (fh : BitVec 20) (fd fa fb : BitVec 10) (fm : BitVec 30) :
    parse ⟨0x242#12, g, fh, fd, fa, fb, fm⟩ = (do
    let d ← dOp fd
    let a ← sOp fa
    let b ← sOp fb
    .ok (.hmul2 (Ctl.of g fh) d a b (bits fm 17 3) ⟨bits fm 15 2, bit fm 14, bit fm 4, bit fm 3, bit fm 2, bit fm 1, bit fm 0⟩)) := by
  unfold parse
  simp only [show (bits (0x242#12) 6 6).toNat = 0x09 from by decide]
  unfold parse09
  simp only [show (bits (0x242#12) 0 6).toNat = 0x02 from by decide]

theorem parse_qdot4 (g : BitVec 4) (fh : BitVec 20) (fd fa fb : BitVec 10) (fm : BitVec 30) :
    parse ⟨0x243#12, g, fh, fd, fa, fb, fm⟩ = (do
    let d ← dOp fd
    let a ← sOp fa
    let b ← sOp fb
    let c ← sOp (bits fm 20 10)
    .ok (.qdot4 (Ctl.of g fh) d a b c (bits fm 17 3) (bits fm 15 2) (bit fm 14) (bit fm 0))) := by
  unfold parse
  simp only [show (bits (0x243#12) 6 6).toNat = 0x09 from by decide]
  unfold parse09
  simp only [show (bits (0x243#12) 0 6).toNat = 0x03 from by decide]

theorem parse_idot4 (g : BitVec 4) (fh : BitVec 20) (fd fa fb : BitVec 10) (fm : BitVec 30) :
    parse ⟨0x244#12, g, fh, fd, fa, fb, fm⟩ = (do
    let d ← dOp fd
    let a ← sOp fa
    let b ← sOp fb
    let c ← sOp (bits fm 20 10)
    .ok (.idot4 (Ctl.of g fh) d a b c (bits fm 17 3) (bit fm 14) (bit fm 0))) := by
  unfold parse
  simp only [show (bits (0x244#12) 6 6).toNat = 0x09 from by decide]
  unfold parse09
  simp only [show (bits (0x244#12) 0 6).toNat = 0x04 from by decide]

theorem parse_fcvt (g : BitVec 4) (fh : BitVec 20) (fd fa fb : BitVec 10) (fm : BitVec 30) :
    parse ⟨0x245#12, g, fh, fd, fa, fb, fm⟩ = (do
    let d ← dOp fd
    let a ← sOp fa
    .ok (.fcvt (Ctl.of g fh) d a (bits fm 17 3) (bits fm 15 2) (bit fm 14) (bits fm 0 3))) := by
  unfold parse
  simp only [show (bits (0x245#12) 6 6).toNat = 0x09 from by decide]
  unfold parse09
  simp only [show (bits (0x245#12) 0 6).toNat = 0x05 from by decide]

theorem parse_f2i (g : BitVec 4) (fh : BitVec 20) (fd fa fb : BitVec 10) (fm : BitVec 30) :
    parse ⟨0x246#12, g, fh, fd, fa, fb, fm⟩ = (do
    let d ← dOp fd
    let a ← sOp fa
    .ok (.f2i (Ctl.of g fh) d a (bits fm 17 3) (bits fm 15 2) (bits fm 0 3))) := by
  unfold parse
  simp only [show (bits (0x246#12) 6 6).toNat = 0x09 from by decide]
  unfold parse09
  simp only [show (bits (0x246#12) 0 6).toNat = 0x06 from by decide]

theorem parse_i2f (g : BitVec 4) (fh : BitVec 20) (fd fa fb : BitVec 10) (fm : BitVec 30) :
    parse ⟨0x247#12, g, fh, fd, fa, fb, fm⟩ = (do
    let d ← dOp fd
    let a ← sOp fa
    .ok (.i2f (Ctl.of g fh) d a (bits fm 17 3) (bits fm 15 2) (bit fm 14) (bits fm 0 3))) := by
  unfold parse
  simp only [show (bits (0x247#12) 6 6).toNat = 0x09 from by decide]
  unfold parse09
  simp only [show (bits (0x247#12) 0 6).toNat = 0x07 from by decide]

theorem parse_pack8 (g : BitVec 4) (fh : BitVec 20) (fd fa fb : BitVec 10) (fm : BitVec 30) :
    parse ⟨0x248#12, g, fh, fd, fa, fb, fm⟩ = (do
    let d ← dOp fd
    let a ← sOp fa
    let b ← sOp fb
    let c ← sOp (bits fm 20 10)
    .ok (.pack8 (Ctl.of g fh) d a b c (bits fm 17 3) (bits fm 15 2) (bit fm 14) (bit fm 0))) := by
  unfold parse
  simp only [show (bits (0x248#12) 6 6).toNat = 0x09 from by decide]
  unfold parse09
  simp only [show (bits (0x248#12) 0 6).toNat = 0x08 from by decide]

theorem parse_unpk8 (g : BitVec 4) (fh : BitVec 20) (fd fa fb : BitVec 10) (fm : BitVec 30) :
    parse ⟨0x249#12, g, fh, fd, fa, fb, fm⟩ = (do
    let d ← dOp fd
    let a ← sOp fa
    .ok (.unpk8 (Ctl.of g fh) d a (bits fm 17 3) (bit fm 1) (bit fm 0))) := by
  unfold parse
  simp only [show (bits (0x249#12) 6 6).toNat = 0x09 from by decide]
  unfold parse09
  simp only [show (bits (0x249#12) 0 6).toNat = 0x09 from by decide]

theorem parse_shfl (g : BitVec 4) (fh : BitVec 20) (fd fa fb : BitVec 10) (fm : BitVec 30) :
    parse ⟨0x280#12, g, fh, fd, fa, fb, fm⟩ = (do
    let d ← dOp fd
    let a ← sOp fa
    let b ← sOp fb
    .ok (.shfl (Ctl.of g fh) d a b (bits fm 17 3) (bits fm 2 3) (bits fm 0 2))) := by
  unfold parse
  simp only [show (bits (0x280#12) 6 6).toNat = 0x0A from by decide]
  unfold parse0A
  simp only [show (bits (0x280#12) 0 6).toNat = 0x00 from by decide]

theorem parse_vote (g : BitVec 4) (fh : BitVec 20) (fd fa fb : BitVec 10) (fm : BitVec 30) :
    parse ⟨0x281#12, g, fh, fd, fa, fb, fm⟩ = (do
    let d ← dOp fd
    let a ← sOp fa
    .ok (.vote (Ctl.of g fh) d a (bit fm 3) (bit fm 2) (bits fm 0 2))) := by
  unfold parse
  simp only [show (bits (0x281#12) 6 6).toNat = 0x0A from by decide]
  unfold parse0A
  simp only [show (bits (0x281#12) 0 6).toNat = 0x01 from by decide]

theorem parse_matchLanes (g : BitVec 4) (fh : BitVec 20) (fd fa fb : BitVec 10) (fm : BitVec 30) :
    parse ⟨0x282#12, g, fh, fd, fa, fb, fm⟩ = (do
    let d ← dOp fd
    let a ← sOp fa
    .ok (.matchLanes (Ctl.of g fh) d a (bits fm 17 3))) := by
  unfold parse
  simp only [show (bits (0x282#12) 6 6).toNat = 0x0A from by decide]
  unfold parse0A
  simp only [show (bits (0x282#12) 0 6).toNat = 0x02 from by decide]

theorem parse_redux (g : BitVec 4) (fh : BitVec 20) (fd fa fb : BitVec 10) (fm : BitVec 30) :
    parse ⟨0x283#12, g, fh, fd, fa, fb, fm⟩ = (do
    let d ← dOp fd
    let a ← sOp fa
    .ok (.redux (Ctl.of g fh) d a (bits fm 17 3) (bits fm 0 3))) := by
  unfold parse
  simp only [show (bits (0x283#12) 6 6).toNat = 0x0A from by decide]
  unfold parse0A
  simp only [show (bits (0x283#12) 0 6).toNat = 0x03 from by decide]

theorem parse_wfence (g : BitVec 4) (fh : BitVec 20) (fd fa fb : BitVec 10) (fm : BitVec 30) :
    parse ⟨0x284#12, g, fh, fd, fa, fb, fm⟩ = .ok (.wfence (Ctl.of g fh)) := by
  unfold parse
  simp only [show (bits (0x284#12) 6 6).toNat = 0x0A from by decide]
  unfold parse0A
  simp only [show (bits (0x284#12) 0 6).toNat = 0x04 from by decide]

theorem parse_mjoin (g : BitVec 4) (fh : BitVec 20) (fd fa fb : BitVec 10) (fm : BitVec 30) :
    parse ⟨0x2C0#12, g, fh, fd, fa, fb, fm⟩ = (do
    let d ← dOp fd
    .ok (.mjoin (Ctl.of g fh) d (fb ++ bits fm 20 10))) := by
  unfold parse
  simp only [show (bits (0x2C0#12) 6 6).toNat = 0x0B from by decide]
  unfold parse0B
  simp only [show (bits (0x2C0#12) 0 6).toNat = 0x00 from by decide]

theorem parse_mleave (g : BitVec 4) (fh : BitVec 20) (fd fa fb : BitVec 10) (fm : BitVec 30) :
    parse ⟨0x2C1#12, g, fh, fd, fa, fb, fm⟩ = .ok (.mleave (Ctl.of g fh) (bits fm 0 12)) := by
  unfold parse
  simp only [show (bits (0x2C1#12) 6 6).toNat = 0x0B from by decide]
  unfold parse0B
  simp only [show (bits (0x2C1#12) 0 6).toNat = 0x01 from by decide]

theorem parse_mwait (g : BitVec 4) (fh : BitVec 20) (fd fa fb : BitVec 10) (fm : BitVec 30) :
    parse ⟨0x2C2#12, g, fh, fd, fa, fb, fm⟩ = (do
    let a ← sOp fa
    .ok (.mwait (Ctl.of g fh) a)) := by
  unfold parse
  simp only [show (bits (0x2C2#12) 6 6).toNat = 0x0B from by decide]
  unfold parse0B
  simp only [show (bits (0x2C2#12) 0 6).toNat = 0x02 from by decide]

theorem parse_mmov (g : BitVec 4) (fh : BitVec 20) (fd fa fb : BitVec 10) (fm : BitVec 30) :
    parse ⟨0x2C3#12, g, fh, fd, fa, fb, fm⟩ = (do
    let d ← dOp fd
    let a ← sOp fa
    let mode := bits fm 0 2
    let b ← optS (mode.toNat = 2) fb
    .ok (.mmov (Ctl.of g fh) d a b mode)) := by
  unfold parse
  simp only [show (bits (0x2C3#12) 6 6).toNat = 0x0B from by decide]
  unfold parse0B
  simp only [show (bits (0x2C3#12) 0 6).toNat = 0x03 from by decide]

theorem parse_msync (g : BitVec 4) (fh : BitVec 20) (fd fa fb : BitVec 10) (fm : BitVec 30) :
    parse ⟨0x2C4#12, g, fh, fd, fa, fb, fm⟩ = (do
    let a ← sOp fa
    .ok (.msync (Ctl.of g fh) a)) := by
  unfold parse
  simp only [show (bits (0x2C4#12) 6 6).toNat = 0x0B from by decide]
  unfold parse0B
  simp only [show (bits (0x2C4#12) 0 6).toNat = 0x04 from by decide]

theorem parse_spawn (g : BitVec 4) (fh : BitVec 20) (fd fa fb : BitVec 10) (fm : BitVec 30) :
    parse ⟨0x300#12, g, fh, fd, fa, fb, fm⟩ = (do
    let a ← sOp fa
    let wid := bit fm 19
    let nw := bits fm 13 4
    let b ← optS (nw.toNat ≠ 0) fb
    let wsrc ← optS wid (bits fm 20 10)
    .ok (.spawn (Ctl.of g fh) a b wsrc wid (bits fm 17 2) nw (bits fm 11 2) (bit fm 10))) := by
  unfold parse
  simp only [show (bits (0x300#12) 6 6).toNat = 0x0C from by decide]
  unfold parse0C
  simp only [show (bits (0x300#12) 0 6).toNat = 0x00 from by decide]

theorem parse_cont (g : BitVec 4) (fh : BitVec 20) (fd fa fb : BitVec 10) (fm : BitVec 30) :
    parse ⟨0x301#12, g, fh, fd, fa, fb, fm⟩ = (do
    let a ← sOp fa
    let wid := bit fm 19
    let nw := bits fm 13 4
    let b ← optS (nw.toNat ≠ 0) fb
    let wsrc ← optS wid (bits fm 20 10)
    .ok (.cont (Ctl.of g fh) a b wsrc wid (bits fm 17 2) nw (bits fm 11 2) (bit fm 10))) := by
  unfold parse
  simp only [show (bits (0x301#12) 6 6).toNat = 0x0C from by decide]
  unfold parse0C
  simp only [show (bits (0x301#12) 0 6).toNat = 0x01 from by decide]

theorem parse_split (g : BitVec 4) (fh : BitVec 20) (fd fa fb : BitVec 10) (fm : BitVec 30) :
    parse ⟨0x302#12, g, fh, fd, fa, fb, fm⟩ = (do
    let a ← sOp fa
    .ok (.split (Ctl.of g fh) a (fb ++ bits fm 20 10) (bits fm 9 11))) := by
  unfold parse
  simp only [show (bits (0x302#12) 6 6).toNat = 0x0C from by decide]
  unfold parse0C
  simp only [show (bits (0x302#12) 0 6).toNat = 0x02 from by decide]

theorem parse_rgive (g : BitVec 4) (fh : BitVec 20) (fd fa fb : BitVec 10) (fm : BitVec 30) :
    parse ⟨0x303#12, g, fh, fd, fa, fb, fm⟩ = .ok (.rgive (Ctl.of g fh) (bits fm 0 6)) := by
  unfold parse
  simp only [show (bits (0x303#12) 6 6).toNat = 0x0C from by decide]
  unfold parse0C
  simp only [show (bits (0x303#12) 0 6).toNat = 0x03 from by decide]

theorem parse_rclaim (g : BitVec 4) (fh : BitVec 20) (fd fa fb : BitVec 10) (fm : BitVec 30) :
    parse ⟨0x304#12, g, fh, fd, fa, fb, fm⟩ = .ok (.rclaim (Ctl.of g fh) (bits fm 0 6)) := by
  unfold parse
  simp only [show (bits (0x304#12) 6 6).toNat = 0x0C from by decide]
  unfold parse0C
  simp only [show (bits (0x304#12) 0 6).toNat = 0x04 from by decide]

theorem parse_segq (g : BitVec 4) (fh : BitVec 20) (fd fa fb : BitVec 10) (fm : BitVec 30) :
    parse ⟨0x305#12, g, fh, fd, fa, fb, fm⟩ = (do
    let d ← dOp fd
    let a ← sOp fa
    .ok (.segq (Ctl.of g fh) d a)) := by
  unfold parse
  simp only [show (bits (0x305#12) 6 6).toNat = 0x0C from by decide]
  unfold parse0C
  simp only [show (bits (0x305#12) 0 6).toNat = 0x05 from by decide]

theorem parse_launch (g : BitVec 4) (fh : BitVec 20) (fd fa fb : BitVec 10) (fm : BitVec 30) :
    parse ⟨0x306#12, g, fh, fd, fa, fb, fm⟩ = (do
    let d ← dOp fd
    let a ← sOp fa
    .ok (.launch (Ctl.of g fh) d a (bits fm 14 16) (bits fm 0 4))) := by
  unfold parse
  simp only [show (bits (0x306#12) 6 6).toNat = 0x0C from by decide]
  unfold parse0C
  simp only [show (bits (0x306#12) 0 6).toNat = 0x06 from by decide]

theorem parse_waitk (g : BitVec 4) (fh : BitVec 20) (fd fa fb : BitVec 10) (fm : BitVec 30) :
    parse ⟨0x340#12, g, fh, fd, fa, fb, fm⟩ = (do
    let a ← sOp fa
    .ok (.waitk (Ctl.of g fh) a (bits fm 0 6))) := by
  unfold parse
  simp only [show (bits (0x340#12) 6 6).toNat = 0x0D from by decide]
  unfold parse0D
  simp only [show (bits (0x340#12) 0 6).toNat = 0x00 from by decide]

theorem parse_tkrd (g : BitVec 4) (fh : BitVec 20) (fd fa fb : BitVec 10) (fm : BitVec 30) :
    parse ⟨0x341#12, g, fh, fd, fa, fb, fm⟩ = (do
    let d ← dOp fd
    .ok (.tkrd (Ctl.of g fh) d)) := by
  unfold parse
  simp only [show (bits (0x341#12) 6 6).toNat = 0x0D from by decide]
  unfold parse0D
  simp only [show (bits (0x341#12) 0 6).toNat = 0x01 from by decide]

theorem parse_tksav (g : BitVec 4) (fh : BitVec 20) (fd fa fb : BitVec 10) (fm : BitVec 30) :
    parse ⟨0x342#12, g, fh, fd, fa, fb, fm⟩ = (do
    let a ← sOp fa
    .ok (.tksav (Ctl.of g fh) a (bits fm 14 16))) := by
  unfold parse
  simp only [show (bits (0x342#12) 6 6).toNat = 0x0D from by decide]
  unfold parse0D
  simp only [show (bits (0x342#12) 0 6).toNat = 0x02 from by decide]

theorem parse_tkrst (g : BitVec 4) (fh : BitVec 20) (fd fa fb : BitVec 10) (fm : BitVec 30) :
    parse ⟨0x343#12, g, fh, fd, fa, fb, fm⟩ = .ok (.tkrst (Ctl.of g fh) (bit fm 16) (bits fm 0 16)) := by
  unfold parse
  simp only [show (bits (0x343#12) 6 6).toNat = 0x0D from by decide]
  unfold parse0D
  simp only [show (bits (0x343#12) 0 6).toNat = 0x03 from by decide]

theorem parse_ld (g : BitVec 4) (fh : BitVec 20) (fd fa fb : BitVec 10) (fm : BitVec 30) :
    parse ⟨0x400#12, g, fh, fd, fa, fb, fm⟩ = (do
    let d ← dOp fd
    let a ← sOp fa
    .ok (.ld (Ctl.of g fh) d a (bits fm 14 16) (bits fm 11 3) (bits fm 8 3) (bits fm 5 3) (bits fm 3 2) (bits fm 1 2))) := by
  unfold parse
  simp only [show (bits (0x400#12) 6 6).toNat = 0x10 from by decide]
  unfold parse10
  simp only [show (bits (0x400#12) 0 6).toNat = 0x00 from by decide]

theorem parse_st (g : BitVec 4) (fh : BitVec 20) (fd fa fb : BitVec 10) (fm : BitVec 30) :
    parse ⟨0x401#12, g, fh, fd, fa, fb, fm⟩ = (do
    let a ← sOp fa
    let b ← sOp fb
    .ok (.st (Ctl.of g fh) a b (bits fm 14 16) (bits fm 11 3) (bits fm 8 3) (bits fm 5 3) (bits fm 3 2) (bits fm 1 2))) := by
  unfold parse
  simp only [show (bits (0x401#12) 6 6).toNat = 0x10 from by decide]
  unfold parse10
  simp only [show (bits (0x401#12) 0 6).toNat = 0x01 from by decide]

theorem parse_stn (g : BitVec 4) (fh : BitVec 20) (fd fa fb : BitVec 10) (fm : BitVec 30) :
    parse ⟨0x402#12, g, fh, fd, fa, fb, fm⟩ = (do
    let a ← sOp fa
    let b ← sOp fb
    .ok (.stn (Ctl.of g fh) a b (bits fm 14 16) (bits fm 11 3) (bits fm 8 3) (bits fm 5 3) (bits fm 0 4))) := by
  unfold parse
  simp only [show (bits (0x402#12) 6 6).toNat = 0x10 from by decide]
  unfold parse10
  simp only [show (bits (0x402#12) 0 6).toNat = 0x02 from by decide]

theorem parse_stnReport (g : BitVec 4) (fh : BitVec 20) (fd fa fb : BitVec 10) (fm : BitVec 30) :
    parse ⟨0x403#12, g, fh, fd, fa, fb, fm⟩ = (do
    let d ← dOp fd
    let a ← sOp fa
    let b ← sOp fb
    .ok (.stnReport (Ctl.of g fh) d a b (bits fm 14 16) (bits fm 11 3) (bits fm 8 3) (bits fm 5 3) (bits fm 0 4))) := by
  unfold parse
  simp only [show (bits (0x403#12) 6 6).toNat = 0x10 from by decide]
  unfold parse10
  simp only [show (bits (0x403#12) 0 6).toNat = 0x03 from by decide]

theorem parse_pref (g : BitVec 4) (fh : BitVec 20) (fd fa fb : BitVec 10) (fm : BitVec 30) :
    parse ⟨0x404#12, g, fh, fd, fa, fb, fm⟩ = (do
    let a ← sOp fa
    .ok (.pref (Ctl.of g fh) a (bits fm 14 16) (bits fm 0 2))) := by
  unfold parse
  simp only [show (bits (0x404#12) 6 6).toNat = 0x10 from by decide]
  unfold parse10
  simp only [show (bits (0x404#12) 0 6).toNat = 0x04 from by decide]

theorem parse_ldf (g : BitVec 4) (fh : BitVec 20) (fd fa fb : BitVec 10) (fm : BitVec 30) :
    parse ⟨0x405#12, g, fh, fd, fa, fb, fm⟩ = (do
    let d ← dOp fd
    let a ← sOp fa
    .ok (.ldf (Ctl.of g fh) d a (bits fm 14 16) (bits fm 5 3) (bits fm 3 2))) := by
  unfold parse
  simp only [show (bits (0x405#12) 6 6).toNat = 0x10 from by decide]
  unfold parse10
  simp only [show (bits (0x405#12) 0 6).toNat = 0x05 from by decide]

theorem parse_dcwb (g : BitVec 4) (fh : BitVec 20) (fd fa fb : BitVec 10) (fm : BitVec 30) :
    parse ⟨0x406#12, g, fh, fd, fa, fb, fm⟩ = (do
    let a ← sOp fa
    .ok (.dcwb (Ctl.of g fh) a (bits fm 14 16) (bits fm 11 3))) := by
  unfold parse
  simp only [show (bits (0x406#12) 6 6).toNat = 0x10 from by decide]
  unfold parse10
  simp only [show (bits (0x406#12) 0 6).toNat = 0x06 from by decide]

theorem parse_dcinv (g : BitVec 4) (fh : BitVec 20) (fd fa fb : BitVec 10) (fm : BitVec 30) :
    parse ⟨0x407#12, g, fh, fd, fa, fb, fm⟩ = (do
    let a ← sOp fa
    .ok (.dcinv (Ctl.of g fh) a (bits fm 14 16) (bits fm 11 3))) := by
  unfold parse
  simp only [show (bits (0x407#12) 6 6).toNat = 0x10 from by decide]
  unfold parse10
  simp only [show (bits (0x407#12) 0 6).toNat = 0x07 from by decide]

theorem parse_dcfl (g : BitVec 4) (fh : BitVec 20) (fd fa fb : BitVec 10) (fm : BitVec 30) :
    parse ⟨0x408#12, g, fh, fd, fa, fb, fm⟩ = (do
    let a ← sOp fa
    .ok (.dcfl (Ctl.of g fh) a (bits fm 14 16) (bits fm 11 3))) := by
  unfold parse
  simp only [show (bits (0x408#12) 6 6).toNat = 0x10 from by decide]
  unfold parse10
  simp only [show (bits (0x408#12) 0 6).toNat = 0x08 from by decide]

theorem parse_icinv (g : BitVec 4) (fh : BitVec 20) (fd fa fb : BitVec 10) (fm : BitVec 30) :
    parse ⟨0x409#12, g, fh, fd, fa, fb, fm⟩ = (do
    let a ← sOp fa
    .ok (.icinv (Ctl.of g fh) a (bits fm 14 16) (bits fm 11 3))) := by
  unfold parse
  simp only [show (bits (0x409#12) 6 6).toNat = 0x10 from by decide]
  unfold parse10
  simp only [show (bits (0x409#12) 0 6).toNat = 0x09 from by decide]

theorem parse_ifence (g : BitVec 4) (fh : BitVec 20) (fd fa fb : BitVec 10) (fm : BitVec 30) :
    parse ⟨0x40A#12, g, fh, fd, fa, fb, fm⟩ = .ok (.ifence (Ctl.of g fh)) := by
  unfold parse
  simp only [show (bits (0x40A#12) 6 6).toNat = 0x10 from by decide]
  unfold parse10
  simp only [show (bits (0x40A#12) 0 6).toNat = 0x0A from by decide]

theorem parse_fence (g : BitVec 4) (fh : BitVec 20) (fd fa fb : BitVec 10) (fm : BitVec 30) :
    parse ⟨0x40B#12, g, fh, fd, fa, fb, fm⟩ = .ok (.fence (Ctl.of g fh) (bits fm 27 3) (bits fm 24 3)) := by
  unfold parse
  simp only [show (bits (0x40B#12) 6 6).toNat = 0x10 from by decide]
  unfold parse10
  simp only [show (bits (0x40B#12) 0 6).toNat = 0x0B from by decide]

theorem parse_rsmk (g : BitVec 4) (fh : BitVec 20) (fd fa fb : BitVec 10) (fm : BitVec 30) :
    parse ⟨0x440#12, g, fh, fd, fa, fb, fm⟩ = (do
    let d ← dOp fd
    let a ← sOp fa
    let b ← sOp fb
    .ok (.rsmk (Ctl.of g fh) d a b (bits fm 3 2) (bits fm 0 3))) := by
  unfold parse
  simp only [show (bits (0x440#12) 6 6).toNat = 0x11 from by decide]
  unfold parse11
  simp only [show (bits (0x440#12) 0 6).toNat = 0x00 from by decide]

theorem parse_rsrev (g : BitVec 4) (fh : BitVec 20) (fd fa fb : BitVec 10) (fm : BitVec 30) :
    parse ⟨0x441#12, g, fh, fd, fa, fb, fm⟩ = (do
    let a ← sOp fa
    let b ← sOp fb
    .ok (.rsrev (Ctl.of g fh) a b (bits fm 14 16) (bits fm 0 2))) := by
  unfold parse
  simp only [show (bits (0x441#12) 6 6).toNat = 0x11 from by decide]
  unfold parse11
  simp only [show (bits (0x441#12) 0 6).toNat = 0x01 from by decide]

theorem parse_rsqry (g : BitVec 4) (fh : BitVec 20) (fd fa fb : BitVec 10) (fm : BitVec 30) :
    parse ⟨0x442#12, g, fh, fd, fa, fb, fm⟩ = (do
    let d ← dOp fd
    let a ← sOp fa
    .ok (.rsqry (Ctl.of g fh) d a (bits fm 14 16))) := by
  unfold parse
  simp only [show (bits (0x442#12) 6 6).toNat = 0x11 from by decide]
  unfold parse11
  simp only [show (bits (0x442#12) 0 6).toNat = 0x02 from by decide]

theorem parse_atom (g : BitVec 4) (fh : BitVec 20) (fd fa fb : BitVec 10) (fm : BitVec 30) :
    parse ⟨0x480#12, g, fh, fd, fa, fb, fm⟩ = (do
    let d ← dOp fd
    let a ← sOp fa
    let b ← sOp fb
    .ok (.atom (Ctl.of g fh) d a b (bits fm 14 16) (bits fm 11 3) (bits fm 8 3) (bits fm 5 3) (bits fm 1 4))) := by
  unfold parse
  simp only [show (bits (0x480#12) 6 6).toNat = 0x12 from by decide]
  unfold parse12
  simp only [show (bits (0x480#12) 0 6).toNat = 0x00 from by decide]

theorem parse_acas (g : BitVec 4) (fh : BitVec 20) (fd fa fb : BitVec 10) (fm : BitVec 30) :
    parse ⟨0x481#12, g, fh, fd, fa, fb, fm⟩ = (do
    let d ← dOp fd
    let a ← sOp fa
    let b ← sOp fb
    .ok (.acas (Ctl.of g fh) d a b (bits fm 14 16) (bits fm 11 3) (bits fm 8 3) (bits fm 5 3))) := by
  unfold parse
  simp only [show (bits (0x481#12) 6 6).toNat = 0x12 from by decide]
  unfold parse12
  simp only [show (bits (0x481#12) 0 6).toNat = 0x01 from by decide]

theorem parse_red (g : BitVec 4) (fh : BitVec 20) (fd fa fb : BitVec 10) (fm : BitVec 30) :
    parse ⟨0x482#12, g, fh, fd, fa, fb, fm⟩ = (do
    let a ← sOp fa
    let b ← sOp fb
    .ok (.red (Ctl.of g fh) a b (bits fm 14 16) (bits fm 11 3) (bits fm 8 3) (bits fm 5 3) (bits fm 1 4))) := by
  unfold parse
  simp only [show (bits (0x482#12) 6 6).toNat = 0x12 from by decide]
  unfold parse12
  simp only [show (bits (0x482#12) 0 6).toNat = 0x02 from by decide]

theorem parse_enq (g : BitVec 4) (fh : BitVec 20) (fd fa fb : BitVec 10) (fm : BitVec 30) :
    parse ⟨0x4C0#12, g, fh, fd, fa, fb, fm⟩ = (do
    let d ← dOp fd
    let a ← sOp fa
    let b ← sOp fb
    .ok (.enq (Ctl.of g fh) d a b (bits fm 14 16) (bits fm 11 3) (bits fm 8 3) (bits fm 1 2) (bit fm 0))) := by
  unfold parse
  simp only [show (bits (0x4C0#12) 6 6).toNat = 0x13 from by decide]
  unfold parse13
  simp only [show (bits (0x4C0#12) 0 6).toNat = 0x00 from by decide]

theorem parse_deq (g : BitVec 4) (fh : BitVec 20) (fd fa fb : BitVec 10) (fm : BitVec 30) :
    parse ⟨0x4C1#12, g, fh, fd, fa, fb, fm⟩ = (do
    let d ← dOp fd
    let a ← sOp fa
    .ok (.deq (Ctl.of g fh) d a (bits fm 14 16) (bits fm 11 3) (bits fm 8 3) (bits fm 1 2) (bit fm 0))) := by
  unfold parse
  simp only [show (bits (0x4C1#12) 6 6).toNat = 0x13 from by decide]
  unfold parse13
  simp only [show (bits (0x4C1#12) 0 6).toNat = 0x01 from by decide]

theorem parse_qinit (g : BitVec 4) (fh : BitVec 20) (fd fa fb : BitVec 10) (fm : BitVec 30) :
    parse ⟨0x4C2#12, g, fh, fd, fa, fb, fm⟩ = (do
    let a ← sOp fa
    let b ← sOp fb
    .ok (.qinit (Ctl.of g fh) a b (bits fm 14 16) (bits fm 0 2))) := by
  unfold parse
  simp only [show (bits (0x4C2#12) 6 6).toNat = 0x13 from by decide]
  unfold parse13
  simp only [show (bits (0x4C2#12) 0 6).toNat = 0x02 from by decide]

theorem parse_qstat (g : BitVec 4) (fh : BitVec 20) (fd fa fb : BitVec 10) (fm : BitVec 30) :
    parse ⟨0x4C3#12, g, fh, fd, fa, fb, fm⟩ = (do
    let d ← dOp fd
    let a ← sOp fa
    .ok (.qstat (Ctl.of g fh) d a (bits fm 14 16))) := by
  unfold parse
  simp only [show (bits (0x4C3#12) 6 6).toNat = 0x13 from by decide]
  unfold parse13
  simp only [show (bits (0x4C3#12) 0 6).toNat = 0x03 from by decide]

theorem parse_gjoin (g : BitVec 4) (fh : BitVec 20) (fd fa fb : BitVec 10) (fm : BitVec 30) :
    parse ⟨0x500#12, g, fh, fd, fa, fb, fm⟩ = .ok (.gjoin (Ctl.of g fh)) := by
  unfold parse
  simp only [show (bits (0x500#12) 6 6).toNat = 0x14 from by decide]
  unfold parse14
  simp only [show (bits (0x500#12) 0 6).toNat = 0x00 from by decide]

theorem parse_gleave (g : BitVec 4) (fh : BitVec 20) (fd fa fb : BitVec 10) (fm : BitVec 30) :
    parse ⟨0x501#12, g, fh, fd, fa, fb, fm⟩ = .ok (.gleave (Ctl.of g fh)) := by
  unfold parse
  simp only [show (bits (0x501#12) 6 6).toNat = 0x14 from by decide]
  unfold parse14
  simp only [show (bits (0x501#12) 0 6).toNat = 0x01 from by decide]

theorem parse_gmap (g : BitVec 4) (fh : BitVec 20) (fd fa fb : BitVec 10) (fm : BitVec 30) :
    parse ⟨0x502#12, g, fh, fd, fa, fb, fm⟩ = (do
    let a ← sOp fa
    .ok (.gmap (Ctl.of g fh) a (bits fm 0 6))) := by
  unfold parse
  simp only [show (bits (0x502#12) 6 6).toNat = 0x14 from by decide]
  unfold parse14
  simp only [show (bits (0x502#12) 0 6).toNat = 0x02 from by decide]

theorem parse_cpy (g : BitVec 4) (fh : BitVec 20) (fd fa fb : BitVec 10) (fm : BitVec 30) :
    parse ⟨0x600#12, g, fh, fd, fa, fb, fm⟩ = (do
    let a ← sOp fa
    .ok (.cpy (Ctl.of g fh) a (bits fm 14 16))) := by
  unfold parse
  simp only [show (bits (0x600#12) 6 6).toNat = 0x18 from by decide]
  unfold parse18
  simp only [show (bits (0x600#12) 0 6).toNat = 0x00 from by decide]

theorem parse_gath (g : BitVec 4) (fh : BitVec 20) (fd fa fb : BitVec 10) (fm : BitVec 30) :
    parse ⟨0x601#12, g, fh, fd, fa, fb, fm⟩ = (do
    let a ← sOp fa
    .ok (.gath (Ctl.of g fh) a (bits fm 14 16))) := by
  unfold parse
  simp only [show (bits (0x601#12) 6 6).toNat = 0x18 from by decide]
  unfold parse18
  simp only [show (bits (0x601#12) 0 6).toNat = 0x01 from by decide]

theorem parse_scat (g : BitVec 4) (fh : BitVec 20) (fd fa fb : BitVec 10) (fm : BitVec 30) :
    parse ⟨0x602#12, g, fh, fd, fa, fb, fm⟩ = (do
    let a ← sOp fa
    .ok (.scat (Ctl.of g fh) a (bits fm 14 16))) := by
  unfold parse
  simp only [show (bits (0x602#12) 6 6).toNat = 0x18 from by decide]
  unfold parse18
  simp only [show (bits (0x602#12) 0 6).toNat = 0x02 from by decide]

theorem parse_mcast (g : BitVec 4) (fh : BitVec 20) (fd fa fb : BitVec 10) (fm : BitVec 30) :
    parse ⟨0x603#12, g, fh, fd, fa, fb, fm⟩ = (do
    let a ← sOp fa
    .ok (.mcast (Ctl.of g fh) a (bits fm 14 16))) := by
  unfold parse
  simp only [show (bits (0x603#12) 6 6).toNat = 0x18 from by decide]
  unfold parse18
  simp only [show (bits (0x603#12) 0 6).toNat = 0x03 from by decide]

theorem parse_cpyq (g : BitVec 4) (fh : BitVec 20) (fd fa fb : BitVec 10) (fm : BitVec 30) :
    parse ⟨0x604#12, g, fh, fd, fa, fb, fm⟩ = (do
    let d ← dOp fd
    let a ← sOp fa
    .ok (.cpyq (Ctl.of g fh) d a (bits fm 14 16))) := by
  unfold parse
  simp only [show (bits (0x604#12) 6 6).toNat = 0x18 from by decide]
  unfold parse18
  simp only [show (bits (0x604#12) 0 6).toNat = 0x04 from by decide]

theorem parse_binit (g : BitVec 4) (fh : BitVec 20) (fd fa fb : BitVec 10) (fm : BitVec 30) :
    parse ⟨0x640#12, g, fh, fd, fa, fb, fm⟩ = (do
    let a ← sOp fa
    let b ← sOp fb
    .ok (.binit (Ctl.of g fh) a b (bits fm 14 16))) := by
  unfold parse
  simp only [show (bits (0x640#12) 6 6).toNat = 0x19 from by decide]
  unfold parse19
  simp only [show (bits (0x640#12) 0 6).toNat = 0x00 from by decide]

theorem parse_barr (g : BitVec 4) (fh : BitVec 20) (fd fa fb : BitVec 10) (fm : BitVec 30) :
    parse ⟨0x641#12, g, fh, fd, fa, fb, fm⟩ = (do
    let a ← sOp fa
    let b ← sOp fb
    .ok (.barr (Ctl.of g fh) a b (bits fm 14 16))) := by
  unfold parse
  simp only [show (bits (0x641#12) 6 6).toNat = 0x19 from by decide]
  unfold parse19
  simp only [show (bits (0x641#12) 0 6).toNat = 0x01 from by decide]

theorem parse_bwait (g : BitVec 4) (fh : BitVec 20) (fd fa fb : BitVec 10) (fm : BitVec 30) :
    parse ⟨0x642#12, g, fh, fd, fa, fb, fm⟩ = (do
    let d ← dOp fd
    let a ← sOp fa
    let b ← sOp fb
    .ok (.bwait (Ctl.of g fh) d a b (bits fm 14 16))) := by
  unfold parse
  simp only [show (bits (0x642#12) 6 6).toNat = 0x19 from by decide]
  unfold parse19
  simp only [show (bits (0x642#12) 0 6).toNat = 0x02 from by decide]

theorem parse_btst (g : BitVec 4) (fh : BitVec 20) (fd fa fb : BitVec 10) (fm : BitVec 30) :
    parse ⟨0x643#12, g, fh, fd, fa, fb, fm⟩ = (do
    let d ← dOp fd
    let a ← sOp fa
    .ok (.btst (Ctl.of g fh) d a (bits fm 14 16))) := by
  unfold parse
  simp only [show (bits (0x643#12) 6 6).toNat = 0x19 from by decide]
  unfold parse19
  simp only [show (bits (0x643#12) 0 6).toNat = 0x03 from by decide]

theorem parse_tdecl (g : BitVec 4) (fh : BitVec 20) (fd fa fb : BitVec 10) (fm : BitVec 30) :
    parse ⟨0x644#12, g, fh, fd, fa, fb, fm⟩ = (do
    let a ← sOp fa
    let b ← sOp fb
    .ok (.tdecl (Ctl.of g fh) a b (bit fm 6) (bits fm 0 6))) := by
  unfold parse
  simp only [show (bits (0x644#12) 6 6).toNat = 0x19 from by decide]
  unfold parse19
  simp only [show (bits (0x644#12) 0 6).toNat = 0x04 from by decide]

theorem parse_tstat (g : BitVec 4) (fh : BitVec 20) (fd fa fb : BitVec 10) (fm : BitVec 30) :
    parse ⟨0x645#12, g, fh, fd, fa, fb, fm⟩ = (do
    let d ← dOp fd
    .ok (.tstat (Ctl.of g fh) d (bits fm 0 6))) := by
  unfold parse
  simp only [show (bits (0x645#12) 6 6).toNat = 0x19 from by decide]
  unfold parse19
  simp only [show (bits (0x645#12) 0 6).toNat = 0x05 from by decide]

theorem parse_trel (g : BitVec 4) (fh : BitVec 20) (fd fa fb : BitVec 10) (fm : BitVec 30) :
    parse ⟨0x646#12, g, fh, fd, fa, fb, fm⟩ = .ok (.trel (Ctl.of g fh) (bits fm 0 6)) := by
  unfold parse
  simp only [show (bits (0x646#12) 6 6).toNat = 0x19 from by decide]
  unfold parse19
  simp only [show (bits (0x646#12) 0 6).toNat = 0x06 from by decide]

theorem parse_mma (g : BitVec 4) (fh : BitVec 20) (fd fa fb : BitVec 10) (fm : BitVec 30) :
    parse ⟨0x680#12, g, fh, fd, fa, fb, fm⟩ = (do
    let d ← dOp fd
    let a ← sOp fa
    let b ← sOp fb
    let c ← sOp (bits fm 20 10)
    .ok (.mma (Ctl.of g fh) d a b c (bits fm 17 3) (bit fm 16) (bits fm 6 10) (bit fm 5))) := by
  unfold parse
  simp only [show (bits (0x680#12) 6 6).toNat = 0x1A from by decide]
  unfold parse1A
  simp only [show (bits (0x680#12) 0 6).toNat = 0x00 from by decide]

theorem parse_mmap (g : BitVec 4) (fh : BitVec 20) (fd fa fb : BitVec 10) (fm : BitVec 30) :
    parse ⟨0x681#12, g, fh, fd, fa, fb, fm⟩ = (do
    let d ← dOp fd
    let a ← sOp fa
    let b ← sOp fb
    let c ← sOp (bits fm 20 10)
    .ok (.mmap (Ctl.of g fh) d a b c (bits fm 17 3) (bit fm 16) (bits fm 6 10) (bit fm 5))) := by
  unfold parse
  simp only [show (bits (0x681#12) 6 6).toNat = 0x1A from by decide]
  unfold parse1A
  simp only [show (bits (0x681#12) 0 6).toNat = 0x01 from by decide]

theorem parse_accsc (g : BitVec 4) (fh : BitVec 20) (fd fa fb : BitVec 10) (fm : BitVec 30) :
    parse ⟨0x682#12, g, fh, fd, fa, fb, fm⟩ = (do
    let d ← dOp fd
    let a ← sOp fa
    let b ← sOp fb
    let c ← sOp (bits fm 20 10)
    .ok (.accsc (Ctl.of g fh) d a b c)) := by
  unfold parse
  simp only [show (bits (0x682#12) 6 6).toNat = 0x1A from by decide]
  unfold parse1A
  simp only [show (bits (0x682#12) 0 6).toNat = 0x02 from by decide]

theorem parse_accz (g : BitVec 4) (fh : BitVec 20) (fd fa fb : BitVec 10) (fm : BitVec 30) :
    parse ⟨0x683#12, g, fh, fd, fa, fb, fm⟩ = (do
    let d ← dOp fd
    .ok (.accz (Ctl.of g fh) d)) := by
  unfold parse
  simp only [show (bits (0x683#12) 6 6).toNat = 0x1A from by decide]
  unfold parse1A
  simp only [show (bits (0x683#12) 0 6).toNat = 0x03 from by decide]

theorem parse_accrd (g : BitVec 4) (fh : BitVec 20) (fd fa fb : BitVec 10) (fm : BitVec 30) :
    parse ⟨0x684#12, g, fh, fd, fa, fb, fm⟩ = (do
    let d ← dOp fd
    let a ← sOp fa
    let b ← sOp fb
    .ok (.accrd (Ctl.of g fh) d a b)) := by
  unfold parse
  simp only [show (bits (0x684#12) 6 6).toNat = 0x1A from by decide]
  unfold parse1A
  simp only [show (bits (0x684#12) 0 6).toNat = 0x04 from by decide]

theorem parse_accwr (g : BitVec 4) (fh : BitVec 20) (fd fa fb : BitVec 10) (fm : BitVec 30) :
    parse ⟨0x685#12, g, fh, fd, fa, fb, fm⟩ = (do
    let d ← dOp fd
    let a ← sOp fa
    let b ← sOp fb
    .ok (.accwr (Ctl.of g fh) d a b)) := by
  unfold parse
  simp only [show (bits (0x685#12) 6 6).toNat = 0x1A from by decide]
  unfold parse1A
  simp only [show (bits (0x685#12) 0 6).toNat = 0x05 from by decide]

theorem parse_accld (g : BitVec 4) (fh : BitVec 20) (fd fa fb : BitVec 10) (fm : BitVec 30) :
    parse ⟨0x686#12, g, fh, fd, fa, fb, fm⟩ = (do
    let d ← dOp fd
    let a ← sOp fa
    .ok (.accld (Ctl.of g fh) d a (bits fm 0 16))) := by
  unfold parse
  simp only [show (bits (0x686#12) 6 6).toNat = 0x1A from by decide]
  unfold parse1A
  simp only [show (bits (0x686#12) 0 6).toNat = 0x06 from by decide]

theorem parse_accst (g : BitVec 4) (fh : BitVec 20) (fd fa fb : BitVec 10) (fm : BitVec 30) :
    parse ⟨0x687#12, g, fh, fd, fa, fb, fm⟩ = (do
    let a ← sOp fa
    let b ← sOp fb
    .ok (.accst (Ctl.of g fh) a b (bits fm 0 16))) := by
  unfold parse
  simp only [show (bits (0x687#12) 6 6).toNat = 0x1A from by decide]
  unfold parse1A
  simp only [show (bits (0x687#12) 0 6).toNat = 0x07 from by decide]

theorem parse_coll (g : BitVec 4) (fh : BitVec 20) (fd fa fb : BitVec 10) (fm : BitVec 30) :
    parse ⟨0x700#12, g, fh, fd, fa, fb, fm⟩ = (do
    let d ← dOp fd
    let a ← sOp fa
    let b ← sOp fb
    .ok (.coll (Ctl.of g fh) d a b (bits fm 14 16))) := by
  unfold parse
  simp only [show (bits (0x700#12) 6 6).toNat = 0x1C from by decide]
  unfold parse1C
  simp only [show (bits (0x700#12) 0 6).toNat = 0x00 from by decide]

theorem parse_viewq (g : BitVec 4) (fh : BitVec 20) (fd fa fb : BitVec 10) (fm : BitVec 30) :
    parse ⟨0x701#12, g, fh, fd, fa, fb, fm⟩ = (do
    let d ← dOp fd
    let b ← sOp fb
    .ok (.viewq (Ctl.of g fh) d b (bit fm 0))) := by
  unfold parse
  simp only [show (bits (0x701#12) 6 6).toNat = 0x1C from by decide]
  unfold parse1C
  simp only [show (bits (0x701#12) 0 6).toNat = 0x01 from by decide]

theorem parse_amsend (g : BitVec 4) (fh : BitVec 20) (fd fa fb : BitVec 10) (fm : BitVec 30) :
    parse ⟨0x702#12, g, fh, fd, fa, fb, fm⟩ = (do
    let a ← sOp fa
    let c ← sOp (bits fm 20 10)
    let nw := bits fm 13 4
    let b ← optS (nw.toNat ≠ 0) fb
    .ok (.amsend (Ctl.of g fh) a b c nw)) := by
  unfold parse
  simp only [show (bits (0x702#12) 6 6).toNat = 0x1C from by decide]
  unfold parse1C
  simp only [show (bits (0x702#12) 0 6).toNat = 0x02 from by decide]

theorem parse_arrq (g : BitVec 4) (fh : BitVec 20) (fd fa fb : BitVec 10) (fm : BitVec 30) :
    parse ⟨0x703#12, g, fh, fd, fa, fb, fm⟩ = (do
    let d ← dOp fd
    .ok (.arrq (Ctl.of g fh) d (bit fm 0))) := by
  unfold parse
  simp only [show (bits (0x703#12) 6 6).toNat = 0x1C from by decide]
  unfold parse1C
  simp only [show (bits (0x703#12) 0 6).toNat = 0x03 from by decide]

theorem parse_mfs (g : BitVec 4) (fh : BitVec 20) (fd fa fb : BitVec 10) (fm : BitVec 30) :
    parse ⟨0x780#12, g, fh, fd, fa, fb, fm⟩ = (do
    let d ← dOp fd
    let a ← sOp fa
    .ok (.mfs (Ctl.of g fh) d a)) := by
  unfold parse
  simp only [show (bits (0x780#12) 6 6).toNat = 0x1E from by decide]
  unfold parse1E
  simp only [show (bits (0x780#12) 0 6).toNat = 0x00 from by decide]

theorem parse_mts (g : BitVec 4) (fh : BitVec 20) (fd fa fb : BitVec 10) (fm : BitVec 30) :
    parse ⟨0x781#12, g, fh, fd, fa, fb, fm⟩ = (do
    let d ← dOp fd
    let a ← sOp fa
    .ok (.mts (Ctl.of g fh) d a)) := by
  unfold parse
  simp only [show (bits (0x781#12) 6 6).toNat = 0x1E from by decide]
  unfold parse1E
  simp only [show (bits (0x781#12) 0 6).toNat = 0x01 from by decide]

end Sys2Proof
end

