-- ==== Sys2Proof/Laws/Runs.lean ====
section
/-! SUPPORT. Every meaning is a `run`: it changes memory by writing bytes, and by nothing else. -/

namespace Sys2Proof.Machine

/-- A `run` writes some bytes. -/
theorem run_mem {s t : State} {f : St → Except Fault St} (h : run s f = .next t) : ∃ l, t.mem = s.mem.writeAll l := by
  unfold run at h
  split at h
  · next u _ =>
    injection h with h
    exact ⟨u.log, by rw [← h]; rfl⟩
  · exact absurd h (by simp)

/-- A meaning is a `run`. -/
def Runs (ins : Instr) (s : State) : Prop := ∃ f, exec ins s = run s f

theorem runs_bra (h : Ctl) (disp : BitVec 30) (live : BitVec 11) (s : State) : Runs (.bra h disp live) s := by
  rw [Runs, exec_bra]
  unfold execBra transfer
  exact ⟨_, rfl⟩
theorem runs_call (h : Ctl) (disp : BitVec 30) (live : BitVec 11) (s : State) : Runs (.call h disp live) s := by
  rw [Runs, exec_call]
  unfold execCall transfer
  exact ⟨_, rfl⟩
theorem runs_brl (h : Ctl) (disp : BitVec 60) (s : State) : Runs (.brl h disp) s := by
  rw [Runs, exec_brl]
  unfold execBrl transfer
  exact ⟨_, rfl⟩
theorem runs_calll (h : Ctl) (disp : BitVec 60) (s : State) : Runs (.calll h disp) s := by
  rw [Runs, exec_calll]
  unfold execCalll transfer
  exact ⟨_, rfl⟩
theorem runs_brx (h : Ctl) (a : Src) (live : BitVec 11) (s : State) : Runs (.brx h a live) s := by
  rw [Runs, exec_brx]
  unfold execBrx transfer
  exact ⟨_, rfl⟩
theorem runs_callx (h : Ctl) (a : Src) (live : BitVec 11) (s : State) : Runs (.callx h a live) s := by
  rw [Runs, exec_callx]
  unfold execCallx transfer
  exact ⟨_, rfl⟩
theorem runs_ret (h : Ctl) (live : BitVec 11) (s : State) : Runs (.ret h live) s := by
  rw [Runs, exec_ret]
  unfold execRet transfer
  exact ⟨_, rfl⟩
theorem runs_exit (h : Ctl) (s : State) : Runs (.exit h) s := by
  rw [Runs, exec_exit]
  unfold execExit
  exact ⟨_, rfl⟩
theorem runs_loop (h : Ctl) (a : Src) (len : BitVec 20) (s : State) : Runs (.loop h a len) s := by
  rw [Runs, exec_loop]
  unfold execLoop
  exact ⟨_, rfl⟩
theorem runs_lbrk (h : Ctl) (n : BitVec 3) (s : State) : Runs (.lbrk h n) s := by
  rw [Runs, exec_lbrk]
  unfold execLbrk
  exact ⟨_, rfl⟩
theorem runs_dly (h : Ctl) (n : BitVec 6) (s : State) : Runs (.dly h n) s := by
  rw [Runs, exec_dly]
  unfold execDly
  exact ⟨_, rfl⟩
theorem runs_nop (h : Ctl) (s : State) : Runs (.nop h) s := by
  rw [Runs, exec_nop]
  unfold execNop
  exact ⟨_, rfl⟩
theorem runs_yield (h : Ctl) (s : State) : Runs (.yield h) s := by
  rw [Runs, exec_yield]
  unfold execYield
  exact ⟨_, rfl⟩
theorem runs_ipref (h : Ctl) (a : Src) (ofs : BitVec 16) (nb : BitVec 8) (lvl : BitVec 2) (s : State) : Runs (.ipref h a ofs nb lvl) s := by
  rw [Runs, exec_ipref]
  unfold execIpref
  exact ⟨_, rfl⟩
theorem runs_trap (h : Ctl) (code : BitVec 16) (s : State) : Runs (.trap h code) s := by
  rw [Runs, exec_trap]
  unfold execTrap
  exact ⟨_, rfl⟩
theorem runs_eret (h : Ctl) (s : State) : Runs (.eret h) s := by
  rw [Runs, exec_eret]
  unfold execEret
  exact ⟨_, rfl⟩
theorem runs_bkpt (h : Ctl) (code : BitVec 16) (s : State) : Runs (.bkpt h code) s := by
  rw [Runs, exec_bkpt]
  unfold execBkpt
  exact ⟨_, rfl⟩
theorem runs_sysc (h : Ctl) (code : BitVec 16) (s : State) : Runs (.sysc h code) s := by
  rw [Runs, exec_sysc]
  unfold execSysc
  exact ⟨_, rfl⟩
theorem runs_iadd (h : Ctl) (d : Opnd) (a b : Src) (ty : BitVec 3) (sat : Bool) (s : State) : Runs (.iadd h d a b ty sat) s := by
  rw [Runs, exec_iadd]
  unfold execIadd intBin alu
  exact ⟨_, rfl⟩
theorem runs_isub (h : Ctl) (d : Opnd) (a b : Src) (ty : BitVec 3) (sat : Bool) (s : State) : Runs (.isub h d a b ty sat) s := by
  rw [Runs, exec_isub]
  unfold execIsub intBin alu
  exact ⟨_, rfl⟩
theorem runs_imul (h : Ctl) (d : Opnd) (a b : Src) (ty : BitVec 3) (s : State) : Runs (.imul h d a b ty) s := by
  rw [Runs, exec_imul]
  unfold execImul intBin alu
  exact ⟨_, rfl⟩
theorem runs_imulh (h : Ctl) (d : Opnd) (a b : Src) (ty : BitVec 3) (s : State) : Runs (.imulh h d a b ty) s := by
  rw [Runs, exec_imulh]
  unfold execImulh intBin alu
  exact ⟨_, rfl⟩
theorem runs_imad (h : Ctl) (d : Opnd) (a b c : Src) (ty : BitVec 3) (s : State) : Runs (.imad h d a b c ty) s := by
  rw [Runs, exec_imad]
  unfold execImad alu
  exact ⟨_, rfl⟩
theorem runs_imadw (h : Ctl) (d : Opnd) (a b c : Src) (ty : BitVec 3) (s : State) : Runs (.imadw h d a b c ty) s := by
  rw [Runs, exec_imadw]
  unfold execImadw alu
  exact ⟨_, rfl⟩
theorem runs_imin (h : Ctl) (d : Opnd) (a b : Src) (ty : BitVec 3) (s : State) : Runs (.imin h d a b ty) s := by
  rw [Runs, exec_imin]
  unfold execImin intBin alu
  exact ⟨_, rfl⟩
theorem runs_imax (h : Ctl) (d : Opnd) (a b : Src) (ty : BitVec 3) (s : State) : Runs (.imax h d a b ty) s := by
  rw [Runs, exec_imax]
  unfold execImax intBin alu
  exact ⟨_, rfl⟩
theorem runs_iabs (h : Ctl) (d : Opnd) (a : Src) (ty : BitVec 3) (sat : Bool) (s : State) : Runs (.iabs h d a ty sat) s := by
  rw [Runs, exec_iabs]
  unfold execIabs intUn alu
  exact ⟨_, rfl⟩
theorem runs_and (h : Ctl) (d : Opnd) (a b : Src) (ty : BitVec 3) (s : State) : Runs (.and h d a b ty) s := by
  rw [Runs, exec_and]
  unfold execAnd intBin alu
  exact ⟨_, rfl⟩
theorem runs_or (h : Ctl) (d : Opnd) (a b : Src) (ty : BitVec 3) (s : State) : Runs (.or h d a b ty) s := by
  rw [Runs, exec_or]
  unfold execOr intBin alu
  exact ⟨_, rfl⟩
theorem runs_xor (h : Ctl) (d : Opnd) (a b : Src) (ty : BitVec 3) (s : State) : Runs (.xor h d a b ty) s := by
  rw [Runs, exec_xor]
  unfold execXor intBin alu
  exact ⟨_, rfl⟩
theorem runs_andn (h : Ctl) (d : Opnd) (a b : Src) (ty : BitVec 3) (s : State) : Runs (.andn h d a b ty) s := by
  rw [Runs, exec_andn]
  unfold execAndn intBin alu
  exact ⟨_, rfl⟩
theorem runs_orn (h : Ctl) (d : Opnd) (a b : Src) (ty : BitVec 3) (s : State) : Runs (.orn h d a b ty) s := by
  rw [Runs, exec_orn]
  unfold execOrn intBin alu
  exact ⟨_, rfl⟩
theorem runs_shl (h : Ctl) (d : Opnd) (a b : Src) (ty : BitVec 3) (s : State) : Runs (.shl h d a b ty) s := by
  rw [Runs, exec_shl]
  unfold execShl shiftBin alu
  exact ⟨_, rfl⟩
theorem runs_shr (h : Ctl) (d : Opnd) (a b : Src) (ty : BitVec 3) (s : State) : Runs (.shr h d a b ty) s := by
  rw [Runs, exec_shr]
  unfold execShr shiftBin alu
  exact ⟨_, rfl⟩
theorem runs_sar (h : Ctl) (d : Opnd) (a b : Src) (ty : BitVec 3) (s : State) : Runs (.sar h d a b ty) s := by
  rw [Runs, exec_sar]
  unfold execSar shiftBin alu
  exact ⟨_, rfl⟩
theorem runs_rot (h : Ctl) (d : Opnd) (a b : Src) (ty : BitVec 3) (s : State) : Runs (.rot h d a b ty) s := by
  rw [Runs, exec_rot]
  unfold execRot shiftBin alu
  exact ⟨_, rfl⟩
theorem runs_fsh (h : Ctl) (d : Opnd) (a b c : Src) (ty : BitVec 3) (dir : Bool) (s : State) : Runs (.fsh h d a b c ty dir) s := by
  rw [Runs, exec_fsh]
  unfold execFsh alu
  exact ⟨_, rfl⟩
theorem runs_bfx (h : Ctl) (d : Opnd) (a : Src) (ty : BitVec 3) (pos : BitVec 6) (len : BitVec 7) (s : State) : Runs (.bfx h d a ty pos len) s := by
  rw [Runs, exec_bfx]
  unfold execBfx intUn alu
  exact ⟨_, rfl⟩
theorem runs_bfi (h : Ctl) (d : Opnd) (a b : Src) (ty : BitVec 3) (pos : BitVec 6) (len : BitVec 7) (s : State) : Runs (.bfi h d a b ty pos len) s := by
  rw [Runs, exec_bfi]
  unfold execBfi intBin alu
  exact ⟨_, rfl⟩
theorem runs_popc (h : Ctl) (d : Opnd) (a : Src) (ty : BitVec 3) (s : State) : Runs (.popc h d a ty) s := by
  rw [Runs, exec_popc]
  unfold execPopc intUn alu
  exact ⟨_, rfl⟩
theorem runs_clz (h : Ctl) (d : Opnd) (a : Src) (ty : BitVec 3) (s : State) : Runs (.clz h d a ty) s := by
  rw [Runs, exec_clz]
  unfold execClz intUn alu
  exact ⟨_, rfl⟩
theorem runs_brev (h : Ctl) (d : Opnd) (a : Src) (ty : BitVec 3) (s : State) : Runs (.brev h d a ty) s := by
  rw [Runs, exec_brev]
  unfold execBrev intUn alu
  exact ⟨_, rfl⟩
theorem runs_prmb (h : Ctl) (d : Opnd) (a b c : Src) (ty : BitVec 3) (s : State) : Runs (.prmb h d a b c ty) s := by
  rw [Runs, exec_prmb]
  unfold execPrmb alu
  exact ⟨_, rfl⟩
theorem runs_sel (h : Ctl) (d : Opnd) (a b c : Src) (ty : BitVec 3) (s : State) : Runs (.sel h d a b c ty) s := by
  rw [Runs, exec_sel]
  unfold execSel alu
  exact ⟨_, rfl⟩
theorem runs_mov (h : Ctl) (d : Opnd) (a : Src) (ty : BitVec 3) (s : State) : Runs (.mov h d a ty) s := by
  rw [Runs, exec_mov]
  unfold execMov alu
  exact ⟨_, rfl⟩
theorem runs_lea (h : Ctl) (d : Opnd) (a b : Src) (ty sh : BitVec 3) (s : State) : Runs (.lea h d a b ty sh) s := by
  rw [Runs, exec_lea]
  unfold execLea alu
  exact ⟨_, rfl⟩
theorem runs_iadd64 (h : Ctl) (d : Opnd) (a b : Src) (ty : BitVec 3) (sat : Bool) (s : State) : Runs (.iadd64 h d a b ty sat) s := by
  rw [Runs, exec_iadd64]
  unfold execIadd64 intBin alu
  exact ⟨_, rfl⟩
theorem runs_isub64 (h : Ctl) (d : Opnd) (a b : Src) (ty : BitVec 3) (sat : Bool) (s : State) : Runs (.isub64 h d a b ty sat) s := by
  rw [Runs, exec_isub64]
  unfold execIsub64 intBin alu
  exact ⟨_, rfl⟩
theorem runs_icvt (h : Ctl) (d : Opnd) (a : Src) (ty : BitVec 3) (sat : Bool) (sty : BitVec 3) (s : State) : Runs (.icvt h d a ty sat sty) s := by
  rw [Runs, exec_icvt]
  unfold execIcvt alu
  exact ⟨_, rfl⟩
theorem runs_iaddLit (h : Ctl) (d : Opnd) (a : Src) (imm : BitVec 32) (ty : BitVec 3) (sat : Bool) (s : State) : Runs (.iaddLit h d a imm ty sat) s := by
  rw [Runs, exec_iaddLit]
  unfold execIaddLit intLit alu
  exact ⟨_, rfl⟩
theorem runs_isubLit (h : Ctl) (d : Opnd) (a : Src) (imm : BitVec 32) (ty : BitVec 3) (sat : Bool) (s : State) : Runs (.isubLit h d a imm ty sat) s := by
  rw [Runs, exec_isubLit]
  unfold execIsubLit intLit alu
  exact ⟨_, rfl⟩
theorem runs_imulLit (h : Ctl) (d : Opnd) (a : Src) (imm : BitVec 32) (ty : BitVec 3) (s : State) : Runs (.imulLit h d a imm ty) s := by
  rw [Runs, exec_imulLit]
  unfold execImulLit intLit alu
  exact ⟨_, rfl⟩
theorem runs_imulhLit (h : Ctl) (d : Opnd) (a : Src) (imm : BitVec 32) (ty : BitVec 3) (s : State) : Runs (.imulhLit h d a imm ty) s := by
  rw [Runs, exec_imulhLit]
  unfold execImulhLit intLit alu
  exact ⟨_, rfl⟩
theorem runs_iminLit (h : Ctl) (d : Opnd) (a : Src) (imm : BitVec 32) (ty : BitVec 3) (s : State) : Runs (.iminLit h d a imm ty) s := by
  rw [Runs, exec_iminLit]
  unfold execIminLit intLit alu
  exact ⟨_, rfl⟩
theorem runs_imaxLit (h : Ctl) (d : Opnd) (a : Src) (imm : BitVec 32) (ty : BitVec 3) (s : State) : Runs (.imaxLit h d a imm ty) s := by
  rw [Runs, exec_imaxLit]
  unfold execImaxLit intLit alu
  exact ⟨_, rfl⟩
theorem runs_andLit (h : Ctl) (d : Opnd) (a : Src) (imm : BitVec 32) (ty : BitVec 3) (s : State) : Runs (.andLit h d a imm ty) s := by
  rw [Runs, exec_andLit]
  unfold execAndLit intLit alu
  exact ⟨_, rfl⟩
theorem runs_orLit (h : Ctl) (d : Opnd) (a : Src) (imm : BitVec 32) (ty : BitVec 3) (s : State) : Runs (.orLit h d a imm ty) s := by
  rw [Runs, exec_orLit]
  unfold execOrLit intLit alu
  exact ⟨_, rfl⟩
theorem runs_xorLit (h : Ctl) (d : Opnd) (a : Src) (imm : BitVec 32) (ty : BitVec 3) (s : State) : Runs (.xorLit h d a imm ty) s := by
  rw [Runs, exec_xorLit]
  unfold execXorLit intLit alu
  exact ⟨_, rfl⟩
theorem runs_andnLit (h : Ctl) (d : Opnd) (a : Src) (imm : BitVec 32) (ty : BitVec 3) (s : State) : Runs (.andnLit h d a imm ty) s := by
  rw [Runs, exec_andnLit]
  unfold execAndnLit intLit alu
  exact ⟨_, rfl⟩
theorem runs_ornLit (h : Ctl) (d : Opnd) (a : Src) (imm : BitVec 32) (ty : BitVec 3) (s : State) : Runs (.ornLit h d a imm ty) s := by
  rw [Runs, exec_ornLit]
  unfold execOrnLit intLit alu
  exact ⟨_, rfl⟩
theorem runs_shlLit (h : Ctl) (d : Opnd) (a : Src) (imm : BitVec 32) (ty : BitVec 3) (s : State) : Runs (.shlLit h d a imm ty) s := by
  rw [Runs, exec_shlLit]
  unfold execShlLit shiftLit alu
  exact ⟨_, rfl⟩
theorem runs_shrLit (h : Ctl) (d : Opnd) (a : Src) (imm : BitVec 32) (ty : BitVec 3) (s : State) : Runs (.shrLit h d a imm ty) s := by
  rw [Runs, exec_shrLit]
  unfold execShrLit shiftLit alu
  exact ⟨_, rfl⟩
theorem runs_sarLit (h : Ctl) (d : Opnd) (a : Src) (imm : BitVec 32) (ty : BitVec 3) (s : State) : Runs (.sarLit h d a imm ty) s := by
  rw [Runs, exec_sarLit]
  unfold execSarLit shiftLit alu
  exact ⟨_, rfl⟩
theorem runs_rotLit (h : Ctl) (d : Opnd) (a : Src) (imm : BitVec 32) (ty : BitVec 3) (s : State) : Runs (.rotLit h d a imm ty) s := by
  rw [Runs, exec_rotLit]
  unfold execRotLit shiftLit alu
  exact ⟨_, rfl⟩
theorem runs_movi (h : Ctl) (d : Opnd) (imm : BitVec 32) (ty : BitVec 3) (s : State) : Runs (.movi h d imm ty) s := by
  rw [Runs, exec_movi]
  unfold execMovi alu
  exact ⟨_, rfl⟩
theorem runs_movh (h : Ctl) (d : Opnd) (a : Src) (imm : BitVec 32) (ty : BitVec 3) (s : State) : Runs (.movh h d a imm ty) s := by
  rw [Runs, exec_movh]
  unfold execMovh alu
  exact ⟨_, rfl⟩
theorem runs_icmp (h : Ctl) (d : Opnd) (a b : Src) (c : Option Src) (ty cond : BitVec 3) (comb : BitVec 2) (s : State) : Runs (.icmp h d a b c ty cond comb) s := by
  rw [Runs, exec_icmp]
  unfold execIcmp cmpInt alu
  exact ⟨_, rfl⟩
theorem runs_plop (h : Ctl) (d : Opnd) (a b c : Src) (lut : BitVec 8) (s : State) : Runs (.plop h d a b c lut) s := by
  rw [Runs, exec_plop]
  unfold execPlop alu
  exact ⟨_, rfl⟩
theorem runs_pmov (h : Ctl) (d : Option Opnd) (a : Option Src) (mask : BitVec 7) (mode : BitVec 2) (s : State) : Runs (.pmov h d a mask mode) s := by
  rw [Runs, exec_pmov]
  unfold execPmov
  exact ⟨_, rfl⟩
theorem runs_fadd (h : Ctl) (d : Opnd) (a b : Src) (ty : BitVec 3) (f : FMod) (s : State) : Runs (.fadd h d a b ty f) s := by
  rw [Runs, exec_fadd]
  unfold execFadd fltBin alu
  exact ⟨_, rfl⟩
theorem runs_faddF64 (h : Ctl) (d : Opnd) (a b : Src) (ty : BitVec 3) (f : FMod) (s : State) : Runs (.faddF64 h d a b ty f) s := by
  rw [Runs, exec_faddF64]
  unfold execFaddF64 fltBin alu
  exact ⟨_, rfl⟩
theorem runs_fsub (h : Ctl) (d : Opnd) (a b : Src) (ty : BitVec 3) (f : FMod) (s : State) : Runs (.fsub h d a b ty f) s := by
  rw [Runs, exec_fsub]
  unfold execFsub fltBin alu
  exact ⟨_, rfl⟩
theorem runs_fsubF64 (h : Ctl) (d : Opnd) (a b : Src) (ty : BitVec 3) (f : FMod) (s : State) : Runs (.fsubF64 h d a b ty f) s := by
  rw [Runs, exec_fsubF64]
  unfold execFsubF64 fltBin alu
  exact ⟨_, rfl⟩
theorem runs_fmul (h : Ctl) (d : Opnd) (a b : Src) (ty : BitVec 3) (f : FMod) (s : State) : Runs (.fmul h d a b ty f) s := by
  rw [Runs, exec_fmul]
  unfold execFmul fltBin alu
  exact ⟨_, rfl⟩
theorem runs_fmulF64 (h : Ctl) (d : Opnd) (a b : Src) (ty : BitVec 3) (f : FMod) (s : State) : Runs (.fmulF64 h d a b ty f) s := by
  rw [Runs, exec_fmulF64]
  unfold execFmulF64 fltBin alu
  exact ⟨_, rfl⟩
theorem runs_ffma (h : Ctl) (d : Opnd) (a b c : Src) (ty : BitVec 3) (f : FMod) (s : State) : Runs (.ffma h d a b c ty f) s := by
  rw [Runs, exec_ffma]
  unfold execFfma alu
  exact ⟨_, rfl⟩
theorem runs_ffmaF64 (h : Ctl) (d : Opnd) (a b c : Src) (ty : BitVec 3) (f : FMod) (s : State) : Runs (.ffmaF64 h d a b c ty f) s := by
  rw [Runs, exec_ffmaF64]
  unfold execFfmaF64 alu
  exact ⟨_, rfl⟩
theorem runs_fmin (h : Ctl) (d : Opnd) (a b : Src) (ty : BitVec 3) (f : FMod) (s : State) : Runs (.fmin h d a b ty f) s := by
  rw [Runs, exec_fmin]
  unfold execFmin fltBin alu
  exact ⟨_, rfl⟩
theorem runs_fminF64 (h : Ctl) (d : Opnd) (a b : Src) (ty : BitVec 3) (f : FMod) (s : State) : Runs (.fminF64 h d a b ty f) s := by
  rw [Runs, exec_fminF64]
  unfold execFminF64 fltBin alu
  exact ⟨_, rfl⟩
theorem runs_fmax (h : Ctl) (d : Opnd) (a b : Src) (ty : BitVec 3) (f : FMod) (s : State) : Runs (.fmax h d a b ty f) s := by
  rw [Runs, exec_fmax]
  unfold execFmax fltBin alu
  exact ⟨_, rfl⟩
theorem runs_fmaxF64 (h : Ctl) (d : Opnd) (a b : Src) (ty : BitVec 3) (f : FMod) (s : State) : Runs (.fmaxF64 h d a b ty f) s := by
  rw [Runs, exec_fmaxF64]
  unfold execFmaxF64 fltBin alu
  exact ⟨_, rfl⟩
theorem runs_fcmp (h : Ctl) (d : Opnd) (a b : Src) (c : Option Src) (ty cond : BitVec 3) (comb : BitVec 2) (s : State) : Runs (.fcmp h d a b c ty cond comb) s := by
  rw [Runs, exec_fcmp]
  unfold execFcmp cmpFlt
  dsimp only
  unfold alu
  exact ⟨_, rfl⟩
theorem runs_fcls (h : Ctl) (d : Opnd) (a : Src) (ty : BitVec 3) (mask : BitVec 9) (s : State) : Runs (.fcls h d a ty mask) s := by
  rw [Runs, exec_fcls]
  unfold execFcls fltClass alu
  exact ⟨_, rfl⟩
theorem runs_fcmpF64 (h : Ctl) (d : Opnd) (a b : Src) (c : Option Src) (ty cond : BitVec 3) (comb : BitVec 2) (s : State) : Runs (.fcmpF64 h d a b c ty cond comb) s := by
  rw [Runs, exec_fcmpF64]
  unfold execFcmpF64 cmpFlt
  dsimp only
  unfold alu
  exact ⟨_, rfl⟩
theorem runs_fclsF64 (h : Ctl) (d : Opnd) (a : Src) (ty : BitVec 3) (mask : BitVec 9) (s : State) : Runs (.fclsF64 h d a ty mask) s := by
  rw [Runs, exec_fclsF64]
  unfold execFclsF64 fltClass alu
  exact ⟨_, rfl⟩
theorem runs_fscl (h : Ctl) (d : Opnd) (a b : Src) (ty : BitVec 3) (f : FMod) (s : State) : Runs (.fscl h d a b ty f) s := by
  rw [Runs, exec_fscl]
  unfold execFscl alu
  exact ⟨_, rfl⟩
theorem runs_fsclF64 (h : Ctl) (d : Opnd) (a b : Src) (ty : BitVec 3) (f : FMod) (s : State) : Runs (.fsclF64 h d a b ty f) s := by
  rw [Runs, exec_fsclF64]
  unfold execFsclF64 alu
  exact ⟨_, rfl⟩
theorem runs_frnd (h : Ctl) (d : Opnd) (a : Src) (ty : BitVec 3) (f : FMod) (s : State) : Runs (.frnd h d a ty f) s := by
  rw [Runs, exec_frnd]
  unfold execFrnd fltUn alu
  exact ⟨_, rfl⟩
theorem runs_frndF64 (h : Ctl) (d : Opnd) (a : Src) (ty : BitVec 3) (f : FMod) (s : State) : Runs (.frndF64 h d a ty f) s := by
  rw [Runs, exec_frndF64]
  unfold execFrndF64 fltUn alu
  exact ⟨_, rfl⟩
theorem runs_faddLit (h : Ctl) (d : Opnd) (a : Src) (imm : BitVec 32) (ty : BitVec 3) (f : FMod) (s : State) : Runs (.faddLit h d a imm ty f) s := by
  rw [Runs, exec_faddLit]
  unfold execFaddLit fltLit alu
  exact ⟨_, rfl⟩
theorem runs_fsubLit (h : Ctl) (d : Opnd) (a : Src) (imm : BitVec 32) (ty : BitVec 3) (f : FMod) (s : State) : Runs (.fsubLit h d a imm ty f) s := by
  rw [Runs, exec_fsubLit]
  unfold execFsubLit fltLit alu
  exact ⟨_, rfl⟩
theorem runs_fmulLit (h : Ctl) (d : Opnd) (a : Src) (imm : BitVec 32) (ty : BitVec 3) (f : FMod) (s : State) : Runs (.fmulLit h d a imm ty f) s := by
  rw [Runs, exec_fmulLit]
  unfold execFmulLit fltLit alu
  exact ⟨_, rfl⟩
theorem runs_fminLit (h : Ctl) (d : Opnd) (a : Src) (imm : BitVec 32) (ty : BitVec 3) (f : FMod) (s : State) : Runs (.fminLit h d a imm ty f) s := by
  rw [Runs, exec_fminLit]
  unfold execFminLit fltLit alu
  exact ⟨_, rfl⟩
theorem runs_fmaxLit (h : Ctl) (d : Opnd) (a : Src) (imm : BitVec 32) (ty : BitVec 3) (f : FMod) (s : State) : Runs (.fmaxLit h d a imm ty f) s := by
  rw [Runs, exec_fmaxLit]
  unfold execFmaxLit fltLit alu
  exact ⟨_, rfl⟩
theorem runs_fcmpLit (h : Ctl) (d : Opnd) (a : Src) (imm : BitVec 32) (ty : BitVec 3) (cond : BitVec 2) (s : State) : Runs (.fcmpLit h d a imm ty cond) s := by
  rw [Runs, exec_fcmpLit]
  unfold execFcmpLit cmpFlt
  dsimp only
  unfold alu
  exact ⟨_, rfl⟩
theorem runs_frcp (h : Ctl) (d : Opnd) (a : Src) (ty : BitVec 3) (f : FMod) (s : State) : Runs (.frcp h d a ty f) s := by
  rw [Runs, exec_frcp]
  unfold execFrcp fltSpecial sfu
  exact ⟨_, rfl⟩
theorem runs_frsq (h : Ctl) (d : Opnd) (a : Src) (ty : BitVec 3) (f : FMod) (s : State) : Runs (.frsq h d a ty f) s := by
  rw [Runs, exec_frsq]
  unfold execFrsq fltSpecial sfu
  exact ⟨_, rfl⟩
theorem runs_fsqrt (h : Ctl) (d : Opnd) (a : Src) (ty : BitVec 3) (f : FMod) (s : State) : Runs (.fsqrt h d a ty f) s := by
  rw [Runs, exec_fsqrt]
  unfold execFsqrt fltSpecial sfu
  exact ⟨_, rfl⟩
theorem runs_fex2 (h : Ctl) (d : Opnd) (a : Src) (ty : BitVec 3) (f : FMod) (s : State) : Runs (.fex2 h d a ty f) s := by
  rw [Runs, exec_fex2]
  unfold execFex2 fltSpecial sfu
  exact ⟨_, rfl⟩
theorem runs_flg2 (h : Ctl) (d : Opnd) (a : Src) (ty : BitVec 3) (f : FMod) (s : State) : Runs (.flg2 h d a ty f) s := by
  rw [Runs, exec_flg2]
  unfold execFlg2 fltSpecial sfu
  exact ⟨_, rfl⟩
theorem runs_fsin (h : Ctl) (d : Opnd) (a : Src) (ty : BitVec 3) (f : FMod) (s : State) : Runs (.fsin h d a ty f) s := by
  rw [Runs, exec_fsin]
  unfold execFsin fltSpecial sfu
  exact ⟨_, rfl⟩
theorem runs_fcos (h : Ctl) (d : Opnd) (a : Src) (ty : BitVec 3) (f : FMod) (s : State) : Runs (.fcos h d a ty f) s := by
  rw [Runs, exec_fcos]
  unfold execFcos fltSpecial sfu
  exact ⟨_, rfl⟩
theorem runs_hfma2 (h : Ctl) (d : Opnd) (a b c : Src) (ty : BitVec 3) (f : FMod) (s : State) : Runs (.hfma2 h d a b c ty f) s := by
  rw [Runs, exec_hfma2]
  unfold execHfma2 packedOp alu
  exact ⟨_, rfl⟩
theorem runs_hadd2 (h : Ctl) (d : Opnd) (a b : Src) (ty : BitVec 3) (f : FMod) (s : State) : Runs (.hadd2 h d a b ty f) s := by
  rw [Runs, exec_hadd2]
  unfold execHadd2 packedOp alu
  exact ⟨_, rfl⟩
theorem runs_hmul2 (h : Ctl) (d : Opnd) (a b : Src) (ty : BitVec 3) (f : FMod) (s : State) : Runs (.hmul2 h d a b ty f) s := by
  rw [Runs, exec_hmul2]
  unfold execHmul2 packedOp alu
  exact ⟨_, rfl⟩
theorem runs_qdot4 (h : Ctl) (d : Opnd) (a b c : Src) (ty : BitVec 3) (rm : BitVec 2) (sat bty : Bool) (s : State) : Runs (.qdot4 h d a b c ty rm sat bty) s := by
  rw [Runs, exec_qdot4]
  unfold execQdot4 alu
  exact ⟨_, rfl⟩
theorem runs_idot4 (h : Ctl) (d : Opnd) (a b c : Src) (ty : BitVec 3) (sat bsgn : Bool) (s : State) : Runs (.idot4 h d a b c ty sat bsgn) s := by
  rw [Runs, exec_idot4]
  unfold execIdot4 alu
  exact ⟨_, rfl⟩
theorem runs_fcvt (h : Ctl) (d : Opnd) (a : Src) (ty : BitVec 3) (rm : BitVec 2) (sat : Bool) (sty : BitVec 3) (s : State) : Runs (.fcvt h d a ty rm sat sty) s := by
  rw [Runs, exec_fcvt]
  unfold execFcvt alu
  exact ⟨_, rfl⟩
theorem runs_f2i (h : Ctl) (d : Opnd) (a : Src) (ty : BitVec 3) (rm : BitVec 2) (sty : BitVec 3) (s : State) : Runs (.f2i h d a ty rm sty) s := by
  rw [Runs, exec_f2i]
  unfold execF2i alu
  exact ⟨_, rfl⟩
theorem runs_i2f (h : Ctl) (d : Opnd) (a : Src) (ty : BitVec 3) (rm : BitVec 2) (sat : Bool) (sty : BitVec 3) (s : State) : Runs (.i2f h d a ty rm sat sty) s := by
  rw [Runs, exec_i2f]
  unfold execI2f alu
  exact ⟨_, rfl⟩
theorem runs_pack8 (h : Ctl) (d : Opnd) (a b c : Src) (ty : BitVec 3) (rm : BitVec 2) (sat half : Bool) (s : State) : Runs (.pack8 h d a b c ty rm sat half) s := by
  rw [Runs, exec_pack8]
  unfold execPack8 alu
  exact ⟨_, rfl⟩
theorem runs_unpk8 (h : Ctl) (d : Opnd) (a : Src) (ty : BitVec 3) (ety half : Bool) (s : State) : Runs (.unpk8 h d a ty ety half) s := by
  rw [Runs, exec_unpk8]
  unfold execUnpk8 alu
  exact ⟨_, rfl⟩
theorem runs_shfl (h : Ctl) (d : Opnd) (a b : Src) (ty seg : BitVec 3) (mode : BitVec 2) (s : State) : Runs (.shfl h d a b ty seg mode) s := by
  rw [Runs, exec_shfl]
  unfold execShfl laneOp
  exact ⟨_, rfl⟩
theorem runs_vote (h : Ctl) (d : Opnd) (a : Src) (cnt neg : Bool) (mode : BitVec 2) (s : State) : Runs (.vote h d a cnt neg mode) s := by
  rw [Runs, exec_vote]
  unfold execVote laneOp
  exact ⟨_, rfl⟩
theorem runs_matchLanes (h : Ctl) (d : Opnd) (a : Src) (ty : BitVec 3) (s : State) : Runs (.matchLanes h d a ty) s := by
  rw [Runs, exec_matchLanes]
  unfold execMatchLanes laneOp
  exact ⟨_, rfl⟩
theorem runs_redux (h : Ctl) (d : Opnd) (a : Src) (ty rop : BitVec 3) (s : State) : Runs (.redux h d a ty rop) s := by
  rw [Runs, exec_redux]
  unfold execRedux laneOp
  exact ⟨_, rfl⟩
theorem runs_wfence (h : Ctl) (s : State) : Runs (.wfence h) s := by
  rw [Runs, exec_wfence]
  unfold execWfence
  exact ⟨_, rfl⟩
theorem runs_mjoin (h : Ctl) (d : Opnd) (disp : BitVec 20) (s : State) : Runs (.mjoin h d disp) s := by
  rw [Runs, exec_mjoin]
  unfold execMjoin
  exact ⟨_, rfl⟩
theorem runs_mleave (h : Ctl) (set : BitVec 12) (s : State) : Runs (.mleave h set) s := by
  rw [Runs, exec_mleave]
  unfold execMleave
  exact ⟨_, rfl⟩
theorem runs_mwait (h : Ctl) (a : Src) (s : State) : Runs (.mwait h a) s := by
  rw [Runs, exec_mwait]
  unfold execMwait
  exact ⟨_, rfl⟩
theorem runs_mmov (h : Ctl) (d : Opnd) (a : Src) (b : Option Src) (mode : BitVec 2) (s : State) : Runs (.mmov h d a b mode) s := by
  rw [Runs, exec_mmov]
  unfold execMmov
  exact ⟨_, rfl⟩
theorem runs_msync (h : Ctl) (a : Src) (s : State) : Runs (.msync h a) s := by
  rw [Runs, exec_msync]
  unfold execMsync
  exact ⟨_, rfl⟩
theorem runs_spawn (h : Ctl) (a : Src) (b wsrc : Option Src) (wid : Bool) (tgt : BitVec 2) (nw : BitVec 4) (prio : BitVec 2) (idem : Bool) (s : State) : Runs (.spawn h a b wsrc wid tgt nw prio idem) s := by
  rw [Runs, exec_spawn]
  unfold execSpawn spawnOp
  exact ⟨_, rfl⟩
theorem runs_cont (h : Ctl) (a : Src) (b wsrc : Option Src) (wid : Bool) (tgt : BitVec 2) (nw : BitVec 4) (prio : BitVec 2) (idem : Bool) (s : State) : Runs (.cont h a b wsrc wid tgt nw prio idem) s := by
  rw [Runs, exec_cont]
  unfold execCont spawnOp
  exact ⟨_, rfl⟩
theorem runs_split (h : Ctl) (a : Src) (disp : BitVec 20) (live : BitVec 11) (s : State) : Runs (.split h a disp live) s := by
  rw [Runs, exec_split]
  unfold execSplit
  exact ⟨_, rfl⟩
theorem runs_rgive (h : Ctl) (nb : BitVec 6) (s : State) : Runs (.rgive h nb) s := by
  rw [Runs, exec_rgive]
  unfold execRgive
  exact ⟨_, rfl⟩
theorem runs_rclaim (h : Ctl) (nb : BitVec 6) (s : State) : Runs (.rclaim h nb) s := by
  rw [Runs, exec_rclaim]
  unfold execRclaim
  exact ⟨_, rfl⟩
theorem runs_segq (h : Ctl) (d : Opnd) (a : Src) (s : State) : Runs (.segq h d a) s := by
  rw [Runs, exec_segq]
  unfold execSegq
  exact ⟨_, rfl⟩
theorem runs_launch (h : Ctl) (d : Opnd) (a : Src) (ofs : BitVec 16) (lq : BitVec 4) (s : State) : Runs (.launch h d a ofs lq) s := by
  rw [Runs, exec_launch]
  unfold execLaunch
  exact ⟨_, rfl⟩
theorem runs_waitk (h : Ctl) (a : Src) (n : BitVec 6) (s : State) : Runs (.waitk h a n) s := by
  rw [Runs, exec_waitk]
  unfold execWaitk
  exact ⟨_, rfl⟩
theorem runs_tkrd (h : Ctl) (d : Opnd) (s : State) : Runs (.tkrd h d) s := by
  rw [Runs, exec_tkrd]
  unfold execTkrd alu
  exact ⟨_, rfl⟩
theorem runs_tksav (h : Ctl) (a : Src) (ofs : BitVec 16) (s : State) : Runs (.tksav h a ofs) s := by
  rw [Runs, exec_tksav]
  unfold execTksav
  exact ⟨_, rfl⟩
theorem runs_tkrst (h : Ctl) (opn : Bool) (set : BitVec 16) (s : State) : Runs (.tkrst h opn set) s := by
  rw [Runs, exec_tkrst]
  unfold execTkrst
  exact ⟨_, rfl⟩
theorem runs_ld (h : Ctl) (d : Opnd) (a : Src) (ofs : BitVec 16) (scope order ty : BitVec 3) (vec ch : BitVec 2) (s : State) : Runs (.ld h d a ofs scope order ty vec ch) s := by
  rw [Runs, exec_ld]
  unfold execLd loadOp
  exact ⟨_, rfl⟩
theorem runs_st (h : Ctl) (a b : Src) (ofs : BitVec 16) (scope order ty : BitVec 3) (vec ch : BitVec 2) (s : State) : Runs (.st h a b ofs scope order ty vec ch) s := by
  rw [Runs, exec_st]
  unfold execSt storeOp
  exact ⟨_, rfl⟩
theorem runs_stn (h : Ctl) (a b : Src) (ofs : BitVec 16) (scope order ty : BitVec 3) (nsel : BitVec 4) (s : State) : Runs (.stn h a b ofs scope order ty nsel) s := by
  rw [Runs, exec_stn]
  unfold execStn stnOp storeOp
  exact ⟨_, rfl⟩
theorem runs_stnReport (h : Ctl) (d : Opnd) (a b : Src) (ofs : BitVec 16) (scope order ty : BitVec 3) (nsel : BitVec 4) (s : State) : Runs (.stnReport h d a b ofs scope order ty nsel) s := by
  rw [Runs, exec_stnReport]
  unfold execStnReport stnOp storeOp
  exact ⟨_, rfl⟩
theorem runs_pref (h : Ctl) (a : Src) (ofs : BitVec 16) (lvl : BitVec 2) (s : State) : Runs (.pref h a ofs lvl) s := by
  rw [Runs, exec_pref]
  unfold execPref
  exact ⟨_, rfl⟩
theorem runs_ldf (h : Ctl) (d : Opnd) (a : Src) (ofs : BitVec 16) (ty : BitVec 3) (vec : BitVec 2) (s : State) : Runs (.ldf h d a ofs ty vec) s := by
  rw [Runs, exec_ldf]
  unfold execLdf loadOp
  exact ⟨_, rfl⟩
theorem runs_dcwb (h : Ctl) (a : Src) (ofs : BitVec 16) (scope : BitVec 3) (s : State) : Runs (.dcwb h a ofs scope) s := by
  rw [Runs, exec_dcwb]
  unfold execDcwb maintOp
  exact ⟨_, rfl⟩
theorem runs_dcinv (h : Ctl) (a : Src) (ofs : BitVec 16) (scope : BitVec 3) (s : State) : Runs (.dcinv h a ofs scope) s := by
  rw [Runs, exec_dcinv]
  unfold execDcinv maintOp
  exact ⟨_, rfl⟩
theorem runs_dcfl (h : Ctl) (a : Src) (ofs : BitVec 16) (scope : BitVec 3) (s : State) : Runs (.dcfl h a ofs scope) s := by
  rw [Runs, exec_dcfl]
  unfold execDcfl maintOp
  exact ⟨_, rfl⟩
theorem runs_icinv (h : Ctl) (a : Src) (ofs : BitVec 16) (scope : BitVec 3) (s : State) : Runs (.icinv h a ofs scope) s := by
  rw [Runs, exec_icinv]
  unfold execIcinv
  exact ⟨_, rfl⟩
theorem runs_ifence (h : Ctl) (s : State) : Runs (.ifence h) s := by
  rw [Runs, exec_ifence]
  unfold execIfence
  exact ⟨_, rfl⟩
theorem runs_fence (h : Ctl) (scope order : BitVec 3) (s : State) : Runs (.fence h scope order) s := by
  rw [Runs, exec_fence]
  unfold execFence
  exact ⟨_, rfl⟩
theorem runs_rsmk (h : Ctl) (d : Opnd) (a b : Src) (keep : BitVec 2) (lvl : BitVec 3) (s : State) : Runs (.rsmk h d a b keep lvl) s := by
  rw [Runs, exec_rsmk]
  unfold execRsmk alu
  exact ⟨_, rfl⟩
theorem runs_rsrev (h : Ctl) (a b : Src) (ofs : BitVec 16) (mode : BitVec 2) (s : State) : Runs (.rsrev h a b ofs mode) s := by
  rw [Runs, exec_rsrev]
  unfold execRsrev
  exact ⟨_, rfl⟩
theorem runs_rsqry (h : Ctl) (d : Opnd) (a : Src) (ofs : BitVec 16) (s : State) : Runs (.rsqry h d a ofs) s := by
  rw [Runs, exec_rsqry]
  unfold execRsqry
  exact ⟨_, rfl⟩
theorem runs_atom (h : Ctl) (d : Opnd) (a b : Src) (ofs : BitVec 16) (scope order ty : BitVec 3) (aop : BitVec 4) (s : State) : Runs (.atom h d a b ofs scope order ty aop) s := by
  rw [Runs, exec_atom]
  unfold execAtom atomOp
  exact ⟨_, rfl⟩
theorem runs_acas (h : Ctl) (d : Opnd) (a b : Src) (ofs : BitVec 16) (scope order ty : BitVec 3) (s : State) : Runs (.acas h d a b ofs scope order ty) s := by
  rw [Runs, exec_acas]
  unfold execAcas atomOp
  exact ⟨_, rfl⟩
theorem runs_red (h : Ctl) (a b : Src) (ofs : BitVec 16) (scope order ty : BitVec 3) (aop : BitVec 4) (s : State) : Runs (.red h a b ofs scope order ty aop) s := by
  rw [Runs, exec_red]
  unfold execRed atomOp
  exact ⟨_, rfl⟩
theorem runs_enq (h : Ctl) (d : Opnd) (a b : Src) (ofs : BitVec 16) (scope order : BitVec 3) (sz : BitVec 2) (blk : Bool) (s : State) : Runs (.enq h d a b ofs scope order sz blk) s := by
  rw [Runs, exec_enq]
  unfold execEnq queueOp
  exact ⟨_, rfl⟩
theorem runs_deq (h : Ctl) (d : Opnd) (a : Src) (ofs : BitVec 16) (scope order : BitVec 3) (sz : BitVec 2) (blk : Bool) (s : State) : Runs (.deq h d a ofs scope order sz blk) s := by
  rw [Runs, exec_deq]
  unfold execDeq queueOp
  exact ⟨_, rfl⟩
theorem runs_qinit (h : Ctl) (a b : Src) (ofs : BitVec 16) (sz : BitVec 2) (s : State) : Runs (.qinit h a b ofs sz) s := by
  rw [Runs, exec_qinit]
  unfold execQinit
  exact ⟨_, rfl⟩
theorem runs_qstat (h : Ctl) (d : Opnd) (a : Src) (ofs : BitVec 16) (s : State) : Runs (.qstat h d a ofs) s := by
  rw [Runs, exec_qstat]
  unfold execQstat
  exact ⟨_, rfl⟩
theorem runs_gjoin (h : Ctl) (s : State) : Runs (.gjoin h) s := by
  rw [Runs, exec_gjoin]
  unfold execGjoin
  exact ⟨_, rfl⟩
theorem runs_gleave (h : Ctl) (s : State) : Runs (.gleave h) s := by
  rw [Runs, exec_gleave]
  unfold execGleave
  exact ⟨_, rfl⟩
theorem runs_gmap (h : Ctl) (a : Src) (slot : BitVec 6) (s : State) : Runs (.gmap h a slot) s := by
  rw [Runs, exec_gmap]
  unfold execGmap
  exact ⟨_, rfl⟩
theorem runs_cpy (h : Ctl) (a : Src) (ofs : BitVec 16) (s : State) : Runs (.cpy h a ofs) s := by
  rw [Runs, exec_cpy]
  unfold execCpy copyOp
  exact ⟨_, rfl⟩
theorem runs_gath (h : Ctl) (a : Src) (ofs : BitVec 16) (s : State) : Runs (.gath h a ofs) s := by
  rw [Runs, exec_gath]
  unfold execGath copyOp
  exact ⟨_, rfl⟩
theorem runs_scat (h : Ctl) (a : Src) (ofs : BitVec 16) (s : State) : Runs (.scat h a ofs) s := by
  rw [Runs, exec_scat]
  unfold execScat copyOp
  exact ⟨_, rfl⟩
theorem runs_mcast (h : Ctl) (a : Src) (ofs : BitVec 16) (s : State) : Runs (.mcast h a ofs) s := by
  rw [Runs, exec_mcast]
  unfold execMcast copyOp
  exact ⟨_, rfl⟩
theorem runs_cpyq (h : Ctl) (d : Opnd) (a : Src) (ofs : BitVec 16) (s : State) : Runs (.cpyq h d a ofs) s := by
  rw [Runs, exec_cpyq]
  unfold execCpyq
  exact ⟨_, rfl⟩
theorem runs_binit (h : Ctl) (a b : Src) (ofs : BitVec 16) (s : State) : Runs (.binit h a b ofs) s := by
  rw [Runs, exec_binit]
  unfold execBinit
  exact ⟨_, rfl⟩
theorem runs_barr (h : Ctl) (a b : Src) (ofs : BitVec 16) (s : State) : Runs (.barr h a b ofs) s := by
  rw [Runs, exec_barr]
  unfold execBarr
  exact ⟨_, rfl⟩
theorem runs_bwait (h : Ctl) (d : Opnd) (a b : Src) (ofs : BitVec 16) (s : State) : Runs (.bwait h d a b ofs) s := by
  rw [Runs, exec_bwait]
  unfold execBwait
  exact ⟨_, rfl⟩
theorem runs_btst (h : Ctl) (d : Opnd) (a : Src) (ofs : BitVec 16) (s : State) : Runs (.btst h d a ofs) s := by
  rw [Runs, exec_btst]
  unfold execBtst
  exact ⟨_, rfl⟩
theorem runs_tdecl (h : Ctl) (a b : Src) (rdy : Bool) (tile : BitVec 6) (s : State) : Runs (.tdecl h a b rdy tile) s := by
  rw [Runs, exec_tdecl]
  unfold execTdecl
  exact ⟨_, rfl⟩
theorem runs_tstat (h : Ctl) (d : Opnd) (tile : BitVec 6) (s : State) : Runs (.tstat h d tile) s := by
  rw [Runs, exec_tstat]
  unfold execTstat
  exact ⟨_, rfl⟩
theorem runs_trel (h : Ctl) (tile : BitVec 6) (s : State) : Runs (.trel h tile) s := by
  rw [Runs, exec_trel]
  unfold execTrel
  exact ⟨_, rfl⟩
theorem runs_mma (h : Ctl) (d : Opnd) (a b c : Src) (ty : BitVec 3) (be5 : Bool) (kq : BitVec 10) (za : Bool) (s : State) : Runs (.mma h d a b c ty be5 kq za) s := by
  rw [Runs, exec_mma]
  unfold execMma mmaOp matrix
  exact ⟨_, rfl⟩
theorem runs_mmap (h : Ctl) (d : Opnd) (a b c : Src) (ty : BitVec 3) (be5 : Bool) (kq : BitVec 10) (za : Bool) (s : State) : Runs (.mmap h d a b c ty be5 kq za) s := by
  rw [Runs, exec_mmap]
  unfold execMmap mmaOp matrix
  exact ⟨_, rfl⟩
theorem runs_accsc (h : Ctl) (d : Opnd) (a b c : Src) (s : State) : Runs (.accsc h d a b c) s := by
  rw [Runs, exec_accsc]
  unfold execAccsc matrix
  exact ⟨_, rfl⟩
theorem runs_accz (h : Ctl) (d : Opnd) (s : State) : Runs (.accz h d) s := by
  rw [Runs, exec_accz]
  unfold execAccz matrix
  exact ⟨_, rfl⟩
theorem runs_accrd (h : Ctl) (d : Opnd) (a b : Src) (s : State) : Runs (.accrd h d a b) s := by
  rw [Runs, exec_accrd]
  unfold execAccrd matrix
  exact ⟨_, rfl⟩
theorem runs_accwr (h : Ctl) (d : Opnd) (a b : Src) (s : State) : Runs (.accwr h d a b) s := by
  rw [Runs, exec_accwr]
  unfold execAccwr matrix
  exact ⟨_, rfl⟩
theorem runs_accld (h : Ctl) (d : Opnd) (a : Src) (str : BitVec 16) (s : State) : Runs (.accld h d a str) s := by
  rw [Runs, exec_accld]
  unfold execAccld matrix
  exact ⟨_, rfl⟩
theorem runs_accst (h : Ctl) (a b : Src) (str : BitVec 16) (s : State) : Runs (.accst h a b str) s := by
  rw [Runs, exec_accst]
  unfold execAccst matrix
  exact ⟨_, rfl⟩
theorem runs_coll (h : Ctl) (d : Opnd) (a b : Src) (ofs : BitVec 16) (s : State) : Runs (.coll h d a b ofs) s := by
  rw [Runs, exec_coll]
  unfold execColl
  exact ⟨_, rfl⟩
theorem runs_viewq (h : Ctl) (d : Opnd) (b : Src) (sl : Bool) (s : State) : Runs (.viewq h d b sl) s := by
  rw [Runs, exec_viewq]
  unfold execViewq
  exact ⟨_, rfl⟩
theorem runs_amsend (h : Ctl) (a : Src) (b : Option Src) (c : Src) (nw : BitVec 4) (s : State) : Runs (.amsend h a b c nw) s := by
  rw [Runs, exec_amsend]
  unfold execAmsend
  exact ⟨_, rfl⟩
theorem runs_arrq (h : Ctl) (d : Opnd) (blk : Bool) (s : State) : Runs (.arrq h d blk) s := by
  rw [Runs, exec_arrq]
  unfold execArrq
  exact ⟨_, rfl⟩
theorem runs_mfs (h : Ctl) (d : Opnd) (a : Src) (s : State) : Runs (.mfs h d a) s := by
  rw [Runs, exec_mfs]
  unfold execMfs
  exact ⟨_, rfl⟩
theorem runs_mts (h : Ctl) (d : Opnd) (a : Src) (s : State) : Runs (.mts h d a) s := by
  rw [Runs, exec_mts]
  unfold execMts
  exact ⟨_, rfl⟩
theorem runs_illegalWord (s : State) : Runs (.illegalWord) s := by
  rw [Runs, exec_illegalWord]
  unfold execIllegalWord
  exact ⟨_, rfl⟩
theorem runs_operationRetire (w : Nat) (tok : Option (BitVec 4)) (s : State) : Runs (.operationRetire w tok) s := by
  rw [Runs, exec_operationRetire]
  unfold execOperationRetire
  exact ⟨_, rfl⟩
theorem runs_asyncMemoryErrorTrap (w : Nat) (s : State) : Runs (.asyncMemoryErrorTrap w) s := by
  rw [Runs, exec_asyncMemoryErrorTrap]
  unfold execAsyncMemoryErrorTrap
  exact ⟨_, rfl⟩
theorem runs_membershipChangeTrap (w : Nat) (s : State) : Runs (.membershipChangeTrap w) s := by
  rw [Runs, exec_membershipChangeTrap]
  unfold execMembershipChangeTrap
  exact ⟨_, rfl⟩
theorem runs_waveEnd (w : Nat) (s : State) : Runs (.waveEnd w) s := by
  rw [Runs, exec_waveEnd]
  unfold execWaveEnd
  exact ⟨_, rfl⟩
theorem runs_rclaimGrant (w : Nat) (s : State) : Runs (.rclaimGrant w) s := by
  rw [Runs, exec_rclaimGrant]
  unfold execRclaimGrant
  exact ⟨_, rfl⟩
theorem runs_writeAcknowledge (w : Nat) (s : State) : Runs (.writeAcknowledge w) s := by
  rw [Runs, exec_writeAcknowledge]
  unfold execWriteAcknowledge
  exact ⟨_, rfl⟩
theorem runs_autoContribution (blk : Nat) (s : State) : Runs (.autoContribution blk) s := by
  rw [Runs, exec_autoContribution]
  unfold execAutoContribution
  exact ⟨_, rfl⟩
theorem runs_gleaveTakesEffect (blk : Nat) (s : State) : Runs (.gleaveTakesEffect blk) s := by
  rw [Runs, exec_gleaveTakesEffect]
  unfold execGleaveTakesEffect
  exact ⟨_, rfl⟩
theorem runs_cooperativeLeave (w : Nat) (s : State) : Runs (.cooperativeLeave w) s := by
  rw [Runs, exec_cooperativeLeave]
  unfold execCooperativeLeave
  exact ⟨_, rfl⟩
theorem runs_hopArrival (w : Nat) (s : State) : Runs (.hopArrival w) s := by
  rw [Runs, exec_hopArrival]
  unfold execHopArrival
  exact ⟨_, rfl⟩
theorem runs_copyActivate (core : Nat) (s : State) : Runs (.copyActivate core) s := by
  rw [Runs, exec_copyActivate]
  unfold execCopyActivate
  exact ⟨_, rfl⟩
theorem runs_segmentLanded (cp : Nat) (s : State) : Runs (.segmentLanded cp) s := by
  rw [Runs, exec_segmentLanded]
  unfold execSegmentLanded
  exact ⟨_, rfl⟩
theorem runs_mcastDelivery (cp ws : Nat) (s : State) : Runs (.mcastDelivery cp ws) s := by
  rw [Runs, exec_mcastDelivery]
  unfold execMcastDelivery
  exact ⟨_, rfl⟩
theorem runs_copyComplete (cp : Nat) (s : State) : Runs (.copyComplete cp) s := by
  rw [Runs, exec_copyComplete]
  unfold execCopyComplete
  exact ⟨_, rfl⟩
theorem runs_chainedCommandStart (core tile : Nat) (s : State) : Runs (.chainedCommandStart core tile) s := by
  rw [Runs, exec_chainedCommandStart]
  unfold execChainedCommandStart
  exact ⟨_, rfl⟩
theorem runs_matrixOpStart (core : Nat) (s : State) : Runs (.matrixOpStart core) s := by
  rw [Runs, exec_matrixOpStart]
  unfold execMatrixOpStart
  exact ⟨_, rfl⟩
theorem runs_rowCommit (core tile : Nat) (s : State) : Runs (.rowCommit core tile) s := by
  rw [Runs, exec_rowCommit]
  unfold execRowCommit
  exact ⟨_, rfl⟩
theorem runs_matrixLoadError (core tile : Nat) (kind : BitVec 8) (s : State) : Runs (.matrixLoadError core tile kind) s := by
  rw [Runs, exec_matrixLoadError]
  unfold execMatrixLoadError
  exact ⟨_, rfl⟩
theorem runs_vectorClockReceive (n : Nat) (s : State) : Runs (.vectorClockReceive n) s := by
  rw [Runs, exec_vectorClockReceive]
  unfold execVectorClockReceive
  exact ⟨_, rfl⟩
theorem runs_posyRecordArrival (n : Nat) (s : State) : Runs (.posyRecordArrival n) s := by
  rw [Runs, exec_posyRecordArrival]
  unfold execPosyRecordArrival
  exact ⟨_, rfl⟩
theorem runs_formTimeout (core n : Nat) (s : State) : Runs (.formTimeout core n) s := by
  rw [Runs, exec_formTimeout]
  unfold execFormTimeout
  exact ⟨_, rfl⟩
theorem runs_taskTypeRead (core n : Nat) (resolved : Bool) (s : State) : Runs (.taskTypeRead core n resolved) s := by
  rw [Runs, exec_taskTypeRead]
  unfold execTaskTypeRead
  exact ⟨_, rfl⟩
theorem runs_blockHandout (core entry : Nat) (s : State) : Runs (.blockHandout core entry) s := by
  rw [Runs, exec_blockHandout]
  unfold execBlockHandout
  exact ⟨_, rfl⟩
theorem runs_inqDequeue (core entry : Nat) (s : State) : Runs (.inqDequeue core entry) s := by
  rw [Runs, exec_inqDequeue]
  unfold execInqDequeue
  exact ⟨_, rfl⟩
theorem runs_blockBind (core entry : Nat) (s : State) : Runs (.blockBind core entry) s := by
  rw [Runs, exec_blockBind]
  unfold execBlockBind
  exact ⟨_, rfl⟩
theorem runs_outqEnqueue (blk : Nat) (s : State) : Runs (.outqEnqueue blk) s := by
  rw [Runs, exec_outqEnqueue]
  unfold execOutqEnqueue
  exact ⟨_, rfl⟩
theorem runs_powerWake (s : State) : Runs (.powerWake) s := by
  rw [Runs, exec_powerWake]
  unfold execPowerWake
  exact ⟨_, rfl⟩
theorem runs_collStage (bid chunk : Nat) (s : State) : Runs (.collStage bid chunk) s := by
  rw [Runs, exec_collStage]
  unfold execCollStage onBinding
  exact ⟨_, rfl⟩
theorem runs_reduceBlockEnd (bid chunk : Nat) (s : State) : Runs (.reduceBlockEnd bid chunk) s := by
  rw [Runs, exec_reduceBlockEnd]
  unfold execReduceBlockEnd onBinding
  exact ⟨_, rfl⟩
theorem runs_launchEnd (slot : Nat) (s : State) : Runs (.launchEnd slot) s := by
  rw [Runs, exec_launchEnd]
  unfold execLaunchEnd
  exact ⟨_, rfl⟩
theorem runs_blockLeavePush (blk : Nat) (s : State) : Runs (.blockLeavePush blk) s := by
  rw [Runs, exec_blockLeavePush]
  unfold execBlockLeavePush
  exact ⟨_, rfl⟩
theorem runs_beacon (die : Nat) (s : State) : Runs (.beacon die) s := by
  rw [Runs, exec_beacon]
  unfold execBeacon
  exact ⟨_, rfl⟩
theorem runs_overflowRingDrain (core slot : Nat) (s : State) : Runs (.overflowRingDrain core slot) s := by
  rw [Runs, exec_overflowRingDrain]
  unfold execOverflowRingDrain
  exact ⟨_, rfl⟩
theorem runs_steal (core entry : Nat) (s : State) : Runs (.steal core entry) s := by
  rw [Runs, exec_steal]
  unfold execSteal
  exact ⟨_, rfl⟩
theorem runs_heartbeatSend (bid : Nat) (s : State) : Runs (.heartbeatSend bid) s := by
  rw [Runs, exec_heartbeatSend]
  unfold execHeartbeatSend onBinding
  exact ⟨_, rfl⟩
theorem runs_occupancyReport (core slot : Nat) (s : State) : Runs (.occupancyReport core slot) s := by
  rw [Runs, exec_occupancyReport]
  unfold execOccupancyReport
  exact ⟨_, rfl⟩
theorem runs_hostWriteConfirm (w : Nat) (s : State) : Runs (.hostWriteConfirm w) s := by
  rw [Runs, exec_hostWriteConfirm]
  unfold execHostWriteConfirm
  exact ⟨_, rfl⟩
theorem runs_fixedLatencyWriteback (w : Nat) (s : State) : Runs (.fixedLatencyWriteback w) s := by
  rw [Runs, exec_fixedLatencyWriteback]
  unfold execFixedLatencyWriteback
  exact ⟨_, rfl⟩
theorem runs_faultResolve (w : Nat) (ok : Bool) (s : State) : Runs (.faultResolve w ok) s := by
  rw [Runs, exec_faultResolve]
  unfold execFaultResolve
  exact ⟨_, rfl⟩
theorem runs_parkedWaveResume (w : Nat) (s : State) : Runs (.parkedWaveResume w) s := by
  rw [Runs, exec_parkedWaveResume]
  unfold execParkedWaveResume
  exact ⟨_, rfl⟩
theorem runs_parkedWaveDeliver (w : Nat) (s : State) : Runs (.parkedWaveDeliver w) s := by
  rw [Runs, exec_parkedWaveDeliver]
  unfold execParkedWaveDeliver
  exact ⟨_, rfl⟩
theorem runs_parkedWaveKill (w : Nat) (s : State) : Runs (.parkedWaveKill w) s := by
  rw [Runs, exec_parkedWaveKill]
  unfold execParkedWaveKill
  exact ⟨_, rfl⟩
theorem runs_launchAbort (slot : Nat) (s : State) : Runs (.launchAbort slot) s := by
  rw [Runs, exec_launchAbort]
  unfold execLaunchAbort
  exact ⟨_, rfl⟩
theorem runs_debugRead (w : Nat) (item : Item) (s : State) : Runs (.debugRead w item) s := by
  rw [Runs, exec_debugRead]
  unfold execDebugRead debugOp
  exact ⟨_, rfl⟩
theorem runs_debugWrite (w : Nat) (item : Item) (v : BitVec 64) (s : State) : Runs (.debugWrite w item v) s := by
  rw [Runs, exec_debugWrite]
  unfold execDebugWrite debugOp
  exact ⟨_, rfl⟩
theorem runs_debugWriteForce (w : Nat) (item : Item) (v : BitVec 64) (s : State) : Runs (.debugWriteForce w item v) s := by
  rw [Runs, exec_debugWriteForce]
  unfold execDebugWriteForce debugOp
  exact ⟨_, rfl⟩
theorem runs_debugStep (w : Nat) (s : State) : Runs (.debugStep w) s := by
  rw [Runs, exec_debugStep]
  unfold execDebugStep debugOp
  exact ⟨_, rfl⟩
theorem runs_debugResume (w : Nat) (s : State) : Runs (.debugResume w) s := by
  rw [Runs, exec_debugResume]
  unfold execDebugResume debugOp
  exact ⟨_, rfl⟩
theorem runs_debugKill (w : Nat) (s : State) : Runs (.debugKill w) s := by
  rw [Runs, exec_debugKill]
  unfold execDebugKill debugOp
  exact ⟨_, rfl⟩
theorem runs_preemptionRequest (blk : Nat) (deadline : BitVec 64) (s : State) : Runs (.preemptionRequest blk deadline) s := by
  rw [Runs, exec_preemptionRequest]
  unfold execPreemptionRequest
  exact ⟨_, rfl⟩
theorem runs_forcedSave (blk area : Nat) (s : State) : Runs (.forcedSave blk area) s := by
  rw [Runs, exec_forcedSave]
  unfold execForcedSave
  exact ⟨_, rfl⟩
theorem runs_contextSwitchOut (asid : BitVec 16) (core area : Nat) (discard : List Nat) (s : State) : Runs (.contextSwitchOut asid core area discard) s := by
  rw [Runs, exec_contextSwitchOut]
  unfold execContextSwitchOut
  exact ⟨_, rfl⟩
theorem runs_blockRestore (blk core entry : Nat) (s : State) : Runs (.blockRestore blk core entry) s := by
  rw [Runs, exec_blockRestore]
  unfold execBlockRestore
  exact ⟨_, rfl⟩
theorem runs_scopeLocalCopyEviction (cl line : Nat) (s : State) : Runs (.scopeLocalCopyEviction cl line) s := by
  rw [Runs, exec_scopeLocalCopyEviction]
  unfold execScopeLocalCopyEviction
  exact ⟨_, rfl⟩
theorem runs_contextTeardown (asid : BitVec 16) (s : State) : Runs (.contextTeardown asid) s := by
  rw [Runs, exec_contextTeardown]
  unfold execContextTeardown
  exact ⟨_, rfl⟩
theorem runs_translationChange (asid : BitVec 16) (va : BitVec 64) (size : Nat) (s : State) : Runs (.translationChange asid va size) s := by
  rw [Runs, exec_translationChange]
  unfold execTranslationChange
  exact ⟨_, rfl⟩
theorem runs_launchAdmit (q : Nat) (ovb : BitVec 64) (pins : List (Nat × List Nat)) (s : State) : Runs (.launchAdmit q ovb pins) s := by
  rw [Runs, exec_launchAdmit]
  unfold execLaunchAdmit
  exact ⟨_, rfl⟩
theorem runs_bindRecordWrite (core entry : Nat) (expect : BitVec 2) (rec : BitVec 128) (s : State) : Runs (.bindRecordWrite core entry expect rec) s := by
  rw [Runs, exec_bindRecordWrite]
  unfold execBindRecordWrite
  exact ⟨_, rfl⟩
theorem runs_schedulingPeriod (deadline : BitVec 64) (pins : List (Nat × Nat × List Nat)) (s : State) : Runs (.schedulingPeriod deadline pins) s := by
  rw [Runs, exec_schedulingPeriod]
  unfold execSchedulingPeriod
  exact ⟨_, rfl⟩
theorem runs_overflowExtend (slot core : Nat) (base : BitVec 64) (log2n : Nat) (s : State) : Runs (.overflowExtend slot core base log2n) s := by
  rw [Runs, exec_overflowExtend]
  unfold execOverflowExtend
  exact ⟨_, rfl⟩
theorem runs_launchSuspend (slot area : Nat) (s : State) : Runs (.launchSuspend slot area) s := by
  rw [Runs, exec_launchSuspend]
  unfold execLaunchSuspend
  exact ⟨_, rfl⟩
theorem runs_engineWalkFailure (cp : Nat) (ok : Bool) (s : State) : Runs (.engineWalkFailure cp ok) s := by
  rw [Runs, exec_engineWalkFailure]
  unfold execEngineWalkFailure
  exact ⟨_, rfl⟩
theorem runs_mcastDeliveryTimeout (cp ws : Nat) (s : State) : Runs (.mcastDeliveryTimeout cp ws) s := by
  rw [Runs, exec_mcastDeliveryTimeout]
  unfold execMcastDeliveryTimeout
  exact ⟨_, rfl⟩
theorem runs_heartbeatTimeout (bid rank : Nat) (s : State) : Runs (.heartbeatTimeout bid rank) s := by
  rw [Runs, exec_heartbeatTimeout]
  unfold execHeartbeatTimeout onBinding
  exact ⟨_, rfl⟩
theorem runs_suspect (bid rank : Nat) (s : State) : Runs (.suspect bid rank) s := by
  rw [Runs, exec_suspect]
  unfold execSuspect onPacket
  exact ⟨_, rfl⟩
theorem runs_gatherTimeout (bid : Nat) (s : State) : Runs (.gatherTimeout bid) s := by
  rw [Runs, exec_gatherTimeout]
  unfold execGatherTimeout onBinding
  exact ⟨_, rfl⟩
theorem runs_propose (bid src : Nat) (tag : BitVec 32) (mask : List Nat) (s : State) : Runs (.propose bid src tag mask) s := by
  rw [Runs, exec_propose]
  unfold execPropose onPacket
  exact ⟨_, rfl⟩
theorem runs_ack (bid src : Nat) (tag opseq : BitVec 32) (chunks : List Nat) (s : State) : Runs (.ack bid src tag opseq chunks) s := by
  rw [Runs, exec_ack]
  unfold execAck onTagged onPacket
  exact ⟨_, rfl⟩
theorem runs_nack (bid src : Nat) (tag : BitVec 32) (s : State) : Runs (.nack bid src tag) s := by
  rw [Runs, exec_nack]
  unfold execNack onTagged onPacket
  exact ⟨_, rfl⟩
theorem runs_ackTimeout (bid : Nat) (s : State) : Runs (.ackTimeout bid) s := by
  rw [Runs, exec_ackTimeout]
  unfold execAckTimeout onBinding
  exact ⟨_, rfl⟩
theorem runs_commit (bid : Nat) (tag opseq : BitVec 32) (mask : List Nat) (held : List (Nat × List Nat)) (s : State) : Runs (.commit bid tag opseq mask held) s := by
  rw [Runs, exec_commit]
  unfold execCommit onTagged onPacket
  exact ⟨_, rfl⟩
theorem runs_commitTimeout (bid : Nat) (s : State) : Runs (.commitTimeout bid) s := by
  rw [Runs, exec_commitTimeout]
  unfold execCommitTimeout onBinding
  exact ⟨_, rfl⟩
theorem runs_isolation (bid : Nat) (s : State) : Runs (.isolation bid) s := by
  rw [Runs, exec_isolation]
  unfold execIsolation onBinding
  exact ⟨_, rfl⟩
theorem runs_join (bid rank : Nat) (s : State) : Runs (.join bid rank) s := by
  rw [Runs, exec_join]
  unfold execJoin onPacket
  exact ⟨_, rfl⟩
theorem runs_partialLand (bid : Nat) (tag opseq : BitVec 32) (chunk : Nat) (mask : List Nat) (data : List (BitVec 8)) (s : State) : Runs (.partialLand bid tag opseq chunk mask data) s := by
  rw [Runs, exec_partialLand]
  unfold execPartialLand onData
  exact ⟨_, rfl⟩
theorem runs_finalLand (bid : Nat) (tag opseq : BitVec 32) (chunk : Nat) (mask : List Nat) (data : List (BitVec 8)) (s : State) : Runs (.finalLand bid tag opseq chunk mask data) s := by
  rw [Runs, exec_finalLand]
  unfold execFinalLand onData
  exact ⟨_, rfl⟩
theorem runs_complete (bid : Nat) (tag opseq : BitVec 32) (s : State) : Runs (.complete bid tag opseq) s := by
  rw [Runs, exec_complete]
  unfold execComplete onData
  exact ⟨_, rfl⟩
theorem runs_stepTimeout (bid chunk : Nat) (s : State) : Runs (.stepTimeout bid chunk) s := by
  rw [Runs, exec_stepTimeout]
  unfold execStepTimeout onBinding
  exact ⟨_, rfl⟩
theorem runs_collectiveAbandon (bid : Nat) (s : State) : Runs (.collectiveAbandon bid) s := by
  rw [Runs, exec_collectiveAbandon]
  unfold execCollectiveAbandon onBinding
  exact ⟨_, rfl⟩
theorem runs_amsg (part : BitVec 12) (src : BitVec 20) (core : Nat) (rec : BitVec 512) (s : State) : Runs (.amsg part src core rec) s := by
  rw [Runs, exec_amsg]
  unfold execAmsg
  exact ⟨_, rfl⟩
theorem runs_amack (w op : Nat) (ok : Bool) (s : State) : Runs (.amack w op ok) s := by
  rw [Runs, exec_amack]
  unfold execAmack
  exact ⟨_, rfl⟩
theorem runs_slotTableEdit (link : Nat) (table : List (BitVec 16)) (s : State) : Runs (.slotTableEdit link table) s := by
  rw [Runs, exec_slotTableEdit]
  unfold execSlotTableEdit
  exact ⟨_, rfl⟩
theorem runs_partitionReset (part : BitVec 12) (s : State) : Runs (.partitionReset part) s := by
  rw [Runs, exec_partitionReset]
  unfold execPartitionReset
  exact ⟨_, rfl⟩
theorem runs_purgeExpiry (part : BitVec 12) (s : State) : Runs (.purgeExpiry part) s := by
  rw [Runs, exec_purgeExpiry]
  unfold execPurgeExpiry
  exact ⟨_, rfl⟩
theorem runs_linkDetect (lanes : Nat) (s : State) : Runs (.linkDetect lanes) s := by
  rw [Runs, exec_linkDetect]
  unfold execLinkDetect
  exact ⟨_, rfl⟩
theorem runs_linkTrain (width rate : Nat) (s : State) : Runs (.linkTrain width rate) s := by
  rw [Runs, exec_linkTrain]
  unfold execLinkTrain
  exact ⟨_, rfl⟩
theorem runs_flitReplay (s : State) : Runs (.flitReplay) s := by
  rw [Runs, exec_flitReplay]
  unfold execFlitReplay
  exact ⟨_, rfl⟩
theorem runs_linkRetrain (ok : Bool) (s : State) : Runs (.linkRetrain ok) s := by
  rw [Runs, exec_linkRetrain]
  unfold execLinkRetrain
  exact ⟨_, rfl⟩
theorem runs_linkDown (s : State) : Runs (.linkDown) s := by
  rw [Runs, exec_linkDown]
  unfold execLinkDown
  exact ⟨_, rfl⟩
theorem runs_platd (v : BitVec 64) (s : State) : Runs (.platd v) s := by
  rw [Runs, exec_platd]
  unfold execPlatd hostAccess
  exact ⟨_, rfl⟩
theorem runs_ltol (v : BitVec 64) (s : State) : Runs (.ltol v) s := by
  rw [Runs, exec_ltol]
  unfold execLtol hostAccess
  exact ⟨_, rfl⟩
theorem runs_evt (s : State) : Runs (.evt) s := by
  rw [Runs, exec_evt]
  unfold execEvt hostAccess
  exact ⟨_, rfl⟩
theorem runs_partsetAssign (v : BitVec 64) (s : State) : Runs (.partsetAssign v) s := by
  rw [Runs, exec_partsetAssign]
  unfold execPartsetAssign hostAccess
  split <;> exact ⟨_, rfl⟩
theorem runs_partsetRemove (v : BitVec 64) (s : State) : Runs (.partsetRemove v) s := by
  rw [Runs, exec_partsetRemove]
  unfold execPartsetRemove hostAccess
  split <;> exact ⟨_, rfl⟩
theorem runs_amreg (v : BitVec 64) (s : State) : Runs (.amreg v) s := by
  rw [Runs, exec_amreg]
  unfold execAmreg hostAccess
  exact ⟨_, rfl⟩
theorem runs_ntfbase (v : BitVec 64) (s : State) : Runs (.ntfbase v) s := by
  rw [Runs, exec_ntfbase]
  unfold execNtfbase hostAccess
  exact ⟨_, rfl⟩
theorem runs_ntflog (v : BitVec 64) (s : State) : Runs (.ntflog v) s := by
  rw [Runs, exec_ntflog]
  unfold execNtflog hostAccess
  exact ⟨_, rfl⟩
theorem runs_ntfhead (v : BitVec 64) (s : State) : Runs (.ntfhead v) s := by
  rw [Runs, exec_ntfhead]
  unfold execNtfhead hostAccess
  exact ⟨_, rfl⟩
theorem runs_lqrec (q : Nat) (v : BitVec 64) (s : State) : Runs (.lqrec q v) s := by
  rw [Runs, exec_lqrec]
  unfold execLqrec hostAccess
  split <;> exact ⟨_, rfl⟩
theorem runs_registerWrite (ofs : Nat) (v : BitVec 64) (s : State) : Runs (.registerWrite ofs v) s := by
  rw [Runs, exec_registerWrite]
  unfold execRegisterWrite hostAccess
  split <;> exact ⟨_, rfl⟩
theorem runs_notify (w : Nat) (s : State) : Runs (.notify w) s := by
  rw [Runs, exec_notify]
  unfold execNotify
  split
  · exact ⟨_, rfl⟩
  · unfold service
    exact ⟨_, rfl⟩
theorem runs_lookup (w : Nat) (s : State) : Runs (.lookup w) s := by
  rw [Runs, exec_lookup]
  unfold execLookup service
  exact ⟨_, rfl⟩
theorem runs_abort (w : Nat) (s : State) : Runs (.abort w) s := by
  rw [Runs, exec_abort]
  unfold execAbort
  exact ⟨_, rfl⟩
theorem runs_modstat (w : Nat) (s : State) : Runs (.modstat w) s := by
  rw [Runs, exec_modstat]
  unfold execModstat service
  exact ⟨_, rfl⟩
theorem runs_moduleLoad (asid : BitVec 16) (idx : Nat) (base : BitVec 64) (file len : Nat) (s : State) : Runs (.moduleLoad asid idx base file len) s := by
  rw [Runs, exec_moduleLoad]
  unfold execModuleLoad
  exact ⟨_, rfl⟩
theorem runs_moduleUnload (asid : BitVec 16) (idx : Nat) (s : State) : Runs (.moduleUnload asid idx) s := by
  rw [Runs, exec_moduleUnload]
  unfold execModuleUnload
  exact ⟨_, rfl⟩
theorem runs_powerStateEntry (s : State) : Runs (.powerStateEntry) s := by
  rw [Runs, exec_powerStateEntry]
  unfold execPowerStateEntry
  exact ⟨_, rfl⟩
theorem runs_fatalErrorDump (struct die : BitVec 8) (s : State) : Runs (.fatalErrorDump struct die) s := by
  rw [Runs, exec_fatalErrorDump]
  unfold execFatalErrorDump
  exact ⟨_, rfl⟩
theorem runs_firmwareImageCheck (hdr payload : List (BitVec 8)) (s : State) : Runs (.firmwareImageCheck hdr payload) s := by
  rw [Runs, exec_firmwareImageCheck]
  unfold execFirmwareImageCheck
  exact ⟨_, rfl⟩
theorem runs_attestation (nonce : List (BitVec 8)) (s : State) : Runs (.attestation nonce) s := by
  rw [Runs, exec_attestation]
  unfold execAttestation
  exact ⟨_, rfl⟩
theorem runs_packageReset (s : State) : Runs (.packageReset) s := by
  rw [Runs, exec_packageReset]
  unfold execPackageReset
  exact ⟨_, rfl⟩
theorem runs_powerOn (s : State) : Runs (.powerOn) s := by
  rw [Runs, exec_powerOn]
  unfold execPowerOn
  exact ⟨_, rfl⟩
theorem runs_heartbeat (bid rank : Nat) (s : State) : Runs (.heartbeat bid rank) s := by
  rw [Runs, exec_heartbeat]
  unfold execHeartbeat onPacket
  exact ⟨_, rfl⟩
theorem runs_fabricLinkDown (link : Nat) (s : State) : Runs (.fabricLinkDown link) s := by
  rw [Runs, exec_fabricLinkDown]
  unfold execFabricLinkDown
  exact ⟨_, rfl⟩
theorem runs_fabricLinkTrained (s : State) : Runs (.fabricLinkTrained) s := by
  rw [Runs, exec_fabricLinkTrained]
  unfold execFabricLinkTrained
  exact ⟨_, rfl⟩
theorem runs_contextCreate (asid : BitVec 16) (root win : BitVec 64) (q1 q2 q3 : Nat) (s : State) : Runs (.contextCreate asid root win q1 q2 q3) s := by
  rw [Runs, exec_contextCreate]
  unfold execContextCreate
  exact ⟨_, rfl⟩
theorem runs_contextErrorCollection (asid : BitVec 16) (s : State) : Runs (.contextErrorCollection asid) s := by
  rw [Runs, exec_contextErrorCollection]
  unfold execContextErrorCollection
  exact ⟨_, rfl⟩
theorem runs_faultBufferDiscard (cl n : Nat) (s : State) : Runs (.faultBufferDiscard cl n) s := by
  rw [Runs, exec_faultBufferDiscard]
  unfold execFaultBufferDiscard
  exact ⟨_, rfl⟩

/-- Every meaning is. -/
theorem runs (ins : Instr) (s : State) : Runs ins s := by
  cases ins with
  | bra h disp live => exact runs_bra h disp live s
  | call h disp live => exact runs_call h disp live s
  | brl h disp => exact runs_brl h disp s
  | calll h disp => exact runs_calll h disp s
  | brx h a live => exact runs_brx h a live s
  | callx h a live => exact runs_callx h a live s
  | ret h live => exact runs_ret h live s
  | exit h => exact runs_exit h s
  | loop h a len => exact runs_loop h a len s
  | lbrk h n => exact runs_lbrk h n s
  | dly h n => exact runs_dly h n s
  | nop h => exact runs_nop h s
  | yield h => exact runs_yield h s
  | ipref h a ofs nb lvl => exact runs_ipref h a ofs nb lvl s
  | trap h code => exact runs_trap h code s
  | eret h => exact runs_eret h s
  | bkpt h code => exact runs_bkpt h code s
  | sysc h code => exact runs_sysc h code s
  | iadd h d a b ty sat => exact runs_iadd h d a b ty sat s
  | isub h d a b ty sat => exact runs_isub h d a b ty sat s
  | imul h d a b ty => exact runs_imul h d a b ty s
  | imulh h d a b ty => exact runs_imulh h d a b ty s
  | imad h d a b c ty => exact runs_imad h d a b c ty s
  | imadw h d a b c ty => exact runs_imadw h d a b c ty s
  | imin h d a b ty => exact runs_imin h d a b ty s
  | imax h d a b ty => exact runs_imax h d a b ty s
  | iabs h d a ty sat => exact runs_iabs h d a ty sat s
  | and h d a b ty => exact runs_and h d a b ty s
  | or h d a b ty => exact runs_or h d a b ty s
  | xor h d a b ty => exact runs_xor h d a b ty s
  | andn h d a b ty => exact runs_andn h d a b ty s
  | orn h d a b ty => exact runs_orn h d a b ty s
  | shl h d a b ty => exact runs_shl h d a b ty s
  | shr h d a b ty => exact runs_shr h d a b ty s
  | sar h d a b ty => exact runs_sar h d a b ty s
  | rot h d a b ty => exact runs_rot h d a b ty s
  | fsh h d a b c ty dir => exact runs_fsh h d a b c ty dir s
  | bfx h d a ty pos len => exact runs_bfx h d a ty pos len s
  | bfi h d a b ty pos len => exact runs_bfi h d a b ty pos len s
  | popc h d a ty => exact runs_popc h d a ty s
  | clz h d a ty => exact runs_clz h d a ty s
  | brev h d a ty => exact runs_brev h d a ty s
  | prmb h d a b c ty => exact runs_prmb h d a b c ty s
  | sel h d a b c ty => exact runs_sel h d a b c ty s
  | mov h d a ty => exact runs_mov h d a ty s
  | lea h d a b ty sh => exact runs_lea h d a b ty sh s
  | iadd64 h d a b ty sat => exact runs_iadd64 h d a b ty sat s
  | isub64 h d a b ty sat => exact runs_isub64 h d a b ty sat s
  | icvt h d a ty sat sty => exact runs_icvt h d a ty sat sty s
  | iaddLit h d a imm ty sat => exact runs_iaddLit h d a imm ty sat s
  | isubLit h d a imm ty sat => exact runs_isubLit h d a imm ty sat s
  | imulLit h d a imm ty => exact runs_imulLit h d a imm ty s
  | imulhLit h d a imm ty => exact runs_imulhLit h d a imm ty s
  | iminLit h d a imm ty => exact runs_iminLit h d a imm ty s
  | imaxLit h d a imm ty => exact runs_imaxLit h d a imm ty s
  | andLit h d a imm ty => exact runs_andLit h d a imm ty s
  | orLit h d a imm ty => exact runs_orLit h d a imm ty s
  | xorLit h d a imm ty => exact runs_xorLit h d a imm ty s
  | andnLit h d a imm ty => exact runs_andnLit h d a imm ty s
  | ornLit h d a imm ty => exact runs_ornLit h d a imm ty s
  | shlLit h d a imm ty => exact runs_shlLit h d a imm ty s
  | shrLit h d a imm ty => exact runs_shrLit h d a imm ty s
  | sarLit h d a imm ty => exact runs_sarLit h d a imm ty s
  | rotLit h d a imm ty => exact runs_rotLit h d a imm ty s
  | movi h d imm ty => exact runs_movi h d imm ty s
  | movh h d a imm ty => exact runs_movh h d a imm ty s
  | icmp h d a b c ty cond comb => exact runs_icmp h d a b c ty cond comb s
  | plop h d a b c lut => exact runs_plop h d a b c lut s
  | pmov h d a mask mode => exact runs_pmov h d a mask mode s
  | fadd h d a b ty f => exact runs_fadd h d a b ty f s
  | faddF64 h d a b ty f => exact runs_faddF64 h d a b ty f s
  | fsub h d a b ty f => exact runs_fsub h d a b ty f s
  | fsubF64 h d a b ty f => exact runs_fsubF64 h d a b ty f s
  | fmul h d a b ty f => exact runs_fmul h d a b ty f s
  | fmulF64 h d a b ty f => exact runs_fmulF64 h d a b ty f s
  | ffma h d a b c ty f => exact runs_ffma h d a b c ty f s
  | ffmaF64 h d a b c ty f => exact runs_ffmaF64 h d a b c ty f s
  | fmin h d a b ty f => exact runs_fmin h d a b ty f s
  | fminF64 h d a b ty f => exact runs_fminF64 h d a b ty f s
  | fmax h d a b ty f => exact runs_fmax h d a b ty f s
  | fmaxF64 h d a b ty f => exact runs_fmaxF64 h d a b ty f s
  | fcmp h d a b c ty cond comb => exact runs_fcmp h d a b c ty cond comb s
  | fcls h d a ty mask => exact runs_fcls h d a ty mask s
  | fcmpF64 h d a b c ty cond comb => exact runs_fcmpF64 h d a b c ty cond comb s
  | fclsF64 h d a ty mask => exact runs_fclsF64 h d a ty mask s
  | fscl h d a b ty f => exact runs_fscl h d a b ty f s
  | fsclF64 h d a b ty f => exact runs_fsclF64 h d a b ty f s
  | frnd h d a ty f => exact runs_frnd h d a ty f s
  | frndF64 h d a ty f => exact runs_frndF64 h d a ty f s
  | faddLit h d a imm ty f => exact runs_faddLit h d a imm ty f s
  | fsubLit h d a imm ty f => exact runs_fsubLit h d a imm ty f s
  | fmulLit h d a imm ty f => exact runs_fmulLit h d a imm ty f s
  | fminLit h d a imm ty f => exact runs_fminLit h d a imm ty f s
  | fmaxLit h d a imm ty f => exact runs_fmaxLit h d a imm ty f s
  | fcmpLit h d a imm ty cond => exact runs_fcmpLit h d a imm ty cond s
  | frcp h d a ty f => exact runs_frcp h d a ty f s
  | frsq h d a ty f => exact runs_frsq h d a ty f s
  | fsqrt h d a ty f => exact runs_fsqrt h d a ty f s
  | fex2 h d a ty f => exact runs_fex2 h d a ty f s
  | flg2 h d a ty f => exact runs_flg2 h d a ty f s
  | fsin h d a ty f => exact runs_fsin h d a ty f s
  | fcos h d a ty f => exact runs_fcos h d a ty f s
  | hfma2 h d a b c ty f => exact runs_hfma2 h d a b c ty f s
  | hadd2 h d a b ty f => exact runs_hadd2 h d a b ty f s
  | hmul2 h d a b ty f => exact runs_hmul2 h d a b ty f s
  | qdot4 h d a b c ty rm sat bty => exact runs_qdot4 h d a b c ty rm sat bty s
  | idot4 h d a b c ty sat bsgn => exact runs_idot4 h d a b c ty sat bsgn s
  | fcvt h d a ty rm sat sty => exact runs_fcvt h d a ty rm sat sty s
  | f2i h d a ty rm sty => exact runs_f2i h d a ty rm sty s
  | i2f h d a ty rm sat sty => exact runs_i2f h d a ty rm sat sty s
  | pack8 h d a b c ty rm sat half => exact runs_pack8 h d a b c ty rm sat half s
  | unpk8 h d a ty ety half => exact runs_unpk8 h d a ty ety half s
  | shfl h d a b ty seg mode => exact runs_shfl h d a b ty seg mode s
  | vote h d a cnt neg mode => exact runs_vote h d a cnt neg mode s
  | matchLanes h d a ty => exact runs_matchLanes h d a ty s
  | redux h d a ty rop => exact runs_redux h d a ty rop s
  | wfence h => exact runs_wfence h s
  | mjoin h d disp => exact runs_mjoin h d disp s
  | mleave h set => exact runs_mleave h set s
  | mwait h a => exact runs_mwait h a s
  | mmov h d a b mode => exact runs_mmov h d a b mode s
  | msync h a => exact runs_msync h a s
  | spawn h a b wsrc wid tgt nw prio idem => exact runs_spawn h a b wsrc wid tgt nw prio idem s
  | cont h a b wsrc wid tgt nw prio idem => exact runs_cont h a b wsrc wid tgt nw prio idem s
  | split h a disp live => exact runs_split h a disp live s
  | rgive h nb => exact runs_rgive h nb s
  | rclaim h nb => exact runs_rclaim h nb s
  | segq h d a => exact runs_segq h d a s
  | launch h d a ofs lq => exact runs_launch h d a ofs lq s
  | waitk h a n => exact runs_waitk h a n s
  | tkrd h d => exact runs_tkrd h d s
  | tksav h a ofs => exact runs_tksav h a ofs s
  | tkrst h opn set => exact runs_tkrst h opn set s
  | ld h d a ofs scope order ty vec ch => exact runs_ld h d a ofs scope order ty vec ch s
  | st h a b ofs scope order ty vec ch => exact runs_st h a b ofs scope order ty vec ch s
  | stn h a b ofs scope order ty nsel => exact runs_stn h a b ofs scope order ty nsel s
  | stnReport h d a b ofs scope order ty nsel => exact runs_stnReport h d a b ofs scope order ty nsel s
  | pref h a ofs lvl => exact runs_pref h a ofs lvl s
  | ldf h d a ofs ty vec => exact runs_ldf h d a ofs ty vec s
  | dcwb h a ofs scope => exact runs_dcwb h a ofs scope s
  | dcinv h a ofs scope => exact runs_dcinv h a ofs scope s
  | dcfl h a ofs scope => exact runs_dcfl h a ofs scope s
  | icinv h a ofs scope => exact runs_icinv h a ofs scope s
  | ifence h => exact runs_ifence h s
  | fence h scope order => exact runs_fence h scope order s
  | rsmk h d a b keep lvl => exact runs_rsmk h d a b keep lvl s
  | rsrev h a b ofs mode => exact runs_rsrev h a b ofs mode s
  | rsqry h d a ofs => exact runs_rsqry h d a ofs s
  | atom h d a b ofs scope order ty aop => exact runs_atom h d a b ofs scope order ty aop s
  | acas h d a b ofs scope order ty => exact runs_acas h d a b ofs scope order ty s
  | red h a b ofs scope order ty aop => exact runs_red h a b ofs scope order ty aop s
  | enq h d a b ofs scope order sz blk => exact runs_enq h d a b ofs scope order sz blk s
  | deq h d a ofs scope order sz blk => exact runs_deq h d a ofs scope order sz blk s
  | qinit h a b ofs sz => exact runs_qinit h a b ofs sz s
  | qstat h d a ofs => exact runs_qstat h d a ofs s
  | gjoin h => exact runs_gjoin h s
  | gleave h => exact runs_gleave h s
  | gmap h a slot => exact runs_gmap h a slot s
  | cpy h a ofs => exact runs_cpy h a ofs s
  | gath h a ofs => exact runs_gath h a ofs s
  | scat h a ofs => exact runs_scat h a ofs s
  | mcast h a ofs => exact runs_mcast h a ofs s
  | cpyq h d a ofs => exact runs_cpyq h d a ofs s
  | binit h a b ofs => exact runs_binit h a b ofs s
  | barr h a b ofs => exact runs_barr h a b ofs s
  | bwait h d a b ofs => exact runs_bwait h d a b ofs s
  | btst h d a ofs => exact runs_btst h d a ofs s
  | tdecl h a b rdy tile => exact runs_tdecl h a b rdy tile s
  | tstat h d tile => exact runs_tstat h d tile s
  | trel h tile => exact runs_trel h tile s
  | mma h d a b c ty be5 kq za => exact runs_mma h d a b c ty be5 kq za s
  | mmap h d a b c ty be5 kq za => exact runs_mmap h d a b c ty be5 kq za s
  | accsc h d a b c => exact runs_accsc h d a b c s
  | accz h d => exact runs_accz h d s
  | accrd h d a b => exact runs_accrd h d a b s
  | accwr h d a b => exact runs_accwr h d a b s
  | accld h d a str => exact runs_accld h d a str s
  | accst h a b str => exact runs_accst h a b str s
  | coll h d a b ofs => exact runs_coll h d a b ofs s
  | viewq h d b sl => exact runs_viewq h d b sl s
  | amsend h a b c nw => exact runs_amsend h a b c nw s
  | arrq h d blk => exact runs_arrq h d blk s
  | mfs h d a => exact runs_mfs h d a s
  | mts h d a => exact runs_mts h d a s
  | illegalWord => exact runs_illegalWord s
  | operationRetire w tok => exact runs_operationRetire w tok s
  | asyncMemoryErrorTrap w => exact runs_asyncMemoryErrorTrap w s
  | membershipChangeTrap w => exact runs_membershipChangeTrap w s
  | waveEnd w => exact runs_waveEnd w s
  | rclaimGrant w => exact runs_rclaimGrant w s
  | writeAcknowledge w => exact runs_writeAcknowledge w s
  | autoContribution blk => exact runs_autoContribution blk s
  | gleaveTakesEffect blk => exact runs_gleaveTakesEffect blk s
  | cooperativeLeave w => exact runs_cooperativeLeave w s
  | hopArrival w => exact runs_hopArrival w s
  | copyActivate core => exact runs_copyActivate core s
  | segmentLanded cp => exact runs_segmentLanded cp s
  | mcastDelivery cp ws => exact runs_mcastDelivery cp ws s
  | copyComplete cp => exact runs_copyComplete cp s
  | chainedCommandStart core tile => exact runs_chainedCommandStart core tile s
  | matrixOpStart core => exact runs_matrixOpStart core s
  | rowCommit core tile => exact runs_rowCommit core tile s
  | matrixLoadError core tile kind => exact runs_matrixLoadError core tile kind s
  | vectorClockReceive n => exact runs_vectorClockReceive n s
  | posyRecordArrival n => exact runs_posyRecordArrival n s
  | formTimeout core n => exact runs_formTimeout core n s
  | taskTypeRead core n resolved => exact runs_taskTypeRead core n resolved s
  | blockHandout core entry => exact runs_blockHandout core entry s
  | inqDequeue core entry => exact runs_inqDequeue core entry s
  | blockBind core entry => exact runs_blockBind core entry s
  | outqEnqueue blk => exact runs_outqEnqueue blk s
  | powerWake => exact runs_powerWake s
  | collStage bid chunk => exact runs_collStage bid chunk s
  | reduceBlockEnd bid chunk => exact runs_reduceBlockEnd bid chunk s
  | launchEnd slot => exact runs_launchEnd slot s
  | blockLeavePush blk => exact runs_blockLeavePush blk s
  | beacon die => exact runs_beacon die s
  | overflowRingDrain core slot => exact runs_overflowRingDrain core slot s
  | steal core entry => exact runs_steal core entry s
  | heartbeatSend bid => exact runs_heartbeatSend bid s
  | occupancyReport core slot => exact runs_occupancyReport core slot s
  | hostWriteConfirm w => exact runs_hostWriteConfirm w s
  | fixedLatencyWriteback w => exact runs_fixedLatencyWriteback w s
  | faultResolve w ok => exact runs_faultResolve w ok s
  | parkedWaveResume w => exact runs_parkedWaveResume w s
  | parkedWaveDeliver w => exact runs_parkedWaveDeliver w s
  | parkedWaveKill w => exact runs_parkedWaveKill w s
  | launchAbort slot => exact runs_launchAbort slot s
  | debugRead w item => exact runs_debugRead w item s
  | debugWrite w item v => exact runs_debugWrite w item v s
  | debugWriteForce w item v => exact runs_debugWriteForce w item v s
  | debugStep w => exact runs_debugStep w s
  | debugResume w => exact runs_debugResume w s
  | debugKill w => exact runs_debugKill w s
  | preemptionRequest blk deadline => exact runs_preemptionRequest blk deadline s
  | forcedSave blk area => exact runs_forcedSave blk area s
  | contextSwitchOut asid core area discard => exact runs_contextSwitchOut asid core area discard s
  | blockRestore blk core entry => exact runs_blockRestore blk core entry s
  | scopeLocalCopyEviction cl line => exact runs_scopeLocalCopyEviction cl line s
  | contextTeardown asid => exact runs_contextTeardown asid s
  | translationChange asid va size => exact runs_translationChange asid va size s
  | launchAdmit q ovb pins => exact runs_launchAdmit q ovb pins s
  | bindRecordWrite core entry expect rec => exact runs_bindRecordWrite core entry expect rec s
  | schedulingPeriod deadline pins => exact runs_schedulingPeriod deadline pins s
  | overflowExtend slot core base log2n => exact runs_overflowExtend slot core base log2n s
  | launchSuspend slot area => exact runs_launchSuspend slot area s
  | engineWalkFailure cp ok => exact runs_engineWalkFailure cp ok s
  | mcastDeliveryTimeout cp ws => exact runs_mcastDeliveryTimeout cp ws s
  | heartbeatTimeout bid rank => exact runs_heartbeatTimeout bid rank s
  | suspect bid rank => exact runs_suspect bid rank s
  | gatherTimeout bid => exact runs_gatherTimeout bid s
  | propose bid src tag mask => exact runs_propose bid src tag mask s
  | ack bid src tag opseq chunks => exact runs_ack bid src tag opseq chunks s
  | nack bid src tag => exact runs_nack bid src tag s
  | ackTimeout bid => exact runs_ackTimeout bid s
  | commit bid tag opseq mask held => exact runs_commit bid tag opseq mask held s
  | commitTimeout bid => exact runs_commitTimeout bid s
  | isolation bid => exact runs_isolation bid s
  | join bid rank => exact runs_join bid rank s
  | partialLand bid tag opseq chunk mask data => exact runs_partialLand bid tag opseq chunk mask data s
  | finalLand bid tag opseq chunk mask data => exact runs_finalLand bid tag opseq chunk mask data s
  | complete bid tag opseq => exact runs_complete bid tag opseq s
  | stepTimeout bid chunk => exact runs_stepTimeout bid chunk s
  | collectiveAbandon bid => exact runs_collectiveAbandon bid s
  | amsg part src core rec => exact runs_amsg part src core rec s
  | amack w op ok => exact runs_amack w op ok s
  | slotTableEdit link table => exact runs_slotTableEdit link table s
  | partitionReset part => exact runs_partitionReset part s
  | purgeExpiry part => exact runs_purgeExpiry part s
  | linkDetect lanes => exact runs_linkDetect lanes s
  | linkTrain width rate => exact runs_linkTrain width rate s
  | flitReplay => exact runs_flitReplay s
  | linkRetrain ok => exact runs_linkRetrain ok s
  | linkDown => exact runs_linkDown s
  | platd v => exact runs_platd v s
  | ltol v => exact runs_ltol v s
  | evt => exact runs_evt s
  | partsetAssign v => exact runs_partsetAssign v s
  | partsetRemove v => exact runs_partsetRemove v s
  | amreg v => exact runs_amreg v s
  | ntfbase v => exact runs_ntfbase v s
  | ntflog v => exact runs_ntflog v s
  | ntfhead v => exact runs_ntfhead v s
  | lqrec q v => exact runs_lqrec q v s
  | registerWrite ofs v => exact runs_registerWrite ofs v s
  | notify w => exact runs_notify w s
  | lookup w => exact runs_lookup w s
  | abort w => exact runs_abort w s
  | modstat w => exact runs_modstat w s
  | moduleLoad asid idx base file len => exact runs_moduleLoad asid idx base file len s
  | moduleUnload asid idx => exact runs_moduleUnload asid idx s
  | powerStateEntry => exact runs_powerStateEntry s
  | fatalErrorDump struct die => exact runs_fatalErrorDump struct die s
  | firmwareImageCheck hdr payload => exact runs_firmwareImageCheck hdr payload s
  | attestation nonce => exact runs_attestation nonce s
  | packageReset => exact runs_packageReset s
  | powerOn => exact runs_powerOn s
  | heartbeat bid rank => exact runs_heartbeat bid rank s
  | fabricLinkDown link => exact runs_fabricLinkDown link s
  | fabricLinkTrained => exact runs_fabricLinkTrained s
  | contextCreate asid root win q1 q2 q3 => exact runs_contextCreate asid root win q1 q2 q3 s
  | contextErrorCollection asid => exact runs_contextErrorCollection asid s
  | faultBufferDiscard cl n => exact runs_faultBufferDiscard cl n s

end Sys2Proof.Machine
end

