-- ==== Sys2Proof/Tests/Slice0.lean ====
section
/-! SUPPORT. Tests: ill-formed instructions, decoding from words written out from the encoding tables of the spec, worked results
of the spec, and for every obligation with hypotheses states and operands that meet the hypotheses of each of its clauses. -/

namespace Sys2Proof.Tests

set_option linter.unusedVariables false
set_option Elab.async false

open Sys2Proof Sys2Proof.Machine

/-! ### Small states: one wave of one lane in one block of context 1 -/

def c0 : Ctl := ⟨false, 7, 0, none, none, false⟩
def r (k : Nat) : Src := ⟨.w (BitVec.ofNat 8 k), false⟩
def x0 : Wave := { Wave.empty with
  live := true, uid := 1, alloc := 64, regs := [(1, 256)], thr := [(0, { Thread.idle with pc := 0x1000, st := .run })] }
def b0 : Block := { Block.empty with live := true, asid := 1, waves := 1, scrsz := 65536, tileN := 8, accN := 8 }
def k0 : Context := { Context.none with live := true, window := 0x10000000000, q1 := 2, q2 := 4, q3 := 4 }
def s0 : State := ⟨[], { Device.reset with waves := [(0, x0)], blocks := [(0, b0)], contexts := [(1, k0)] }⟩
def dv (f : Device → Device) : State := ⟨[], f s0.dev⟩
def issOf (h : Ctl) (s : State) : Iss := match (St.of s).group h with
  | some p => p.1
  | none => ⟨0, 0, 0, 0, 0, 0, 0, 0, 0, h⟩
def waveOf (h : Ctl) (s : State) : Wave := match (St.of s).group h with
  | some p => p.2
  | none => Wave.empty
theorem goes_of {h : Ctl} {q : Req} {s : State} (g : goes h q s = true) : Goes h q s (issOf h s) (waveOf h s) := by
  obtain ⟨i, x, e, n⟩ := goes_iff.mp g
  have hi : issOf h s = i := by unfold issOf; rw [e]
  have hx : waveOf h s = x := by unfold waveOf; rw [e]
  rw [hi, hx]; exact ⟨e, n⟩
theorem all_act {m : Lanes} {P : Nat → Prop} (h : ∀ l ∈ lanesOf m, P l) : ∀ l, m.getLsbD l = true → P l := fun l a => h l (mem_of_act a)
theorem no_handler {x : Wave} (h : x.frame = none) : HandlerGoesOn x := fun f e => by rw [h] at e; exact absurd e (by simp)
theorem one_act {m : Lanes} {P : Nat → Prop} (hm : lanesOf m = [0]) (h : P 0) : ∀ l, m.getLsbD l = true → P l :=
  all_act (fun l hl => by rw [hm] at hl; simp at hl; rw [hl]; exact h)
def xv (f : Wave → Wave) : State := ⟨[], { s0.dev with waves := [(0, f x0)] }⟩
def bv (f : Block → Block) : State := ⟨[], { s0.dev with blocks := [(0, f b0)] }⟩
theorem no_hops {s : St} {i : Iss} {f : Nat → Addr} (h : (s.d.launch i.slot).travel = false) : s.hopsOf i f = [] := by simp [St.hopsOf, h]
theorem ok_of {ε α : Type} {e : Except ε α} {a : α} (h : e.toOption = some a) : e = .ok a := by cases e <;> simp_all [Except.toOption]
theorem no_pend {x : Wave} (h : x.pend = 0) (k : Nat) : x.pending (k, 1) = false := by simp [Wave.pending, h]
def fr0 : Frame := ⟨7, 0, 0, [], [], 1⟩
def y0 : Binding := {
  live := true, rcd := 0, part := 0, slot := 0, asid := 1, rank := 0, members := [0, 1], tag := 1, view := [0, 1], st := .normal, seen := 1, acked := 1, suspects := [], cands := [], gather := false, gatherAt := 0, agreeAt := 0, began := 0, prop := none, acks := [], opseq := 0, restarts := 0, chunks := [], colls := [], queue := [3], ovf := false, arrq := [], held := [], sent := [], discards := 0, beats := [], beat := none }
theorem ok_pair {ε α β : Type} {e : Except ε (α × β)} {a : α} {b : β} (h : e.toOption.map (·.1) = some a) :
    e = .ok (a, (e.toOption.map (·.2)).getD b) := by
  cases e with
  | error _ => simp [Except.toOption] at h
  | ok p => simp [Except.toOption] at h; subst h; rfl
def s1 : State := State.reset.startWith 0x04B700000000000000000000
def tr0 : Trap := ⟨32, 1, 1, 0x1000, 0x1000, 0, 0, 0, 0⟩
def op0 : Op := ⟨0, some 3, .w 4 2, 1, [(0, 7)], true, none, 0x400, false, []⟩
def pe0 : PipeEnt := ⟨0, .w 4 2, 1, [(0, 7)], none⟩
theorem some4 {α β γ δ : Type} {o : Option (α × β × γ × δ)} (h : o.isSome = true) :
    o = some ((o.get h).1, (o.get h).2.1, (o.get h).2.2.1, (o.get h).2.2.2) := by
  cases o with
  | none => simp at h
  | some p => rfl
theorem some2 {α β : Type} {o : Option (α × β)} {a : α} {b : β} (h : o.map (·.1) = some a) : o = some (a, (o.map (·.2)).getD b) := by
  cases o with
  | none => simp at h
  | some p => simp at h; subst h; rfl
theorem ok_val {ε α : Type} {e : Except ε α} {d : α} (h : e.toOption.isSome = true) : e = .ok (e.toOption.getD d) := by
  cases e <;> simp_all [Except.toOption]
theorem some_val {α : Type} {o : Option α} {d : α} (h : o.isSome = true) : o = some (o.getD d) := by cases o <;> simp_all
def sR : State := ⟨[], { s0.dev with waves := [(0, { x0 with wait := .rclaim 72 0 })], blocks := [(0, { b0 with bq := [(0, 128)], pool := [(0, 64)] })] }⟩
def rc0 : Record := ⟨18, 0, 0x1000, 1, 0, 0, 0, 0, 0, false⟩
def cp0 : Copy := {
  id := 1, core := 0, blk := 0, uid := 1, op := 0, kind := 0, rcd := 0, ofs := 0, active := false, row := 0, seg := 0, idxv := none, bytes := 0, fbk := 0, parked := [], landed := false, err := none, walk := none, deliveries := [], sentAt := 0, fills := [], reads := [], rowRead := none, wrote := [], chained := false, prio := 0, need := 0 }
def mo0 : MatOp := {
  id := 1, core := 0, blk := 0, uid := 1, op := 0, tok := 0, kind := 3, tile := 0, tile2 := none, ty := 0, be5 := false, kq := 0, za := false, xa := 0, xb := 0, c := 0, row := 0, started := true, ended := false, chain := none, go := true, data := [], reads := [], start := 0, r0 := 0, lanes := 1, word := 0, need := 0, wrote := [] }
def la0 : Launch := { Launch.free with used := true, admitted := true, asid := 1, hi := [(0, 1)] }
def sB (l : Launch) : State := dv fun d => { d with launches := [(0, l)], binds := [(1, 2 ^ 126)] }
def cV (l : List Copy) : State := dv fun d => { d with copies := l }
def mV (l : List MatOp) : State := dv fun d => { d with mats := l, clock := 0x100000 }
def yV (f : Binding → Binding) : State := dv fun d => { d with bindings := [(0, f y0)], fabricUp := true, partitions := [(0, ⟨true, 1, none⟩)], clock := 0x10000000000 }
def lU : State := dv fun d => { d with link := .active }
theorem done_of {p : QRes × St} {v : Nat} {o : Option Place} (h : (match p.1 with
    | .done w z => w == v && z == o
    | _ => false) = true) : p = (.done v o, p.2) := by
  obtain ⟨q, t⟩ := p
  cases q <;> simp_all
def sQ (n : Nat) : State := ⟨s1.mem.writeAll (cellsOf 0x100000 64 (n + 2 ^ 134 * (0x100040 / 64))), { s1.dev with
  launches := [(0, { la0 with rcd := BitVec.ofNat 1024 (2 ^ 128 * 0x100000 + 2 ^ 192 * 0x100000), handed := [(1, some 0)] })], binds := [(1, 2 ^ 126)], blocks := [(0, { b0 with outq := true })] }⟩
theorem ok3 {α β : Type} {p : α × β × Bool} (h : p.2.2 = true) : p = (p.1, p.2.1, true) := by
  obtain ⟨a, b, c⟩ := p
  cases h
  rfl
def sG : State := ⟨Memory.writeAll (Memory.writeAll [] (cellsOf 0x100000 64 (1 + 2 ^ 134 * (0x100040 / 64)))) (cellsOf 0x100040 64 (2 ^ 140)), { s1.dev with
  launches := [(0, { la0 with ovb := 0x100000 })] }⟩
theorem take_of {α β : Type} {o : Option (α × β)} {a : α} {d : β} (h : o.map (·.1) = some a) : o = some (a, (o.map (·.2)).getD d) := by
  cases o with
  | none => simp at h
  | some p => simp at h; subst h; rfl
theorem proj3 {α β γ : Type} (p : α × β × γ) : p = (p.1, p.2.1, p.2.2) := rfl
theorem err_val {ε α : Type} {e : Except ε α} {d : ε} (h : e.toOption.isNone = true) : e = .error (match e with
    | .error k => k
    | .ok _ => d) := by cases e <;> simp [Except.toOption] at h ⊢
def ow0 : OutW := ⟨0, 0, false, none, false⟩
def lr0 : LReq := ⟨1, 0, 2, 0, 1, .scratch 0 0, 0⟩
def lc0 : Local := ⟨0, 5, 1, 0, 0, [(3, 7)], [], [1]⟩
def hd0 : Held := ⟨0, 5, 1, 0, [(3, 7)], [1], [], true⟩
def pk0 : Park := ⟨0, 0, 0, 0, 7, 1, 0, (0, 0, 0)⟩
def cS : Copy := { cp0 with active := true, rcd := BitVec.ofNat 512 (0x100000 + 2 ^ 64 * 0x100080) }
def cD : Copy := { cp0 with kind := 3, active := true, deliveries := [(0, .sent ⟨0, 0, 0⟩)] }
def cM : Copy := { cp0 with kind := 3, active := true, deliveries := [(0, .sent ⟨5, 0, 0⟩)] }
def cL : Copy := { cp0 with active := true, landed := true }
def sC (c : Copy) : State := ⟨s1.mem, { s1.dev with copies := [c] }⟩
def sT : State := ⟨[], { s0.dev with blocks := [(0, { b0 with tiles := [(0, ⟨1, 0, 1, 16, 0⟩)] })], copies := [cD] }⟩
theorem no_some {α : Type} {o : Option α} {P : α → Prop} (h : o.isNone = true) : ∀ r, o = some r → P r := by cases o <;> simp_all
def cA : Copy := { cp0 with blk := 70, deliveries := [(0, .accepted 0)] }
/-- A linked module of one section of 16 bytes at 0 (7, then 0), with one relocation: ABS64 of the load base plus 5 at 8 (R260 to R264). -/
def hxo0 : Nat := (0x4000020100004F5848 + 2 ^ 128 * 0x5 + 2 ^ 1024 * 0x100000000000000180 + 2 ^ 1152 * 0x402000000000000000000000000 + 2 ^ 1280 * 0x4 + 2 ^ 1536 * 0x200000000000000190 + 2 ^ 1664 * 0x30006000100000000000000000000 + 2 ^ 2048 * 0x2000000000000001B0 + 2 ^ 2176 * 0x40004000000000000000000000000 + 2 ^ 2560 * 0x100000000000001D0 + 2 ^ 2688 * 0x5000000000000000000000000 + 2 ^ 3072 * 0x7 + 2 ^ 3200 * 0x1000000000000000000000008 + 2 ^ 3328 * 0x5)
/-! A conjunction whose first parts are decided together. -/
theorem pre2 {A B R : Prop} (h : A ∧ B) (r : R) : A ∧ B ∧ R := ⟨h.1, h.2, r⟩
theorem pre3 {A B C R : Prop} (h : A ∧ B ∧ C) (r : R) : A ∧ B ∧ C ∧ R := ⟨h.1, h.2.1, h.2.2, r⟩
theorem pre4 {A B C D R : Prop} (h : A ∧ B ∧ C ∧ D) (r : R) : A ∧ B ∧ C ∧ D ∧ R := ⟨h.1, h.2.1, h.2.2.1, h.2.2.2, r⟩
theorem pre5 {A B C D E R : Prop} (h : A ∧ B ∧ C ∧ D ∧ E) (r : R) : A ∧ B ∧ C ∧ D ∧ E ∧ R := ⟨h.1, h.2.1, h.2.2.1, h.2.2.2.1, h.2.2.2.2, r⟩
theorem pre6 {A B C D E F R : Prop} (h : A ∧ B ∧ C ∧ D ∧ E ∧ F) (r : R) : A ∧ B ∧ C ∧ D ∧ E ∧ F ∧ R := ⟨h.1, h.2.1, h.2.2.1, h.2.2.2.1, h.2.2.2.2.1, h.2.2.2.2.2, r⟩
theorem pre7 {A B C D E F G R : Prop} (h : A ∧ B ∧ C ∧ D ∧ E ∧ F ∧ G) (r : R) : A ∧ B ∧ C ∧ D ∧ E ∧ F ∧ G ∧ R := ⟨h.1, h.2.1, h.2.2.1, h.2.2.2.1, h.2.2.2.2.1, h.2.2.2.2.2.1, h.2.2.2.2.2.2, r⟩
theorem pre8 {A B C D E F G H R : Prop} (h : A ∧ B ∧ C ∧ D ∧ E ∧ F ∧ G ∧ H) (r : R) : A ∧ B ∧ C ∧ D ∧ E ∧ F ∧ G ∧ H ∧ R := ⟨h.1, h.2.1, h.2.2.1, h.2.2.2.1, h.2.2.2.2.1, h.2.2.2.2.2.1, h.2.2.2.2.2.2.1, h.2.2.2.2.2.2.2, r⟩
/-! An access that holds every later one of its wave back, and a segment that ends just before the wave's instruction. -/
def lt0 : Late := ⟨1, .nop c0, ⟨0, 0, 0, 1, 0, 1, 1, 0x1000, 0, c0⟩, x0, [], [], 0, 0, 0, false, 0, 0xFFFFFFFF⟩
def hV (f : Wave → Wave) : State := ⟨[], { s0.dev with waves := [(0, f { x0 with opn := 1 })], late := [lt0] }⟩
def sE : State := ⟨[], { s0.dev with
  waves := [(0, { x0 with thr := [(0, { Thread.idle with pc := 0x1000, st := .run, seq := true })] })]
  launches := [(0, { la0 with rcd := BitVec.ofNat 1024 (2 ^ 738), map := some (0, [2 ^ 64 * 0x1000 + 2 ^ 180]) })] }⟩
theorem group_of {h : Ctl} {s : State} (g : ((St.of s).group h).isSome = true) : (St.of s).group h = some (issOf h s, waveOf h s) := by
  unfold issOf waveOf
  cases e : (St.of s).group h with
  | none => rw [e] at g; cases g
  | some p => rfl
theorem no_hint {h : Ctl} {x : Wave} (e : h.wait = none) : HintMet h x := fun k n g => by rw [e] at g; cases g
/-! A thread that has hopped, and a travelling launch at the head of queue 2 with its segment map in memory. -/
def sH : State := ⟨[], { s0.dev with
  waves := [(0, { x0 with thr := [(0, { Thread.idle with pc := 0x1000, st := .run, arriving := true })] })]
  launches := [(0, { la0 with rcd := BitVec.ofNat 1024 (2 ^ 448 * 0x10000000000 + 2 ^ 800 * 8) })] }⟩
def lT : Launch := { la0 with admitted := false, rcd := BitVec.ofNat 1024 (2 ^ 384 * 0x100000 + 2 ^ 738) }
def sA : State := ⟨Memory.writeAll (Memory.writeAll s1.mem (cellsOf 0x100000 64 (2 ^ 32))) (cellsOf 0x100040 32 (2 ^ 64 * 0x1000)), { s1.dev with
  launches := [(0, lT)], lqs := [(2, [⟨0⟩])] }⟩
def u : Ctl := ⟨false, 7, 0, none, none, false⟩
def q : Ctl := ⟨false, 7, 0, some 2, none, false⟩
def g : Ctl := ⟨true, 2, 2, none, none, true⟩
def cOff : Ctl := ⟨false, 0, 0, none, none, false⟩

/-! ### Ill-formed instructions: one for each cause of R60 and for each check -/

/-- Guards, operand classes, register groups and stale bits. -/
def badForms : List (Instr × Illegal) :=
  [(.nop ⟨true, 7, 0, none, none, false⟩, .neverGuard),
   (.iadd u (.p 1) (r 2) (r 3) 4 false, .classNotAccepted),
   (.iadd u (.w 1) ⟨.n 2, false⟩ (r 3) 4 false, .classNotAccepted),
   (.mwait u ⟨.m 12, false⟩, .classNotAccepted),
   (.iadd64 u (.w 1) (r 2) (r 4) 6 false, .oddPair),
   (.cpyq q (.w 6) (r 4) 0, .oddPair),
   (.iadd u (.w 1) ⟨.imm 3, true⟩ (r 3) 4 false, .staleOutOfPlace),
   (.ld u (.w 8) (r 4) 0 0 0 4 0 0, .missingPost),
   (.mts u (.sr 0) (r 2), .classNotAccepted)]

/-- Modifiers. -/
def badModifiers : List (Instr × Illegal) :=
  [(.fadd u (.w 1) (r 2) (r 3) 5 ⟨0, false, false, false, false, false, false⟩, .reservedModifier),
   (.fmin u (.w 1) (r 2) (r 3) 4 ⟨1, false, false, false, false, false, false⟩, .reservedModifier),
   (.ld q (.w 8) (r 4) 0 0 0 4 3 0, .reservedModifier),
   (.ld q (.w 8) (r 4) 0 0 2 4 0 0, .reservedModifier),
   (.atom q (.w 8) (r 4) (r 6) 0 0 0 4 15, .reservedModifier),
   (.icmp u (.p 1) (r 2) (r 3) (some ⟨.p 2, false⟩) 4 0 0, .nonzeroUnused),
   (.pmov u none none 0 3, .reservedModifier),
   (.mmov u (.m 1) ⟨.m 2, false⟩ none 3, .reservedModifier)]

theorem test_wf_forms : badForms.map (fun p => p.1.illegal) = badForms.map (fun p => some p.2) := by decide

theorem test_wf_modifiers : badModifiers.map (fun p => p.1.illegal) = badModifiers.map (fun p => some p.2) := by decide

theorem test_wf_words :
    decode 0 = .error .unassigned ∧
    decode 0x080700000810050180080000 = .error .destStale ∧
    decode 0x080700000011800180080000 = .error .reservedSpecifier ∧
    decode 0x04B700000000000000000001 = .error .nonzeroUnused ∧
    decode 0x04B703000000000000000000 = .error .nonzeroUnused := ⟨rfl, rfl, rfl, rfl, rfl⟩

/-! ### Decoding: words written out from R46 to R54, R63 and the entries -/

/-- Words of the class `control` (R46, R51, R52, R63 and the entries). -/
theorem test_decode_control : [0x047A40001000000000000000, 0x040700000001234567800A00, 0x041700000123456789ABCDE0, 0x042700000000060000080200, 0x0437000000012345678FFE00, 0x044700000FFFFFFFFFFFFFFC, 0x045700000002080000000600, 0x046700000000000000001200, 0x048700000001E900000001F8, 0x049700000000000000000004, 0x04A70000000000000000003F, 0x04B700000000000000000000, 0x04C700000000000000000000, 0x04D7000000000A00200001FD, 0x04E70000000000000000BEEF, 0x04F700000000000000000000, 0x050700000000000000001234, 0x051700000000000000000002].map (decodeTableWord 96) = [
    .exit g,
    .bra u 0x12345678 5,
    .brl u 0x123456789ABCDE0,
    .brx u ⟨.w 6, false⟩ 0x401,
    .call u 0x12345678 0x7FF,
    .calll u (-4),
    .callx u ⟨.w 8, true⟩ 3,
    .ret u 9,
    .loop u ⟨.imm 41, false⟩ 0x1F8,
    .lbrk u 4,
    .dly u 63,
    .nop u,
    .yield u,
    .ipref u ⟨.w 10, false⟩ 0x8000 127 1,
    .trap u 0xBEEF,
    .eret u,
    .bkpt u 0x1234,
    .sysc u 2].map some := by decide +kernel

/-- Words of the class `integer` (R46, R51, R52, R63 and the entries). -/
theorem test_decode_integer : [0x080700000012057000064000, 0x08170000001C0802400A0000, 0x082700000008040180080000, 0x0837000000080401800A0000, 0x086700000008040180060000, 0x087700000008040180000000, 0x0897000000080401800C0000, 0x08A700000008040180080000, 0x08B7000000080401800C0000, 0x08C700000008040180080000, 0x08D7000000080401800C0000, 0x08E700000008040180080000, 0x08F7000000080401800C0000, 0x0907000000080401800E0000, 0x091700000008040180080000, 0x0847000000040200C0580000, 0x0857000000200200C0AA0000, 0x0887000000080400000A4000, 0x0927000000040200DE880001, 0x0937000000040200000A0404, 0x0947000000080401800C1418, 0x0957000000080400000C0000, 0x096700000008040000080000, 0x097700000008040000080000, 0x0987000000040200C0980000, 0x0997000000080401903C0000, 0x09A7000004FC050000080000, 0x09B7000000080401C00A0003, 0x09C7000000080401800C0000, 0x09D7000000080401800E4000, 0x09E700000008050000024005].map (decodeTableWord 96) = [
    .iadd u (.w 4) ⟨.w 5, true⟩ ⟨.imm 0, false⟩ 3 true,
    .isub u (.w 7) ⟨.w 8, false⟩ ⟨.w 9, false⟩ 5 false,
    .imul u (.w 2) ⟨.w 4, false⟩ ⟨.w 6, false⟩ 4,
    .imulh u (.w 2) ⟨.w 4, false⟩ ⟨.w 6, false⟩ 5,
    .imin u (.w 2) ⟨.w 4, false⟩ ⟨.w 6, false⟩ 3,
    .imax u (.w 2) ⟨.w 4, false⟩ ⟨.w 6, false⟩ 0,
    .and u (.w 2) ⟨.w 4, false⟩ ⟨.w 6, false⟩ 6,
    .or u (.w 2) ⟨.w 4, false⟩ ⟨.w 6, false⟩ 4,
    .xor u (.w 2) ⟨.w 4, false⟩ ⟨.w 6, false⟩ 6,
    .andn u (.w 2) ⟨.w 4, false⟩ ⟨.w 6, false⟩ 4,
    .orn u (.w 2) ⟨.w 4, false⟩ ⟨.w 6, false⟩ 6,
    .shl u (.w 2) ⟨.w 4, false⟩ ⟨.w 6, false⟩ 4,
    .shr u (.w 2) ⟨.w 4, false⟩ ⟨.w 6, false⟩ 6,
    .sar u (.w 2) ⟨.w 4, false⟩ ⟨.w 6, false⟩ 7,
    .rot u (.w 2) ⟨.w 4, false⟩ ⟨.w 6, false⟩ 4,
    .imad u (.w 1) ⟨.w 2, false⟩ ⟨.w 3, false⟩ ⟨.w 5, false⟩ 4,
    .imadw u (.w 8) ⟨.w 2, false⟩ ⟨.w 3, false⟩ ⟨.w 10, false⟩ 5,
    .iabs u (.w 2) ⟨.w 4, false⟩ 5 true,
    .fsh u (.w 1) ⟨.w 2, false⟩ ⟨.w 3, false⟩ ⟨.imm 40, false⟩ 4 true,
    .bfx u (.w 1) ⟨.w 2, false⟩ 5 8 4,
    .bfi u (.w 2) ⟨.w 4, false⟩ ⟨.w 6, false⟩ 6 40 24,
    .popc u (.w 2) ⟨.w 4, false⟩ 6,
    .clz u (.w 2) ⟨.w 4, false⟩ 4,
    .brev u (.w 2) ⟨.w 4, false⟩ 4,
    .prmb u (.w 1) ⟨.w 2, false⟩ ⟨.w 3, false⟩ ⟨.w 9, false⟩ 4,
    .sel u (.w 2) ⟨.w 4, false⟩ ⟨.w 6, false⟩ ⟨.p 3, false⟩ 6,
    .mov u (.lc 3) ⟨.w 5, false⟩ 4,
    .lea u (.w 2) ⟨.w 4, false⟩ ⟨.w 7, false⟩ 5 3,
    .iadd64 u (.w 2) ⟨.w 4, false⟩ ⟨.w 6, false⟩ 6 false,
    .isub64 u (.w 2) ⟨.w 4, false⟩ ⟨.w 6, false⟩ 7 true,
    .icvt u (.w 2) ⟨.w 5, false⟩ 1 true 5].map some := by decide +kernel

/-- Words of the class `integerLiteral` (R46, R51, R52, R63 and the entries). -/
theorem test_decode_integerLiteral : [0x0C07000000100589ABCDEFB0, 0x0C170000001005000003E880, 0x0C270000001006FEDCBA98A0, 0x0C370000001006FEDCBA9880, 0x0C670000001006FEDCBA9820, 0x0C770000001006FEDCBA9880, 0x0C970000001006FEDCBA9880, 0x0CA70000001006FEDCBA98C0, 0x0CB70000001006FEDCBA9880, 0x0CC70000001006FEDCBA9880, 0x0CD70000001006FEDCBA9880, 0x0CE70000001006FEDCBA9880, 0x0CF70000001006FEDCBA98C0, 0x0D070000001006FEDCBA98A0, 0x0D170000001006FEDCBA9880, 0x0E070000001800FFFFFFFFE0, 0x0E17000000180700000040C0].map (decodeTableWord 96) = [
    .iaddLit u (.w 4) ⟨.w 5, false⟩ 0x89ABCDEF 5 true,
    .isubLit u (.w 4) ⟨.w 5, false⟩ 0x3E8 4 false,
    .imulLit u (.w 4) ⟨.w 6, false⟩ 0xFEDCBA98 5,
    .imulhLit u (.w 4) ⟨.w 6, false⟩ 0xFEDCBA98 4,
    .iminLit u (.w 4) ⟨.w 6, false⟩ 0xFEDCBA98 1,
    .imaxLit u (.w 4) ⟨.w 6, false⟩ 0xFEDCBA98 4,
    .andLit u (.w 4) ⟨.w 6, false⟩ 0xFEDCBA98 4,
    .orLit u (.w 4) ⟨.w 6, false⟩ 0xFEDCBA98 6,
    .xorLit u (.w 4) ⟨.w 6, false⟩ 0xFEDCBA98 4,
    .andnLit u (.w 4) ⟨.w 6, false⟩ 0xFEDCBA98 4,
    .ornLit u (.w 4) ⟨.w 6, false⟩ 0xFEDCBA98 4,
    .shlLit u (.w 4) ⟨.w 6, false⟩ 0xFEDCBA98 4,
    .shrLit u (.w 4) ⟨.w 6, false⟩ 0xFEDCBA98 6,
    .sarLit u (.w 4) ⟨.w 6, false⟩ 0xFEDCBA98 5,
    .rotLit u (.w 4) ⟨.w 6, false⟩ 0xFEDCBA98 4,
    .movi u (.w 6) 0xFFFFFFFF 7,
    .movh u (.w 6) ⟨.w 7, false⟩ 0x40 6].map some := by decide +kernel

/-- Words of the class `compare` (R46, R51, R52, R63 and the entries). -/
theorem test_decode_compare : [0x100700000404040150281002, 0x101700000401014090700096, 0x10270000000C000000000000, 0x102700000000030000000155, 0x102700000410030000000002].map (decodeTableWord 96) = [
    .icmp u (.p 1) ⟨.w 4, false⟩ ⟨.w 5, false⟩ (some ⟨.p 2, false⟩) 4 2 1,
    .plop u (.p 0) ⟨.p 1, false⟩ ⟨.p 2, false⟩ ⟨.p 7, false⟩ 0x96,
    .pmov u (some (.w 3)) none 0 0,
    .pmov u none (some ⟨.w 3, false⟩) 0x55 1,
    .pmov u (some (.p 4)) (some ⟨.w 3, false⟩) 0 2].map some := by decide +kernel

/-- Words of the class `float` (R46, R51, R52, R63 and the entries). -/
theorem test_decode_float : [0x14070000000804018006C001, 0x1417000000080477C0070010, 0x142700000008040180078008, 0x143700000008040180864004, 0x144700000008040180060002, 0x145700000008040180060009, 0x146700000404040180060007, 0x1477000004080400000601F8, 0x1487000000080401C006C000, 0x149700000008040000078001].map (decodeTableWord 96) = [
    .fadd u (.w 2) ⟨.w 4, false⟩ ⟨.w 6, false⟩ 3 ⟨1, true, false, false, false, false, true⟩,
    .fsub u (.w 2) ⟨.w 4, false⟩ ⟨.imm 31, false⟩ 3 ⟨2, false, true, false, false, false, false⟩,
    .fmul u (.w 2) ⟨.w 4, false⟩ ⟨.w 6, false⟩ 3 ⟨3, false, false, true, false, false, false⟩,
    .ffma u (.w 2) ⟨.w 4, false⟩ ⟨.w 6, false⟩ ⟨.w 8, false⟩ 3 ⟨0, true, false, false, true, false, false⟩,
    .fmin u (.w 2) ⟨.w 4, false⟩ ⟨.w 6, false⟩ 3 ⟨0, false, false, false, false, true, false⟩,
    .fmax u (.w 2) ⟨.w 4, false⟩ ⟨.w 6, false⟩ 3 ⟨0, false, false, true, false, false, true⟩,
    .fcmp u (.p 1) ⟨.w 4, false⟩ ⟨.w 6, false⟩ none 3 7 0,
    .fcls u (.p 2) ⟨.w 4, false⟩ 3 0x1F8,
    .fscl u (.w 2) ⟨.w 4, false⟩ ⟨.w 7, false⟩ 3 ⟨1, true, false, false, false, false, false⟩,
    .frnd u (.w 2) ⟨.w 4, false⟩ 3 ⟨3, false, false, false, false, false, true⟩].map some := by decide +kernel

/-- Words of the class `floatLiteral` (R46, R51, R52, R63 and the entries). -/
theorem test_decode_floatLiteral : [0x18070000001005402000009D, 0x181700000010054020000082, 0x182700000010054020000088, 0x184700000010054020000081, 0x185700000010054020000080, 0x186700000410054020000083].map (decodeTableWord 96) = [
    .faddLit u (.w 4) ⟨.w 5, false⟩ 0x40200000 4 ⟨3, true, false, false, false, false, true⟩,
    .fsubLit u (.w 4) ⟨.w 5, false⟩ 0x40200000 4 ⟨0, false, false, false, false, true, false⟩,
    .fmulLit u (.w 4) ⟨.w 5, false⟩ 0x40200000 4 ⟨2, false, false, false, false, false, false⟩,
    .fminLit u (.w 4) ⟨.w 5, false⟩ 0x40200000 4 ⟨0, false, false, false, false, false, true⟩,
    .fmaxLit u (.w 4) ⟨.w 5, false⟩ 0x40200000 4 ⟨0, false, false, false, false, false, false⟩,
    .fcmpLit u (.p 4) ⟨.w 5, false⟩ 0x40200000 4 3].map some := by decide +kernel

/-- Words of the class `float64` (R46, R51, R52, R63 and the entries). -/
theorem test_decode_float64 : [0x1C07000000080401800AC001, 0x1C17000000080477C00B0010, 0x1C27000000080401800B8008, 0x1C37000000080401808A4004, 0x1C47000000080401800A0002, 0x1C57000000080401800A0009, 0x1C67000004040401800A0007, 0x1C77000004080400000A01F8, 0x1C87000000080401C00AC000, 0x1C97000000080400000B8001].map (decodeTableWord 96) = [
    .faddF64 u (.w 2) ⟨.w 4, false⟩ ⟨.w 6, false⟩ 5 ⟨1, true, false, false, false, false, true⟩,
    .fsubF64 u (.w 2) ⟨.w 4, false⟩ ⟨.imm 31, false⟩ 5 ⟨2, false, true, false, false, false, false⟩,
    .fmulF64 u (.w 2) ⟨.w 4, false⟩ ⟨.w 6, false⟩ 5 ⟨3, false, false, true, false, false, false⟩,
    .ffmaF64 u (.w 2) ⟨.w 4, false⟩ ⟨.w 6, false⟩ ⟨.w 8, false⟩ 5 ⟨0, true, false, false, true, false, false⟩,
    .fminF64 u (.w 2) ⟨.w 4, false⟩ ⟨.w 6, false⟩ 5 ⟨0, false, false, false, false, true, false⟩,
    .fmaxF64 u (.w 2) ⟨.w 4, false⟩ ⟨.w 6, false⟩ 5 ⟨0, false, false, true, false, false, true⟩,
    .fcmpF64 u (.p 1) ⟨.w 4, false⟩ ⟨.w 6, false⟩ none 5 7 0,
    .fclsF64 u (.p 2) ⟨.w 4, false⟩ 5 0x1F8,
    .fsclF64 u (.w 2) ⟨.w 4, false⟩ ⟨.w 7, false⟩ 5 ⟨1, true, false, false, false, false, false⟩,
    .frndF64 u (.w 2) ⟨.w 4, false⟩ 5 ⟨3, false, false, false, false, false, true⟩].map some := by decide +kernel

/-- Words of the class `special` (R46, R51, R52, R63 and the entries). -/
theorem test_decode_special : [0x2007120000080400000A0001, 0x201712000008040000080001, 0x203712000008040000080001, 0x204712000008040000080001, 0x205712000008040000080001, 0x206712000008040000080001, 0x202712000008040000090008].map (decodeTableWord 96) = [
    .frcp q (.w 2) ⟨.w 4, false⟩ 5 ⟨0, false, false, false, false, false, true⟩,
    .frsq q (.w 2) ⟨.w 4, false⟩ 4 ⟨0, false, false, false, false, false, true⟩,
    .fex2 q (.w 2) ⟨.w 4, false⟩ 4 ⟨0, false, false, false, false, false, true⟩,
    .flg2 q (.w 2) ⟨.w 4, false⟩ 4 ⟨0, false, false, false, false, false, true⟩,
    .fsin q (.w 2) ⟨.w 4, false⟩ 4 ⟨0, false, false, false, false, false, true⟩,
    .fcos q (.w 2) ⟨.w 4, false⟩ 4 ⟨0, false, false, false, false, false, true⟩,
    .fsqrt q (.w 2) ⟨.w 4, false⟩ 4 ⟨2, false, false, true, false, false, false⟩].map some := by decide +kernel

/-- Words of the class `packed` (R46, R51, R52, R63 and the entries). -/
theorem test_decode_packed : [0x2407000000040200C054C005, 0x2417000000040200C0060002, 0x242700000004027840050000, 0x2437000000040200C053C001, 0x2447000000040200C0504001, 0x24570000000402000008C005, 0x2467000000080300000F0004, 0x2477000000080400000A8006, 0x2487000000040200C0534001, 0x249700000008030000080002].map (decodeTableWord 96) = [
    .hfma2 u (.w 1) ⟨.w 2, false⟩ ⟨.w 3, false⟩ ⟨.w 5, false⟩ 2 ⟨1, true, false, false, true, false, true⟩,
    .hadd2 u (.w 1) ⟨.w 2, false⟩ ⟨.w 3, false⟩ 3 ⟨0, false, false, false, false, true, false⟩,
    .hmul2 u (.w 1) ⟨.w 2, false⟩ ⟨.imm 33, false⟩ 2 ⟨2, false, false, false, false, false, false⟩,
    .qdot4 u (.w 1) ⟨.w 2, false⟩ ⟨.w 3, false⟩ ⟨.w 5, false⟩ 1 3 true true,
    .idot4 u (.w 1) ⟨.w 2, false⟩ ⟨.w 3, false⟩ ⟨.w 5, false⟩ 0 true true,
    .fcvt u (.w 1) ⟨.w 2, false⟩ 4 1 true 5,
    .f2i u (.w 2) ⟨.w 3, false⟩ 7 2 4,
    .i2f u (.w 2) ⟨.w 4, false⟩ 5 1 false 6,
    .pack8 u (.w 1) ⟨.w 2, false⟩ ⟨.w 3, false⟩ ⟨.w 5, false⟩ 1 2 true true,
    .unpk8 u (.w 2) ⟨.w 3, false⟩ 4 true false].map some := by decide +kernel

/-- Words of the class `lane` (R46, R51, R52, R63 and the entries). -/
theorem test_decode_lane : [0x2807000000080401C00C0017, 0x281700000005020000000008, 0x2827000000040400000C0000, 0x2837000000080400000E0005, 0x284700000000000000000000].map (decodeTableWord 96) = [
    .shfl u (.w 2) ⟨.w 4, false⟩ ⟨.w 7, false⟩ 6 5 3,
    .vote u (.w 1) ⟨.p 2, false⟩ true false 0,
    .matchLanes u (.w 1) ⟨.w 4, false⟩ 6,
    .redux u (.w 2) ⟨.w 4, false⟩ 7 5,
    .wfence u].map some := by decide +kernel

/-- Words of the class `mask` (R46, R51, R52, R63 and the entries). -/
theorem test_decode_mask : [0x2C070000044C00ABCDE00000, 0x2C1700000000000000000801, 0x2C27000000010C0000000000, 0x2C37000004250A0000000000, 0x2C37000000190A0000000001, 0x2C370000042C050200000002, 0x2C4700000000090000000000].map (decodeTableWord 96) = [
    .mjoin u (.m 11) 0xABCDE,
    .mleave u 0x801,
    .mwait u ⟨.m 4, false⟩,
    .mmov u (.m 1) ⟨.m 2, false⟩ none 0,
    .mmov u (.w 6) ⟨.m 2, false⟩ none 1,
    .mmov u (.m 3) ⟨.w 5, false⟩ (some ⟨.w 8, false⟩) 2,
    .msync u ⟨.w 9, false⟩].map some := by decide +kernel

/-- Words of the class `thread` (R46, R51, R52, R63 and the entries). -/
theorem test_decode_thread : [0x3007000000000401E0AD7C00, 0x301700000000040000020800, 0x30270000000103ABCDEFFC00, 0x303700000000000000000020, 0x304700000000000000000001, 0x305712000004040000000000, 0x30671200000404003FFE000F].map (decodeTableWord 96) = [
    .spawn u ⟨.w 4, false⟩ (some ⟨.w 7, false⟩) (some ⟨.w 10, true⟩) true 2 11 3 true,
    .cont u ⟨.w 4, false⟩ none none false 1 0 1 false,
    .split u ⟨.p 3, false⟩ 0xABCDE 0x7FE,
    .rgive u 32,
    .rclaim u 1,
    .segq q (.w 1) ⟨.w 4, false⟩,
    .launch q (.w 1) ⟨.w 4, false⟩ 0xFFF8 15].map some := by decide +kernel

/-- Words of the class `token` (R46, R51, R52, R63 and the entries). -/
theorem test_decode_token : [0x340700000001270000000002, 0x341700000004000000000000, 0x34270000000004001FFFC000, 0x343700000000000000018001].map (decodeTableWord 96) = [
    .waitk u ⟨.k 3, false⟩ 2,
    .tkrd u (.w 1),
    .tksav u ⟨.w 4, false⟩ 0x7FFF,
    .tkrst u true 0x8001].map some := by decide +kernel

/-- Words of the class `memory` (R46, R51, R52, R63 and the entries). -/
theorem test_decode_memory : [0x40071200002004003FFC19CC, 0x4017000000000401C0022A82, 0x4027000000000401C00400AF, 0x4037120000240401C00400A3, 0x404700000000040000100002, 0x4057120000200400001000B0, 0x406700000000040000101800, 0x407700000000040000101800, 0x408700000000040000101800, 0x409700000000040000200800, 0x40A700000000000000000000, 0x40B700000000000029000000].map (decodeTableWord 96) = [
    .ld q (.w 8) ⟨.w 4, false⟩ 0xFFF0 3 1 6 1 2,
    .st u ⟨.w 4, false⟩ ⟨.w 7, false⟩ 8 5 2 4 0 1,
    .stn u ⟨.w 4, false⟩ ⟨.w 7, false⟩ 16 0 0 5 15,
    .stnReport q (.w 9) ⟨.w 4, false⟩ ⟨.w 7, false⟩ 16 0 0 5 3,
    .pref u ⟨.w 4, false⟩ 64 2,
    .ldf q (.w 8) ⟨.w 4, false⟩ 64 5 2,
    .dcwb u ⟨.w 4, false⟩ 64 3,
    .dcinv u ⟨.w 4, false⟩ 64 3,
    .dcfl u ⟨.w 4, false⟩ 64 3,
    .icinv u ⟨.w 4, false⟩ 128 1,
    .ifence u,
    .fence u 5 1].map some := by decide +kernel

/-- Words of the class `readerSet` (R46, R51, R52, R63 and the entries). -/
theorem test_decode_readerSet : [0x44070000000804014000000D, 0x441700000000044680100001, 0x442712000008040000100000].map (decodeTableWord 96) = [
    .rsmk u (.w 2) ⟨.w 4, false⟩ ⟨.w 5, false⟩ 1 5,
    .rsrev u ⟨.w 4, false⟩ ⟨.n 6, false⟩ 64 1,
    .rsqry q (.w 2) ⟨.w 4, false⟩ 64].map some := by decide +kernel

/-- Words of the class `atomic` (R46, R51, R52, R63 and the entries). -/
theorem test_decode_atomic : [0x4807120000080401800223EA, 0x481712000008040180022480, 0x482700000000047840021080].map (decodeTableWord 96) = [
    .atom q (.w 2) ⟨.w 4, false⟩ ⟨.w 6, false⟩ 8 4 3 7 5,
    .acas q (.w 2) ⟨.w 4, false⟩ ⟨.w 6, false⟩ 8 4 4 4,
    .red u ⟨.w 4, false⟩ ⟨.imm 33, false⟩ 8 2 0 4 0].map some := by decide +kernel

/-- Words of the class `queue` (R46, R51, R52, R63 and the entries). -/
theorem test_decode_queue : [0x4C0712000008040200101A05, 0x4C1712000020040000101902, 0x4C2712000000040180100003, 0x4C3712000008040000100000].map (decodeTableWord 96) = [
    .enq q (.w 2) ⟨.w 4, false⟩ ⟨.w 8, false⟩ 64 3 2 2 true,
    .deq q (.w 8) ⟨.w 4, false⟩ 64 3 1 1 false,
    .qinit q ⟨.w 4, false⟩ ⟨.w 6, false⟩ 64 3,
    .qstat q (.w 2) ⟨.w 4, false⟩ 64].map some := by decide +kernel

/-- Words of the class `group` (R46, R51, R52, R63 and the entries). -/
theorem test_decode_group : [0x500700000000000000000000, 0x501700000000000000000000, 0x50270000000003000000003F].map (decodeTableWord 96) = [
    .gjoin u,
    .gleave u,
    .gmap u ⟨.w 3, false⟩ 63].map some := by decide +kernel

/-- Words of the class `copy` (R46, R51, R52, R63 and the entries). -/
theorem test_decode_copy : [0x60071200000004003FF00000, 0x60171200000004003FF00000, 0x60271200000004003FF00000, 0x60371200000004003FF00000, 0x604712000020040000100000].map (decodeTableWord 96) = [
    .cpy q ⟨.w 4, false⟩ 0xFFC0,
    .gath q ⟨.w 4, false⟩ 0xFFC0,
    .scat q ⟨.w 4, false⟩ 0xFFC0,
    .mcast q ⟨.w 4, false⟩ 0xFFC0,
    .cpyq q (.w 8) ⟨.w 4, false⟩ 64].map some := by decide +kernel

/-- Words of the class `barrier` (R46, R51, R52, R63 and the entries). -/
theorem test_decode_barrier : [0x6407120000000478C0020000, 0x641712000000040180020000, 0x642712000004040180020000, 0x643712000008040000020000, 0x64471200000004014000007F, 0x645712000008000000000005, 0x646712000000000000000005].map (decodeTableWord 96) = [
    .binit q ⟨.w 4, false⟩ ⟨.imm 35, false⟩ 8,
    .barr q ⟨.w 4, false⟩ ⟨.w 6, false⟩ 8,
    .bwait q (.w 1) ⟨.w 4, false⟩ ⟨.w 6, false⟩ 8,
    .btst q (.w 2) ⟨.w 4, false⟩ 8,
    .tdecl q ⟨.w 4, false⟩ ⟨.w 5, false⟩ true 63,
    .tstat q (.w 2) 5,
    .trel q 5].map some := by decide +kernel

/-- Words of the class `matrix` (R46, R51, R52, R63 and the entries). -/
theorem test_decode_matrix : [0x6807120004D404018098FFE0, 0x6817120004D80401809301C0, 0x6827120004D938019E100000, 0x6837120004EC000000000000, 0x684712000021377940000000, 0x6857120004DC050300000000, 0x6867120004DC040000008000, 0x687712000001370100000020].map (decodeTableWord 96) = [
    .mma q (.acc 1) ⟨.w 4, false⟩ ⟨.w 6, false⟩ ⟨.w 9, false⟩ 4 false 1023 true,
    .mmap q (.acc 2) ⟨.w 4, false⟩ ⟨.w 6, false⟩ ⟨.w 9, false⟩ 1 true 7 false,
    .accsc q (.acc 2) ⟨.acc 4, false⟩ ⟨.w 6, false⟩ ⟨.imm 33, false⟩,
    .accz q (.acc 7),
    .accrd q (.w 8) ⟨.acc 3, false⟩ ⟨.imm 37, false⟩,
    .accwr q (.acc 3) ⟨.w 5, false⟩ ⟨.w 12, false⟩,
    .accld q (.acc 3) ⟨.w 4, false⟩ 0x8000,
    .accst q ⟨.acc 3, false⟩ ⟨.w 4, false⟩ 32].map some := by decide +kernel

/-- Words of the class `collective` (R46, R51, R52, R63 and the entries). -/
theorem test_decode_collective : [0x700712000008040180200000, 0x7017120000080078C0000001, 0x7027120000000401C0904000, 0x703712000008000000000001].map (decodeTableWord 96) = [
    .coll q (.w 2) ⟨.w 4, false⟩ ⟨.w 6, false⟩ 128,
    .viewq q (.w 2) ⟨.imm 35, false⟩ true,
    .amsend q ⟨.w 4, false⟩ (some ⟨.w 7, false⟩) ⟨.w 9, false⟩ 2,
    .arrq q (.w 2) true].map some := by decide +kernel

/-- Words of the class `system` (R46, R51, R52, R63 and the entries). -/
theorem test_decode_system : [0x780700000011530000000000, 0x7817000005BC040000000000].map (decodeTableWord 96) = [
    .mfs u (.w 4) ⟨.sr 0x13, false⟩,
    .mts u (.sr 0x2F) ⟨.w 4, false⟩].map some := by decide +kernel

/-! ### Worked results of the spec, one instruction each -/

/-- What the pipe holds for lane 0 after one instruction of wave 0, with the words `ws` in `w2` and upward. -/
def got (i : Instr) (ws : List Nat) : Option Nat :=
  match exec i (xv fun x => { x with regs := x.regs ++ (List.range ws.length).map (fun k => (k + 2, BitVec.ofNat 32 (ws.getD k 0))) }) with
  | .next t => (t.dev.wave 0).pipe.head?.map (fun e => e.vals.get 0 0)
  | _ => none
def w4 : Opnd := .w 8
def fOf (rm : BitVec 2) (sat : Bool) : FMod := ⟨rm, sat, false, false, false, false, false⟩

/-- Worked results of R108 to R115 (the table of the integer chapter). -/
theorem test_worked_integer :
    got (.isub c0 w4 (r 2) (r 3) 4 true) [3, 5] = some 0 ∧
    got (.iabs c0 w4 (r 2) 5 false) [0x80000000] = some 0x80000000 ∧
    got (.iabs c0 w4 (r 2) 5 true) [0x80000000] = some 0x7FFFFFFF ∧
    got (.imulh c0 w4 (r 2) (r 3) 4) [0xFFFFFFFF, 0xFFFFFFFF] = some 0xFFFFFFFE ∧
    got (.imulh c0 w4 (r 2) (r 3) 5) [0xFFFFFFFF, 0xFFFFFFFF] = some 0 ∧
    got (.sar c0 w4 (r 2) (r 3) 5) [0x80000000, 40] = some 0xFFFFFFFF ∧
    got (.rot c0 w4 (r 2) (r 3) 4) [0x80000001, 33] = some 3 ∧
    got (.fsh c0 w4 (r 2) (r 3) (r 4) 4 false) [0x12345678, 0x9ABCDEF0, 8] = some 0x789ABCDE ∧
    got (.bfx c0 w4 (r 2) 5 8 4) [0xF00] = some 0xFFFFFFFF ∧
    got (.clz c0 w4 (r 2) 4) [0] = some 32 ∧
    got (.prmb c0 w4 (r 2) (r 3) (r 4) 4) [0x44332211, 0x88776655, 0x0F47] = some 0x11FF5588 ∧
    got (.icvt c0 w4 (r 2) 1 false 5) [300] = some 0x2C ∧
    got (.icvt c0 w4 (r 2) 1 true 5) [300] = some 0x7F := by decide +kernel

/-- Worked results of R136 to R141 (the table of the conversions, and the worked dot product of R136). -/
theorem test_worked_conversions :
    got (.fcvt c0 w4 (r 2) 3 0 false 4) [0x3EAAAAAB] = some 0x3EAB ∧
    got (.fcvt c0 w4 (r 2) 3 1 false 4) [0x3EAAAAAB] = some 0x3EAA ∧
    got (.fcvt c0 w4 (r 2) 2 0 false 4) [0x477FF000] = some 0x7C00 ∧
    got (.fcvt c0 w4 (r 2) 2 0 true 4) [0x477FF000] = some 0x7BFF ∧
    got (.fcvt c0 w4 (r 2) 4 0 false 5) [0x9999999A, 0x3FB99999] = some 0x3DCCCCCD ∧
    got (.fcvt c0 w4 (r 2) 4 1 false 5) [0x9999999A, 0x3FB99999] = some 0x3DCCCCCC ∧
    got (.f2i c0 w4 (r 2) 5 0 4) [0x40200000] = some 2 ∧
    got (.f2i c0 w4 (r 2) 5 0 4) [0xC0200000] = some 0xFFFFFFFE ∧
    got (.f2i c0 w4 (r 2) 5 0 4) [0x7FC00000] = some 0 ∧
    got (.f2i c0 w4 (r 2) 4 0 4) [0xBFC00000] = some 0 ∧
    got (.i2f c0 w4 (r 2) 4 0 false 4) [0xFFFFFFFF] = some 0x4F800000 ∧
    got (.i2f c0 w4 (r 2) 4 1 false 4) [0xFFFFFFFF] = some 0x4F7FFFFF ∧
    got (.i2f c0 w4 (r 2) 2 0 true 4) [70000] = some 0x7BFF ∧
    got (.idot4 c0 w4 (r 2) (r 3) (r 4) 1 false false) [0xFF020380, 0x01010202, 1000] = some 751 := by decide +kernel

/-- The first step after reset runs the instruction placed there: the worked `IADD w4, w5, 1000` puts 1000 in the pipe for `w4`, due two
positions on (R32, R63). -/
theorem test_first_step : (match step (State.reset.withFetchWord 96 0x0C070000001005000003E880) with
    | .next t => (t.dev.wave 0).pipe.map (fun e => (e.due, e.dst, e.vals.get 0 31)) == [(2, .w 4 1, 1000)]
    | _ => false) = true := by decide +kernel

/-! ### The hypotheses of every obligation are met, clause by clause -/

/-- An instruction whose guard is false on every lane issues with no active lane. -/
theorem test_witness_idle : Goes cOff Req.none s0 (issOf cOff s0) (waveOf cOff s0) ∧ (issOf cOff s0).act = 0 :=
  ⟨goes_of (by decide +kernel), by decide +kernel⟩

theorem test_witness_DecodeEncode :
    (∃ (i : Instr), ∃ (w : BitVec 96), i.wf = true ∧ encode i = some w) ∧
    (∃ (w : BitVec 96), ∃ (i : Instr), decode w = .ok i) :=
  ⟨⟨(.nop c0), 0x04B700000000000000000000, by decide +kernel⟩,
   ⟨0x04B700000000000000000000, (.nop c0), rfl⟩⟩

theorem test_witness_StepRunsDecoded :
    (∃ (s : State), ∃ (w : Nat), ∃ (pc : Addr), s.dev.agenda = [] ∧ (St.of s).pick = some w ∧ let u := (St.of s).withD (·.turnTo w); (u.d.wave w).front = some pc ∧ u.leavesSegment w pc = true) ∧
    (∃ (s : State), ∃ (w : Nat), ∃ (pc : Addr), ∃ (k : Nat), s.dev.agenda = [] ∧ (St.of s).pick = some w ∧ let u := (St.of s).withD (·.turnTo w); (u.d.wave w).front = some pc ∧ u.leavesSegment w pc = false ∧ u.fetch w (u.d.block (u.d.wave w).blk).asid pc.toNat = .error k) ∧
    (∃ (s : State), ∃ (w : Nat), ∃ (pc : Addr), ∃ (word : BitVec 96), ∃ (t : St), s.dev.agenda = [] ∧ (St.of s).pick = some w ∧ let u := (St.of s).withD (·.turnTo w); (u.d.wave w).front = some pc ∧ u.leavesSegment w pc = false ∧ u.fetch w (u.d.block (u.d.wave w).blk).asid pc.toNat = .ok (word, t)) ∧
    (∃ (u : St), ∃ (t : St), ∃ (w : Nat), ∃ (asid : Nat), ∃ (pc : Nat), ∃ (word : BitVec 96), ∃ (b : Nat → IBlock), u.fetch w asid pc = .ok (word, t) ∧ (∀ k, k < 12 → u.d.iblock 0 (w / 16) asid ((pc + k) / 192 * 192) = some (b k))) ∧
    (∃ (u : St), ∃ (core : Nat), ∃ (asid : Nat), ∃ (b : Nat), u.d.iblock 2 (dieOf core) asid b = none ∧ u.keeps (sliceOf core) asid b = true) ∧
    (∃ (s : State), ∃ (e : Instr), ∃ (rest : List Instr), s.dev.agenda = e :: rest) ∧
    (∃ (s : State), s.dev.agenda = [] ∧ (St.of s).pick = none) :=
  ⟨⟨sE, 0, 0x1000, by decide +kernel⟩,
   ⟨s0, 0, 0x1000, _, pre4 (by decide +kernel) (err_val (d := 0) (by decide +kernel))⟩,
   ⟨s1, 0, startPc, 0x04B700000000000000000000, _, pre4 (by decide +kernel) (ok_pair (b := St.of s1) (by decide +kernel))⟩,
   ⟨(St.of s1), _, 0, 1, 0x100000, 0x04B700000000000000000000, (fun k => (s1.dev.iblock 0 0 1 ((0x100000 + k) / 192 * 192)).getD ⟨0, 0, 0, 0, []⟩), ok_pair (b := St.of s1) (by decide +kernel), by decide +kernel⟩,
   ⟨(St.of ⟨s1.mem, { s1.dev with iblocks := [] }⟩), 0, 1, 0xFFFC0, by decide +kernel⟩,
   ⟨(dv fun d => { d with agenda := [.evt] }), .evt, [], rfl⟩,
   ⟨State.reset, by decide +kernel⟩⟩

theorem test_witness_InvariantKept :
    (∃ (s : State), ∃ (t : State), s.inv ∧ step s = .next t) ∧
    (∃ (i : Instr), ∃ (s : State), ∃ (t : State), s.inv ∧ exec i s = .next t) :=
  ⟨⟨State.reset, _, rfl, rfl⟩,
   ⟨.evt, State.reset, _, rfl, rfl⟩⟩

theorem test_witness_MemoryForm :
    (∃ (m : Memory), m.wf = true) ∧
    (∃ (m : Memory), ∃ (n : Memory), m.wf = true ∧ n.wf = true ∧ (∀ a, m.read a = n.read a)) :=
  ⟨⟨[(5, 1)], by decide +kernel⟩,
   ⟨[(5, 1)], [(5, 1)], pre2 (by decide +kernel) (fun _ => rfl)⟩⟩

theorem test_witness_PredicatesAndGuards :
    (∃ (n : Nat), ∃ (m : Nat), n < 7 ∧ m < 8) ∧
    (∃ (s : State), ∃ (h : Ctl), ∃ (i : Iss), ∃ (x : Wave), (St.of s).group h = some (i, x) ∧ ∃ l, l < 32) :=
  ⟨⟨6, 7, by decide +kernel⟩,
   ⟨s0, c0, (issOf c0 s0), (waveOf c0 s0), (goes_of (q := Req.none) (by decide +kernel)).1, 31, by decide +kernel⟩⟩

theorem test_witness_TrapEntry :
    (∃ (u : St), ∃ (w : Nat), ∃ (t : Trap), ∃ (p : Place), ∃ (q : Place), let x := u.d.wave w; let b := u.d.block x.blk; let v := u.withD fun d => { d with free := d.free + 1 }; let v := if t.cause = 13 then v.withD (·.pmc b.asid (w / 64) 9 1) else if t.cause = 2 then v.withD (·.pmc b.asid (w / 64) 14 1) else v; routeOf t.cause = 0 ∧ x.handler ≠ 0 ∧ x.fault ≠ 0 ∧ x.frame = none ∧ v.locate x.blk x.fault .write = .ok p ∧ v.tileCheck p = .ok q ∧ v.writeErr q = none) ∧
    (∃ (u : St), ∃ (w : Nat), ∃ (e : MErr), (u.d.wave w).handler ≠ 0 ∧ (u.d.wave w).fault ≠ 0 ∧ (u.d.wave w).frame = none ∧ u.locate (u.d.wave w).blk (u.d.wave w).fault .write = .error e) ∧
    (∃ (l : Nat), l < 32) ∧
    (∃ (u : St), ∃ (w : Nat), ∃ (t : Trap), (routeOf t.cause ≠ 0 ∨ (u.d.wave w).handler = 0 ∨ (u.d.wave w).fault = 0 ∨ (u.d.wave w).frame ≠ none)) :=
  ⟨⟨(St.of (xv fun x => { x with handler := 0x2000, fault := 0x10000000000 })), 0, tr0, (.scratch 0 0), (.scratch 0 0), pre4 (by decide +kernel) ⟨ok_of (by decide +kernel), ok_of (by decide +kernel), by decide +kernel⟩⟩,
   ⟨(St.of (xv fun x => { x with handler := 0x2000, fault := 3 })), 0, _, pre3 (by decide +kernel) (err_val (d := ⟨0, 0, 0, 0, 0⟩) (by decide +kernel))⟩,
   ⟨31, by decide +kernel⟩,
   ⟨(St.of s0), 0, tr0, by decide +kernel⟩⟩

theorem test_witness_ResultsComeDue :
    (∃ (x : Wave), (∀ e ∈ x.pipe, x.ahead e ≠ 0)) ∧
    (∃ (x : Wave), ∃ (e : PipeEnt), ∃ (r : Nat), ∃ (len : Nat), ∃ (l : Nat), ∃ (k : Nat), x.pipe = [e] ∧ x.ahead e = 0 ∧ e.dst = .w r len ∧ l < 32 ∧ k < 256 ∧ r + len ≤ 256) ∧
    (∃ (o : Op), ∃ (k : Nat), o.tok = some k) ∧
    (∃ (o : Op), o.tok = none) ∧
    (∃ (o : Op), ∃ (r : Nat), ∃ (len : Nat), ∃ (l : Nat), ∃ (k : Nat), o.dst = .w r len ∧ o.dropped = [] ∧ o.err = none ∧ l < 32 ∧ k < 256 ∧ r + len ≤ 256) ∧
    (∃ (x : Wave), ∃ (o : Op), ∃ (r : Nat), ∃ (len : Nat), ∃ (l : Nat), ∃ (k : Nat), ∃ (e : Detail), o.dst = .w r len ∧ o.dropped = [] ∧ o.err = some e ∧ e.kind ≠ 3 ∧ e.kind ≠ 11 ∧ l < 32 ∧ k < 256 ∧ r + len ≤ 256 ∧ o.lanes.getLsbD l = true ∧ r ≤ k ∧ k < r + len ∧ k < x.alloc) :=
  ⟨⟨{ x0 with pipe := [{ pe0 with due := 1 }] }, by decide +kernel⟩,
   ⟨{ x0 with pipe := [pe0] }, pe0, 4, 2, 31, 255, by decide +kernel⟩,
   ⟨op0, 3, by decide +kernel⟩,
   ⟨{ op0 with tok := none }, by decide +kernel⟩,
   ⟨op0, 4, 2, 31, 255, by decide +kernel⟩,
   ⟨x0, { op0 with err := some ⟨1, 0, 0, 0⟩ }, 4, 2, 0, 5, ⟨1, 0, 0, 0⟩, by decide +kernel⟩⟩

theorem test_witness_LanesLeaveMasks : ∃ (h : Ctl), ∃ (s : State), ∃ (i : Iss), ∃ (x : Wave), Goes h Req.none s i x :=
  ⟨c0, s0, (issOf c0 s0), (waveOf c0 s0), goes_of (by decide +kernel)⟩

theorem test_witness_IssuesNormally :
    (∃ (s : State), ∃ (h : Ctl), ∃ (q : Req), ∃ (i : Iss), ∃ (x : Wave), (St.of s).group h = some (i, x) ∧ (h.sp = false ∨ (s.dev.block x.blk).preq = false) ∧ (∀ r ∈ q.ranges, r.1 + r.2 ≤ x.alloc) ∧ (∀ t ∈ q.tiles, t < (s.dev.block x.blk).accN) ∧ h.wait = none ∧ x.pend = 0 ∧ x.bad = [] ∧ q.out = none ∧ (∀ k, h.post = some k → (x.tok k.toNat).count ≠ 63)) ∧
    (∃ (s : State), ∃ (h : Ctl), ∃ (i : Iss), ∃ (x : Wave), (St.of s).group h = some (i, x) ∧ (¬NoSafeStop h s i x)) ∧
    (∃ (s : State), ∃ (h : Ctl), ∃ (q : Req), ∃ (i : Iss), ∃ (x : Wave), ∃ (r : Nat × Nat), (St.of s).group h = some (i, x) ∧ NoSafeStop h s i x ∧ q.ranges.find? (fun r => decide (x.alloc < r.1 + r.2)) = some r) ∧
    (∃ (s : State), ∃ (h : Ctl), ∃ (q : Req), ∃ (i : Iss), ∃ (x : Wave), ∃ (t : Nat), (St.of s).group h = some (i, x) ∧ NoSafeStop h s i x ∧ (∀ r ∈ q.ranges, r.1 + r.2 ≤ x.alloc) ∧ q.tiles.find? (fun t => decide ((s.dev.block x.blk).accN ≤ t)) = some t) ∧
    (∃ (s : State), ∃ (h : Ctl), ∃ (q : Req), ∃ (i : Iss), ∃ (x : Wave), ∃ (k : BitVec 4), ∃ (n : BitVec 6), (St.of s).group h = some (i, x) ∧ NoSafeStop h s i x ∧ RegsInside q s x ∧ h.wait = some (k, n) ∧ n.toNat < (x.tok k.toNat).count) ∧
    (∃ (s : State), ∃ (h : Ctl), ∃ (q : Req), ∃ (i : Iss), ∃ (x : Wave), ∃ (k : BitVec 4), ∃ (n : BitVec 6), (St.of s).group h = some (i, x) ∧ NoSafeStop h s i x ∧ RegsInside q s x ∧ h.wait = some (k, n) ∧ (x.tok k.toNat).count ≤ n.toNat ∧ (x.tok k.toNat).err = true) ∧
    (∃ (s : State), ∃ (h : Ctl), ∃ (q : Req), ∃ (i : Iss), ∃ (x : Wave), ∃ (r : Nat × Nat × Bool), (St.of s).group h = some (i, x) ∧ NoSafeStop h s i x ∧ RegsInside q s x ∧ HintMet h x ∧ i.act ≠ 0 ∧ q.srcs.find? (fun r => !r.2.2 && x.pending (r.1, r.2.1)) = some r) ∧
    (∃ (s : State), ∃ (h : Ctl), ∃ (q : Req), ∃ (i : Iss), ∃ (x : Wave), ∃ (t : Nat), (St.of s).group h = some (i, x) ∧ NoSafeStop h s i x ∧ RegsInside q s x ∧ HintMet h x ∧ i.act ≠ 0 ∧ (∀ r ∈ q.srcs, r.2.2 = true ∨ x.pending (r.1, r.2.1) = false) ∧ q.out = some t ∧ ((s.at' i x).d.prog i.core ((s.dev.block x.blk).accB + t)).getLsbD 31 = true) ∧
    (∃ (s : State), ∃ (h : Ctl), ∃ (q : Req), ∃ (i : Iss), ∃ (x : Wave), ∃ (r : Nat × Nat), ∃ (rs : List (Nat × Nat)), (St.of s).group h = some (i, x) ∧ NoSafeStop h s i x ∧ RegsInside q s x ∧ HintMet h x ∧ SourcesReady q s i x ∧ badSources q i x = r :: rs) ∧
    (∃ (s : State), ∃ (h : Ctl), ∃ (q : Req), ∃ (i : Iss), ∃ (x : Wave), ∃ (r : Nat × Nat), (St.of s).group h = some (i, x) ∧ NoSafeStop h s i x ∧ RegsInside q s x ∧ HintMet h x ∧ SourcesReady q s i x ∧ badSources q i x = [] ∧ i.act ≠ 0 ∧ q.dsts.find? (fun r => x.pending r) = some r) ∧
    (∃ (s : State), ∃ (h : Ctl), ∃ (q : Req), ∃ (i : Iss), ∃ (x : Wave), ∃ (k : BitVec 4), (St.of s).group h = some (i, x) ∧ NoSafeStop h s i x ∧ RegsInside q s x ∧ HintMet h x ∧ SourcesReady q s i x ∧ badSources q i x = [] ∧ (i.act ≠ 0 → ∀ r ∈ q.dsts, x.pending r = false) ∧ h.post = some k ∧ (x.tok k.toNat).count = 63) ∧
    (∃ (s : State), ∃ (h : Ctl), ∃ (q : Req), ∃ (i : Iss), ∃ (x : Wave), (St.of s).group h = some (i, x) ∧ NoSafeStop h s i x ∧ RegsInside q s x ∧ HintMet h x ∧ SourcesReady q s i x ∧ badSources q i x = [] ∧ (i.act ≠ 0 → ∀ r ∈ q.dsts, x.pending r = false) ∧ (∀ k, h.post = some k → (x.tok k.toNat).count ≠ 63)) ∧
    (∃ (s : State), ∃ (g : Lanes), ∃ (x : Wave), ((s.dev.wave s.dev.cur).landAt 0).choose = some (g, x) ∧ x.live = true) ∧
    (∃ (x : Wave), ∃ (pc : Addr), x.runs ≠ 0 ∧ x.fav = 0 ∧ (∀ l, x.runs.getLsbD l = true → (x.thread l).pc = pc)) :=
  ⟨⟨s0, c0, Req.none, (issOf c0 s0), (waveOf c0 s0), (goes_of (q := Req.none) (by decide +kernel)).1, pre7 (by decide +kernel) (fun k h => absurd h (by simp [c0]))⟩,
   ⟨(bv fun b => { b with preq := true, deadline := 5 }), ⟨false, 7, 0, none, none, true⟩, (issOf ⟨false, 7, 0, none, none, true⟩ (bv fun b => { b with preq := true, deadline := 5 })), (waveOf ⟨false, 7, 0, none, none, true⟩ (bv fun b => { b with preq := true, deadline := 5 })), group_of (by decide +kernel), by unfold NoSafeStop; decide +kernel⟩,
   ⟨s0, c0, { Req.none with dsts := [(63, 2)] }, (issOf c0 s0), (waveOf c0 s0), (63, 2), group_of (by decide +kernel), .inl (by decide +kernel), by decide +kernel⟩,
   ⟨s0, c0, { Req.none with tiles := [8] }, (issOf c0 s0), (waveOf c0 s0), 8, group_of (by decide +kernel), .inl (by decide +kernel), by decide +kernel⟩,
   ⟨(xv fun x => { x with toks := [(3, ⟨3, false, none⟩)] }), ⟨false, 7, 0, none, some (3, 2), false⟩, Req.none, (issOf ⟨false, 7, 0, none, some (3, 2), false⟩ (xv fun x => { x with toks := [(3, ⟨3, false, none⟩)] })), (waveOf ⟨false, 7, 0, none, some (3, 2), false⟩ (xv fun x => { x with toks := [(3, ⟨3, false, none⟩)] })), 3, 2, group_of (by decide +kernel), .inl (by decide +kernel), ⟨by decide +kernel, by decide +kernel⟩, by decide +kernel⟩,
   ⟨(xv fun x => { x with toks := [(3, ⟨2, true, none⟩)] }), ⟨false, 7, 0, none, some (3, 2), false⟩, Req.none, (issOf ⟨false, 7, 0, none, some (3, 2), false⟩ (xv fun x => { x with toks := [(3, ⟨2, true, none⟩)] })), (waveOf ⟨false, 7, 0, none, some (3, 2), false⟩ (xv fun x => { x with toks := [(3, ⟨2, true, none⟩)] })), 3, 2, group_of (by decide +kernel), .inl (by decide +kernel), ⟨by decide +kernel, by decide +kernel⟩, by decide +kernel⟩,
   ⟨(xv fun x => { x with pend := 32 }), c0, { Req.none with srcs := [(4, 2, false)] }, (issOf c0 (xv fun x => { x with pend := 32 })), (waveOf c0 (xv fun x => { x with pend := 32 })), (4, 2, false), group_of (by decide +kernel), .inl (by decide +kernel), ⟨by decide +kernel, by decide +kernel⟩, no_hint (by decide +kernel), by decide +kernel⟩,
   ⟨(mV [{ mo0 with tile := 1 }]), c0, { Req.none with out := some 1 }, (issOf c0 (mV [{ mo0 with tile := 1 }])), (waveOf c0 (mV [{ mo0 with tile := 1 }])), 1, group_of (by decide +kernel), .inl (by decide +kernel), ⟨by decide +kernel, by decide +kernel⟩, no_hint (by decide +kernel), by decide +kernel⟩,
   ⟨(xv fun x => { x with bad := [(0, 5)] }), c0, { Req.none with srcs := [(4, 2, false)] }, (issOf c0 (xv fun x => { x with bad := [(0, 5)] })), (waveOf c0 (xv fun x => { x with bad := [(0, 5)] })), (0, 5), [], group_of (by decide +kernel), .inl (by decide +kernel), ⟨by decide +kernel, by decide +kernel⟩, no_hint (by decide +kernel), fun _ => ⟨by decide +kernel, no_some (by decide +kernel)⟩, by decide +kernel⟩,
   ⟨(xv fun x => { x with pend := 32 }), c0, { Req.none with dsts := [(4, 2)] }, (issOf c0 (xv fun x => { x with pend := 32 })), (waveOf c0 (xv fun x => { x with pend := 32 })), (4, 2), group_of (by decide +kernel), .inl (by decide +kernel), ⟨by decide +kernel, by decide +kernel⟩, no_hint (by decide +kernel), fun _ => ⟨by decide +kernel, no_some (by decide +kernel)⟩, by decide +kernel⟩,
   ⟨(xv fun x => { x with toks := [(3, ⟨63, false, none⟩)] }), ⟨false, 7, 0, some 3, none, false⟩, Req.none, (issOf ⟨false, 7, 0, some 3, none, false⟩ (xv fun x => { x with toks := [(3, ⟨63, false, none⟩)] })), (waveOf ⟨false, 7, 0, some 3, none, false⟩ (xv fun x => { x with toks := [(3, ⟨63, false, none⟩)] })), 3, group_of (by decide +kernel), .inl (by decide +kernel), ⟨by decide +kernel, by decide +kernel⟩, no_hint (by decide +kernel), fun _ => ⟨by decide +kernel, no_some (by decide +kernel)⟩, by decide +kernel⟩,
   ⟨s0, c0, Req.none, (issOf c0 s0), (waveOf c0 s0), group_of (by decide +kernel), .inl (by decide +kernel), ⟨by decide +kernel, by decide +kernel⟩, no_hint (by decide +kernel), fun _ => ⟨by decide +kernel, no_some (by decide +kernel)⟩, by decide +kernel⟩,
   ⟨s0, 1, (waveOf c0 s0), by decide +kernel⟩,
   ⟨x0, 0x1000, pre2 (by decide +kernel) (all_act (by decide +kernel))⟩⟩

theorem test_witness_IntegerTwoSource : ∃ (h : Ctl), ∃ (d : Opnd), ∃ (a : Src), ∃ (b : Src), ∃ (ty : BitVec 3), ∃ (s : State), ∃ (i : Iss), ∃ (x : Wave), Goes h (req (d.rng (intN ty)) [a.rng (intN ty), b.rng (intN ty)]) s i x ∧ HandlerGoesOn x :=
  ⟨c0, (.w 8), (r 0), (r 2), 4, s0, (issOf c0 s0), (waveOf c0 s0), goes_of (by decide +kernel), no_handler (by decide +kernel)⟩

theorem test_witness_IntegerLiteral :
    (∃ (h : Ctl), ∃ (d : Opnd), ∃ (a : Src), ∃ (ty : BitVec 3), ∃ (s : State), ∃ (i : Iss), ∃ (x : Wave), Goes h (req (d.rng (intN ty)) [a.rng (intN ty)]) s i x ∧ HandlerGoesOn x) ∧
    (∃ (h : Ctl), ∃ (d : Opnd), ∃ (ty : BitVec 3), ∃ (s : State), ∃ (i : Iss), ∃ (x : Wave), Goes h (req (d.rng (intN ty)) []) s i x ∧ HandlerGoesOn x) ∧
    (∃ (h : Ctl), ∃ (d : Opnd), ∃ (a : Src), ∃ (s : State), ∃ (i : Iss), ∃ (x : Wave), Goes h (req (d.rng 2) [a.rng 1]) s i x ∧ HandlerGoesOn x) :=
  ⟨⟨c0, (.w 8), (r 0), 4, s0, (issOf c0 s0), (waveOf c0 s0), goes_of (by decide +kernel), no_handler (by decide +kernel)⟩,
   ⟨c0, (.w 8), 4, s0, (issOf c0 s0), (waveOf c0 s0), goes_of (by decide +kernel), no_handler (by decide +kernel)⟩,
   ⟨c0, (.w 8), (r 0), s0, (issOf c0 s0), (waveOf c0 s0), goes_of (by decide +kernel), no_handler (by decide +kernel)⟩⟩

theorem test_witness_ShiftsAndRotates :
    (∃ (h : Ctl), ∃ (d : Opnd), ∃ (a : Src), ∃ (b : Src), ∃ (ty : BitVec 3), ∃ (s : State), ∃ (i : Iss), ∃ (x : Wave), Goes h (req (d.rng (intN ty)) [a.rng (intN ty), b.rng 1]) s i x ∧ HandlerGoesOn x) ∧
    (∃ (h : Ctl), ∃ (d : Opnd), ∃ (a : Src), ∃ (ty : BitVec 3), ∃ (s : State), ∃ (i : Iss), ∃ (x : Wave), Goes h (req (d.rng (intN ty)) [a.rng (intN ty)]) s i x ∧ HandlerGoesOn x) :=
  ⟨⟨c0, (.w 8), (r 0), (r 2), 4, s0, (issOf c0 s0), (waveOf c0 s0), goes_of (by decide +kernel), no_handler (by decide +kernel)⟩,
   ⟨c0, (.w 8), (r 0), 4, s0, (issOf c0 s0), (waveOf c0 s0), goes_of (by decide +kernel), no_handler (by decide +kernel)⟩⟩

theorem test_witness_IntegerOther :
    (∃ (h : Ctl), ∃ (d : Opnd), ∃ (a : Src), ∃ (b : Src), ∃ (c : Src), ∃ (ty : BitVec 3), ∃ (s : State), ∃ (i : Iss), ∃ (x : Wave), Goes h (req (d.rng (intN ty)) [a.rng 1, b.rng 1, c.rng 1]) s i x ∧ HandlerGoesOn x) ∧
    (∃ (h : Ctl), ∃ (d : Opnd), ∃ (a : Src), ∃ (b : Src), ∃ (c : Src), ∃ (s : State), ∃ (i : Iss), ∃ (x : Wave), Goes h (req (d.rng 2) [a.rng 1, b.rng 1, c.rng 2]) s i x ∧ HandlerGoesOn x) ∧
    (∃ (h : Ctl), ∃ (d : Opnd), ∃ (a : Src), ∃ (ty : BitVec 3), ∃ (s : State), ∃ (i : Iss), ∃ (x : Wave), Goes h (req (d.rng (intN ty)) [a.rng (intN ty)]) s i x ∧ HandlerGoesOn x) ∧
    (∃ (h : Ctl), ∃ (d : Opnd), ∃ (a : Src), ∃ (b : Src), ∃ (c : Src), ∃ (s : State), ∃ (i : Iss), ∃ (x : Wave), Goes h (req (d.rng 1) [a.rng 1, b.rng 1, c.rng 1]) s i x ∧ HandlerGoesOn x) ∧
    (∃ (h : Ctl), ∃ (d : Opnd), ∃ (a : Src), ∃ (ty : BitVec 3), ∃ (s : State), ∃ (i : Iss), ∃ (x : Wave), Goes h (req (d.rng 1) [a.rng (intN ty)]) s i x ∧ HandlerGoesOn x) ∧
    (∃ (h : Ctl), ∃ (d : Opnd), ∃ (a : Src), ∃ (b : Src), ∃ (ty : BitVec 3), ∃ (s : State), ∃ (i : Iss), ∃ (x : Wave), Goes h (req (d.rng (intN ty)) [a.rng (intN ty), b.rng (intN ty)]) s i x ∧ HandlerGoesOn x) ∧
    (∃ (h : Ctl), ∃ (d : Opnd), ∃ (a : Src), ∃ (b : Src), ∃ (s : State), ∃ (i : Iss), ∃ (x : Wave), Goes h (req (d.rng 2) [a.rng 2, b.rng 1]) s i x ∧ HandlerGoesOn x) ∧
    (∃ (h : Ctl), ∃ (d : Opnd), ∃ (a : Src), ∃ (ty : BitVec 3), ∃ (sty : BitVec 3), ∃ (s : State), ∃ (i : Iss), ∃ (x : Wave), Goes h (req (d.rng (intN ty)) [a.rng (intN sty)]) s i x ∧ HandlerGoesOn x) :=
  ⟨⟨c0, (.w 8), (r 0), (r 2), (r 4), 4, s0, (issOf c0 s0), (waveOf c0 s0), goes_of (by decide +kernel), no_handler (by decide +kernel)⟩,
   ⟨c0, (.w 8), (r 0), (r 2), (r 4), s0, (issOf c0 s0), (waveOf c0 s0), goes_of (by decide +kernel), no_handler (by decide +kernel)⟩,
   ⟨c0, (.w 8), (r 0), 4, s0, (issOf c0 s0), (waveOf c0 s0), goes_of (by decide +kernel), no_handler (by decide +kernel)⟩,
   ⟨c0, (.w 8), (r 0), (r 2), (r 4), s0, (issOf c0 s0), (waveOf c0 s0), goes_of (by decide +kernel), no_handler (by decide +kernel)⟩,
   ⟨c0, (.w 8), (r 0), 4, s0, (issOf c0 s0), (waveOf c0 s0), goes_of (by decide +kernel), no_handler (by decide +kernel)⟩,
   ⟨c0, (.w 8), (r 0), (r 2), 4, s0, (issOf c0 s0), (waveOf c0 s0), goes_of (by decide +kernel), no_handler (by decide +kernel)⟩,
   ⟨c0, (.w 8), (r 0), (r 2), s0, (issOf c0 s0), (waveOf c0 s0), goes_of (by decide +kernel), no_handler (by decide +kernel)⟩,
   ⟨c0, (.w 8), (r 0), 4, 0, s0, (issOf c0 s0), (waveOf c0 s0), goes_of (by decide +kernel), no_handler (by decide +kernel)⟩⟩

theorem test_witness_ComparesAndPredicates :
    (∃ (h : Ctl), ∃ (d : Opnd), ∃ (a : Src), ∃ (b : Src), ∃ (ty : BitVec 3), ∃ (s : State), ∃ (i : Iss), ∃ (x : Wave), Goes h (req (d.rng 1) [a.rng (intN ty), b.rng (intN ty)]) s i x ∧ HandlerGoesOn x) ∧
    (∃ (h : Ctl), ∃ (d : Opnd), ∃ (s : State), ∃ (i : Iss), ∃ (x : Wave), Goes h (req (d.rng 1) []) s i x ∧ HandlerGoesOn x) ∧
    (∃ (h : Ctl), ∃ (d : Option Opnd), ∃ (a : Option Src), ∃ (s : State), ∃ (i : Iss), ∃ (x : Wave), Goes h (req (dstRng d 1) [srcRng a 1]) s i x ∧ HandlerGoesOn x) ∧
    (∃ (h : Ctl), ∃ (d : Opnd), ∃ (a : Src), ∃ (b : Src), ∃ (ty : BitVec 3), ∃ (s : State), ∃ (i : Iss), ∃ (x : Wave), Goes h (req (d.rng 1) [a.rng (fltN ty), b.rng (fltN ty)]) s i x ∧ HandlerGoesOn x) ∧
    (∃ (h : Ctl), ∃ (d : Opnd), ∃ (a : Src), ∃ (ty : BitVec 3), ∃ (s : State), ∃ (i : Iss), ∃ (x : Wave), Goes h (req (d.rng 1) [a.rng (fltN ty)]) s i x ∧ HandlerGoesOn x) ∧
    (∃ (h : Ctl), ∃ (d : Opnd), ∃ (a : Src), ∃ (ty : BitVec 3), ∃ (s : State), ∃ (i : Iss), ∃ (x : Wave), Goes h (req (d.rng 1) [a.rng (fltN ty), []]) s i x ∧ HandlerGoesOn x) :=
  ⟨⟨c0, (.w 8), (r 0), (r 2), 4, s0, (issOf c0 s0), (waveOf c0 s0), goes_of (by decide +kernel), no_handler (by decide +kernel)⟩,
   ⟨c0, (.w 8), s0, (issOf c0 s0), (waveOf c0 s0), goes_of (by decide +kernel), no_handler (by decide +kernel)⟩,
   ⟨c0, none, none, s0, (issOf c0 s0), (waveOf c0 s0), goes_of (by decide +kernel), no_handler (by decide +kernel)⟩,
   ⟨c0, (.w 8), (r 0), (r 2), 4, s0, (issOf c0 s0), (waveOf c0 s0), goes_of (by decide +kernel), no_handler (by decide +kernel)⟩,
   ⟨c0, (.w 8), (r 0), 4, s0, (issOf c0 s0), (waveOf c0 s0), goes_of (by decide +kernel), no_handler (by decide +kernel)⟩,
   ⟨c0, (.w 8), (r 0), 4, s0, (issOf c0 s0), (waveOf c0 s0), goes_of (by decide +kernel), no_handler (by decide +kernel)⟩⟩

theorem test_witness_FloatArithmetic :
    (∃ (h : Ctl), ∃ (d : Opnd), ∃ (a : Src), ∃ (b : Src), ∃ (ty : BitVec 3), ∃ (s : State), ∃ (i : Iss), ∃ (x : Wave), Goes h (req (d.rng (fltN ty)) [a.rng (fltN ty), b.rng (fltN ty)]) s i x ∧ HandlerGoesOn x) ∧
    (∃ (h : Ctl), ∃ (d : Opnd), ∃ (a : Src), ∃ (b : Src), ∃ (c : Src), ∃ (ty : BitVec 3), ∃ (s : State), ∃ (i : Iss), ∃ (x : Wave), Goes h (req (d.rng (fltN ty)) [a.rng (fltN ty), b.rng (fltN ty), c.rng (fltN ty)]) s i x ∧ HandlerGoesOn x) ∧
    (∃ (h : Ctl), ∃ (d : Opnd), ∃ (a : Src), ∃ (b : Src), ∃ (ty : BitVec 3), ∃ (s : State), ∃ (i : Iss), ∃ (x : Wave), Goes h (req (d.rng (fltN ty)) [a.rng (fltN ty), b.rng 1]) s i x ∧ HandlerGoesOn x) ∧
    (∃ (h : Ctl), ∃ (d : Opnd), ∃ (a : Src), ∃ (ty : BitVec 3), ∃ (s : State), ∃ (i : Iss), ∃ (x : Wave), Goes h (req (d.rng (fltN ty)) [a.rng (fltN ty)]) s i x ∧ HandlerGoesOn x) :=
  ⟨⟨c0, (.w 8), (r 0), (r 2), 4, s0, (issOf c0 s0), (waveOf c0 s0), goes_of (by decide +kernel), no_handler (by decide +kernel)⟩,
   ⟨c0, (.w 8), (r 0), (r 2), (r 4), 4, s0, (issOf c0 s0), (waveOf c0 s0), goes_of (by decide +kernel), no_handler (by decide +kernel)⟩,
   ⟨c0, (.w 8), (r 0), (r 2), 4, s0, (issOf c0 s0), (waveOf c0 s0), goes_of (by decide +kernel), no_handler (by decide +kernel)⟩,
   ⟨c0, (.w 8), (r 0), 4, s0, (issOf c0 s0), (waveOf c0 s0), goes_of (by decide +kernel), no_handler (by decide +kernel)⟩⟩

theorem test_witness_SpecialFunctions : ∃ (h : Ctl), ∃ (d : Opnd), ∃ (a : Src), ∃ (ty : BitVec 3), ∃ (s : State), ∃ (i : Iss), ∃ (x : Wave), Goes h (req (d.rng (fltN ty)) [a.rng (fltN ty)]) s i x ∧ HandlerGoesOn x :=
  ⟨c0, (.w 8), (r 0), 4, s0, (issOf c0 s0), (waveOf c0 s0), goes_of (by decide +kernel), no_handler (by decide +kernel)⟩

theorem test_witness_PackedAndConversions :
    (∃ (h : Ctl), ∃ (d : Opnd), ∃ (a : Src), ∃ (b : Src), ∃ (c : Src), ∃ (s : State), ∃ (i : Iss), ∃ (x : Wave), Goes h (req (d.rng 1) [a.rng 1, b.rng 1, c.rng 1]) s i x ∧ HandlerGoesOn x) ∧
    (∃ (h : Ctl), ∃ (d : Opnd), ∃ (a : Src), ∃ (b : Src), ∃ (s : State), ∃ (i : Iss), ∃ (x : Wave), Goes h (req (d.rng 1) [a.rng 1, b.rng 1]) s i x ∧ HandlerGoesOn x) ∧
    (∃ (h : Ctl), ∃ (d : Opnd), ∃ (a : Src), ∃ (ty : BitVec 3), ∃ (sty : BitVec 3), ∃ (s : State), ∃ (i : Iss), ∃ (x : Wave), Goes h (req (d.rng (fltN ty)) [a.rng (fltN sty)]) s i x ∧ HandlerGoesOn x) ∧
    (∃ (h : Ctl), ∃ (d : Opnd), ∃ (a : Src), ∃ (ty : BitVec 3), ∃ (sty : BitVec 3), ∃ (s : State), ∃ (i : Iss), ∃ (x : Wave), Goes h (req (d.rng (intN ty)) [a.rng (fltN sty)]) s i x ∧ HandlerGoesOn x) ∧
    (∃ (h : Ctl), ∃ (d : Opnd), ∃ (a : Src), ∃ (ty : BitVec 3), ∃ (sty : BitVec 3), ∃ (s : State), ∃ (i : Iss), ∃ (x : Wave), Goes h (req (d.rng (fltN ty)) [a.rng (intN sty)]) s i x ∧ HandlerGoesOn x) ∧
    (∃ (h : Ctl), ∃ (d : Opnd), ∃ (a : Src), ∃ (ty : BitVec 3), ∃ (s : State), ∃ (i : Iss), ∃ (x : Wave), Goes h (req (d.rng (if ty.toNat = 4 then 2 else 1)) [a.rng 1]) s i x ∧ HandlerGoesOn x) :=
  ⟨⟨c0, (.w 8), (r 0), (r 2), (r 4), s0, (issOf c0 s0), (waveOf c0 s0), goes_of (by decide +kernel), no_handler (by decide +kernel)⟩,
   ⟨c0, (.w 8), (r 0), (r 2), s0, (issOf c0 s0), (waveOf c0 s0), goes_of (by decide +kernel), no_handler (by decide +kernel)⟩,
   ⟨c0, (.w 8), (r 0), 4, 0, s0, (issOf c0 s0), (waveOf c0 s0), goes_of (by decide +kernel), no_handler (by decide +kernel)⟩,
   ⟨c0, (.w 8), (r 0), 4, 0, s0, (issOf c0 s0), (waveOf c0 s0), goes_of (by decide +kernel), no_handler (by decide +kernel)⟩,
   ⟨c0, (.w 8), (r 0), 4, 0, s0, (issOf c0 s0), (waveOf c0 s0), goes_of (by decide +kernel), no_handler (by decide +kernel)⟩,
   ⟨c0, (.w 8), (r 0), 4, s0, (issOf c0 s0), (waveOf c0 s0), goes_of (by decide +kernel), no_handler (by decide +kernel)⟩⟩

theorem test_witness_LaneExchange :
    (∃ (h : Ctl), ∃ (d : Opnd), ∃ (a : Src), ∃ (b : Src), ∃ (ty : BitVec 3), ∃ (s : State), ∃ (i : Iss), ∃ (x : Wave), Goes h (req (d.rng (intN ty)) [a.rng (intN ty), b.rng 1]) s i x ∧ HandlerGoesOn x) ∧
    (∃ (h : Ctl), ∃ (d : Opnd), ∃ (s : State), ∃ (i : Iss), ∃ (x : Wave), Goes h (req (d.rng 1) []) s i x ∧ HandlerGoesOn x) ∧
    (∃ (h : Ctl), ∃ (d : Opnd), ∃ (a : Src), ∃ (ty : BitVec 3), ∃ (s : State), ∃ (i : Iss), ∃ (x : Wave), Goes h (req (d.rng 1) [a.rng (intN ty)]) s i x ∧ HandlerGoesOn x) ∧
    (∃ (h : Ctl), ∃ (d : Opnd), ∃ (a : Src), ∃ (ty : BitVec 3), ∃ (s : State), ∃ (i : Iss), ∃ (x : Wave), Goes h (req (d.rng (intN ty)) [a.rng (intN ty)]) s i x ∧ HandlerGoesOn x) :=
  ⟨⟨c0, (.w 8), (r 0), (r 2), 4, s0, (issOf c0 s0), (waveOf c0 s0), goes_of (by decide +kernel), no_handler (by decide +kernel)⟩,
   ⟨c0, (.w 8), s0, (issOf c0 s0), (waveOf c0 s0), goes_of (by decide +kernel), no_handler (by decide +kernel)⟩,
   ⟨c0, (.w 8), (r 0), 4, s0, (issOf c0 s0), (waveOf c0 s0), goes_of (by decide +kernel), no_handler (by decide +kernel)⟩,
   ⟨c0, (.w 8), (r 0), 4, s0, (issOf c0 s0), (waveOf c0 s0), goes_of (by decide +kernel), no_handler (by decide +kernel)⟩⟩

theorem test_witness_BranchesGoThere :
    (∃ (h : Ctl), ∃ (disp : BitVec 30), ∃ (s : State), ∃ (i : Iss), ∃ (x : Wave), Goes h Req.none s i x ∧ (∀ l, i.act.getLsbD l = true → (i.ba.setWidth 64 + 4 * disp.signExtend 64).toNat < 2 ^ 57) ∧ Stays s i x ((fun _ => i.ba.setWidth 64 + 4 * disp.signExtend 64))) ∧
    (∃ (h : Ctl), ∃ (disp : BitVec 60), ∃ (s : State), ∃ (i : Iss), ∃ (x : Wave), Goes h Req.none s i x ∧ (∀ l, i.act.getLsbD l = true → (i.ba.setWidth 64 + 4 * disp.signExtend 64).toNat < 2 ^ 57) ∧ Stays s i x ((fun _ => i.ba.setWidth 64 + 4 * disp.signExtend 64))) ∧
    (∃ (h : Ctl), ∃ (a : Src), ∃ (s : State), ∃ (i : Iss), ∃ (x : Wave), Goes h { Req.none with srcs := a.rng 2 } s i x ∧ (∀ l, i.act.getLsbD l = true → (a.x x l).toNat < 2 ^ 57) ∧ Stays s i x ((fun l => a.x x l))) :=
  ⟨⟨c0, 0, s0, (issOf c0 s0), (waveOf c0 s0), goes_of (by decide +kernel), all_act (by decide +kernel), .inl (by decide +kernel)⟩,
   ⟨c0, 0, s0, (issOf c0 s0), (waveOf c0 s0), goes_of (by decide +kernel), all_act (by decide +kernel), .inl (by decide +kernel)⟩,
   ⟨c0, (r 0), s0, (issOf c0 s0), (waveOf c0 s0), goes_of (by decide +kernel), all_act (by decide +kernel), .inl (by decide +kernel)⟩⟩

theorem test_witness_CallsAndReturns :
    (∃ (h : Ctl), ∃ (disp : BitVec 30), ∃ (s : State), ∃ (i : Iss), ∃ (x : Wave), Goes h Req.none s i x ∧ (∀ l, i.act.getLsbD l = true → (i.ba.setWidth 64 + 4 * disp.signExtend 64).toNat < 2 ^ 57) ∧ (s.dev.launch i.slot).travel = false ∧ (∀ l, i.act.getLsbD l = true → (x.thread l).rs.length < 4)) ∧
    (∃ (h : Ctl), ∃ (disp : BitVec 60), ∃ (s : State), ∃ (i : Iss), ∃ (x : Wave), Goes h Req.none s i x ∧ (∀ l, i.act.getLsbD l = true → (i.ba.setWidth 64 + 4 * disp.signExtend 64).toNat < 2 ^ 57) ∧ (s.dev.launch i.slot).travel = false ∧ (∀ l, i.act.getLsbD l = true → (x.thread l).rs.length < 4)) ∧
    (∃ (h : Ctl), ∃ (a : Src), ∃ (s : State), ∃ (i : Iss), ∃ (x : Wave), Goes h { Req.none with srcs := a.rng 2 } s i x ∧ (∀ l, i.act.getLsbD l = true → (a.x x l).toNat < 2 ^ 57) ∧ (s.dev.launch i.slot).travel = false ∧ (∀ l, i.act.getLsbD l = true → (x.thread l).rs.length < 4)) ∧
    (∃ (h : Ctl), ∃ (s : State), ∃ (i : Iss), ∃ (x : Wave), Goes h Req.none s i x ∧ (s.dev.launch i.slot).travel = false ∧ (i.act ≠ 0 → ∀ k, 8 ≤ k → k < 16 → (x.tok k).count = 0) ∧ (∀ l, i.act.getLsbD l = true → (x.thread l).rs ≠ [])) :=
  ⟨⟨c0, 0, s0, (issOf c0 s0), (waveOf c0 s0), goes_of (by decide +kernel), all_act (by decide +kernel), by decide +kernel, all_act (by decide +kernel)⟩,
   ⟨c0, 0, s0, (issOf c0 s0), (waveOf c0 s0), goes_of (by decide +kernel), all_act (by decide +kernel), by decide +kernel, all_act (by decide +kernel)⟩,
   ⟨c0, (r 0), s0, (issOf c0 s0), (waveOf c0 s0), goes_of (by decide +kernel), all_act (by decide +kernel), by decide +kernel, all_act (by decide +kernel)⟩,
   ⟨c0, (xv fun x => { x with thr := [(0, { Thread.idle with pc := 0x1000, st := .run, rs := [0x2000] })] }), (issOf c0 (xv fun x => { x with thr := [(0, { Thread.idle with pc := 0x1000, st := .run, rs := [0x2000] })] })), (waveOf c0 (xv fun x => { x with thr := [(0, { Thread.idle with pc := 0x1000, st := .run, rs := [0x2000] })] })), goes_of (by decide +kernel), by decide +kernel, fun _ _ _ _ => rfl, all_act (by decide +kernel)⟩⟩

theorem test_witness_TransfersSpillAndHop :
    (∃ (h : Ctl), ∃ (disp : BitVec 30), ∃ (s : State), ∃ (i : Iss), ∃ (x : Wave), ∃ (p : Nat → Option Place), ∃ (w : Nat → Option Place), Goes h { Req.none with srcs := [] } s i x ∧ (∀ l, i.act.getLsbD l = true → ((fun i _ _ => i.ba.setWidth 64 + 4 * disp.signExtend 64) i x l : W64).toNat < 2 ^ 57) ∧ (∀ l, i.act.getLsbD l = true → (s.at' i x).xferAcc i .branch (s.dev.launch i.slot).travel (x.thread l) = .ok (p l)) ∧ (∀ l ∈ (s.at' i x).hopsOf i ((s.at' i x).xferTo i x .branch (fun i _ _ => i.ba.setWidth 64 + 4 * disp.signExtend 64) p), ((s.at' i x).d.segOf i.slot ((s.at' i x).xferTo i x .branch (fun i _ _ => i.ba.setWidth 64 + 4 * disp.signExtend 64) p l).toNat).isSome ∧ (s.at' i x).hopWord i x l = .ok (w l)) ∧ ((s.at' i x).hopsOf i ((s.at' i x).xferTo i x .branch (fun i _ _ => i.ba.setWidth 64 + 4 * disp.signExtend 64) p) ≠ [] → (∀ n, n < 16 → (x.tok n).count = 0) ∧ x.pend = 0)) ∧
    (∃ (h : Ctl), ∃ (disp : BitVec 60), ∃ (s : State), ∃ (i : Iss), ∃ (x : Wave), ∃ (p : Nat → Option Place), ∃ (w : Nat → Option Place), Goes h { Req.none with srcs := [] } s i x ∧ (∀ l, i.act.getLsbD l = true → ((fun i _ _ => i.ba.setWidth 64 + 4 * disp.signExtend 64) i x l : W64).toNat < 2 ^ 57) ∧ (∀ l, i.act.getLsbD l = true → (s.at' i x).xferAcc i .branch (s.dev.launch i.slot).travel (x.thread l) = .ok (p l)) ∧ (∀ l ∈ (s.at' i x).hopsOf i ((s.at' i x).xferTo i x .branch (fun i _ _ => i.ba.setWidth 64 + 4 * disp.signExtend 64) p), ((s.at' i x).d.segOf i.slot ((s.at' i x).xferTo i x .branch (fun i _ _ => i.ba.setWidth 64 + 4 * disp.signExtend 64) p l).toNat).isSome ∧ (s.at' i x).hopWord i x l = .ok (w l)) ∧ ((s.at' i x).hopsOf i ((s.at' i x).xferTo i x .branch (fun i _ _ => i.ba.setWidth 64 + 4 * disp.signExtend 64) p) ≠ [] → (∀ n, n < 16 → (x.tok n).count = 0) ∧ x.pend = 0)) ∧
    (∃ (h : Ctl), ∃ (a : Src), ∃ (s : State), ∃ (i : Iss), ∃ (x : Wave), ∃ (p : Nat → Option Place), ∃ (w : Nat → Option Place), Goes h { Req.none with srcs := (a.rng 2) } s i x ∧ (∀ l, i.act.getLsbD l = true → ((fun _ x l => a.x x l) i x l : W64).toNat < 2 ^ 57) ∧ (∀ l, i.act.getLsbD l = true → (s.at' i x).xferAcc i .branch (s.dev.launch i.slot).travel (x.thread l) = .ok (p l)) ∧ (∀ l ∈ (s.at' i x).hopsOf i ((s.at' i x).xferTo i x .branch (fun _ x l => a.x x l) p), ((s.at' i x).d.segOf i.slot ((s.at' i x).xferTo i x .branch (fun _ x l => a.x x l) p l).toNat).isSome ∧ (s.at' i x).hopWord i x l = .ok (w l)) ∧ ((s.at' i x).hopsOf i ((s.at' i x).xferTo i x .branch (fun _ x l => a.x x l) p) ≠ [] → (∀ n, n < 16 → (x.tok n).count = 0) ∧ x.pend = 0)) ∧
    (∃ (h : Ctl), ∃ (disp : BitVec 30), ∃ (s : State), ∃ (i : Iss), ∃ (x : Wave), ∃ (p : Nat → Option Place), ∃ (w : Nat → Option Place), Goes h { Req.none with srcs := [] } s i x ∧ (∀ l, i.act.getLsbD l = true → ((fun i _ _ => i.ba.setWidth 64 + 4 * disp.signExtend 64) i x l : W64).toNat < 2 ^ 57) ∧ (∀ l, i.act.getLsbD l = true → (s.at' i x).xferAcc i .call (s.dev.launch i.slot).travel (x.thread l) = .ok (p l)) ∧ (∀ l ∈ (s.at' i x).hopsOf i ((s.at' i x).xferTo i x .call (fun i _ _ => i.ba.setWidth 64 + 4 * disp.signExtend 64) p), ((s.at' i x).d.segOf i.slot ((s.at' i x).xferTo i x .call (fun i _ _ => i.ba.setWidth 64 + 4 * disp.signExtend 64) p l).toNat).isSome ∧ (s.at' i x).hopWord i x l = .ok (w l)) ∧ ((s.at' i x).hopsOf i ((s.at' i x).xferTo i x .call (fun i _ _ => i.ba.setWidth 64 + 4 * disp.signExtend 64) p) ≠ [] → (∀ n, n < 16 → (x.tok n).count = 0) ∧ x.pend = 0)) ∧
    (∃ (h : Ctl), ∃ (disp : BitVec 60), ∃ (s : State), ∃ (i : Iss), ∃ (x : Wave), ∃ (p : Nat → Option Place), ∃ (w : Nat → Option Place), Goes h { Req.none with srcs := [] } s i x ∧ (∀ l, i.act.getLsbD l = true → ((fun i _ _ => i.ba.setWidth 64 + 4 * disp.signExtend 64) i x l : W64).toNat < 2 ^ 57) ∧ (∀ l, i.act.getLsbD l = true → (s.at' i x).xferAcc i .call (s.dev.launch i.slot).travel (x.thread l) = .ok (p l)) ∧ (∀ l ∈ (s.at' i x).hopsOf i ((s.at' i x).xferTo i x .call (fun i _ _ => i.ba.setWidth 64 + 4 * disp.signExtend 64) p), ((s.at' i x).d.segOf i.slot ((s.at' i x).xferTo i x .call (fun i _ _ => i.ba.setWidth 64 + 4 * disp.signExtend 64) p l).toNat).isSome ∧ (s.at' i x).hopWord i x l = .ok (w l)) ∧ ((s.at' i x).hopsOf i ((s.at' i x).xferTo i x .call (fun i _ _ => i.ba.setWidth 64 + 4 * disp.signExtend 64) p) ≠ [] → (∀ n, n < 16 → (x.tok n).count = 0) ∧ x.pend = 0)) ∧
    (∃ (h : Ctl), ∃ (a : Src), ∃ (s : State), ∃ (i : Iss), ∃ (x : Wave), ∃ (p : Nat → Option Place), ∃ (w : Nat → Option Place), Goes h { Req.none with srcs := (a.rng 2) } s i x ∧ (∀ l, i.act.getLsbD l = true → ((fun _ x l => a.x x l) i x l : W64).toNat < 2 ^ 57) ∧ (∀ l, i.act.getLsbD l = true → (s.at' i x).xferAcc i .call (s.dev.launch i.slot).travel (x.thread l) = .ok (p l)) ∧ (∀ l ∈ (s.at' i x).hopsOf i ((s.at' i x).xferTo i x .call (fun _ x l => a.x x l) p), ((s.at' i x).d.segOf i.slot ((s.at' i x).xferTo i x .call (fun _ x l => a.x x l) p l).toNat).isSome ∧ (s.at' i x).hopWord i x l = .ok (w l)) ∧ ((s.at' i x).hopsOf i ((s.at' i x).xferTo i x .call (fun _ x l => a.x x l) p) ≠ [] → (∀ n, n < 16 → (x.tok n).count = 0) ∧ x.pend = 0)) ∧
    (∃ (h : Ctl), ∃ (s : State), ∃ (i : Iss), ∃ (x : Wave), ∃ (p : Nat → Option Place), ∃ (w : Nat → Option Place), Goes h { Req.none with srcs := [] } s i x ∧ (i.act ≠ 0 → ∀ n, 8 ≤ n → n < 16 → (x.tok n).count = 0) ∧ (∀ l, i.act.getLsbD l = true → (s.at' i x).xferAcc i .ret (s.dev.launch i.slot).travel (x.thread l) = .ok (p l)) ∧ (∀ l ∈ (s.at' i x).hopsOf i ((s.at' i x).xferTo i x .ret (fun _ _ _ => 0) p), ((s.at' i x).d.segOf i.slot ((s.at' i x).xferTo i x .ret (fun _ _ _ => 0) p l).toNat).isSome ∧ (s.at' i x).hopWord i x l = .ok (w l)) ∧ ((s.at' i x).hopsOf i ((s.at' i x).xferTo i x .ret (fun _ _ _ => 0) p) ≠ [] → (∀ n, n < 16 → (x.tok n).count = 0) ∧ x.pend = 0)) :=
  ⟨⟨c0, 0, s0, (issOf c0 s0), (waveOf c0 s0), (fun _ => none), (fun _ => none), goes_of (by decide +kernel), all_act (by decide +kernel), one_act (by decide +kernel) (ok_of (by decide +kernel)), by rw [no_hops (by decide +kernel)]; simp, fun h => absurd (no_hops (by decide +kernel)) h⟩,
   ⟨c0, 0, s0, (issOf c0 s0), (waveOf c0 s0), (fun _ => none), (fun _ => none), goes_of (by decide +kernel), all_act (by decide +kernel), one_act (by decide +kernel) (ok_of (by decide +kernel)), by rw [no_hops (by decide +kernel)]; simp, fun h => absurd (no_hops (by decide +kernel)) h⟩,
   ⟨c0, (r 0), s0, (issOf c0 s0), (waveOf c0 s0), (fun _ => none), (fun _ => none), goes_of (by decide +kernel), all_act (by decide +kernel), one_act (by decide +kernel) (ok_of (by decide +kernel)), by rw [no_hops (by decide +kernel)]; simp, fun h => absurd (no_hops (by decide +kernel)) h⟩,
   ⟨c0, 0, s0, (issOf c0 s0), (waveOf c0 s0), (fun _ => none), (fun _ => none), goes_of (by decide +kernel), all_act (by decide +kernel), one_act (by decide +kernel) (ok_of (by decide +kernel)), by rw [no_hops (by decide +kernel)]; simp, fun h => absurd (no_hops (by decide +kernel)) h⟩,
   ⟨c0, 0, s0, (issOf c0 s0), (waveOf c0 s0), (fun _ => none), (fun _ => none), goes_of (by decide +kernel), all_act (by decide +kernel), one_act (by decide +kernel) (ok_of (by decide +kernel)), by rw [no_hops (by decide +kernel)]; simp, fun h => absurd (no_hops (by decide +kernel)) h⟩,
   ⟨c0, (r 0), s0, (issOf c0 s0), (waveOf c0 s0), (fun _ => none), (fun _ => none), goes_of (by decide +kernel), all_act (by decide +kernel), one_act (by decide +kernel) (ok_of (by decide +kernel)), by rw [no_hops (by decide +kernel)]; simp, fun h => absurd (no_hops (by decide +kernel)) h⟩,
   ⟨c0, (xv fun x => { x with thr := [(0, { Thread.idle with pc := 0x1000, st := .run, rs := [0x2000] })] }), (issOf c0 (xv fun x => { x with thr := [(0, { Thread.idle with pc := 0x1000, st := .run, rs := [0x2000] })] })), (waveOf c0 (xv fun x => { x with thr := [(0, { Thread.idle with pc := 0x1000, st := .run, rs := [0x2000] })] })), (fun _ => none), (fun _ => none), goes_of (by decide +kernel), fun _ _ _ _ => rfl, one_act (by decide +kernel) (ok_of (by decide +kernel)), by rw [no_hops (by decide +kernel)]; simp, fun h => absurd (no_hops (by decide +kernel)) h⟩⟩

theorem test_witness_LoopsAndIdling :
    (∃ (h : Ctl), ∃ (a : Src), ∃ (s : State), ∃ (i : Iss), ∃ (x : Wave), Goes h ({ Req.none with srcs := a.rng 1 }) s i x ∧ (∀ l, i.act.getLsbD l = true → (x.thread l).ls.length ≠ 4)) ∧
    (∃ (h : Ctl), ∃ (s : State), ∃ (i : Iss), ∃ (x : Wave), Goes h Req.none s i x) ∧
    (∃ (h : Ctl), ∃ (s : State), ∃ (i : Iss), ∃ (x : Wave), Goes h Req.none s i x ∧ (s.dev.block i.blk).preq = false ∧ HandlerGoesOn x) :=
  ⟨⟨c0, (r 0), s0, (issOf c0 s0), (waveOf c0 s0), goes_of (by decide +kernel), all_act (by decide +kernel)⟩,
   ⟨c0, s0, (issOf c0 s0), (waveOf c0 s0), goes_of (by decide +kernel)⟩,
   ⟨c0, s0, (issOf c0 s0), (waveOf c0 s0), goes_of (by decide +kernel), by decide +kernel, no_handler (by decide +kernel)⟩⟩

theorem test_witness_TrapsOfTheirOwn :
    (∃ (h : Ctl), ∃ (s : State), ∃ (i : Iss), ∃ (x : Wave), Goes h Req.none s i x ∧ i.act ≠ 0) ∧
    (∃ (h : Ctl), ∃ (a : Src), ∃ (s : State), ∃ (i : Iss), ∃ (x : Wave), Goes h ({ Req.none with srcs := a.rng 2 }) s i x) :=
  ⟨⟨c0, s0, (issOf c0 s0), (waveOf c0 s0), goes_of (by decide +kernel), by decide +kernel⟩,
   ⟨c0, (r 0), s0, (issOf c0 s0), (waveOf c0 s0), goes_of (by decide +kernel)⟩⟩

theorem test_witness_HandlerReturn :
    (∃ (h : Ctl), ∃ (s : State), ∃ (i : Iss), ∃ (x : Wave), ∃ (f : Frame), Goes h Req.none s i x ∧ i.act ≠ 0 ∧ x.frame = some f ∧ x.pipe ≠ []) ∧
    (∃ (h : Ctl), ∃ (s : State), ∃ (i : Iss), ∃ (x : Wave), ∃ (f : Frame), ∃ (p : Place), Goes h Req.none s i x ∧ i.act ≠ 0 ∧ x.frame = some f ∧ x.pipe = [] ∧ (s.at' i x).stackAcc i (x.fault + 24) .read = .ok p ∧ (s.at' i x).mustWait (i.late x (.nop i.h) 0 0 8 false false (fun _ => x.fault + 24) ((lanesOf f.lanes).map (fun l => (l, p)))) = false) ∧
    (∃ (h : Ctl), ∃ (s : State), ∃ (i : Iss), ∃ (x : Wave), ∃ (f : Frame), ∃ (p : Place), Goes h Req.none s i x ∧ i.act ≠ 0 ∧ x.frame = some f ∧ x.pipe = [] ∧ (s.at' i x).stackAcc i (x.fault + 24) .read = .ok p ∧ (s.at' i x).mustWait (i.late x (.nop i.h) 0 0 8 false false (fun _ => x.fault + 24) ((lanesOf f.lanes).map (fun l => (l, p)))) = true) ∧
    (∃ (h : Ctl), ∃ (s : State), ∃ (i : Iss), ∃ (x : Wave), Goes h Req.none s i x ∧ i.act ≠ 0 ∧ x.frame = none) :=
  ⟨⟨c0, (xv fun x => { x with frame := some fr0, fault := 0x10000000000, pipe := [{ pe0 with due := 5 }] }), (issOf c0 (xv fun x => { x with frame := some fr0, fault := 0x10000000000, pipe := [{ pe0 with due := 5 }] })), (waveOf c0 (xv fun x => { x with frame := some fr0, fault := 0x10000000000, pipe := [{ pe0 with due := 5 }] })), fr0, goes_of (by decide +kernel), by decide +kernel⟩,
   ⟨c0, (xv fun x => { x with frame := some fr0, fault := 0x10000000000 }), (issOf c0 (xv fun x => { x with frame := some fr0, fault := 0x10000000000 })), (waveOf c0 (xv fun x => { x with frame := some fr0, fault := 0x10000000000 })), fr0, (.scratch 0 24), goes_of (by decide +kernel), pre3 (by decide +kernel) ⟨ok_of (by decide +kernel), by decide +kernel⟩⟩,
   ⟨c0, (hV fun x => { x with frame := some fr0, fault := 0x10000000000 }), (issOf c0 (hV fun x => { x with frame := some fr0, fault := 0x10000000000 })), (waveOf c0 (hV fun x => { x with frame := some fr0, fault := 0x10000000000 })), fr0, (.scratch 0 24), goes_of (by decide +kernel), pre3 (by decide +kernel) ⟨ok_of (by decide +kernel), by decide +kernel⟩⟩,
   ⟨c0, s0, (issOf c0 s0), (waveOf c0 s0), goes_of (by decide +kernel), by decide +kernel⟩⟩

theorem test_witness_MasksAndTokens :
    (∃ (h : Ctl), ∃ (d : Opnd), ∃ (disp : BitVec 20), ∃ (s : State), ∃ (i : Iss), ∃ (x : Wave), Goes h Req.none s i x ∧ (i.act ≠ 0 → (i.ba.setWidth 64 + 4 * disp.signExtend 64 : W64).toNat < 2 ^ 48 ∧
      ((x.mask d.idx).lanes = 0 ∨ (x.mask d.idx).meet = i.ba.setWidth 64 + 4 * disp.signExtend 64))) ∧
    (∃ (h : Ctl), ∃ (s : State), ∃ (i : Iss), ∃ (x : Wave), Goes h Req.none s i x) ∧
    (∃ (h : Ctl), ∃ (d : Opnd), ∃ (a : Src), ∃ (b : Option Src), ∃ (mode : BitVec 2), ∃ (s : State), ∃ (i : Iss), ∃ (x : Wave), Goes h { Req.none with srcs := (if mode.toNat = 2 then a.rng 1 ++ srcRng b 2 else []), dsts := d.rng 2 } s i x ∧ HandlerGoesOn x) ∧
    (∃ (h : Ctl), ∃ (a : Src), ∃ (s : State), ∃ (i : Iss), ∃ (x : Wave), Goes h ({ Req.none with srcs := a.rng 1 }) s i x ∧ (∀ l, i.act.getLsbD l = true → (a.w x l &&& x.alive).getLsbD l = true ∧
      (∀ k, i.act.getLsbD k = true → a.w x k &&& x.alive = a.w x l &&& x.alive ∨ (a.w x k &&& x.alive) &&& (a.w x l &&& x.alive) = 0) ∧
      ∀ k, (a.w x l &&& x.alive).getLsbD k = true → ∀ m, (x.thread k).st = .held → (x.thread k).hold = .msync m → m = a.w x l &&& x.alive)) ∧
    (∃ (h : Ctl), ∃ (a : Src), ∃ (n : BitVec 6), ∃ (s : State), ∃ (i : Iss), ∃ (x : Wave), Goes h Req.none s i x ∧ (i.act ≠ 0 → (x.tok a.o.idx).count ≤ n.toNat ∧ (x.tok a.o.idx).err = false)) ∧
    (∃ (h : Ctl), ∃ (d : Opnd), ∃ (s : State), ∃ (i : Iss), ∃ (x : Wave), Goes h (req (d.rng 1) []) s i x ∧ HandlerGoesOn x) ∧
    (∃ (h : Ctl), ∃ (d : Opnd), ∃ (a : Src), ∃ (s : State), ∃ (i : Iss), ∃ (x : Wave), Goes h ({ Req.none with dsts := d.rng (srWords a.o.idx) }) s i x) ∧
    (∃ (h : Ctl), ∃ (a : Src), ∃ (s : State), ∃ (i : Iss), ∃ (x : Wave), Goes h ({ Req.none with srcs := a.rng 2 }) s i x) ∧
    (∃ (m : Nat), m < 12) ∧
    (∃ (l : Nat), l < 32) :=
  ⟨⟨c0, (.w 8), 0, s0, (issOf c0 s0), (waveOf c0 s0), goes_of (by decide +kernel), by decide +kernel⟩,
   ⟨c0, s0, (issOf c0 s0), (waveOf c0 s0), goes_of (by decide +kernel)⟩,
   ⟨c0, (.w 8), (r 0), none, 0, s0, (issOf c0 s0), (waveOf c0 s0), goes_of (by decide +kernel), no_handler (by decide +kernel)⟩,
   ⟨c0, (r 0), (xv fun x => { x with regs := [(0, 1)] }), (issOf c0 (xv fun x => { x with regs := [(0, 1)] })), (waveOf c0 (xv fun x => { x with regs := [(0, 1)] })), goes_of (by decide +kernel), one_act (by decide +kernel) ⟨by decide +kernel, one_act (by decide +kernel) (by decide +kernel), one_act (by decide +kernel) (by intro m hm; exact absurd hm (by decide +kernel))⟩⟩,
   ⟨c0, (r 0), 0, s0, (issOf c0 s0), (waveOf c0 s0), goes_of (by decide +kernel), by decide +kernel⟩,
   ⟨c0, (.w 8), s0, (issOf c0 s0), (waveOf c0 s0), goes_of (by decide +kernel), no_handler (by decide +kernel)⟩,
   ⟨c0, (.w 8), (r 0), s0, (issOf c0 s0), (waveOf c0 s0), goes_of (by decide +kernel)⟩,
   ⟨c0, (r 0), s0, (issOf c0 s0), (waveOf c0 s0), goes_of (by decide +kernel)⟩,
   ⟨0, by decide +kernel⟩,
   ⟨0, by decide +kernel⟩⟩

theorem test_witness_ThreadsThatAreMade :
    (∃ (h : Ctl), ∃ (a : Src), ∃ (b : Option Src), ∃ (wsrc : Option Src), ∃ (nw : BitVec 4), ∃ (s : State), ∃ (i : Iss), ∃ (x : Wave), ∃ (e : Nat → Nat), Goes h ({ Req.none with srcs := a.rng 2 ++ srcRng b nw.toNat ++ srcRng wsrc 2 }) s i x ∧ (∀ l, i.act.getLsbD l = true → (s.at' i x).entryOf i (a.x x l) = .ok (e l))) ∧
    (∃ (h : Ctl), ∃ (a : Src), ∃ (disp : BitVec 20), ∃ (live : BitVec 11), ∃ (s : State), ∃ (i : Iss), ∃ (x : Wave), Goes h Req.none s i x ∧ (∀ l, i.act.getLsbD l = true → (x.thread l).rs = [] ∧ (x.thread l).rsd = 0 ∧ (x.thread l).ls = []) ∧ (splitLeaves i (a.o.valP x) ≠ [] → (splitTo i (a.o.valP x) (i.ba.setWidth 64 + 4 * disp.signExtend 64)).toNat < 2 ^ 48) ∧ (i.act ≠ 0 → ∀ k, k < 11 → live.getLsbD k = true → x.pending (k, 1) = false)) :=
  ⟨⟨c0, (r 0), none, none, 0, s0, (issOf c0 s0), (waveOf c0 s0), (fun _ => 0x10000000000), goes_of (by decide +kernel), one_act (by decide +kernel) (ok_of (by decide +kernel))⟩,
   ⟨c0, (r 0), 0, 0, s0, (issOf c0 s0), (waveOf c0 s0), goes_of (by decide +kernel), all_act (by decide +kernel), by decide +kernel⟩⟩

theorem test_witness_RegisterPoolAndSegments :
    (∃ (h : Ctl), ∃ (nb : BitVec 6), ∃ (s : State), ∃ (i : Iss), ∃ (x : Wave), Goes h Req.none s i x ∧ (¬ (i.act = 0 ∨ x.alloc ≤ 8 * nb.toNat)) ∧ (∀ r, 8 * nb.toNat ≤ r → r < x.alloc → x.pending (r, 1) = false)) ∧
    (∃ (h : Ctl), ∃ (nb : BitVec 6), ∃ (s : State), ∃ (i : Iss), ∃ (x : Wave), Goes h Req.none s i x ∧ (¬ (i.act = 0 ∨ 8 * nb.toNat ≤ x.alloc)) ∧ 8 * nb.toNat + 8 * ((s.at' i x).d.waves.filter (fun e => e.2.live && e.2.blk == i.blk && e.1 != i.w && e.2.widx % 4 == x.widx % 4)).length
        ≤ (s.dev.block i.blk).bq.get 0 (x.widx % 4) ∧ ∃ d, (s.at' i x).d.claim i.w (8 * nb.toNat) = some d ∧ (s.at' i x).d.claims i.blk (x.widx % 4) s.dev.turns = false) ∧
    (∃ (h : Ctl), ∃ (nb : BitVec 6), ∃ (s : State), ∃ (i : Iss), ∃ (x : Wave), Goes h Req.none s i x ∧ HandlerGoesOn x ∧ i.act ≠ 0 ∧ x.alloc < 8 * nb.toNat ∧ 8 * nb.toNat + 8 * ((s.at' i x).d.waves.filter (fun e => e.2.live && e.2.blk == i.blk && e.1 != i.w && e.2.widx % 4 == x.widx % 4)).length
        ≤ (s.dev.block i.blk).bq.get 0 (x.widx % 4) ∧ ((s.at' i x).d.claim i.w (8 * nb.toNat) = none ∨ (s.at' i x).d.claims i.blk (x.widx % 4) s.dev.turns = true)) ∧
    (∃ (h : Ctl), ∃ (d : Opnd), ∃ (a : Src), ∃ (s : State), ∃ (i : Iss), ∃ (x : Wave), Goes h { Req.none with srcs := a.rng 2, dsts := d.rng 1 } s i x) :=
  ⟨⟨c0, 0, s0, (issOf c0 s0), (waveOf c0 s0), goes_of (by decide +kernel), by decide +kernel, fun k _ _ => no_pend (by decide +kernel) k⟩,
   ⟨c0, 9, (bv fun b => { b with bq := [(0, 128)], pool := [(0, 64)] }), (issOf c0 (bv fun b => { b with bq := [(0, 128)], pool := [(0, 64)] })), (waveOf c0 (bv fun b => { b with bq := [(0, 128)], pool := [(0, 64)] })), goes_of (by decide +kernel), pre2 (by decide +kernel) ⟨(((bv fun b => { b with bq := [(0, 128)], pool := [(0, 64)] }).at' (issOf c0 (bv fun b => { b with bq := [(0, 128)], pool := [(0, 64)] })) (waveOf c0 (bv fun b => { b with bq := [(0, 128)], pool := [(0, 64)] }))).d.claim 0 72 |>.getD Device.reset), by decide +kernel⟩⟩,
   ⟨c0, 9, (bv fun b => { b with bq := [(0, 128)] }), (issOf c0 (bv fun b => { b with bq := [(0, 128)] })), (waveOf c0 (bv fun b => { b with bq := [(0, 128)] })), goes_of (by decide +kernel), no_handler (by decide +kernel), by decide +kernel⟩,
   ⟨c0, (.w 8), (r 0), s0, (issOf c0 s0), (waveOf c0 s0), goes_of (by decide +kernel)⟩⟩

theorem test_witness_LaunchEnqueues :
    (∃ (h : Ctl), ∃ (d : Opnd), ∃ (a : Src), ∃ (ofs : BitVec 16), ∃ (s : State), ∃ (i : Iss), ∃ (x : Wave), Goes h { Req.none with srcs := a.rng 2, dsts := d.rng 1 } s i x ∧ (¬ (i.act = 0)) ∧ ∃ ps, ∃ u, (s.at' i x).checks i (lanesOf i.act) (fun _ => a.ea ofs x (lowest i.act)) 128 128 .read = .ok (ps, u)) ∧
    (∃ (s : St), ∃ (r : LReq), s.d.lreqs = [r] ∧ s.d.lqrecs = [] ∧ s.d.launchDue r = true ∧ r.core < Config.cores) :=
  ⟨⟨c0, (.w 8), (r 0), 0, s0, (issOf c0 s0), (waveOf c0 s0), goes_of (by decide +kernel), by decide +kernel, [(0, .scratch 0 0)], (s0.at' (issOf c0 s0) (waveOf c0 s0)), ok_of (by decide +kernel)⟩,
   ⟨(St.of (dv fun d => { d with lreqs := [lr0] })), lr0, by decide +kernel⟩⟩

theorem test_witness_LoadsRead :
    (∃ (h : Ctl), ∃ (d : Opnd), ∃ (a : Src), ∃ (ofs : BitVec 16), ∃ (ty : BitVec 3), ∃ (vec : BitVec 2), ∃ (s : State), ∃ (i : Iss), ∃ (x : Wave), ∃ (ps : List (Nat × Place)), ∃ (u : St), Goes h { Req.none with srcs := a.rng 2, dsts := d.rng (groupN ty vec) } s i x ∧ (s.at' i x).checks i (lanesOf i.act) (a.ea ofs x) (tySize ty * 2 ^ vec.toNat) (tySize ty * 2 ^ vec.toNat) .read = .ok (ps, u) ∧ u.locateFault i 0 (a.ea ofs x) ps = none) ∧
    (∃ (h : Ctl), ∃ (d : Opnd), ∃ (a : Src), ∃ (ofs : BitVec 16), ∃ (ty : BitVec 3), ∃ (vec : BitVec 2), ∃ (s : State), ∃ (i : Iss), ∃ (x : Wave), ∃ (ps : List (Nat × Place)), ∃ (u : St), Goes h { Req.none with srcs := a.rng 2, dsts := d.rng (groupN ty vec) } s i x ∧ (s.at' i x).checks i (lanesOf i.act) (a.ea ofs x) (tySize ty * 2 ^ vec.toNat) (tySize ty * 2 ^ vec.toNat) .read = .ok (ps, u)) :=
  ⟨⟨c0, (.w 8), (r 0), 0, 4, 0, s0, (issOf c0 s0), (waveOf c0 s0), [(0, .scratch 0 0)], (s0.at' (issOf c0 s0) (waveOf c0 s0)), goes_of (by decide +kernel), ok_of (by decide +kernel), by decide +kernel⟩,
   ⟨c0, (.w 8), (r 0), 0, 4, 0, s0, (issOf c0 s0), (waveOf c0 s0), [(0, .scratch 0 0)], (s0.at' (issOf c0 s0) (waveOf c0 s0)), goes_of (by decide +kernel), ok_of (by decide +kernel)⟩⟩

theorem test_witness_StoresWrite :
    (∃ (h : Ctl), ∃ (a : Src), ∃ (b : Src), ∃ (ofs : BitVec 16), ∃ (ty : BitVec 3), ∃ (vec : BitVec 2), ∃ (s : State), ∃ (i : Iss), ∃ (x : Wave), ∃ (ps : List (Nat × Place)), ∃ (u : St), Goes h { Req.none with srcs := a.rng 2 ++ b.rng (groupN ty vec), dsts := [] } s i x ∧ (s.at' i x).checks i (lanesOf i.act) (a.ea ofs x) (tySize ty * 2 ^ vec.toNat) (tySize ty * 2 ^ vec.toNat) .write = .ok (ps, u)) ∧
    (∃ (h : Ctl), ∃ (a : Src), ∃ (b : Src), ∃ (ofs : BitVec 16), ∃ (ty : BitVec 3), ∃ (nsel : BitVec 4), ∃ (s : State), ∃ (i : Iss), ∃ (x : Wave), ∃ (ps : List (Nat × Place)), ∃ (u : St), Goes h { Req.none with srcs := a.rng 2 ++ b.rng (intN ty), dsts := [] } s i x ∧ (s.at' i x).checks i (lanesOf i.act) (a.ea ofs x) (tySize ty) (tySize ty) .write = .ok (ps, u) ∧ (i.act ≠ 0 → setOk (x.nreg nsel.toNat) = true)) ∧
    (∃ (h : Ctl), ∃ (d : Opnd), ∃ (a : Src), ∃ (b : Src), ∃ (ofs : BitVec 16), ∃ (ty : BitVec 3), ∃ (nsel : BitVec 4), ∃ (s : State), ∃ (i : Iss), ∃ (x : Wave), ∃ (ps : List (Nat × Place)), ∃ (u : St), Goes h { Req.none with srcs := a.rng 2 ++ b.rng (intN ty), dsts := d.rng 1 } s i x ∧ (s.at' i x).checks i (lanesOf i.act) (a.ea ofs x) (tySize ty) (tySize ty) .write = .ok (ps, u) ∧ (i.act ≠ 0 → setOk (x.nreg nsel.toNat) = true)) :=
  ⟨⟨c0, (r 0), (r 2), 0, 4, 0, s0, (issOf c0 s0), (waveOf c0 s0), [(0, .scratch 0 0)], (s0.at' (issOf c0 s0) (waveOf c0 s0)), goes_of (by decide +kernel), ok_of (by decide +kernel)⟩,
   ⟨c0, (r 0), (r 2), 0, 4, 0, s0, (issOf c0 s0), (waveOf c0 s0), [(0, .scratch 0 0)], (s0.at' (issOf c0 s0) (waveOf c0 s0)), goes_of (by decide +kernel), ok_of (by decide +kernel), by decide +kernel⟩,
   ⟨c0, (.w 8), (r 0), (r 2), 0, 4, 0, s0, (issOf c0 s0), (waveOf c0 s0), [(0, .scratch 0 0)], (s0.at' (issOf c0 s0) (waveOf c0 s0)), goes_of (by decide +kernel), ok_of (by decide +kernel), by decide +kernel⟩⟩

theorem test_witness_CacheMaintenance :
    (∃ (h : Ctl), ∃ (a : Src), ∃ (s : State), ∃ (i : Iss), ∃ (x : Wave), Goes h ({ Req.none with srcs := a.rng 2 }) s i x) ∧
    (∃ (h : Ctl), ∃ (a : Src), ∃ (ofs : BitVec 16), ∃ (s : State), ∃ (i : Iss), ∃ (x : Wave), ∃ (ps : List (Nat × Place)), ∃ (u : St), Goes h { Req.none with srcs := a.rng 2 } s i x ∧ (s.at' i x).checks i (lanesOf i.act) (a.ea ofs x) 1 1 .write false = .ok (ps, u)) :=
  ⟨⟨c0, (r 0), s0, (issOf c0 s0), (waveOf c0 s0), goes_of (by decide +kernel)⟩,
   ⟨c0, (r 0), 0, s0, (issOf c0 s0), (waveOf c0 s0), [(0, .scratch 0 0)], (s0.at' (issOf c0 s0) (waveOf c0 s0)), goes_of (by decide +kernel), ok_of (by decide +kernel)⟩⟩

theorem test_witness_FencesWait :
    (∃ (h : Ctl), ∃ (s : State), ∃ (i : Iss), ∃ (x : Wave), Goes h Req.none s i x ∧ (i.act ≠ 0 → (s.at' i x).d.wfenceReady i.w = true)) ∧
    (∃ (h : Ctl), ∃ (s : State), ∃ (i : Iss), ∃ (x : Wave), Goes h Req.none s i x ∧ i.act ≠ 0 ∧ (s.at' i x).d.wfenceReady i.w = false) ∧
    (∃ (h : Ctl), ∃ (s : State), ∃ (i : Iss), ∃ (x : Wave), Goes h Req.none s i x ∧ (i.act ≠ 0 → (s.at' i x).d.ifenceReady i.w = true)) ∧
    (∃ (h : Ctl), ∃ (s : State), ∃ (i : Iss), ∃ (x : Wave), Goes h Req.none s i x ∧ i.act ≠ 0 ∧ (s.at' i x).d.ifenceReady i.w = false) ∧
    (∃ (h : Ctl), ∃ (s : State), ∃ (i : Iss), ∃ (x : Wave), Goes h Req.none s i x ∧ (¬ (i.act = 0))) ∧
    (∃ (h : Ctl), ∃ (a : Src), ∃ (ofs : BitVec 16), ∃ (s : State), ∃ (i : Iss), ∃ (x : Wave), ∃ (ps : List (Nat × Place)), ∃ (u : St), Goes h { Req.none with srcs := a.rng 2 } s i x ∧ (s.at' i x).checks i (lanesOf i.act) (a.ea ofs x) 16 16 .write = .ok (ps, u)) :=
  ⟨⟨c0, s0, (issOf c0 s0), (waveOf c0 s0), goes_of (by decide +kernel), by decide +kernel⟩,
   ⟨c0, (xv fun x => { x with ops := [⟨0, none, .none, 0, [], false, none, 0x400, false, []⟩] }), (issOf c0 (xv fun x => { x with ops := [⟨0, none, .none, 0, [], false, none, 0x400, false, []⟩] })), (waveOf c0 (xv fun x => { x with ops := [⟨0, none, .none, 0, [], false, none, 0x400, false, []⟩] })), goes_of (by decide +kernel), by decide +kernel⟩,
   ⟨c0, s0, (issOf c0 s0), (waveOf c0 s0), goes_of (by decide +kernel), by decide +kernel⟩,
   ⟨c0, (xv fun x => { x with outw := [ow0] }), (issOf c0 (xv fun x => { x with outw := [ow0] })), (waveOf c0 (xv fun x => { x with outw := [ow0] })), goes_of (by decide +kernel), by decide +kernel⟩,
   ⟨c0, s0, (issOf c0 s0), (waveOf c0 s0), goes_of (by decide +kernel), by decide +kernel⟩,
   ⟨c0, (r 0), 0, s0, (issOf c0 s0), (waveOf c0 s0), [(0, .scratch 0 0)], (s0.at' (issOf c0 s0) (waveOf c0 s0)), goes_of (by decide +kernel), ok_of (by decide +kernel)⟩⟩

theorem test_witness_ReaderSets :
    (∃ (h : Ctl), ∃ (d : Opnd), ∃ (a : Src), ∃ (b : Src), ∃ (s : State), ∃ (i : Iss), ∃ (x : Wave), Goes h (req (d.rng 2) [a.rng 1, b.rng 1]) s i x ∧ HandlerGoesOn x) ∧
    (∃ (h : Ctl), ∃ (a : Src), ∃ (b : Src), ∃ (ofs : BitVec 16), ∃ (s : State), ∃ (i : Iss), ∃ (x : Wave), ∃ (ps : List (Nat × Place)), ∃ (u : St), Goes h { Req.none with srcs := a.rng 2 } s i x ∧ (s.at' i x).checks i (lanesOf i.act) (a.ea ofs x) 1 1 .write false = .ok (ps, u) ∧ (i.act ≠ 0 → setOk (x.nreg b.o.idx) = true)) ∧
    (∃ (h : Ctl), ∃ (d : Opnd), ∃ (a : Src), ∃ (ofs : BitVec 16), ∃ (s : State), ∃ (i : Iss), ∃ (x : Wave), ∃ (ps : List (Nat × Place)), ∃ (u : St), Goes h { Req.none with srcs := a.rng 2, dsts := d.rng 2 } s i x ∧ (s.at' i x).checks i (lanesOf i.act) (a.ea ofs x) 1 1 .read false = .ok (ps, u) ∧ u.locateFault i 3 (a.ea ofs x) ps = none) :=
  ⟨⟨c0, (.w 8), (r 0), (r 2), s0, (issOf c0 s0), (waveOf c0 s0), goes_of (by decide +kernel), no_handler (by decide +kernel)⟩,
   ⟨c0, (r 0), (r 2), 0, s0, (issOf c0 s0), (waveOf c0 s0), [(0, .scratch 0 0)], (s0.at' (issOf c0 s0) (waveOf c0 s0)), goes_of (by decide +kernel), ok_of (by decide +kernel), by decide +kernel⟩,
   ⟨c0, (.w 8), (r 0), 0, s0, (issOf c0 s0), (waveOf c0 s0), [(0, .scratch 0 0)], (s0.at' (issOf c0 s0) (waveOf c0 s0)), goes_of (by decide +kernel), ok_of (by decide +kernel), by decide +kernel⟩⟩

theorem test_witness_AtomicsReadAndWrite :
    (∃ (h : Ctl), ∃ (d : Opnd), ∃ (a : Src), ∃ (b : Src), ∃ (ofs : BitVec 16), ∃ (ty : BitVec 3), ∃ (aop : BitVec 4), ∃ (s : State), ∃ (i : Iss), ∃ (x : Wave), ∃ (ps : List (Nat × Place)), ∃ (u : St), Goes h { Req.none with srcs := a.rng 2 ++ b.rng (intN ty), dsts := d.rng (intN ty) } s i x ∧ (s.at' i x).checks i (lanesOf i.act) (a.ea ofs x) (tySize ty) (tySize ty) .both = .ok (ps, u) ∧ u.locateFault i 1 (a.ea ofs x) ps = none ∧ hostBadLanes (hostAtomicBad aop.toNat ty) ps = []) ∧
    (∃ (h : Ctl), ∃ (d : Opnd), ∃ (a : Src), ∃ (b : Src), ∃ (ofs : BitVec 16), ∃ (ty : BitVec 3), ∃ (s : State), ∃ (i : Iss), ∃ (x : Wave), ∃ (ps : List (Nat × Place)), ∃ (u : St), Goes h { Req.none with srcs := a.rng 2 ++ b.rng (2 * intN ty), dsts := d.rng (intN ty) } s i x ∧ (s.at' i x).checks i (lanesOf i.act) (a.ea ofs x) (tySize ty) (tySize ty) .both = .ok (ps, u) ∧ u.locateFault i 2 (a.ea ofs x) ps = none) ∧
    (∃ (h : Ctl), ∃ (a : Src), ∃ (b : Src), ∃ (ofs : BitVec 16), ∃ (ty : BitVec 3), ∃ (aop : BitVec 4), ∃ (s : State), ∃ (i : Iss), ∃ (x : Wave), ∃ (ps : List (Nat × Place)), ∃ (u : St), Goes h { Req.none with srcs := a.rng 2 ++ b.rng (intN ty), dsts := [] } s i x ∧ (s.at' i x).checks i (lanesOf i.act) (a.ea ofs x) (tySize ty) (tySize ty) .both = .ok (ps, u) ∧ hostBadLanes (hostAtomicBad aop.toNat ty) ps = []) :=
  ⟨⟨c0, (.w 8), (r 0), (r 2), 0, 4, 0, s0, (issOf c0 s0), (waveOf c0 s0), [(0, .scratch 0 0)], (s0.at' (issOf c0 s0) (waveOf c0 s0)), goes_of (by decide +kernel), ok_of (by decide +kernel), by decide +kernel⟩,
   ⟨c0, (.w 8), (r 0), (r 2), 0, 4, s0, (issOf c0 s0), (waveOf c0 s0), [(0, .scratch 0 0)], (s0.at' (issOf c0 s0) (waveOf c0 s0)), goes_of (by decide +kernel), ok_of (by decide +kernel), by decide +kernel⟩,
   ⟨c0, (r 0), (r 2), 0, 4, 0, s0, (issOf c0 s0), (waveOf c0 s0), [(0, .scratch 0 0)], (s0.at' (issOf c0 s0) (waveOf c0 s0)), goes_of (by decide +kernel), ok_of (by decide +kernel), by decide +kernel⟩⟩

theorem test_witness_LoadsChangeNoByte :
    (∃ (h : Ctl), ∃ (d : Opnd), ∃ (a : Src), ∃ (ofs : BitVec 16), ∃ (order : BitVec 3), ∃ (ty : BitVec 3), ∃ (vec : BitVec 2), ∃ (s : State), ∃ (i : Iss), ∃ (x : Wave), ∃ (ps : List (Nat × Place)), ∃ (u : St), Goes h { Req.none with srcs := a.rng 2, dsts := d.rng (groupN ty vec) } s i x ∧ HandlerGoesOn x ∧ order.toNat < 2 ∧ (s.at' i x).checks i (lanesOf i.act) (a.ea ofs x) (tySize ty * 2 ^ vec.toNat) (tySize ty * 2 ^ vec.toNat) .read = .ok (ps, u) ∧ u.locateFault i 0 (a.ea ofs x) ps = none) ∧
    (∃ (h : Ctl), ∃ (d : Opnd), ∃ (a : Src), ∃ (ofs : BitVec 16), ∃ (ty : BitVec 3), ∃ (vec : BitVec 2), ∃ (s : State), ∃ (i : Iss), ∃ (x : Wave), ∃ (ps : List (Nat × Place)), ∃ (u : St), Goes h { Req.none with srcs := a.rng 2, dsts := d.rng (groupN ty vec) } s i x ∧ HandlerGoesOn x ∧ (s.at' i x).checks i (lanesOf i.act) (a.ea ofs x) (tySize ty * 2 ^ vec.toNat) (tySize ty * 2 ^ vec.toNat) .read = .ok (ps, u)) ∧
    (∃ (h : Ctl), ∃ (a : Src), ∃ (b : Src), ∃ (ofs : BitVec 16), ∃ (s : State), ∃ (i : Iss), ∃ (x : Wave), ∃ (ps : List (Nat × Place)), ∃ (u : St), Goes h { Req.none with srcs := a.rng 2 } s i x ∧ HandlerGoesOn x ∧ (s.at' i x).checks i (lanesOf i.act) (a.ea ofs x) 1 1 .write false = .ok (ps, u) ∧ (i.act ≠ 0 → setOk (x.nreg b.o.idx) = true)) ∧
    (∃ (h : Ctl), ∃ (d : Opnd), ∃ (a : Src), ∃ (ofs : BitVec 16), ∃ (s : State), ∃ (i : Iss), ∃ (x : Wave), ∃ (ps : List (Nat × Place)), ∃ (u : St), Goes h { Req.none with srcs := a.rng 2, dsts := d.rng 2 } s i x ∧ HandlerGoesOn x ∧ (s.at' i x).checks i (lanesOf i.act) (a.ea ofs x) 1 1 .read false = .ok (ps, u) ∧ u.locateFault i 3 (a.ea ofs x) ps = none) ∧
    (∃ (s : St), ∃ (i : Iss), ∃ (ls : List Nat), ∃ (ea : Nat → W64), ∃ (size : Nat), ∃ (al : Nat), ∃ (acc : Acc), ∃ (tile : Bool), ∃ (ps : List (Nat × Place)), ∃ (u : St), s.checks i ls ea size al acc tile = .ok (ps, u)) :=
  ⟨⟨c0, (.w 8), (r 0), 0, 0, 4, 0, s0, (issOf c0 s0), (waveOf c0 s0), [(0, .scratch 0 0)], (s0.at' (issOf c0 s0) (waveOf c0 s0)), goes_of (by decide +kernel), no_handler (by decide +kernel), by decide +kernel, ok_of (by decide +kernel), by decide +kernel⟩,
   ⟨c0, (.w 8), (r 0), 0, 4, 0, s0, (issOf c0 s0), (waveOf c0 s0), [(0, .scratch 0 0)], (s0.at' (issOf c0 s0) (waveOf c0 s0)), goes_of (by decide +kernel), no_handler (by decide +kernel), ok_of (by decide +kernel)⟩,
   ⟨c0, (r 0), (r 2), 0, s0, (issOf c0 s0), (waveOf c0 s0), [(0, .scratch 0 0)], (s0.at' (issOf c0 s0) (waveOf c0 s0)), goes_of (by decide +kernel), no_handler (by decide +kernel), ok_of (by decide +kernel), by decide +kernel⟩,
   ⟨c0, (.w 8), (r 0), 0, s0, (issOf c0 s0), (waveOf c0 s0), [(0, .scratch 0 0)], (s0.at' (issOf c0 s0) (waveOf c0 s0)), goes_of (by decide +kernel), no_handler (by decide +kernel), ok_of (by decide +kernel), by decide +kernel⟩,
   ⟨(s0.at' (issOf c0 s0) (waveOf c0 s0)), (issOf c0 s0), [0], (fun _ => 0x10000000000), 4, 4, .write, true, [(0, .scratch 0 0)], (s0.at' (issOf c0 s0) (waveOf c0 s0)), ok_of (by decide +kernel)⟩⟩

theorem test_witness_StoresChangeTheirBytes :
    (∃ (h : Ctl), ∃ (a : Src), ∃ (b : Src), ∃ (ofs : BitVec 16), ∃ (order : BitVec 3), ∃ (ty : BitVec 3), ∃ (vec : BitVec 2), ∃ (s : State), ∃ (i : Iss), ∃ (x : Wave), ∃ (ps : List (Nat × Place)), ∃ (u : St), s.inv ∧ Goes h { Req.none with srcs := a.rng 2 ++ b.rng (groupN ty vec), dsts := [] } s i x ∧ HandlerGoesOn x ∧ order.toNat < 2 ∧ (s.at' i x).checks i (lanesOf i.act) (a.ea ofs x) (tySize ty * 2 ^ vec.toNat) (tySize ty * 2 ^ vec.toNat) .write = .ok (ps, u) ∧ (∀ l pa pte, (l, Place.dev pa pte) ∈ ps → pa + (tySize ty * 2 ^ vec.toNat) ≤ 2 ^ 51)) ∧
    (∃ (h : Ctl), ∃ (a : Src), ∃ (b : Src), ∃ (ofs : BitVec 16), ∃ (order : BitVec 3), ∃ (ty : BitVec 3), ∃ (nsel : BitVec 4), ∃ (s : State), ∃ (i : Iss), ∃ (x : Wave), ∃ (ps : List (Nat × Place)), ∃ (u : St), s.inv ∧ Goes h { Req.none with srcs := a.rng 2 ++ b.rng (intN ty), dsts := [] } s i x ∧ HandlerGoesOn x ∧ order.toNat < 2 ∧ (i.act ≠ 0 → setOk (x.nreg nsel.toNat) = true) ∧ (s.at' i x).checks i (lanesOf i.act) (a.ea ofs x) (tySize ty) (tySize ty) .write = .ok (ps, u) ∧ (∀ l pa pte, (l, Place.dev pa pte) ∈ ps → pa + (tySize ty) ≤ 2 ^ 51)) ∧
    (∃ (h : Ctl), ∃ (d : Opnd), ∃ (a : Src), ∃ (b : Src), ∃ (ofs : BitVec 16), ∃ (order : BitVec 3), ∃ (ty : BitVec 3), ∃ (nsel : BitVec 4), ∃ (s : State), ∃ (i : Iss), ∃ (x : Wave), ∃ (ps : List (Nat × Place)), ∃ (u : St), s.inv ∧ Goes h { Req.none with srcs := a.rng 2 ++ b.rng (intN ty), dsts := d.rng 1 } s i x ∧ HandlerGoesOn x ∧ order.toNat < 2 ∧ (i.act ≠ 0 → setOk (x.nreg nsel.toNat) = true) ∧ (s.at' i x).checks i (lanesOf i.act) (a.ea ofs x) (tySize ty) (tySize ty) .write = .ok (ps, u) ∧ (∀ l pa pte, (l, Place.dev pa pte) ∈ ps → pa + (tySize ty) ≤ 2 ^ 51)) ∧
    (∃ (h : Ctl), ∃ (a : Src), ∃ (ofs : BitVec 16), ∃ (s : State), ∃ (i : Iss), ∃ (x : Wave), ∃ (ps : List (Nat × Place)), ∃ (u : St), s.inv ∧ Goes h { Req.none with srcs := a.rng 2 } s i x ∧ HandlerGoesOn x ∧ (s.at' i x).checks i (lanesOf i.act) (a.ea ofs x) 16 16 .write = .ok (ps, u) ∧ (∀ l pa pte, (l, Place.dev pa pte) ∈ ps → pa + 16 ≤ 2 ^ 51)) :=
  ⟨⟨c0, (r 0), (r 2), 0, 0, 4, 0, s0, (issOf c0 s0), (waveOf c0 s0), [(0, .scratch 0 0)], (s0.at' (issOf c0 s0) (waveOf c0 s0)), rfl, goes_of (by decide +kernel), no_handler (by decide +kernel), by decide +kernel, ok_of (by decide +kernel), by intro l pa pte h; simp at h⟩,
   ⟨c0, (r 0), (r 2), 0, 0, 4, 0, s0, (issOf c0 s0), (waveOf c0 s0), [(0, .scratch 0 0)], (s0.at' (issOf c0 s0) (waveOf c0 s0)), rfl, goes_of (by decide +kernel), no_handler (by decide +kernel), pre2 (by decide +kernel) ⟨ok_of (by decide +kernel), by intro l pa pte h; simp at h⟩⟩,
   ⟨c0, (.w 8), (r 0), (r 2), 0, 0, 4, 0, s0, (issOf c0 s0), (waveOf c0 s0), [(0, .scratch 0 0)], (s0.at' (issOf c0 s0) (waveOf c0 s0)), rfl, goes_of (by decide +kernel), no_handler (by decide +kernel), pre2 (by decide +kernel) ⟨ok_of (by decide +kernel), by intro l pa pte h; simp at h⟩⟩,
   ⟨c0, (r 0), 0, s0, (issOf c0 s0), (waveOf c0 s0), [(0, .scratch 0 0)], (s0.at' (issOf c0 s0) (waveOf c0 s0)), rfl, goes_of (by decide +kernel), no_handler (by decide +kernel), ok_of (by decide +kernel), by intro l pa pte h; simp at h⟩⟩

theorem test_witness_StoredValuesReadBack : ∃ (s : St), ∃ (core : Nat), ∃ (p : Place), ∃ (n : Nat), n ≤ 16 ∧ (∀ pa pte, p = .dev pa pte → pa % 128 + n ≤ 128 ∧ pa < 2 ^ 51 ∧ ∀ k, k < n → s.d.stale.lookup (dieOf core * 2 ^ 52 + pa + k) = none) :=
  ⟨(s0.at' (issOf c0 s0) (waveOf c0 s0)), 0, (.dev 124 0), 4, by decide +kernel, by intro pa pte h; injection h with h1 h2; subst h1; exact ⟨by decide, by decide, fun _ _ => rfl⟩⟩

theorem test_witness_QueuesAtTheirHeaders :
    (∃ (h : Ctl), ∃ (d : Opnd), ∃ (a : Src), ∃ (b : Src), ∃ (ofs : BitVec 16), ∃ (sz : BitVec 2), ∃ (s : State), ∃ (i : Iss), ∃ (x : Wave), ∃ (ps : List (Nat × Place)), ∃ (u : St), Goes h { Req.none with srcs := a.rng 2 ++ b.rng (slotRegs sz), dsts := d.rng 1 } s i x ∧ (s.at' i x).checks i (lanesOf i.act) (a.ea ofs x) 64 64 .both = .ok (ps, u) ∧ hostPlaces ps = []) ∧
    (∃ (h : Ctl), ∃ (d : Opnd), ∃ (a : Src), ∃ (ofs : BitVec 16), ∃ (sz : BitVec 2), ∃ (s : State), ∃ (i : Iss), ∃ (x : Wave), ∃ (ps : List (Nat × Place)), ∃ (u : St), Goes h { Req.none with srcs := a.rng 2 ++ [], dsts := d.rng (1 + slotRegs sz) } s i x ∧ (s.at' i x).checks i (lanesOf i.act) (a.ea ofs x) 64 64 .both = .ok (ps, u) ∧ hostPlaces ps = []) ∧
    (∃ (h : Ctl), ∃ (a : Src), ∃ (b : Src), ∃ (ofs : BitVec 16), ∃ (s : State), ∃ (i : Iss), ∃ (x : Wave), ∃ (ps : List (Nat × Place)), ∃ (u : St), Goes h { Req.none with srcs := a.rng 2 ++ b.rng 2 } s i x ∧ (s.at' i x).checks i (lanesOf i.act) (a.ea ofs x) 64 64 .both = .ok (ps, u) ∧ (∀ p ∈ ps, (b.x x p.1).toNat % 64 ≤ 24) ∧ hostPlaces ps = []) ∧
    (∃ (h : Ctl), ∃ (d : Opnd), ∃ (a : Src), ∃ (ofs : BitVec 16), ∃ (s : State), ∃ (i : Iss), ∃ (x : Wave), ∃ (ps : List (Nat × Place)), ∃ (u : St), Goes h { Req.none with srcs := a.rng 2, dsts := d.rng 2 } s i x ∧ (s.at' i x).checks i (lanesOf i.act) (a.ea ofs x) 64 64 .both = .ok (ps, u) ∧ hostPlaces ps = []) :=
  ⟨⟨c0, (.w 8), (r 0), (r 2), 0, 0, s0, (issOf c0 s0), (waveOf c0 s0), [(0, .scratch 0 0)], (s0.at' (issOf c0 s0) (waveOf c0 s0)), goes_of (by decide +kernel), ok_of (by decide +kernel), by decide +kernel⟩,
   ⟨c0, (.w 8), (r 0), 0, 0, s0, (issOf c0 s0), (waveOf c0 s0), [(0, .scratch 0 0)], (s0.at' (issOf c0 s0) (waveOf c0 s0)), goes_of (by decide +kernel), ok_of (by decide +kernel), by decide +kernel⟩,
   ⟨c0, (r 0), (r 2), 0, s0, (issOf c0 s0), (waveOf c0 s0), [(0, .scratch 0 0)], (s0.at' (issOf c0 s0) (waveOf c0 s0)), goes_of (by decide +kernel), ok_of (by decide +kernel), by decide +kernel⟩,
   ⟨c0, (.w 8), (r 0), 0, s0, (issOf c0 s0), (waveOf c0 s0), [(0, .scratch 0 0)], (s0.at' (issOf c0 s0) (waveOf c0 s0)), goes_of (by decide +kernel), ok_of (by decide +kernel), by decide +kernel⟩⟩

theorem test_witness_SharingGroups :
    (∃ (h : Ctl), ∃ (s : State), ∃ (i : Iss), ∃ (x : Wave), Goes h Req.none s i x) ∧
    (∃ (h : Ctl), ∃ (a : Src), ∃ (s : State), ∃ (i : Iss), ∃ (x : Wave), Goes h { Req.none with srcs := a.rng 1 } s i x) :=
  ⟨⟨c0, s0, (issOf c0 s0), (waveOf c0 s0), goes_of (by decide +kernel)⟩,
   ⟨c0, (r 0), s0, (issOf c0 s0), (waveOf c0 s0), goes_of (by decide +kernel)⟩⟩

theorem test_witness_ByteCountBarriers :
    (∃ (h : Ctl), ∃ (a : Src), ∃ (b : Src), ∃ (ofs : BitVec 16), ∃ (s : State), ∃ (i : Iss), ∃ (x : Wave), Goes h { Req.none with srcs := a.rng 2 ++ b.rng 1 } s i x ∧ (¬ (i.act = 0)) ∧ ∃ p, (s.at' i x).barrierAt i (a.ea ofs x (lowest i.act)) .write = .ok p ∧ b.w x (lowest i.act) ≠ 0) ∧
    (∃ (h : Ctl), ∃ (a : Src), ∃ (b : Src), ∃ (ofs : BitVec 16), ∃ (s : State), ∃ (i : Iss), ∃ (x : Wave), ∃ (ps : List (Nat × Place)), Goes h { Req.none with srcs := a.rng 2 ++ b.rng 1 } s i x ∧ (s.at' i x).barrs i (a.ea ofs x) = .ok ps) ∧
    (∃ (h : Ctl), ∃ (d : Opnd), ∃ (a : Src), ∃ (b : Src), ∃ (ofs : BitVec 16), ∃ (s : State), ∃ (i : Iss), ∃ (x : Wave), Goes h { Req.none with srcs := a.rng 2 ++ b.rng 1, dsts := d.rng 1 } s i x ∧ (¬ (i.act = 0)) ∧ ∃ p, (s.at' i x).barrierAt i (a.ea ofs x (lowest i.act)) .read = .ok p) ∧
    (∃ (h : Ctl), ∃ (d : Opnd), ∃ (a : Src), ∃ (ofs : BitVec 16), ∃ (s : State), ∃ (i : Iss), ∃ (x : Wave), Goes h { Req.none with srcs := a.rng 2, dsts := d.rng 2 } s i x ∧ (¬ (i.act = 0)) ∧ ∃ p, (s.at' i x).barrierAt i (a.ea ofs x (lowest i.act)) .read = .ok p) ∧
    (∃ (o : Nat), o < 2 ^ 128) :=
  ⟨⟨c0, (r 0), (r 1), 0, s0, (issOf c0 s0), (waveOf c0 s0), goes_of (by decide +kernel), by decide +kernel, (.scratch 0 0), ok_of (by decide +kernel), by decide +kernel⟩,
   ⟨c0, (r 0), (r 2), 0, s0, (issOf c0 s0), (waveOf c0 s0), [(0, .scratch 0 0)], goes_of (by decide +kernel), ok_of (by decide +kernel)⟩,
   ⟨c0, (.w 8), (r 0), (r 2), 0, s0, (issOf c0 s0), (waveOf c0 s0), goes_of (by decide +kernel), by decide +kernel, (.scratch 0 0), ok_of (by decide +kernel)⟩,
   ⟨c0, (.w 8), (r 0), 0, s0, (issOf c0 s0), (waveOf c0 s0), goes_of (by decide +kernel), by decide +kernel, (.scratch 0 0), ok_of (by decide +kernel)⟩,
   ⟨0, by decide +kernel⟩⟩

theorem test_witness_TilesAreDeclared :
    (∃ (h : Ctl), ∃ (a : Src), ∃ (b : Src), ∃ (tile : BitVec 6), ∃ (s : State), ∃ (i : Iss), ∃ (x : Wave), Goes h { Req.none with srcs := a.rng 1 ++ b.rng 1 } s i x ∧ (¬ (i.act = 0)) ∧ let k := s.dev.block i.blk; let base := (a.w x (lowest i.act)).toNat; let size := (b.w x (lowest i.act)).toNat; tile.toNat < k.tileN ∧ ((k.tile tile.toNat).state = 0 ∨ (k.tile tile.toNat).state = 2) ∧ (k.tile tile.toNat).nrd = 0 ∧ base % 64 = 0 ∧ size % 64 = 0 ∧ base + size ≤ k.scrsz ∧ (size = 0 ∨ ∀ e ∈ k.tiles, e.1 = tile.toNat ∨ e.2.size = 0 ∨ e.2.base + e.2.size ≤ base ∨ base + size ≤ e.2.base)) ∧
    (∃ (h : Ctl), ∃ (d : Opnd), ∃ (tile : BitVec 6), ∃ (s : State), ∃ (i : Iss), ∃ (x : Wave), Goes h { Req.none with dsts := d.rng 2 } s i x ∧ (i.act ≠ 0 → tile.toNat < (s.dev.block i.blk).tileN)) ∧
    (∃ (h : Ctl), ∃ (tile : BitVec 6), ∃ (s : State), ∃ (i : Iss), ∃ (x : Wave), Goes h Req.none s i x ∧ (¬ (i.act = 0)) ∧ let y := (s.dev.block i.blk).tile tile.toNat; tile.toNat < (s.dev.block i.blk).tileN ∧ y.state = 2) :=
  ⟨⟨c0, (r 0), (r 2), 0, s0, (issOf c0 s0), (waveOf c0 s0), goes_of (by decide +kernel), by decide +kernel⟩,
   ⟨c0, (.w 8), 0, s0, (issOf c0 s0), (waveOf c0 s0), goes_of (by decide +kernel), by decide +kernel⟩,
   ⟨c0, 0, (bv fun b => { b with tiles := [(0, ⟨2, 0, 0, 0, 0⟩)] }), (issOf c0 (bv fun b => { b with tiles := [(0, ⟨2, 0, 0, 0, 0⟩)] })), (waveOf c0 (bv fun b => { b with tiles := [(0, ⟨2, 0, 0, 0, 0⟩)] })), goes_of (by decide +kernel), by decide +kernel⟩⟩

theorem test_witness_CopiesTakeASlot :
    (∃ (h : Ctl), ∃ (a : Src), ∃ (ofs : BitVec 16), ∃ (s : State), ∃ (i : Iss), ∃ (x : Wave), Goes h { Req.none with srcs := a.rng 2 } s i x ∧ (¬ (i.act = 0)) ∧ ∃ o, (a.ea ofs x (lowest i.act)).toNat % 64 = 0 ∧ (a.ea ofs x (lowest i.act)).toNat < 2 ^ 57 ∧ s.dev.slotOf i.blk (a.ea ofs x (lowest i.act)).toNat = some (0, o) ∧ o + 64 ≤ (s.dev.block i.blk).scrsz ∧ (s.at' i x).readErr (.scratch i.blk o) = none ∧ (s.dev.copies.filter (·.core == i.core)).length < 128 ∧ (s.at' i x).copyCheck i ((s.at' i x).copyOf i x 0 o) (a.ea ofs x (lowest i.act)) = none) ∧
    (∃ (h : Ctl), ∃ (a : Src), ∃ (ofs : BitVec 16), ∃ (s : State), ∃ (i : Iss), ∃ (x : Wave), ∃ (o : Nat), ∃ (k : BitVec 8), Goes h { Req.none with srcs := a.rng 2 } s i x ∧ i.act ≠ 0 ∧ (a.ea ofs x (lowest i.act)).toNat % 64 = 0 ∧ (a.ea ofs x (lowest i.act)).toNat < 2 ^ 57 ∧ s.dev.slotOf i.blk (a.ea ofs x (lowest i.act)).toNat = some (0, o) ∧ o + 64 ≤ (s.dev.block i.blk).scrsz ∧ (s.at' i x).readErr (.scratch i.blk o) = some k) ∧
    (∃ (h : Ctl), ∃ (a : Src), ∃ (ofs : BitVec 16), ∃ (s : State), ∃ (i : Iss), ∃ (x : Wave), Goes h { Req.none with srcs := a.rng 2 } s i x ∧ i.act ≠ 0 ∧ (a.ea ofs x (lowest i.act)).toNat % 64 = 0 ∧ 2 ^ 57 ≤ (a.ea ofs x (lowest i.act)).toNat) ∧
    (∃ (h : Ctl), ∃ (a : Src), ∃ (ofs : BitVec 16), ∃ (s : State), ∃ (i : Iss), ∃ (x : Wave), Goes h { Req.none with srcs := a.rng 2 } s i x ∧ (¬ (i.act = 0)) ∧ ∃ o, (a.ea ofs x (lowest i.act)).toNat % 64 = 0 ∧ (a.ea ofs x (lowest i.act)).toNat < 2 ^ 57 ∧ s.dev.slotOf i.blk (a.ea ofs x (lowest i.act)).toNat = some (0, o) ∧ o + 64 ≤ (s.dev.block i.blk).scrsz ∧ (s.at' i x).readErr (.scratch i.blk o) = none ∧ (s.dev.copies.filter (·.core == i.core)).length < 128 ∧ (s.at' i x).copyCheck i ((s.at' i x).copyOf i x 1 o) (a.ea ofs x (lowest i.act)) = none) ∧
    (∃ (h : Ctl), ∃ (a : Src), ∃ (ofs : BitVec 16), ∃ (s : State), ∃ (i : Iss), ∃ (x : Wave), Goes h { Req.none with srcs := a.rng 2 } s i x ∧ (¬ (i.act = 0)) ∧ ∃ o, (a.ea ofs x (lowest i.act)).toNat % 64 = 0 ∧ (a.ea ofs x (lowest i.act)).toNat < 2 ^ 57 ∧ s.dev.slotOf i.blk (a.ea ofs x (lowest i.act)).toNat = some (0, o) ∧ o + 64 ≤ (s.dev.block i.blk).scrsz ∧ (s.at' i x).readErr (.scratch i.blk o) = none ∧ (s.dev.copies.filter (·.core == i.core)).length < 128 ∧ (s.at' i x).copyCheck i ((s.at' i x).copyOf i x 2 o) (a.ea ofs x (lowest i.act)) = none) ∧
    (∃ (h : Ctl), ∃ (a : Src), ∃ (ofs : BitVec 16), ∃ (s : State), ∃ (i : Iss), ∃ (x : Wave), Goes h { Req.none with srcs := a.rng 2 } s i x ∧ (¬ (i.act = 0)) ∧ ∃ o, (a.ea ofs x (lowest i.act)).toNat % 64 = 0 ∧ (a.ea ofs x (lowest i.act)).toNat < 2 ^ 57 ∧ s.dev.slotOf i.blk (a.ea ofs x (lowest i.act)).toNat = some (0, o) ∧ o + 64 ≤ (s.dev.block i.blk).scrsz ∧ (s.at' i x).readErr (.scratch i.blk o) = none ∧ (s.dev.copies.filter (·.core == i.core)).length < 128 ∧ (s.at' i x).copyCheck i ((s.at' i x).copyOf i x 3 o) (a.ea ofs x (lowest i.act)) = none) ∧
    (∃ (h : Ctl), ∃ (d : Opnd), ∃ (a : Src), ∃ (ofs : BitVec 16), ∃ (s : State), ∃ (i : Iss), ∃ (x : Wave), Goes h { Req.none with srcs := a.rng 2, dsts := d.rng 4 } s i x ∧ (¬ (i.act = 0)) ∧ ∃ o, (a.ea ofs x (lowest i.act)).toNat % 64 = 0 ∧ (a.ea ofs x (lowest i.act)).toNat < 2 ^ 57 ∧ s.dev.slotOf i.blk (a.ea ofs x (lowest i.act)).toNat = some (0, o) ∧ o + 64 ≤ (s.dev.block i.blk).scrsz) :=
  ⟨⟨c0, (r 0), 0, s0, (issOf c0 s0), (waveOf c0 s0), goes_of (by decide +kernel), by decide +kernel, 0, by decide +kernel⟩,
   ⟨c0, (r 0), 0, (dv fun d => { d with poison := [lineOf (scratchBase 0)] }), (issOf c0 (dv fun d => { d with poison := [lineOf (scratchBase 0)] })), (waveOf c0 (dv fun d => { d with poison := [lineOf (scratchBase 0)] })), 0, 1, goes_of (by decide +kernel), by decide +kernel⟩,
   ⟨c0, (r 0), 0, (xv fun x => { x with regs := [(1, 2 ^ 25)] }), (issOf c0 (xv fun x => { x with regs := [(1, 2 ^ 25)] })), (waveOf c0 (xv fun x => { x with regs := [(1, 2 ^ 25)] })), goes_of (by decide +kernel), by decide +kernel⟩,
   ⟨c0, (r 0), 0, s0, (issOf c0 s0), (waveOf c0 s0), goes_of (by decide +kernel), by decide +kernel, 0, by decide +kernel⟩,
   ⟨c0, (r 0), 0, s0, (issOf c0 s0), (waveOf c0 s0), goes_of (by decide +kernel), by decide +kernel, 0, by decide +kernel⟩,
   ⟨c0, (r 0), 0, s0, (issOf c0 s0), (waveOf c0 s0), goes_of (by decide +kernel), by decide +kernel, 0, by decide +kernel⟩,
   ⟨c0, (.w 8), (r 0), 0, s0, (issOf c0 s0), (waveOf c0 s0), goes_of (by decide +kernel), by decide +kernel, 0, by decide +kernel⟩⟩

theorem test_witness_MatrixOperationsQueue :
    (∃ (h : Ctl), ∃ (d : Opnd), ∃ (a : Src), ∃ (b : Src), ∃ (c : Src), ∃ (ty : BitVec 3), ∃ (be5 : Bool), ∃ (kq : BitVec 10), ∃ (za : Bool), ∃ (s : State), ∃ (i : Iss), ∃ (x : Wave), Goes h { Req.none with srcs := a.rng 2 ++ b.rng 2 ++ c.rng 1, tiles := mmaTiles d ty } s i x ∧ i.act ≠ 0 ∧ (s.at' i x).d.accBad ({ matOp (s.at' i x) i 0 d.idx with
      tile2 := if ty.toNat = 5 then some ((s.dev.block i.blk).accB + d.idx + 1) else none, ty := ty.toNat, be5 := be5, kq := kq.toNat, za := za
      xa := a.x x (lowest i.act), xb := b.x x (lowest i.act), c := c.w x (lowest i.act) }) = none ∧ i.act = x.alive ∧ (s.at' i x).matCheck i ({ matOp (s.at' i x) i 0 d.idx with
      tile2 := if ty.toNat = 5 then some ((s.dev.block i.blk).accB + d.idx + 1) else none, ty := ty.toNat, be5 := be5, kq := kq.toNat, za := za
      xa := a.x x (lowest i.act), xb := b.x x (lowest i.act), c := c.w x (lowest i.act) }) = none ∧ (∀ t ∈ ({ matOp (s.at' i x) i 0 d.idx with
      tile2 := if ty.toNat = 5 then some ((s.dev.block i.blk).accB + d.idx + 1) else none, ty := ty.toNat, be5 := be5, kq := kq.toNat, za := za
      xa := a.x x (lowest i.act), xb := b.x x (lowest i.act), c := c.w x (lowest i.act) }).tile :: ({ matOp (s.at' i x) i 0 d.idx with
      tile2 := if ty.toNat = 5 then some ((s.dev.block i.blk).accB + d.idx + 1) else none, ty := ty.toNat, be5 := be5, kq := kq.toNat, za := za
      xa := a.x x (lowest i.act), xb := b.x x (lowest i.act), c := c.w x (lowest i.act) }).tile2.toList, s.dev.tileDepth i.core t < 16)) ∧
    (∃ (h : Ctl), ∃ (d : Opnd), ∃ (a : Src), ∃ (b : Src), ∃ (c : Src), ∃ (ty : BitVec 3), ∃ (be5 : Bool), ∃ (kq : BitVec 10), ∃ (za : Bool), ∃ (s : State), ∃ (i : Iss), ∃ (x : Wave), Goes h { Req.none with srcs := a.rng 2 ++ b.rng 2 ++ c.rng 1, tiles := mmaTiles d ty } s i x ∧ i.act ≠ 0 ∧ (s.at' i x).d.accBad ({ matOp (s.at' i x) i 1 d.idx with
      tile2 := if ty.toNat = 5 then some ((s.dev.block i.blk).accB + d.idx + 1) else none, ty := ty.toNat, be5 := be5, kq := kq.toNat, za := za
      xa := a.x x (lowest i.act), xb := b.x x (lowest i.act), c := c.w x (lowest i.act) }) = none ∧ i.act = x.alive ∧ (s.at' i x).matCheck i ({ matOp (s.at' i x) i 1 d.idx with
      tile2 := if ty.toNat = 5 then some ((s.dev.block i.blk).accB + d.idx + 1) else none, ty := ty.toNat, be5 := be5, kq := kq.toNat, za := za
      xa := a.x x (lowest i.act), xb := b.x x (lowest i.act), c := c.w x (lowest i.act) }) = none ∧ (∀ t ∈ ({ matOp (s.at' i x) i 1 d.idx with
      tile2 := if ty.toNat = 5 then some ((s.dev.block i.blk).accB + d.idx + 1) else none, ty := ty.toNat, be5 := be5, kq := kq.toNat, za := za
      xa := a.x x (lowest i.act), xb := b.x x (lowest i.act), c := c.w x (lowest i.act) }).tile :: ({ matOp (s.at' i x) i 1 d.idx with
      tile2 := if ty.toNat = 5 then some ((s.dev.block i.blk).accB + d.idx + 1) else none, ty := ty.toNat, be5 := be5, kq := kq.toNat, za := za
      xa := a.x x (lowest i.act), xb := b.x x (lowest i.act), c := c.w x (lowest i.act) }).tile2.toList, s.dev.tileDepth i.core t < 16)) ∧
    (∃ (h : Ctl), ∃ (d : Opnd), ∃ (a : Src), ∃ (b : Src), ∃ (c : Src), ∃ (s : State), ∃ (i : Iss), ∃ (x : Wave), Goes h { Req.none with srcs := b.rng 2 ++ c.rng 1, tiles := [d.idx, a.o.idx] } s i x ∧ i.act ≠ 0 ∧ (s.at' i x).d.accBad ({ matOp (s.at' i x) i 2 d.idx with
      tile2 := if a.o.idx = d.idx then none else some ((s.dev.block i.blk).accB + a.o.idx), xa := b.x x (lowest i.act), c := scaleBits c x (lowest i.act) }) = none ∧ i.act = x.alive ∧ (s.at' i x).matCheck i ({ matOp (s.at' i x) i 2 d.idx with
      tile2 := if a.o.idx = d.idx then none else some ((s.dev.block i.blk).accB + a.o.idx), xa := b.x x (lowest i.act), c := scaleBits c x (lowest i.act) }) = none ∧ (∀ t ∈ ({ matOp (s.at' i x) i 2 d.idx with
      tile2 := if a.o.idx = d.idx then none else some ((s.dev.block i.blk).accB + a.o.idx), xa := b.x x (lowest i.act), c := scaleBits c x (lowest i.act) }).tile :: ({ matOp (s.at' i x) i 2 d.idx with
      tile2 := if a.o.idx = d.idx then none else some ((s.dev.block i.blk).accB + a.o.idx), xa := b.x x (lowest i.act), c := scaleBits c x (lowest i.act) }).tile2.toList, s.dev.tileDepth i.core t < 16)) ∧
    (∃ (h : Ctl), ∃ (d : Opnd), ∃ (s : State), ∃ (i : Iss), ∃ (x : Wave), Goes h { Req.none with tiles := [d.idx] } s i x ∧ i.act ≠ 0 ∧ (s.at' i x).d.accBad (matOp (s.at' i x) i 3 d.idx) = none ∧ i.act = x.alive ∧ (s.at' i x).matCheck i (matOp (s.at' i x) i 3 d.idx) = none ∧ (∀ t ∈ (matOp (s.at' i x) i 3 d.idx).tile :: (matOp (s.at' i x) i 3 d.idx).tile2.toList, s.dev.tileDepth i.core t < 16)) ∧
    (∃ (h : Ctl), ∃ (d : Opnd), ∃ (a : Src), ∃ (b : Src), ∃ (s : State), ∃ (i : Iss), ∃ (x : Wave), Goes h { Req.none with srcs := b.rng 1, dsts := d.rng 4, tiles := [a.o.idx], out := some a.o.idx } s i x ∧ i.act ≠ 0 ∧ (s.at' i x).d.accBad ({ matOp (s.at' i x) i 4 a.o.idx with c := b.w x (lowest i.act) }) = none ∧ i.act = x.alive ∧ (s.at' i x).matCheck i ({ matOp (s.at' i x) i 4 a.o.idx with c := b.w x (lowest i.act) }) = none ∧ (∀ t ∈ ({ matOp (s.at' i x) i 4 a.o.idx with c := b.w x (lowest i.act) }).tile :: ({ matOp (s.at' i x) i 4 a.o.idx with c := b.w x (lowest i.act) }).tile2.toList, s.dev.tileDepth i.core t < 16)) ∧
    (∃ (h : Ctl), ∃ (d : Opnd), ∃ (a : Src), ∃ (b : Src), ∃ (s : State), ∃ (i : Iss), ∃ (x : Wave), Goes h { Req.none with srcs := a.rng 1 ++ b.rng 4, tiles := [d.idx] } s i x ∧ i.act ≠ 0 ∧ (s.at' i x).d.accBad ({ matOp (s.at' i x) i 5 d.idx with
      c := a.w x (lowest i.act), data := (lanesOf i.act).flatMap (fun l => (List.range 4).map (fun e => (4 * l + e, x.reg l (b.o.idx + e)))) }) = none ∧ i.act = x.alive ∧ (s.at' i x).matCheck i ({ matOp (s.at' i x) i 5 d.idx with
      c := a.w x (lowest i.act), data := (lanesOf i.act).flatMap (fun l => (List.range 4).map (fun e => (4 * l + e, x.reg l (b.o.idx + e)))) }) = none ∧ (∀ t ∈ ({ matOp (s.at' i x) i 5 d.idx with
      c := a.w x (lowest i.act), data := (lanesOf i.act).flatMap (fun l => (List.range 4).map (fun e => (4 * l + e, x.reg l (b.o.idx + e)))) }).tile :: ({ matOp (s.at' i x) i 5 d.idx with
      c := a.w x (lowest i.act), data := (lanesOf i.act).flatMap (fun l => (List.range 4).map (fun e => (4 * l + e, x.reg l (b.o.idx + e)))) }).tile2.toList, s.dev.tileDepth i.core t < 16)) ∧
    (∃ (h : Ctl), ∃ (d : Opnd), ∃ (a : Src), ∃ (str : BitVec 16), ∃ (s : State), ∃ (i : Iss), ∃ (x : Wave), Goes h { Req.none with srcs := a.rng 2, tiles := [d.idx] } s i x ∧ i.act ≠ 0 ∧ (s.at' i x).d.accBad ({ matOp (s.at' i x) i 6 d.idx with xa := a.x x (lowest i.act), c := str.setWidth 32 }) = none ∧ i.act = x.alive ∧ (s.at' i x).matCheck i ({ matOp (s.at' i x) i 6 d.idx with xa := a.x x (lowest i.act), c := str.setWidth 32 }) = none ∧ (∀ t ∈ ({ matOp (s.at' i x) i 6 d.idx with xa := a.x x (lowest i.act), c := str.setWidth 32 }).tile :: ({ matOp (s.at' i x) i 6 d.idx with xa := a.x x (lowest i.act), c := str.setWidth 32 }).tile2.toList, s.dev.tileDepth i.core t < 16)) ∧
    (∃ (h : Ctl), ∃ (a : Src), ∃ (b : Src), ∃ (str : BitVec 16), ∃ (s : State), ∃ (i : Iss), ∃ (x : Wave), Goes h { Req.none with srcs := b.rng 2, tiles := [a.o.idx], out := some a.o.idx } s i x ∧ i.act ≠ 0 ∧ (s.at' i x).d.accBad ({ matOp (s.at' i x) i 7 a.o.idx with xa := b.x x (lowest i.act), c := str.setWidth 32 }) = none ∧ i.act = x.alive ∧ (s.at' i x).matCheck i ({ matOp (s.at' i x) i 7 a.o.idx with xa := b.x x (lowest i.act), c := str.setWidth 32 }) = none ∧ (∀ t ∈ ({ matOp (s.at' i x) i 7 a.o.idx with xa := b.x x (lowest i.act), c := str.setWidth 32 }).tile :: ({ matOp (s.at' i x) i 7 a.o.idx with xa := b.x x (lowest i.act), c := str.setWidth 32 }).tile2.toList, s.dev.tileDepth i.core t < 16)) :=
  ⟨⟨c0, (.acc 0), (r 0), (r 2), (r 4), 4, false, 0, false, (xv fun x => { x with regs := [(1, 256), (3, 256)] }), (issOf c0 (xv fun x => { x with regs := [(1, 256), (3, 256)] })), (waveOf c0 (xv fun x => { x with regs := [(1, 256), (3, 256)] })), goes_of (by decide +kernel), by decide +kernel⟩,
   ⟨c0, (.acc 0), (r 0), (r 2), (r 4), 4, false, 0, false, (xv fun x => { x with regs := [(1, 256), (3, 256)] }), (issOf c0 (xv fun x => { x with regs := [(1, 256), (3, 256)] })), (waveOf c0 (xv fun x => { x with regs := [(1, 256), (3, 256)] })), goes_of (by decide +kernel), by decide +kernel⟩,
   ⟨c0, (.acc 0), ⟨.acc 0, false⟩, (r 2), (r 4), (xv fun x => { x with regs := [(1, 256), (3, 256)] }), (issOf c0 (xv fun x => { x with regs := [(1, 256), (3, 256)] })), (waveOf c0 (xv fun x => { x with regs := [(1, 256), (3, 256)] })), goes_of (by decide +kernel), by decide +kernel⟩,
   ⟨c0, (.acc 0), (xv fun x => { x with regs := [(1, 256), (3, 256)] }), (issOf c0 (xv fun x => { x with regs := [(1, 256), (3, 256)] })), (waveOf c0 (xv fun x => { x with regs := [(1, 256), (3, 256)] })), goes_of (by decide +kernel), by decide +kernel⟩,
   ⟨c0, (.w 8), ⟨.acc 0, false⟩, (r 2), (xv fun x => { x with regs := [(1, 256), (3, 256)] }), (issOf c0 (xv fun x => { x with regs := [(1, 256), (3, 256)] })), (waveOf c0 (xv fun x => { x with regs := [(1, 256), (3, 256)] })), goes_of (by decide +kernel), by decide +kernel⟩,
   ⟨c0, (.acc 0), (r 0), (r 2), (xv fun x => { x with regs := [(1, 256), (3, 256)] }), (issOf c0 (xv fun x => { x with regs := [(1, 256), (3, 256)] })), (waveOf c0 (xv fun x => { x with regs := [(1, 256), (3, 256)] })), goes_of (by decide +kernel), by decide +kernel⟩,
   ⟨c0, (.acc 0), (r 0), 0, (xv fun x => { x with regs := [(1, 256), (3, 256)] }), (issOf c0 (xv fun x => { x with regs := [(1, 256), (3, 256)] })), (waveOf c0 (xv fun x => { x with regs := [(1, 256), (3, 256)] })), goes_of (by decide +kernel), by decide +kernel⟩,
   ⟨c0, ⟨.acc 0, false⟩, (r 2), 0, (xv fun x => { x with regs := [(1, 256), (3, 256)] }), (issOf c0 (xv fun x => { x with regs := [(1, 256), (3, 256)] })), (waveOf c0 (xv fun x => { x with regs := [(1, 256), (3, 256)] })), goes_of (by decide +kernel), by decide +kernel⟩⟩

theorem test_witness_CollectiveInstructions :
    (∃ (h : Ctl), ∃ (d : Opnd), ∃ (a : Src), ∃ (b : Src), ∃ (s : State), ∃ (i : Iss), ∃ (x : Wave), Goes h { Req.none with srcs := a.rng 2 ++ b.rng 1, dsts := d.rng 2 } s i x ∧ (¬ (i.act = 0)) ∧ ∃ k, ∃ y, s.dev.bidOf i.slot = some (k, y) ∧ (b.w x (lowest i.act)).toNat < y.nch) ∧
    (∃ (h : Ctl), ∃ (d : Opnd), ∃ (b : Src), ∃ (s : State), ∃ (i : Iss), ∃ (x : Wave), Goes h { Req.none with srcs := b.rng 1, dsts := d.rng 2 } s i x ∧ (¬ (i.act = 0)) ∧ ∃ k, ∃ y, s.dev.bidOf i.slot = some (k, y)) ∧
    (∃ (h : Ctl), ∃ (a : Src), ∃ (b : Option Src), ∃ (c : Src), ∃ (nw : BitVec 4), ∃ (s : State), ∃ (i : Iss), ∃ (x : Wave), Goes h { Req.none with srcs := a.rng 2 ++ srcRng b nw.toNat ++ c.rng 1 } s i x ∧ amBad a c i x = []) ∧
    (∃ (h : Ctl), ∃ (d : Opnd), ∃ (s : State), ∃ (i : Iss), ∃ (x : Wave), Goes h { Req.none with dsts := d.rng 1 } s i x ∧ (¬ (i.act = 0)) ∧ ∃ k, ∃ y, s.dev.bidOf i.slot = some (k, y)) :=
  ⟨⟨c0, (.w 8), (r 0), (r 2), (dv fun d => { d with bindings := [(0, y0)], launches := [(0, { Launch.free with used := true, bid := some 0 })] }), (issOf c0 (dv fun d => { d with bindings := [(0, y0)], launches := [(0, { Launch.free with used := true, bid := some 0 })] })), (waveOf c0 (dv fun d => { d with bindings := [(0, y0)], launches := [(0, { Launch.free with used := true, bid := some 0 })] })), goes_of (by decide +kernel), by decide +kernel, 0, y0, by decide +kernel⟩,
   ⟨c0, (.w 8), (r 2), (dv fun d => { d with bindings := [(0, y0)], launches := [(0, { Launch.free with used := true, bid := some 0 })] }), (issOf c0 (dv fun d => { d with bindings := [(0, y0)], launches := [(0, { Launch.free with used := true, bid := some 0 })] })), (waveOf c0 (dv fun d => { d with bindings := [(0, y0)], launches := [(0, { Launch.free with used := true, bid := some 0 })] })), goes_of (by decide +kernel), by decide +kernel, 0, y0, by decide +kernel⟩,
   ⟨c0, (r 0), none, (r 4), 0, s0, (issOf c0 s0), (waveOf c0 s0), goes_of (by decide +kernel), by decide +kernel⟩,
   ⟨c0, (.w 8), (dv fun d => { d with bindings := [(0, y0)], launches := [(0, { Launch.free with used := true, bid := some 0 })] }), (issOf c0 (dv fun d => { d with bindings := [(0, y0)], launches := [(0, { Launch.free with used := true, bid := some 0 })] })), (waveOf c0 (dv fun d => { d with bindings := [(0, y0)], launches := [(0, { Launch.free with used := true, bid := some 0 })] })), goes_of (by decide +kernel), by decide +kernel, 0, y0, by decide +kernel⟩⟩

theorem test_witness_WaveEventsHappen :
    (∃ (s : State), ∃ (g : Lanes), ∃ (y : Wave), ((s.dev.wave s.dev.cur).landAt 0).choose = some (g, y) ∧ (s.dev.wave s.dev.cur).live = true) ∧
    (∃ (w : Nat), ∃ (s : State), (s.dev.wave w).live = true ∧ (∃ e ∈ (s.dev.wave w).pipe, (s.dev.wave w).ahead e = 0)) ∧
    (∃ (w : Nat), ∃ (s : State), ∃ (n : Nat), ∃ (o : Nat), ∃ (d : Device), (s.dev.wave w).wait = .rclaim n o ∧ (s.dev.wave w).live = true ∧ (s.dev.wave w).parked = false ∧ s.dev.claims (s.dev.wave w).blk ((s.dev.wave w).widx % 4) o = false ∧ s.dev.claim w n = some d) ∧
    (∃ (w : Nat), ∃ (s : State), ∃ (d : Detail), ∃ (g : Lanes), ∃ (act : Lanes), ∃ (pc : Addr), ∃ (t : St), (s.dev.wave w).live = true ∧ (s.dev.wave w).asyncDue = true ∧ (s.dev.wave w).parked = false ∧ (s.dev.wave w).untracked = some d ∧ (St.of s).boundary w = some (g, pc, act, t)) ∧
    (∃ (w : Nat), ∃ (s : State), ∃ (old : W32), ∃ (new : W32), ∃ (n : Nat), ∃ (g : Lanes), ∃ (act : Lanes), ∃ (pc : Addr), ∃ (t : St), (s.dev.wave w).membership = some (old, new, n) ∧ (s.dev.wave w).live = true ∧ (s.dev.wave w).parked = false ∧ (s.dev.wave w).tokenFirst = false ∧ (St.of s).boundary w = some (g, pc, act, t)) ∧
    (∃ (w : Nat), ∃ (s : State), ∃ (ls : List Nat), ∃ (g : Lanes), ∃ (act : Lanes), ∃ (pc : Addr), ∃ (t : St), ∃ (p : Nat → Place), ∃ (top : Nat → W64), (s.dev.wave w).live = true ∧ (s.dev.wave w).parked = false ∧ (s.dev.wave w).frame = none ∧ ls = (List.range 32).filter (fun l => ((s.dev.wave w).thread l).arriving && ((s.dev.wave w).thread l).st == .run) ∧ ls ≠ [] ∧ (St.of s).boundary w = some (g, pc, act, t) ∧ top = (fun l => (s.dev.launch (s.dev.block (s.dev.wave w).blk).slot).travelTop ((s.dev.wave w).thread l).workid) ∧ (∀ l ∈ ls, t.stackAcc ((St.of s).arrivalIss w g pc) (top l) .read = .ok (p l))) ∧
    (∃ (w : Nat), ∃ (tok : Option (BitVec 4)), ∃ (s : State), ∃ (o : Op), w < 2 ^ 20 ∧ (s.dev.wave w).live = true ∧ (s.dev.wave w).oldestOp (tok.map (·.toNat)) = some o ∧ o.done = true ∧ (s.dev.wave w).pipeHolds o = false) ∧
    (∃ (w : Nat), ∃ (s : State), (s.dev.wave w).live = true ∧ (s.dev.wave w).alive = 0 ∧ (s.dev.wave w).ops = [] ∧ (s.dev.wave w).frame = none ∧ (s.dev.wave w).leaving = false ∧ (∀ l ∈ s.dev.late, l.uid ≠ (s.dev.wave w).uid)) ∧
    (∃ (w : Nat), ∃ (s : State), (s.dev.wave w).live = true ∧ (s.dev.wave w).leaving = true) :=
  ⟨⟨s0, 1, (waveOf c0 s0), by decide +kernel⟩,
   ⟨0, (xv fun x => { x with pipe := [pe0] }), by decide +kernel⟩,
   ⟨0, sR, 72, 0, ((sR.dev.claim 0 72).getD Device.reset), by decide +kernel⟩,
   ⟨0, (xv fun x => { x with asyncDue := true, untracked := some ⟨1, 0, 0, 0⟩ }), ⟨1, 0, 0, 0⟩, _, _, _, _, pre4 (by decide +kernel) (some4 (by decide +kernel))⟩,
   ⟨0, (xv fun x => { x with membership := some (1, 2, 3) }), 1, 2, 3, _, _, _, _, pre4 (by decide +kernel) (some4 (by decide +kernel))⟩,
   ⟨0, sH, [0], _, _, _, _, (fun _ => .scratch 0 0), (fun l => (sH.dev.launch (sH.dev.block (sH.dev.wave 0).blk).slot).travelTop ((sH.dev.wave 0).thread l).workid), pre5 (by decide +kernel) ⟨some4 (by decide +kernel), rfl, by intro l hl; simp at hl; subst hl; exact ok_of (by decide +kernel)⟩⟩,
   ⟨0, (some 3), (xv fun x => { x with ops := [op0] }), op0, by decide +kernel⟩,
   ⟨0, (xv fun x => { x with thr := [] }), by decide +kernel⟩,
   ⟨0, (xv fun x => { x with leaving := true }), by decide +kernel⟩⟩

theorem test_witness_ParkedAndDebugged :
    (∃ (w : Nat), ∃ (ok : Bool), ∃ (s : State), (s.dev.wave w).live = true ∧ (s.dev.wave w).parked = true ∧ routeOf (s.dev.wave w).latched.1 = 2 ∧ ok = true) ∧
    (∃ (w : Nat), ∃ (s : State), (s.dev.wave w).live = true ∧ (s.dev.wave w).parked = true ∧ (s.dev.wave w).latched.1 ≠ 34) ∧
    (∃ (w : Nat), ∃ (s : State), ∃ (r : Record), (s.dev.wave w).live = true ∧ (s.dev.wave w).parked = true ∧ (s.dev.wave w).latch = some r ∧ r.cause = 34 ∧ (r.v0.toNat % 65536 = 0 ∨ 4 < r.v0.toNat % 65536)) ∧
    (∃ (w : Nat), ∃ (s : State), ∃ (r : Record), (s.dev.wave w).live = true ∧ (s.dev.wave w).parked = true ∧ (s.dev.wave w).latch = some r ∧ (s.dev.wave w).handler ≠ 0 ∧ (s.dev.wave w).fault ≠ 0 ∧ (s.dev.wave w).frame = none) ∧
    (∃ (w : Nat), ∃ (s : State), (s.dev.wave w).live = true ∧ (s.dev.wave w).parked = true) ∧
    (∃ (slot : Nat), ∃ (s : State), (s.dev.launch slot).used = true ∧ (s.dev.launch slot).aborted = false) ∧
    (∃ (w : Nat), ∃ (item : Item), ∃ (s : State), (s.dev.wave w).live = true ∧ (s.dev.wave w).parked = true ∧ (St.of s).itemOk w item = true) ∧
    (∃ (w : Nat), ∃ (item : Item), ∃ (s : State), (s.dev.wave w).live = true ∧ (s.dev.wave w).parked = true ∧ (St.of s).itemOk w item = true ∧ (s.dev.wave w).itemBusy item = false) ∧
    (∃ (w : Nat), ∃ (s : State), ((s.dev.wave w).live = false ∨ (s.dev.wave w).parked = false)) :=
  ⟨⟨0, true, (xv fun x => { x with parked := true, latch := some rc0, handler := 0x2000, fault := 0x10000000000 }), by decide +kernel⟩,
   ⟨0, (xv fun x => { x with parked := true, latch := some rc0, handler := 0x2000, fault := 0x10000000000 }), by decide +kernel⟩,
   ⟨0, (xv fun x => { x with parked := true, latch := some { rc0 with cause := 34, v0 := 5 } }), { rc0 with cause := 34, v0 := 5 }, by decide +kernel⟩,
   ⟨0, (xv fun x => { x with parked := true, latch := some rc0, handler := 0x2000, fault := 0x10000000000 }), rc0, by decide +kernel⟩,
   ⟨0, (xv fun x => { x with parked := true, latch := some rc0, handler := 0x2000, fault := 0x10000000000 }), by decide +kernel⟩,
   ⟨0, (sB la0), by decide +kernel⟩,
   ⟨0, (.reg 0 5), (xv fun x => { x with parked := true, latch := some rc0, handler := 0x2000, fault := 0x10000000000 }), by decide +kernel⟩,
   ⟨0, (.reg 0 5), (xv fun x => { x with parked := true, latch := some rc0, handler := 0x2000, fault := 0x10000000000 }), by decide +kernel⟩,
   ⟨0, s0, by decide +kernel⟩⟩

theorem test_witness_MemoryEventsHappen :
    (∃ (w : Nat), ∃ (s : State), ∃ (o : OutW), w < 2 ^ 20 ∧ (s.dev.wave w).live = true ∧ oldestWrite false (s.dev.wave w).outw = some o) ∧
    (∃ (w : Nat), ∃ (s : State), ∃ (o : OutW), s.dev.link ≠ .down ∧ w < 2 ^ 20 ∧ (s.dev.wave w).live = true ∧ oldestWrite true (s.dev.wave w).outw = some o) ∧
    (∃ (s : State), s.dev.link = .down) ∧
    (∃ (x : Wave), ∃ (o : OutW), ∃ (p : Op), p ∈ x.ops ∧ o.op = some p.id ∧ (∀ q ∈ x.outw, q.seq ≠ o.seq → q.op ≠ o.op)) ∧
    (∃ (n : Nat), ∃ (s : State), ∃ (m : Msg), s.dev.readyMsgs[n]? = some m) ∧
    (∃ (die : Nat), die < 4) ∧
    (∃ (cl : Nat), ∃ (line : Nat), ∃ (s : State), ∃ (l : Local), s.dev.localOf cl line = some l) ∧
    (∃ (cl : Nat), ∃ (n : Nat), ∃ (s : State), ∃ (h : Held), (s.dev.fbuf.filter (·.cl == cl))[n]? = some h) ∧
    (∃ (asid : BitVec 16), ∃ (s : State), (s.dev.ctx asid.toNat).live = true) ∧
    (∃ (u : St), ∃ (asid : Nat), ∃ (va : Nat), ∃ (size : Nat), ∃ (t : Tlb), t ∈ u.d.tlb ∧ t.meets asid va size = false) ∧
    (∃ (u : St), ∃ (asid : Nat), ∃ (va : Nat), ∃ (size : Nat), ∃ (ln : Nat), ∃ (p : Park), u.d.parks.get none ln = some p ∧ p.asid = asid ∧ va < 128 * (p.vline + 1) ∧ 128 * p.vline < va + size ∧ u.mapsTo asid (128 * p.vline) ln = false) ∧
    (∃ (asid : BitVec 16), ∃ (win : BitVec 64), ∃ (q1 : Nat), ∃ (q2 : Nat), ∃ (q3 : Nat), ∃ (s : State), (s.dev.ctx asid.toNat).live = false ∧ win.toNat % 2 ^ 26 = 0 ∧ win.toNat < 2 ^ 57 ∧ q1 ≤ 4 ∧ q2 ≤ 8 ∧ q3 ≤ 8) ∧
    (∃ (asid : BitVec 16), ∃ (s : State), (s.dev.ctx asid.toNat).live = true ∧ (∀ e ∈ s.dev.launches, e.2.used = true → e.2.asid ≠ asid.toNat)) :=
  ⟨⟨0, (xv fun x => { x with outw := [ow0] }), ow0, by decide +kernel⟩,
   ⟨0, (xv fun x => { x with outw := [{ ow0 with host := true }] }), { ow0 with host := true }, by decide +kernel⟩,
   ⟨(dv fun d => { d with link := .down }), by decide +kernel⟩,
   ⟨{ x0 with ops := [op0] }, { ow0 with op := some 0 }, op0, by decide +kernel⟩,
   ⟨0, (dv fun d => { d with msgs := [⟨0, 1, [], []⟩] }), ⟨0, 1, [], []⟩, by decide +kernel⟩,
   ⟨3, by decide +kernel⟩,
   ⟨0, 5, (dv fun d => { d with locals := [lc0] }), lc0, by decide +kernel⟩,
   ⟨0, 0, (dv fun d => { d with fbuf := [hd0] }), hd0, by decide +kernel⟩,
   ⟨1, s0, by decide +kernel⟩,
   ⟨(St.of (dv fun d => { d with tlb := [⟨0, 1, 65536, 65536, 0⟩] })), 1, 0, 65536, ⟨0, 1, 65536, 65536, 0⟩, by decide +kernel⟩,
   ⟨(St.of (dv fun d => { d with parks := [(5, some pk0)] })), 1, 896, 128, 5, pk0, by decide +kernel⟩,
   ⟨2, 0, 4, 8, 8, s0, by decide +kernel⟩,
   ⟨1, s0, by decide +kernel⟩⟩

theorem test_witness_EngineEventsHappen :
    (∃ (core : Nat), ∃ (s : State), ∃ (c : Copy), s.dev.stopped = false ∧ ((s.dev.copies.filter (·.core == core)).filter (·.active)).length < 16 ∧ (s.dev.copies.filter (·.core == core)).find? (fun c => !c.active && !c.landed) = some c ∧ s.dev.acked c.uid c.need = true ∧ s.dev.bound c.uid c.op = true) ∧
    (∃ (cp : Nat), ∃ (s : State), ∃ (c : Copy), ∃ (x : Copy), ∃ (sr : Nat), ∃ (ds : Nat), s.dev.copy cp = some c ∧ c.active = true ∧ c.walk = none ∧ s.dev.stopped = false ∧ c.row < c.rows ∧ (∀ e ∈ c.deliveries, ∀ w, e.2 ≠ .sent w) ∧ (St.of s).idxStops c = none ∧ x = { c with idxv := if c.kind = 1 ∨ c.kind = 2 then (St.of s).copyIdx c c.row else none } ∧ (St.of s).copySrc x c.row = some sr ∧ (St.of s).copyDst x c.row = some ds) ∧
    (∃ (u : St), ∃ (c : Copy), ∃ (sr : Nat), ∃ (ds : Nat), ∃ (v : Nat), c.kind = 0 ∧ u.srcBytes c ((sr + c.seg) % 2 ^ 64) (segLen ds c.rowlen c.seg) = .ok v) ∧
    (∃ (u : St), ∃ (c : Copy), ∃ (ds : Nat), ∃ (dva : Nat), ∃ (pa : Nat), ∃ (pte : W64), ∃ (t : Option (Nat × Nat)), u.locate c.blk (BitVec.ofNat 64 dva) .write = .ok (.dev pa pte) ∧ u.writeErr (.dev pa pte) = none ∧ u.rowTile c ds = .ok t) ∧
    (∃ (cp : Nat), ∃ (ok : Bool), ∃ (s : State), ∃ (c : Copy), s.dev.copy cp = some c ∧ c.walk.isSome = true ∧ ok = true) ∧
    (∃ (cp : Nat), ∃ (ok : Bool), ∃ (s : State), ∃ (c : Copy), ∃ (va : W64), s.dev.copy cp = some c ∧ c.walk = some va ∧ ok = false) ∧
    (∃ (cp : Nat), ∃ (ws : Nat), ∃ (s : State), ∃ (c : Copy), ∃ (y : Window), ∃ (k : Nat), s.dev.copy cp = some c ∧ c.active = true ∧ c.deliveries.lookup ws = some (.sent y) ∧ s.dev.clock.toNat - c.sentAt ≤ 13600 ∧ (St.of s).mcastAccept c y (ws == 0) = some (k, none)) ∧
    (∃ (cp : Nat), ∃ (ws : Nat), ∃ (s : State), ∃ (c : Copy), ∃ (y : Window), ∃ (k : Nat), ∃ (t : Nat), s.dev.copy cp = some c ∧ c.active = true ∧ c.deliveries.lookup ws = some (.sent y) ∧ s.dev.clock.toNat - c.sentAt ≤ 13600 ∧ (St.of s).mcastAccept c y (ws == 0) = some (k, some t) ∧ c.fills.contains (k, t) = false) ∧
    (∃ (cp : Nat), ∃ (ws : Nat), ∃ (s : State), ∃ (c : Copy), ∃ (y : Window), s.dev.copy cp = some c ∧ c.active = true ∧ c.deliveries.lookup ws = some (.sent y) ∧ ((St.of s).mcastAccept c y (ws == 0) = none ∨ 13600 < s.dev.clock.toNat - c.sentAt)) ∧
    (∃ (cp : Nat), ∃ (ws : Nat), ∃ (s : State), ∃ (c : Copy), ∃ (y : Window), s.dev.copy cp = some c ∧ c.active = true ∧ c.deliveries.lookup ws = some (.sent y) ∧ 13600 < s.dev.clock.toNat - c.sentAt) ∧
    (∃ (cp : Nat), ∃ (s : State), ∃ (c : Copy), s.dev.copy cp = some c ∧ c.landed = true ∧ c.chained = false ∧ s.dev.opDone c.uid c.op = false ∧ c.err = none ∧ (∀ e ∈ c.deliveries, e.2 ≠ .missed)) ∧
    (∃ (core : Nat), ∃ (tile : Nat), ∃ (s : State), ∃ (m : MatOp), ∃ (c : Copy), ∃ (ts : List (Nat × Nat × Nat)), s.dev.mats.find? (fun m => m.core == core && m.on tile && !m.ended) = some m ∧ m.chain.bind s.dev.copy = some c ∧ m.go = false ∧ c.landed = true ∧ s.dev.atHead m = true ∧ s.dev.stopped = false ∧ (St.of s).matTiles m = some ts ∧ (∀ t ∈ ts, t.2.2 = 2)) ∧
    (∃ (core : Nat), ∃ (s : State), ∃ (m : MatOp), s.dev.stopped = false ∧ (∀ m ∈ s.dev.mats, m.core = core → m.started = true → m.ended = true ∨ m.start + m.kc ≤ s.dev.clock.toNat) ∧ (St.of s).arrayStalled core = false ∧ (s.dev.mats.filter (·.core == core)).find? (fun m => !m.started && !m.ended && m.go && s.dev.atHead m && (m.selfFed || (s.dev.acked m.uid m.need && s.dev.bound m.uid m.op))) = some m) ∧
    (∃ (core : Nat), ∃ (tile : Nat), ∃ (s : State), ∃ (m : MatOp), ∃ (es : List (Nat × Nat × Nat)), s.dev.mats.find? (fun m => m.core == core && m.on tile && m.started && !m.ended) = some m ∧ m.due s.dev.clock.toNat = true ∧ s.dev.stopped = false ∧ s.dev.rowBad m = false ∧ (St.of s).arrayStalled core = false ∧ m.kind ≠ 4 ∧ m.kind ≠ 7 ∧ (St.of s).rowNew m m.row = .ok es) ∧
    (∃ (core : Nat), ∃ (tile : Nat), ∃ (s : State), ∃ (m : MatOp), s.dev.mats.find? (fun m => m.core == core && m.on tile && m.started && !m.ended) = some m ∧ m.due s.dev.clock.toNat = true ∧ s.dev.stopped = false ∧ s.dev.rowBad m = false ∧ (St.of s).arrayStalled core = false ∧ m.kind = 4) ∧
    (∃ (core : Nat), ∃ (tile : Nat), ∃ (s : State), ∃ (m : MatOp), ∃ (ws : List (Place × Nat × Nat)), s.dev.mats.find? (fun m => m.core == core && m.on tile && m.started && !m.ended) = some m ∧ m.due s.dev.clock.toNat = true ∧ s.dev.stopped = false ∧ s.dev.rowBad m = false ∧ (St.of s).arrayStalled core = false ∧ m.kind = 7 ∧ (St.of s).rowStores m m.row = .ok ws) ∧
    (∃ (core : Nat), ∃ (tile : Nat), ∃ (kind : BitVec 8), ∃ (s : State), ∃ (m : MatOp), ∃ (e : RowErr), s.dev.mats.find? (fun m => m.core == core && m.on tile && m.started && !m.ended) = some m ∧ m.chain = none ∧ (St.of s).rowErr m = some e ∧ e.kind = kind.toNat) :=
  ⟨⟨0, (cV [cp0]), cp0, by decide +kernel⟩,
   ⟨1, (sC cS), cS, { cS with idxv := if cS.kind = 1 ∨ cS.kind = 2 then (St.of (sC cS)).copyIdx cS cS.row else none }, 0x100000, 0x100080, pre5 (by decide +kernel) ⟨fun e h => absurd (show e ∈ ([] : List (Nat × Delivery)) from h) (by simp), by decide +kernel, rfl, by decide +kernel⟩⟩,
   ⟨(St.of s1), cS, 0x100000, 0x100080, _, by decide +kernel, ok_val (d := 0) (by decide +kernel)⟩,
   ⟨(St.of s1), cS, 0, 0x100080, 0x100080, 0x3B, none, ok_of (by decide +kernel), by decide +kernel, ok_of (by decide +kernel)⟩,
   ⟨1, true, (cV [{ cp0 with active := true, walk := some 5 }]), { cp0 with active := true, walk := some 5 }, by decide +kernel⟩,
   ⟨1, false, (cV [{ cp0 with active := true, walk := some 5 }]), { cp0 with active := true, walk := some 5 }, 5, by decide +kernel⟩,
   ⟨1, 0, (cV [cD]), cD, ⟨0, 0, 0⟩, 0, by decide +kernel⟩,
   ⟨1, 0, sT, cD, ⟨0, 0, 0⟩, 0, 0, by decide +kernel⟩,
   ⟨1, 0, (cV [cM]), cM, ⟨5, 0, 0⟩, by decide +kernel⟩,
   ⟨1, 0, (dv fun d => { d with copies := [cM], clock := 20000 }), cM, ⟨5, 0, 0⟩, by decide +kernel⟩,
   ⟨1, ⟨[], { s0.dev with copies := [cL], waves := [(0, { x0 with ops := [{ op0 with done := false }] })] }⟩, cL, pre5 (by decide +kernel) (fun e h => absurd (show e ∈ ([] : List (Nat × Delivery)) from h) (by simp))⟩,
   ⟨0, 0, (dv fun d => { d with mats := [{ mo0 with started := false, go := false, chain := some 1 }], copies := [{ cp0 with landed := true, chained := true }] }), { mo0 with started := false, go := false, chain := some 1 }, { cp0 with landed := true, chained := true }, [], by decide +kernel⟩,
   ⟨0, (mV [{ mo0 with started := false }]), { mo0 with started := false }, by decide +kernel⟩,
   ⟨0, 0, (mV [{ mo0 with kind := 3, ty := 0 }]), { mo0 with kind := 3, ty := 0 }, _, pre7 (by decide +kernel) (ok_val (d := []) (by decide +kernel))⟩,
   ⟨0, 0, (mV [{ mo0 with kind := 4 }]), { mo0 with kind := 4 }, by decide +kernel⟩,
   ⟨0, 0, (mV [{ mo0 with kind := 7, xa := 0x10000000000, c := 512 }]), { mo0 with kind := 7, xa := 0x10000000000, c := 512 }, _, pre6 (by decide +kernel) (ok_val (d := []) (by decide +kernel))⟩,
   ⟨0, 0, 6, (mV [{ mo0 with kind := 6, xa := 0x10000010000 }]), { mo0 with kind := 6, xa := 0x10000010000 }, _, pre2 (by decide +kernel) ⟨some_val (d := ⟨0, false, 0⟩) (by decide +kernel), by decide +kernel⟩⟩⟩

theorem test_witness_BlocksComeAndGo :
    (∃ (core : Nat), ∃ (entry : Nat), ∃ (s : State), ∃ (b : Nat), (s.dev.bind core entry).state = 1 ∧ (s.dev.launch (s.dev.bind core entry).slot).open = true ∧ (s.dev.launch (s.dev.bind core entry).slot).handed.get none (64 * core + entry) = none ∧ s.dev.mayServe core (s.dev.bind core entry).slot = true ∧ s.dev.stopped = false ∧ (s.dev.launch (s.dev.bind core entry).slot).nextOf (dieOf core) = some b ∧ s.dev.outranked core (s.dev.bind core entry).slot (fun l => (l.nextOf (dieOf core)).isSome) = false) ∧
    (∃ (core : Nat), ∃ (entry : Nat), ∃ (s : State), ∃ (v : Nat), ∃ (b : Nat), (s.dev.bind core entry).state = 1 ∧ (s.dev.launch (s.dev.bind core entry).slot).open = true ∧ (s.dev.launch (s.dev.bind core entry).slot).handed.get none (64 * core + entry) = none ∧ s.dev.mayServe core (s.dev.bind core entry).slot = true ∧ s.dev.stopped = false ∧ (s.dev.launch (s.dev.bind core entry).slot).nextOf (dieOf core) = none ∧ [1, 2, 3].findSome? (fun k => ((s.dev.launch (s.dev.bind core entry).slot).lastOf ((dieOf core + k) % 4)).map (fun b => ((dieOf core + k) % 4, b))) = some (v, b)) ∧
    (∃ (core : Nat), ∃ (entry : Nat), ∃ (s : State), ∃ (hp : Place), (s.dev.bind core entry).state = 1 ∧ (s.dev.launch (s.dev.bind core entry).slot).open = true ∧ (s.dev.launch (s.dev.bind core entry).slot).inqA ≠ 0 ∧ ((s.dev.launch (s.dev.bind core entry).slot).handed.get none (64 * core + entry)).isSome = true ∧ (s.dev.launch (s.dev.bind core entry).slot).inq.get none (64 * core + entry) = none ∧ s.dev.unitAsked false (64 * core + entry) = false ∧ (s.dev.launch (s.dev.bind core entry).slot).spare.find? (·.1 == dieOf core) = none ∧ (St.of s).ctxPlace (s.dev.launch (s.dev.bind core entry).slot).asid (s.dev.launch (s.dev.bind core entry).slot).inqA = some hp) ∧
    (∃ (core : Nat), ∃ (entry : Nat), ∃ (s : State), ∃ (e : Nat × Nat), (s.dev.bind core entry).state = 1 ∧ (s.dev.launch (s.dev.bind core entry).slot).open = true ∧ (s.dev.launch (s.dev.bind core entry).slot).inqA ≠ 0 ∧ ((s.dev.launch (s.dev.bind core entry).slot).handed.get none (64 * core + entry)).isSome = true ∧ (s.dev.launch (s.dev.bind core entry).slot).inq.get none (64 * core + entry) = none ∧ s.dev.unitAsked false (64 * core + entry) = false ∧ (s.dev.launch (s.dev.bind core entry).slot).spare.find? (·.1 == dieOf core) = some e) ∧
    (∃ (core : Nat), ∃ (entry : Nat), ∃ (s : State), ∃ (k : Nat), ∃ (f : Form), (s.dev.bind core entry).state = 1 ∧ (s.dev.launch (s.dev.bind core entry).slot).open = true ∧ s.dev.stopped = false ∧ s.dev.power = 0 ∧ (∀ e ∈ s.dev.bindDue, ¬ (e.1 = core ∧ e.2.1 = entry)) ∧ core < 288 ∧ entry < 64 ∧ s.dev.boundNow core = false ∧ (s.dev.takeClk (dieOf core) (s.dev.launch (s.dev.bind core entry).slot).vc).formFor core entry = some (k, f)) ∧
    (∃ (core : Nat), ∃ (entry : Nat), ∃ (s : State), ∃ (d : Device), ∃ (b : Nat), (s.dev.bind core entry).state = 1 ∧ (s.dev.launch (s.dev.bind core entry).slot).open = true ∧ s.dev.stopped = false ∧ s.dev.power = 0 ∧ (∀ e ∈ s.dev.bindDue, ¬ (e.1 = core ∧ e.2.1 = entry)) ∧ core < 288 ∧ entry < 64 ∧ s.dev.boundNow core = false ∧ d = s.dev.takeClk (dieOf core) (s.dev.launch (s.dev.bind core entry).slot).vc ∧ d.formFor core entry = none ∧ (s.dev.launch (s.dev.bind core entry).slot).handed.get none (64 * core + entry) = some b ∧ ((s.dev.launch (s.dev.bind core entry).slot).inqA = 0 ∨ ((s.dev.launch (s.dev.bind core entry).slot).inq.get none (64 * core + entry)).isSome = true) ∧ d.fits core (s.dev.bind core entry) (s.dev.launch (s.dev.bind core entry).slot) ((s.dev.launch (s.dev.bind core entry).slot).demand b) = true) ∧
    (∃ (core : Nat), ∃ (entry : Nat), ∃ (expect : BitVec 2), ∃ (rec : BitVec 128), ∃ (s : State), s.dev.offerOk core rec = true ∧ s.dev.agenda.contains (.blockBind core entry) = false ∧ s.dev.bindWritable core entry expect rec = true ∧ (s.dev.bind core entry).state ≠ 1) ∧
    (∃ (core : Nat), ∃ (entry : Nat), ∃ (expect : BitVec 2), ∃ (rec : BitVec 128), ∃ (s : State), s.dev.offerOk core rec = true ∧ s.dev.agenda.contains (.blockBind core entry) = false ∧ s.dev.bindWritable core entry expect rec = true ∧ (s.dev.bind core entry).state = 1) ∧
    (∃ (core : Nat), ∃ (entry : Nat), ∃ (rec : BitVec 128), ∃ (s : State), s.dev.offerOk core rec = true ∧ s.dev.agenda.contains (.blockBind core entry) = true) ∧
    (∃ (core : Nat), ∃ (entry : Nat), ∃ (expect : BitVec 2), ∃ (rec : BitVec 128), ∃ (s : State), s.dev.offerOk core rec = true ∧ s.dev.agenda.contains (.blockBind core entry) = false ∧ s.dev.bindWritable core entry expect rec = false) ∧
    (∃ (blk : Nat), ∃ (s : State), (s.dev.block blk).live = true ∧ (s.dev.block blk).leaving = true ∧ s.dev.peerBusy blk = false) ∧
    (∃ (blk : Nat), ∃ (s : State), ∃ (k : Nat), ∃ (c : Nat), ∃ (x : Binding), ∃ (u : St), (s.dev.block blk).live = true ∧ (s.dev.block blk).auto = true ∧ u = (St.of s).releaseOf (blk / 64) (s.dev.block blk).asid 4 ∧ u.d.pushed (blk / 64) (s.dev.block blk).asid = true ∧ u.d.blockAcked (s.dev.block blk) = true ∧ u.d.bidOf (s.dev.block blk).slot = some (k, x) ∧ x.st = .normal ∧ c = (s.dev.launch (s.dev.block blk).slot).fieldOf ((s.dev.block blk).index * 2 ^ (s.dev.launch (s.dev.block blk).slot).los (s.dev.launch (s.dev.block blk).slot).bb) (x.autof - 1) ∧ c < x.nch) ∧
    (∃ (blk : Nat), ∃ (s : State), ∃ (b : Block), ∃ (u : St), b = s.dev.block blk ∧ b.live = true ∧ b.outq = true ∧ b.auto = false ∧ s.dev.unitAsked true blk = false ∧ u = (St.of s).releaseOf (blk / 64) b.asid 4 ∧ (u.d.pushed (blk / 64) b.asid = false ∨ u.d.blockAcked b = false)) ∧
    (∃ (blk : Nat), ∃ (s : State), ∃ (b : Block), ∃ (u : St), ∃ (hp : Place), b = s.dev.block blk ∧ b.live = true ∧ b.outq = true ∧ b.auto = false ∧ s.dev.unitAsked true blk = false ∧ u = (St.of s).releaseOf (blk / 64) b.asid 4 ∧ u.d.pushed (blk / 64) b.asid = true ∧ u.d.blockAcked b = true ∧ u.ctxPlace (s.dev.launch b.slot).asid (s.dev.launch b.slot).outqA = some hp) ∧
    (∃ (blk : Nat), ∃ (s : State), ∃ (b : Block), ∃ (t : St), b = s.dev.block blk ∧ b.live = true ∧ s.dev.wavesOf blk = [] ∧ b.outq = false ∧ b.auto = false ∧ t = (St.of s).leaveFirst blk ∧ t.d.mayFree blk = true ∧ (b.reduces = [] ∨ t.d.blockAcked b = true)) ∧
    (∃ (blk : Nat), ∃ (s : State), ∃ (b : Block), ∃ (t : St), b = s.dev.block blk ∧ b.live = true ∧ s.dev.wavesOf blk = [] ∧ b.outq = false ∧ b.auto = false ∧ t = (St.of s).leaveFirst blk ∧ t.d.mayFree blk = false) ∧
    (∃ (slot : Nat), ∃ (s : State), (St.of s).launchOver slot = true) ∧
    (∃ (q : Nat), ∃ (ovb : BitVec 64), ∃ (pins : List (Nat × List Nat)), ∃ (s : State), ∃ (e : QRec), ∃ (rest : List QRec), ∃ (l : Launch), s.dev.lqs.get [] q = e :: rest ∧ l = s.dev.launch e.slot ∧ s.dev.afterOk l = true ∧ ovb ≠ 0 ∧ ovb.toNat % 64 = 0 ∧ (St.of s).pinsOk e.slot pins = true ∧ s.dev.power = 0 ∧ s.dev.stopped = false ∧ l.travel = false) ∧
    (∃ (q : Nat), ∃ (ovb : BitVec 64), ∃ (pins : List (Nat × List Nat)), ∃ (s : State), ∃ (e : QRec), ∃ (rest : List QRec), ∃ (l : Launch), ∃ (u : St), s.dev.lqs.get [] q = e :: rest ∧ l = s.dev.launch e.slot ∧ s.dev.afterOk l = true ∧ ovb ≠ 0 ∧ ovb.toNat % 64 = 0 ∧ (St.of s).pinsOk e.slot pins = true ∧ s.dev.power = 0 ∧ s.dev.stopped = false ∧ l.travel = true ∧ u = ((St.of s).withD fun d => ({ d with lqs := d.lqs.put q rest }).setLaunch e.slot { l with
        admitted := true, ovb := ovb, adm := 16 * d.clock.toNat + q, lastEnd := none
        lo := (List.range 4).map (fun die => (die, die)), hi := (List.range 4).map (fun die => (die, l.noBlock)) }).writeHeaders e.slot true) :=
  ⟨⟨0, 1, (sB la0), 0, by decide +kernel⟩,
   ⟨72, 1, (dv fun d => { d with launches := [(0, la0)], binds := [(4609, 2 ^ 126)] }), 0, 0, by decide +kernel⟩,
   ⟨0, 1, (sQ 1), (.dev 0x100000 0x3B), by decide +kernel⟩,
   ⟨0, 1, ⟨s1.mem, { s1.dev with launches := [(0, { la0 with rcd := BitVec.ofNat 1024 (2 ^ 128 * 0x100000 + 2 ^ 192 * 0x100000), handed := [(1, some 0)], spare := [(0, 5)] })], binds := [(1, 2 ^ 126)] }⟩, (0, 5), by decide +kernel⟩,
   ⟨0, 1, (dv fun d => { d with launches := [(0, la0)], binds := [(1, 2 ^ 126)], forms := [⟨0, [2 ^ 140], 0, true, none, false⟩], clock := 1 }), 0, ⟨0, [2 ^ 140], 0, true, none, false⟩, by decide +kernel⟩,
   ⟨0, 1, (dv fun d => { d with launches := [(0, { la0 with handed := [(1, some 0)] })], binds := [(1, 2 ^ 126)], clock := 1 }), _, 0, pre8 (by decide +kernel) ⟨rfl, by decide +kernel⟩⟩,
   ⟨287, 63, 0, (2 ^ 126), s0, by decide +kernel⟩,
   ⟨0, 1, 1, (2 ^ 127), (sB la0), by decide +kernel⟩,
   ⟨287, 63, (2 ^ 126), (dv fun d => { d with agenda := [.blockBind 287 63] }), by decide +kernel⟩,
   ⟨0, 0, 1, 0, s0, by decide +kernel⟩,
   ⟨0, (bv fun b => { b with leaving := true }), by decide +kernel⟩,
   ⟨0, (dv fun d => { d with blocks := [(0, { b0 with auto := true })], bindings := [(0, { y0 with rcd := BitVec.ofNat 1024 (2 ^ 469) })], launches := [(0, { la0 with bid := some 0 })] }), 0, 0, { y0 with rcd := BitVec.ofNat 1024 (2 ^ 469) }, _, pre2 (by decide +kernel) ⟨rfl, by decide +kernel⟩⟩,
   ⟨0, ⟨[], { s0.dev with blocks := [(0, { b0 with outq := true, ended := [7] })], orphans := [(7, [ow0])] }⟩, _, _, rfl, pre4 (by decide +kernel) ⟨rfl, by decide +kernel⟩⟩,
   ⟨0, (sQ 0), _, _, (.dev 0x100000 0x3B), rfl, pre4 (by decide +kernel) ⟨rfl, by decide +kernel⟩⟩,
   ⟨0, (dv fun d => { d with waves := [] }), b0, _, pre5 (by decide +kernel) ⟨rfl, by decide +kernel⟩⟩,
   ⟨0, (dv fun d => { d with waves := [], copies := [{ cp0 with blk := 70, deliveries := [(0, .accepted 0)] }] }), b0, _, pre5 (by decide +kernel) ⟨rfl, by decide +kernel⟩⟩,
   ⟨3, (dv fun d => { d with launches := [(3, { la0 with hi := [] })] }), by decide +kernel⟩,
   ⟨2, 0x100000, [], (dv fun d => { d with launches := [(0, { la0 with admitted := false })], lqs := [(2, [⟨0⟩])] }), ⟨0⟩, [], { la0 with admitted := false }, by decide +kernel⟩,
   ⟨2, 0x100000, [(0, [0])], sA, ⟨0⟩, [], lT, _, by decide +kernel, pre8 (by decide +kernel) rfl⟩⟩

theorem test_witness_SavingAndThePosy :
    (∃ (blk : Nat), ∃ (s : State), (s.dev.block blk).live = true ∧ s.dev.wavesOf blk ≠ []) ∧
    (∃ (blk : Nat), ∃ (area : Nat), ∃ (s : State), ∃ (t : St), s.dev.savable blk = true ∧ (s.dev.block blk).preq = true ∧ (s.dev.block blk).deadline.toNat ≤ s.dev.clock.toNat ∧ areaFits area ((s.dev.savedOf blk area 0).size s.dev) = true ∧ t = (St.of s).comeOff blk ∧ t.d.offReady blk (t.d.goes blk true) = true) ∧
    (∃ (blk : Nat), ∃ (area : Nat), ∃ (s : State), ∃ (t : St), s.dev.savable blk = true ∧ (s.dev.block blk).preq = true ∧ (s.dev.block blk).deadline.toNat ≤ s.dev.clock.toNat ∧ areaFits area ((s.dev.savedOf blk area 0).size s.dev) = true ∧ t = (St.of s).comeOff blk ∧ t.d.offReady blk (t.d.goes blk true) = false) ∧
    (∃ (asid : BitVec 16), ∃ (core : Nat), ∃ (area : Nat), ∃ (discard : List Nat), ∃ (s : State), ∃ (ks : List Nat), ∃ (plan : List (Nat × Nat)), ∃ (u : St), (s.dev.ctx asid.toNat).live = true ∧ areaFits area 4096 = true ∧ ks = s.dev.blocksOn asid.toNat core ∧ s.dev.planAreas 1 (area + 4096) ks = some plan ∧ u = ks.foldl St.comeOff (St.of s) ∧ (∀ k ∈ ks, u.d.offReady k (u.d.goes k (discard.contains k)) = true)) ∧
    (∃ (asid : BitVec 16), ∃ (core : Nat), ∃ (area : Nat), ∃ (discard : List Nat), ∃ (s : State), ∃ (ks : List Nat), ∃ (plan : List (Nat × Nat)), ∃ (u : St), ∃ (k : Nat), (s.dev.ctx asid.toNat).live = true ∧ areaFits area 4096 = true ∧ ks = s.dev.blocksOn asid.toNat core ∧ s.dev.planAreas 1 (area + 4096) ks = some plan ∧ u = ks.foldl St.comeOff (St.of s) ∧ k ∈ ks ∧ u.d.offReady k (u.d.goes k (discard.contains k)) = false ∧ u.d.outs.contains (asid.toNat, core, area, discard) = false) ∧
    (∃ (blk : Nat), ∃ (core : Nat), ∃ (entry : Nat), ∃ (s : State), ∃ (v : Saved), s.dev.saved[blk]? = some v ∧ s.dev.restorable v core entry = true ∧ core < 288 ∧ entry < 64 ∧ s.dev.stopped = false ∧ s.dev.power = 0) ∧
    (∃ (deadline : BitVec 64), ∃ (s : State), ∃ (u : St), u = s.dev.waiting.foldl (fun u x => match u.d.victim x with
      | some k => u.withD fun d => d.setBlock k { d.block k with preq := true, deadline := deadline }
      | none => u) (St.of s)) ∧
    (∃ (slot : Nat), ∃ (area : Nat), ∃ (s : State), ∃ (l : Launch), ∃ (ks : List Nat), ∃ (u : St), ∃ (plan : List (Nat × Nat)), l = s.dev.launch slot ∧ l.used = true ∧ l.admitted = true ∧ (∃ e ∈ s.dev.overflowDue, e.1 = slot) ∧ ks = (s.dev.blocks.filter (fun e => e.2.slot == slot && s.dev.savable e.1)).map (·.1) ∧ u = ks.foldl St.comeOff ((St.of s).withD (·.setLaunch slot { l with suspended := true })) ∧ u.d.planAreas 2 area (ks.filter (fun k => u.d.offReady k false)) = some plan) ∧
    (∃ (n : Nat), ∃ (s : State), ∃ (t : Transit), ∃ (u : St), s.dev.arrivals[n]? = some t ∧ u = (St.of s).withD (fun d => ({ d with transit := d.transit.erase t }).takeClk (dieOf t.core) (d.sentClk t)) ∧ (s.dev.launch (recSlot t.rcd)).used = true ∧ (s.dev.launch (recSlot t.rcd)).aborted = false ∧ t.cold = false ∧ t.toRing = false ∧ u.d.strays t = false) ∧
    (∃ (core : Nat), ∃ (n : Nat), ∃ (s : State), ∃ (k : Nat), ∃ (f : Form), s.dev.formAt core n = some (k, f) ∧ f.released = false ∧ 17 * (s.dev.launch (recSlot (f.recs.headD 0))).ftime ≤ 10 * (s.dev.clock.toNat - f.since)) ∧
    (∃ (core : Nat), ∃ (n : Nat), ∃ (s : State), ∃ (k : Nat), ∃ (v : Nat), ∃ (f : Form), ∃ (l : Launch), s.dev.formAt core n = some (k, f) ∧ l = s.dev.launch (recSlot (f.recs.headD 0)) ∧ recTti (f.recs.headD 0) ≠ 0 ∧ recTti (f.recs.headD 0) < l.ttn ∧ f.entry = none ∧ f.failed = false ∧ (St.of s).taskEntry core l.asid (l.ttbase + 32 * recTti (f.recs.headD 0)) = some (.inl v)) ∧
    (∃ (core : Nat), ∃ (slot : Nat), ∃ (s : State), ∃ (r : BitVec 512), ∃ (t : St), (St.of s).ringTake slot core = some (r, t) ∧ core < 288 ∧ recBad r = false ∧ s.dev.posyTakes core r = true) ∧
    (∃ (slot : Nat), ∃ (core : Nat), ∃ (base : BitVec 64), ∃ (log2n : Nat), ∃ (s : State), ∃ (rs : List (BitVec 512)), ∃ (h : Nat), ∃ (u : St), ∃ (v : St), (slot, core) ∈ s.dev.overflowDue ∧ ringOk core base.toNat log2n = true ∧ log2n ≤ 24 ∧ (hdrRing ((St.of s).ringHdr slot core) = 0 ∨ hdrN ((St.of s).ringHdr slot core) < 2 ^ log2n) ∧ rs = (St.of s).ringAll slot core ((St.of s).ringOcc slot core) ∧ h = rs.length + 2 ^ 128 * log2n + 2 ^ 134 * (base.toNat / 64) + 2 ^ 192 * 3 ∧ u = ((St.of s).ringFill h 0 rs).homeWrite ((St.of s).ringHead slot core) 64 h ∧ v = u.unspill slot core u.d.spill ∧ v.d.spill = []) ∧
    (∃ (slot : Nat), ∃ (s : State), (s.dev.launch slot).used = true) :=
  ⟨⟨0, s0, by decide +kernel⟩,
   ⟨0, 0x100000, (bv fun b => { b with preq := true, deadline := 0 }), _, pre4 (by decide +kernel) ⟨rfl, by decide +kernel⟩⟩,
   ⟨0, 0x100000, ⟨[], { s0.dev with blocks := [(0, { b0 with preq := true, deadline := 0 })], copies := [cA] }⟩, _, pre4 (by decide +kernel) ⟨rfl, by decide +kernel⟩⟩,
   ⟨1, 0, 0x100000, [], s0, [0], [(0, 0x101000)], _, pre4 (by decide +kernel) ⟨rfl, by decide +kernel⟩⟩,
   ⟨1, 0, 0x100000, [], (cV [cA]), [0], [(0, 0x101000)], _, 0, pre4 (by decide +kernel) ⟨rfl, by decide +kernel⟩⟩,
   ⟨0, 0, 1, (dv fun d => { d with saved := [d.savedOf 0 0x100000 0], launches := [(0, la0)], binds := [(1, BitVec.ofNat 128 (2 ^ 126 + 2 ^ 101 * 8 + 2 ^ 88 * 8 + 2 ^ 80))], blocks := [], waves := [] }), (s0.dev.savedOf 0 0x100000 0), by decide +kernel⟩,
   ⟨0, s0, _, rfl⟩,
   ⟨0, 0x100000, (dv fun d => { d with launches := [(0, la0)], overflowDue := [(0, 5)] }), la0, [0], _, [(0, 0x100000)], pre5 (by decide +kernel) ⟨rfl, by decide +kernel⟩⟩,
   ⟨0, (dv fun d => { d with launches := [(0, la0)], transit := [⟨BitVec.ofNat 512 (2 ^ 140), 0, 1, 0, 0, none, none, false, false, false, [], 0, 0, false⟩] }), ⟨BitVec.ofNat 512 (2 ^ 140), 0, 1, 0, 0, none, none, false, false, false, [], 0, 0, false⟩, _, by decide +kernel, rfl, by decide +kernel⟩,
   ⟨0, 0, (dv fun d => { d with launches := [(0, la0)], forms := [⟨0, [2 ^ 140], 0, false, none, false⟩] }), 0, ⟨0, [2 ^ 140], 0, false, none, false⟩, by decide +kernel⟩,
   ⟨0, 0, ⟨s1.mem, { s1.dev with launches := [(0, { la0 with rcd := BitVec.ofNat 1024 (2 ^ 769 + 2 ^ 320 * 0x100000) })], forms := [⟨0, [BitVec.ofNat 512 (2 ^ 140 + 2 ^ 48)], 0, true, none, false⟩] }⟩, 0, 0, ⟨0, [BitVec.ofNat 512 (2 ^ 140 + 2 ^ 48)], 0, true, none, false⟩, { la0 with rcd := BitVec.ofNat 1024 (2 ^ 769 + 2 ^ 320 * 0x100000) }, by decide +kernel⟩,
   ⟨0, 0, (sG), (2 ^ 140), _, take_of (d := St.of sG) (by decide +kernel), by decide +kernel⟩,
   ⟨0, 0, 0x8000000000, 3, (dv fun d => { d with launches := [(0, { la0 with ovb := 0x100000 })], overflowDue := [(0, 0)] }), [], (0 + 2 ^ 128 * 3 + 2 ^ 134 * (0x8000000000 / 64) + 2 ^ 192 * 3), _, _, pre6 (by decide +kernel) ⟨rfl, rfl, by decide +kernel⟩⟩,
   ⟨0, (sB la0), by decide +kernel⟩⟩

theorem test_witness_MembershipViews :
    (∃ (bid : Nat), ∃ (s : State), ∃ (x : Binding), s.dev.binding bid = some x ∧ (∀ t, x.beat = some t → beatCycles ≤ s.dev.since t) ∧ s.dev.fabricUp = true) ∧
    (∃ (bid : Nat), ∃ (s : State), ∃ (x : Binding), s.dev.partValid bid = true ∧ s.dev.binding bid = some x) ∧
    (∃ (bid : Nat), ∃ (rank : Nat), ∃ (s : State), ∃ (x : Binding), ∃ (y : Binding), s.dev.binding bid = some x ∧ (x.st = .normal ∨ x.st = .agree) ∧ y = x.suspect rank s.dev.clock.toNat ∧ x.neighbours.contains rank = true ∧ s.dev.silent x rank = true) ∧
    (∃ (bid : Nat), ∃ (rank : Nat), ∃ (s : State), ∃ (x : Binding), s.dev.partValid bid = true ∧ s.dev.binding bid = some x ∧ (x.st = .normal ∨ x.st = .agree) ∧ x.view.contains rank = true ∧ rank ≠ x.rank) ∧
    (∃ (bid : Nat), ∃ (s : State), ∃ (x : Binding), s.dev.binding bid = some x ∧ (x.st = .normal ∨ (x.st = .agree ∧ x.prop = none)) ∧ x.gather = true ∧ x.leads = true ∧ 34000 ≤ s.dev.clock.toNat - x.gatherAt) ∧
    (∃ (bid : Nat), ∃ (tag : BitVec 32), ∃ (s : State), ∃ (x : Binding), s.dev.partValid bid = true ∧ s.dev.binding bid = some x ∧ (x.st = .normal ∨ x.st = .agree) ∧ x.acked.toNat < tag.toNat) ∧
    (∃ (bid : Nat), ∃ (tag : BitVec 32), ∃ (s : State), ∃ (x : Binding), s.dev.partValid bid = true ∧ s.dev.binding bid = some x ∧ x.st ≠ .isolated ∧ tag.toNat ≤ x.acked.toNat) ∧
    (∃ (bid : Nat), ∃ (src : Nat), ∃ (tag : BitVec 32), ∃ (s : State), ∃ (x : Binding), ∃ (mask : List Nat), s.dev.partValid bid = true ∧ s.dev.binding bid = some x ∧ x.tag.toNat ≤ tag.toNat ∧ x.prop = some (tag, mask) ∧ x.st = .agree ∧ mask.contains src = true ∧ (∀ a ∈ x.acks, a.1 ≠ src)) ∧
    (∃ (bid : Nat), ∃ (src : Nat), ∃ (tag : BitVec 32), ∃ (s : State), ∃ (x : Binding), ∃ (p : W32 × List Nat), s.dev.partValid bid = true ∧ s.dev.binding bid = some x ∧ x.tag.toNat ≤ tag.toNat ∧ x.prop = some p ∧ x.st = .agree ∧ p.2.contains src = true) ∧
    (∃ (bid : Nat), ∃ (s : State), ∃ (x : Binding), ∃ (t : W32), ∃ (mask : List Nat), s.dev.binding bid = some x ∧ x.prop = some (t, mask) ∧ x.st = .agree ∧ 136000 ≤ s.dev.clock.toNat - x.agreeAt) ∧
    (∃ (bid : Nat), ∃ (tag : BitVec 32), ∃ (mask : List Nat), ∃ (s : State), ∃ (x : Binding), s.dev.partValid bid = true ∧ s.dev.binding bid = some x ∧ x.tag.toNat ≤ tag.toNat ∧ mask.contains x.rank = false ∧ x.st = .agree ∧ x.acked.toNat ≤ tag.toNat) ∧
    (∃ (bid : Nat), ∃ (tag : BitVec 32), ∃ (mask : List Nat), ∃ (s : State), ∃ (x : Binding), s.dev.partValid bid = true ∧ s.dev.binding bid = some x ∧ x.tag.toNat ≤ tag.toNat ∧ (x.st = .agree ∨ x.st = .candidate) ∧ tag = x.acked ∧ x.prop = none ∧ mask.contains x.rank = true) ∧
    (∃ (bid : Nat), ∃ (tag : BitVec 32), ∃ (s : State), ∃ (x : Binding), s.dev.partValid bid = true ∧ s.dev.binding bid = some x ∧ tag.toNat < x.tag.toNat) ∧
    (∃ (bid : Nat), ∃ (s : State), ∃ (x : Binding), s.dev.binding bid = some x ∧ x.st = .agree ∧ x.prop = none ∧ 272000 ≤ s.dev.clock.toNat - x.agreeAt) ∧
    (∃ (bid : Nat), ∃ (s : State), ∃ (x : Binding), s.dev.binding bid = some x ∧ x.st = .normal ∧ (∀ r ∈ x.neighbours, s.dev.silent x r = true)) ∧
    (∃ (bid : Nat), ∃ (rank : Nat), ∃ (s : State), ∃ (x : Binding), s.dev.partValid bid = true ∧ s.dev.binding bid = some x ∧ (x.st = .normal ∨ x.st = .agree) ∧ rank < x.f 364 20 ∧ rank ≠ x.rank ∧ x.leads = true) :=
  ⟨⟨0, (yV id), y0, by decide +kernel⟩,
   ⟨0, (yV id), y0, by decide +kernel⟩,
   ⟨0, 1, (yV id), y0, _, pre2 (by decide +kernel) ⟨rfl, by decide +kernel⟩⟩,
   ⟨0, 1, (yV id), y0, by decide +kernel⟩,
   ⟨0, (yV fun y => { y with gather := true }), { y0 with gather := true }, by decide +kernel⟩,
   ⟨0, 7, (yV id), y0, by decide +kernel⟩,
   ⟨0, 1, (yV id), y0, by decide +kernel⟩,
   ⟨0, 1, 7, (yV fun y => { y with st := .agree, prop := some (7, [0, 1]) }), { y0 with st := .agree, prop := some (7, [0, 1]) }, [0, 1], by decide +kernel⟩,
   ⟨0, 1, 9, (yV fun y => { y with st := .agree, prop := some (7, [0, 1]) }), { y0 with st := .agree, prop := some (7, [0, 1]) }, (7, [0, 1]), by decide +kernel⟩,
   ⟨0, (yV fun y => { y with st := .agree, prop := some (7, [0, 1]) }), { y0 with st := .agree, prop := some (7, [0, 1]) }, 7, [0, 1], by decide +kernel⟩,
   ⟨0, 1, [1], (yV fun y => { y with st := .agree }), { y0 with st := .agree }, by decide +kernel⟩,
   ⟨0, 1, [0, 1], (yV fun y => { y with st := .agree }), { y0 with st := .agree }, by decide +kernel⟩,
   ⟨0, 2, (yV fun y => { y with tag := 3 }), { y0 with tag := 3 }, by decide +kernel⟩,
   ⟨0, (yV fun y => { y with st := .agree }), { y0 with st := .agree }, by decide +kernel⟩,
   ⟨0, (yV id), y0, by decide +kernel⟩,
   ⟨0, 1, (yV fun y => { y with rcd := BitVec.ofNat 1024 (2 ^ 364 * 2) }), { y0 with rcd := BitVec.ofNat 1024 (2 ^ 364 * 2) }, by decide +kernel⟩⟩

theorem test_witness_FabricAndCollectives :
    (∃ (bid : Nat), ∃ (chunk : Nat), ∃ (s : State), ∃ (x : Binding), ∃ (c : CollOp), ∃ (bs : List Byte), ∃ (u : St), ∃ (v : St), s.dev.binding bid = some x ∧ x.colls.find? (fun c => c.chunk == chunk && !c.staged) = some c ∧ s.dev.leaves c.uid c.need c.op = true ∧ s.dev.collHere c = true ∧ x.inTaken chunk = false ∧ (x.st = .normal ∨ x.st = .agree) ∧ (x.chunk chunk).flushed = false ∧ (St.of s).collRead x.asid c x.chsz = (bs, u, true) ∧ v = u.areaWrite x.asid (x.inAt chunk) bs) ∧
    (∃ (bid : Nat), ∃ (s : State), ∃ (x : Binding), s.dev.purges (bid / 65536) = false ∧ s.dev.partValid bid = true ∧ s.dev.binding bid = some x) ∧
    (∃ (bid : Nat), ∃ (chunk : Nat), ∃ (s : State), ∃ (x : Binding), ∃ (mask : List Nat), ∃ (bs : List Byte), ∃ (u : St), ∃ (ok : Bool), ∃ (r : Nat), s.dev.binding bid = some x ∧ (x.chunk chunk).reducing = true ∧ (x.chunk chunk).reduced = true ∧ x.st = .normal ∧ mask = (x.chunk chunk).acc.getD [] ++ (if (x.chunk chunk).staged && !(x.chunk chunk).flushed then [x.rank] else []) ∧ (St.of s).areaRead x.asid (x.outAt chunk) x.chsz = (bs, u, ok) ∧ x.above = some r) ∧
    (∃ (bid : Nat), ∃ (chunk : Nat), ∃ (s : State), ∃ (x : Binding), s.dev.binding bid = some x ∧ 1700 * x.f 448 16 ≤ s.dev.clock.toNat - (if x.below.isNone then x.began else (x.chunk chunk).landedAt) ∧ x.reweight = true ∧ x.st = .normal ∧ chunk < x.nch ∧ (x.chunk chunk).staged = false ∧ (x.chunk chunk).flushed = false ∧ (x.chunk chunk).out = none ∧ (x.below = none ∨ (x.chunk chunk).acc.isSome = true)) ∧
    (∃ (bid : Nat), ∃ (s : State), ∃ (x : Binding), s.dev.binding bid = some x) ∧
    (∃ (part : BitVec 12), ∃ (core : Nat), ∃ (rec : BitVec 512), ∃ (s : State), ∃ (p : Partition), ∃ (k : Nat), s.dev.purges part.toNat = false ∧ s.dev.partitions.lookup part.toNat = some p ∧ p.valid = true ∧ p.am = some k ∧ core < 512 ∧ core / 4 % 32 < 18 ∧ recKind rec = 5 ∧ recBad rec = false ∧ recTti rec = 0) ∧
    (∃ (part : BitVec 12), ∃ (s : State), s.dev.purges part.toNat = true) ∧
    (∃ (part : BitVec 12), ∃ (s : State), s.dev.purges part.toNat = false ∧ s.dev.partitions.lookup part.toNat = none) ∧
    (∃ (w : Nat), ∃ (op : Nat), ∃ (s : State), ∃ (t : Transit), w < 2 ^ 20 ∧ s.dev.transit.find? (fun t => t.uid == (s.dev.wave w).uid && t.op == some op && t.rank.isSome && t.gone) = some t ∧ s.dev.purges t.part = false) ∧
    (∃ (w : Nat), ∃ (op : Nat), ∃ (s : State), ∃ (t : Transit), w < 2 ^ 20 ∧ s.dev.transit.find? (fun t => t.uid == (s.dev.wave w).uid && t.op == some op && t.rank.isSome && t.gone) = some t ∧ s.dev.purges t.part = true) ∧
    (∃ (table : List (BitVec 16)), slotsOk table = true) ∧
    (∃ (link : Nat), ∃ (s : State), link < 16 * (1 + 786432) ∧ s.dev.linksDown.contains link = false) ∧
    (∃ (s : State), s.dev.torus ≠ []) :=
  ⟨⟨0, 0, ⟨s1.mem, { s1.dev with bindings := [(0, { y0 with rcd := BitVec.ofNat 1024 (2 ^ 326 + 2 ^ 128 * 0x100000), colls := [⟨1, 0, 0, 0x100000, 0, false, []⟩] })], partitions := [(0, ⟨true, 1, none⟩)] }⟩, { y0 with rcd := BitVec.ofNat 1024 (2 ^ 326 + 2 ^ 128 * 0x100000), colls := [⟨1, 0, 0, 0x100000, 0, false, []⟩] }, ⟨1, 0, 0, 0x100000, 0, false, []⟩, _, _, _, pre7 (by decide +kernel) ⟨ok3 (by decide +kernel), rfl⟩⟩,
   ⟨0, ⟨s1.mem, { s1.dev with bindings := [(0, y0)], partitions := [(0, ⟨true, 1, none⟩)] }⟩, y0, by decide +kernel⟩,
   ⟨0, 0, ⟨s1.mem, { s1.dev with bindings := [(0, { y0 with rcd := BitVec.ofNat 1024 (2 ^ 326 + 2 ^ 128 * 0x100000), chunks := [(0, { Chunk.fresh with reducing := true, reduced := true })] })], partitions := [(0, ⟨true, 1, none⟩)] }⟩, { y0 with rcd := BitVec.ofNat 1024 (2 ^ 326 + 2 ^ 128 * 0x100000), chunks := [(0, { Chunk.fresh with reducing := true, reduced := true })] }, _, _, _, _, 1, pre4 (by decide +kernel) ⟨rfl, proj3 _, by decide +kernel⟩⟩,
   ⟨0, 0, ⟨s1.mem, { s1.dev with bindings := [(0, { y0 with rcd := BitVec.ofNat 1024 (2 ^ 468) })], partitions := [(0, ⟨true, 1, none⟩)] }⟩, { y0 with rcd := BitVec.ofNat 1024 (2 ^ 468) }, by decide +kernel⟩,
   ⟨0, ⟨s1.mem, { s1.dev with bindings := [(0, y0)], partitions := [(0, ⟨true, 1, none⟩)] }⟩, y0, by decide +kernel⟩,
   ⟨5, 0, (BitVec.ofNat 512 (5 * 2 ^ 140)), (dv fun d => { d with partitions := [(5, ⟨true, 1, some 2⟩)] }), ⟨true, 1, some 2⟩, 2, by decide +kernel⟩,
   ⟨5, (dv fun d => { d with slotTabs := [(0, [BitVec.ofNat 16 (2 ^ 15 + 5)])] }), by decide +kernel⟩,
   ⟨5, s0, by decide +kernel⟩,
   ⟨0, 3, (dv fun d => { d with transit := [⟨0, 0, 1, 0, 0, some 3, some 7, false, false, false, [], 0, 0, true⟩] }), ⟨0, 0, 1, 0, 0, some 3, some 7, false, false, false, [], 0, 0, true⟩, by decide +kernel⟩,
   ⟨0, 3, (dv fun d => { d with transit := [⟨0, 0, 1, 0, 0, some 3, some 7, false, false, false, [], 0, 0, true⟩], slotTabs := [(0, [BitVec.ofNat 16 (2 ^ 15)])] }), ⟨0, 0, 1, 0, 0, some 3, some 7, false, false, false, [], 0, 0, true⟩, by decide +kernel⟩,
   ⟨((List.range 256).map fun k => if k = 0 ∨ k = 128 then 0xC000 else 0), by decide +kernel⟩,
   ⟨5, s0, by decide +kernel⟩,
   ⟨(dv fun d => { d with torus := [1] }), by decide +kernel⟩⟩

theorem test_witness_LinkPowerAndReset :
    (∃ (lanes : Nat), ∃ (s : State), s.dev.link = .detect ∧ 4 ≤ lanes ∧ lanes ≤ 16) ∧
    (∃ (s : State), s.dev.link = .down) ∧
    (∃ (s : State), s.dev.link = .train) ∧
    (∃ (width : Nat), ∃ (rate : Nat), ∃ (s : State), (s.dev.link = .negotiate ∨ (s.dev.link = .retrain ∧ s.dev.retrainLost = false)) ∧ 4 ≤ width ∧ rate ≤ 2) ∧
    (∃ (s : State), s.dev.link = .active) ∧
    (∃ (ok : Bool), ∃ (s : State), s.dev.link = .retrain ∧ s.dev.retrainLost = false ∧ ok = true) ∧
    (∃ (ok : Bool), ∃ (s : State), s.dev.link = .retrain ∧ s.dev.retrainLost = false ∧ ok = false) ∧
    (∃ (s : State), s.dev.link = .retrain ∧ s.dev.retrainLost = true) ∧
    (∃ (s : State), (St.of s).idle = true ∧ s.dev.power < s.dev.deepest ∧ s.dev.deepest < 3) ∧
    (∃ (s : State), (St.of s).idle = true ∧ s.dev.power < 3 ∧ s.dev.deepest = 3) ∧
    (∃ (s : State), s.dev.power ≠ 0 ∧ (∃ e ∈ s.dev.lqs, e.2 ≠ [])) ∧
    (∃ (struct : BitVec 8), ∃ (die : BitVec 8), ∃ (s : State), s.dev.stopped = false ∧ die.toNat ≤ 4 ∧ struct.toNat ≤ 8) ∧
    (∃ (nonce : List (BitVec 8)), nonce.length = 32) ∧
    (∃ (s : State), s.inv) :=
  ⟨⟨7, (dv fun d => { d with link := .detect }), by decide +kernel⟩,
   ⟨(dv fun d => { d with link := .down }), by decide +kernel⟩,
   ⟨(dv fun d => { d with link := .train }), by decide +kernel⟩,
   ⟨4, 2, (dv fun d => { d with link := .negotiate }), by decide +kernel⟩,
   ⟨lU, by decide +kernel⟩,
   ⟨true, (dv fun d => { d with link := .retrain }), by decide +kernel⟩,
   ⟨false, (dv fun d => { d with link := .retrain }), by decide +kernel⟩,
   ⟨(dv fun d => { d with link := .retrain, retrainFails := [0, 0, 0] }), by decide +kernel⟩,
   ⟨(dv fun d => { d with blocks := [], waves := [], hreg := [(0x18, 2000)] }), by decide +kernel⟩,
   ⟨(dv fun d => { d with blocks := [], waves := [], hreg := [(0x18, 2000000)] }), by decide +kernel⟩,
   ⟨(dv fun d => { d with power := 2, lqs := [(0, [⟨0⟩])] }), by decide +kernel, ⟨_, List.mem_singleton.mpr rfl, by decide⟩⟩,
   ⟨0, 4, s0, by decide +kernel⟩,
   ⟨(List.replicate 32 0), by decide +kernel⟩,
   ⟨State.reset, rfl⟩⟩

theorem test_witness_HostRegisters :
    (∃ (s : State), s.dev.linkUp = true) ∧
    (∃ (v : BitVec 64), ∃ (s : State), s.dev.linkUp = true ∧ field v.toNat 16 12 ≠ 0 ∧ v.getLsbD 63 = true ∧ s.dev.partitions.lookup (field v.toNat 16 12) = none) ∧
    (∃ (v : BitVec 64), ∃ (s : State), s.dev.linkUp = true ∧ v.getLsbD 63 = false) ∧
    (∃ (v : BitVec 64), ∃ (s : State), s.dev.linkUp = true ∧ v.getLsbD 63 = true ∧ (s.dev.launch (field v.toNat 16 12)).used = false) ∧
    (∃ (v : BitVec 64), ∃ (s : State), ∃ (l : Launch), s.dev.linkUp = true ∧ v.getLsbD 63 = true ∧ l = s.dev.launch (field v.toNat 16 12) ∧ l.used = true ∧ l.admitted = true ∧ l.aborted = false ∧ l.asid = v.toNat % 65536 ∧ (s.dev.partOf l.asid).isSome = true) ∧
    (∃ (v : BitVec 64), ∃ (s : State), s.dev.linkUp = true ∧ v.toNat % 32 ≤ 20) ∧
    (∃ (q : Nat), ∃ (s : State), s.dev.linkUp = true ∧ q < 16) ∧
    (∃ (ofs : Nat), ∃ (s : State), s.dev.linkUp = true ∧ (ofs = 0x28 ∨ ofs = 0x30)) ∧
    (∃ (ofs : Nat), ∃ (s : State), s.dev.linkUp = true ∧ (ofs = 0x50 ∨ (0x108 ≤ ofs ∧ ofs < 0x208 ∧ ofs % 16 = 8))) ∧
    (∃ (v : BitVec 64), ∃ (s : State), s.dev.linkUp = false ∧ s.dev.link ≠ .retrain ∧ ∃ (q : Nat), ∃ (ofs : Nat), ∃ i, i ∈ [Instr.ltol v, .evt, .platd v, .partsetAssign v, .partsetRemove v, .amreg v, .ntfbase v, .ntflog v, .ntfhead v, .lqrec q v, .registerWrite ofs v]) ∧
    (∃ (v : BitVec 64), ∃ (s : State), ∃ (q : Nat), ∃ (ofs : Nat), s.dev.link = .retrain ∧ q < 16 ∧ (ofs = 0x28 ∨ ofs = 0x30 ∨ ofs = 0x50 ∨ ofs = 0x108 + 16 * q) ∧ ∃ e, e ∈ [(Instr.ltol v, true, 0x18, v), (.evt, false, 0x38, 0), (.platd v, true, 0x10, v), (.amreg v, true, 0x48, v), (.ntfbase v, true, 0x58, v),
      (.ntflog v, true, 0x60, v), (.ntfhead v, true, 0x68, v), (.lqrec q v, true, 0x100 + 16 * q, v), (.registerWrite ofs v, true, ofs, v),
      (if v.getLsbD 63 then Instr.partsetAssign v else .partsetRemove v, true, 0x40, v)]) :=
  ⟨⟨lU, by decide +kernel⟩,
   ⟨(2 ^ 63 + 2 ^ 16), lU, by decide +kernel⟩,
   ⟨0, lU, by decide +kernel⟩,
   ⟨(2 ^ 63), lU, by decide +kernel⟩,
   ⟨(2 ^ 63 + 1), (dv fun d => { d with link := .active, launches := [(0, la0)], partitions := [(5, ⟨true, 1, none⟩)] }), la0, by decide +kernel⟩,
   ⟨20, lU, by decide +kernel⟩,
   ⟨15, (dv fun d => { d with link := .active, contexts := [(0, k0)] }), by decide +kernel⟩,
   ⟨0x30, lU, by decide +kernel⟩,
   ⟨0x1F8, lU, by decide +kernel⟩,
   ⟨0, s0, pre2 (by decide +kernel) ⟨0, 0, .evt, by decide +kernel⟩⟩,
   ⟨0, (dv fun d => { d with link := .retrain }), 15, 0x1F8, pre3 (by decide +kernel) ⟨(.evt, false, 0x38, 0), by simp⟩⟩⟩

theorem test_witness_ServicesAndModules :
    (∃ (w : Nat), ∃ (s : State), ∃ (x : Wave), ∃ (act : Lanes), (s.dev.link = .active ∨ s.dev.ringRoom (s.dev.block x.blk).asid = false) ∧ s.dev.caller w 1 = some (x, act)) ∧
    (∃ (w : Nat), ∃ (s : State), ∃ (x : Wave), ∃ (act : Lanes), s.dev.link = .active ∧ s.dev.caller w 1 = some (x, act)) ∧
    (∃ (w : Nat), ∃ (s : State), ∃ (x : Wave), ∃ (act : Lanes), s.dev.caller w 2 = some (x, act)) ∧
    (∃ (w : Nat), ∃ (s : State), ∃ (x : Wave), ∃ (act : Lanes), s.dev.caller w 3 = some (x, act)) ∧
    (∃ (w : Nat), ∃ (s : State), ∃ (x : Wave), ∃ (act : Lanes), s.dev.caller w 4 = some (x, act)) ∧
    (∃ (asid : BitVec 16), ∃ (idx : Nat), ∃ (base : BitVec 64), ∃ (file : Nat), ∃ (len : Nat), ∃ (s : State), ∃ (c : Context), ∃ (r : List Byte × List (List Byte × W64)), c = s.dev.ctx asid.toNat ∧ c.live = true ∧ idx < 256 ∧ (c.modules.get Module.free idx).state = 0 ∧ (⟨file, len⟩ : Hxo).load s.dev asid.toNat base.toNat = some r ∧ (St.of s).areaMapped asid.toNat (r.1.length / 65536 + 2) base.toNat r.1.length = true) ∧
    (∃ (asid : BitVec 16), ∃ (idx : Nat), ∃ (base : BitVec 64), ∃ (s : State), ∃ (m : Module), (s.dev.ctx asid.toNat).live = true ∧ idx < 256 ∧ m = (s.dev.ctx asid.toNat).modules.get Module.free idx ∧ m.state = 1 ∧ m.base = base) ∧
    (∃ (asid : BitVec 16), ∃ (idx : Nat), ∃ (base : BitVec 64), ∃ (file : Nat), ∃ (len : Nat), ∃ (s : State), ((s.dev.ctx asid.toNat).modules.get Module.free idx).state = 0 ∧ (∀ r, (⟨file, len⟩ : Hxo).load s.dev asid.toNat base.toNat = some r → (St.of s).areaMapped asid.toNat (r.1.length / 65536 + 2) base.toNat r.1.length = false)) ∧
    (∃ (asid : BitVec 16), ∃ (idx : Nat), ∃ (s : State), ∃ (c : Context), c = s.dev.ctx asid.toNat ∧ c.live = true ∧ (c.modules.get Module.free idx).state = 2 ∧ (∀ e ∈ s.dev.launches, e.2.used = true → e.2.admitted = true → e.2.asid ≠ asid.toNat)) ∧
    (∃ (asid : BitVec 16), ∃ (idx : Nat), ∃ (s : State), ∃ (c : Context), c = s.dev.ctx asid.toNat ∧ c.live = true ∧ (c.modules.get Module.free idx).state = 3) :=
  ⟨⟨0, ⟨[], { (xv fun x => { x with parked := true, latch := some { rc0 with cause := 34, v0 := 1 } }).dev with link := .active }⟩, { x0 with parked := true, latch := some { rc0 with cause := 34, v0 := 1 } }, 1, by decide +kernel⟩,
   ⟨0, ⟨[], { (xv fun x => { x with parked := true, latch := some { rc0 with cause := 34, v0 := 1 } }).dev with link := .active }⟩, { x0 with parked := true, latch := some { rc0 with cause := 34, v0 := 1 } }, 1, by decide +kernel⟩,
   ⟨0, (xv fun x => { x with parked := true, latch := some { rc0 with cause := 34, v0 := 2 } }), { x0 with parked := true, latch := some { rc0 with cause := 34, v0 := 2 } }, 1, by decide +kernel⟩,
   ⟨0, (xv fun x => { x with parked := true, latch := some { rc0 with cause := 34, v0 := 3 } }), { x0 with parked := true, latch := some { rc0 with cause := 34, v0 := 3 } }, 1, by decide +kernel⟩,
   ⟨0, (xv fun x => { x with parked := true, latch := some { rc0 with cause := 34, v0 := 4 } }), { x0 with parked := true, latch := some { rc0 with cause := 34, v0 := 4 } }, 1, by decide +kernel⟩,
   ⟨1, 0, 0x100000, hxo0, 465, s1, (s1.dev.ctx 1), (leBytes 16 (7 + 2 ^ 64 * 0x100005), []), by decide +kernel⟩,
   ⟨1, 0, 0x100000, (dv fun d => { d with contexts := [(1, { k0 with modules := [(0, { Module.free with state := 1, base := 0x100000, size := 16, image := [1] })] })] }), { Module.free with state := 1, base := 0x100000, size := 16, image := [1] }, by decide +kernel⟩,
   ⟨1, 0, 0, 0, 0, s0, by decide +kernel, no_some (by decide +kernel)⟩,
   ⟨1, 0, (dv fun d => { d with contexts := [(1, { k0 with modules := [(0, { Module.free with state := 2, base := 0x100000, size := 16, image := [1] })] })] }), { k0 with modules := [(0, { Module.free with state := 2, base := 0x100000, size := 16, image := [1] })] }, by decide +kernel⟩,
   ⟨1, 0, (dv fun d => { d with contexts := [(1, { k0 with modules := [(0, { Module.free with state := 3, base := 0x100000, size := 16, image := [1] })] })] }), { k0 with modules := [(0, { Module.free with state := 3, base := 0x100000, size := 16, image := [1] })] }, by decide +kernel⟩⟩

theorem test_witness_IntegerMeanings :
    (∃ (n : Nat), ∃ (i : Nat), i < n) ∧
    (∃ (v : Nat), v < 2 ^ 32) :=
  ⟨⟨8, 0, by decide +kernel⟩,
   ⟨0, by decide +kernel⟩⟩

/-! ### Hypotheses that stand inside a statement: what `Wave.settle` finds (R186, R191), a call that spills (R21) -/

/-- Thread 0 runs at the meet address of m0 and thread 1 has not come; thread 2 waits on m1; 3 waits in `MSYNC` for 4; 5 is alone in its own; 6 is DONE
and the only member of m2. -/
def xM : Wave :=
  let t (st : ThSt) (h : Hold) (pc : Addr) : Thread := { Thread.idle with st := st, hold := h, pc := pc }
  { x0 with
    masks := [(0, ⟨3, 0x2000⟩), (1, ⟨6, 0x3000⟩), (2, ⟨64, 0x4000⟩)]
    thr := [(0, t .run .meet 0x2000), (1, t .run .meet 0x1000), (2, t .held (.mwait 1) 0x1000), (3, t .held (.msync 24) 0x1000), (4, t .run .meet 0x1000),
      (5, t .held (.msync 32) 0x1000), (6, t .done .meet 0x1000)] }

theorem test_witness_settle : xM.releasable 2 = true ∧ xM.settle.mask 2 = ⟨0, 0⟩ ∧ xM.settle.mask 0 = ⟨3, 0x2000⟩ ∧
    (xM.settle.thread 0).st = .held ∧ (xM.settle.thread 0).hold = .meet ∧ (xM.settle.thread 1).st = .run ∧
    (xM.settle.thread 2).st = .held ∧ (xM.settle.thread 2).hold = .mwait 1 ∧ (xM.settle.thread 3).st = .held ∧ (xM.settle.thread 3).hold = .msync 24 ∧
    xM.syncFree (xM.thread 3) = false ∧ xM.syncFree (xM.thread 5) = true ∧ (xM.settle.thread 5).st = .run := by decide +kernel

/-- The four entries of the return stack are taken, so a call spills the oldest, 4, at `sr.stkptr` − 8. -/
def sS (k : Option Spill) : State := xv fun x => { x with
  spill := k, thr := [(0, { Thread.idle with pc := 0x1000, st := .run, rs := [1, 2, 3, 4], stkptr := 0x10000000010 })] }

theorem spills_of {s : State} (g : goes c0 { Req.none with srcs := [] } s = true)
    (a : lanesOf (issOf c0 s).act = [0])
    (h : ((s.at' (issOf c0 s) (waveOf c0 s)).xferAcc (issOf c0 s) .call false ((waveOf c0 s).thread 0)).toOption = some (some (.scratch 0 8)))
    (P : Iss → Wave → (Nat → Option Place) → Prop) (hp : P (issOf c0 s) (waveOf c0 s) (fun _ => some (.scratch 0 8))) :
    ∃ (i : Iss) (x : Wave) (p : Nat → Option Place), Goes c0 { Req.none with srcs := [] } s i x ∧
      (∀ l, i.act.getLsbD l = true → (s.at' i x).xferAcc i .call false (x.thread l) = .ok (p l)) ∧ spillsOf i x .call false p ≠ [] ∧ P i x p :=
  ⟨_, _, _, goes_of g, one_act a (ok_of h), by unfold spillsOf; rw [if_pos rfl, a]; simp, hp⟩

theorem test_witness_spills_first : ∃ (i : Iss) (x : Wave) (p : Nat → Option Place), Goes c0 { Req.none with srcs := [] } (sS none) i x ∧
    (∀ l, i.act.getLsbD l = true → ((sS none).at' i x).xferAcc i .call false (x.thread l) = .ok (p l)) ∧ spillsOf i x .call false p ≠ [] ∧
    x.spill.filter (·.ws == spillKeys (spillsOf i x .call false p)) = none :=
  spills_of (by decide +kernel) (by decide +kernel) (by decide +kernel) (fun i x p => x.spill.filter (·.ws == spillKeys (spillsOf i x .call false p)) = none)
    (by decide +kernel)

theorem test_witness_spills_over : ∃ (i : Iss) (x : Wave) (p : Nat → Option Place), Goes c0 { Req.none with srcs := [] } (sS (some ⟨[(0x10000000008, 4)], 0, 1, []⟩)) i x ∧
    (∀ l, i.act.getLsbD l = true → ((sS (some ⟨[(0x10000000008, 4)], 0, 1, []⟩)).at' i x).xferAcc i .call false (x.thread l) = .ok (p l)) ∧
    spillsOf i x .call false p ≠ [] ∧ (x.spill.filter (·.ws == spillKeys (spillsOf i x .call false p))).map (·.lost) = some [] :=
  spills_of (by decide +kernel) (by decide +kernel) (by decide +kernel)
    (fun i x p => (x.spill.filter (·.ws == spillKeys (spillsOf i x .call false p))).map (·.lost) = some []) (by decide +kernel)

theorem test_witness_spills_lost : ∃ (i : Iss) (x : Wave) (p : Nat → Option Place),
    Goes c0 { Req.none with srcs := [] } (sS (some ⟨[(0x10000000008, 4)], 0, 1, [0x10000000008]⟩)) i x ∧
    (∀ l, i.act.getLsbD l = true → ((sS (some ⟨[(0x10000000008, 4)], 0, 1, [0x10000000008]⟩)).at' i x).xferAcc i .call false (x.thread l) = .ok (p l)) ∧
    spillsOf i x .call false p ≠ [] ∧ (x.spill.filter (·.ws == spillKeys (spillsOf i x .call false p))).map (·.lost) = some [0x10000000008] :=
  spills_of (by decide +kernel) (by decide +kernel) (by decide +kernel)
    (fun i x p => (x.spill.filter (·.ws == spillKeys (spillsOf i x .call false p))).map (·.lost) = some [0x10000000008]) (by decide +kernel)

end Sys2Proof.Tests
end

section
/-! SUPPORT AND PROOF. The bytes that a store leaves (O39): those of its writes, by address; the places that its checks give; and the access of
an instruction that stores, performed or held. -/

namespace Sys2Proof.Machine

/-! ### Bytes written, by address -/

/-- The keys of a table rise (R144: each byte stands once). -/
def Tab.Rising {α : Type} (t : Tab α) : Prop := t.Pairwise (fun e f => e.1 < f.1)

theorem Tab.mem_put {α : Type} {t : Tab α} {a : Nat} {v : α} {e : Nat × α} (h : e ∈ t.put a v) : e = (a, v) ∨ e ∈ t := by
  induction t with
  | nil => exact .inl (List.mem_singleton.mp h)
  | cons c r ih =>
    obtain ⟨k, x⟩ := c
    simp only [Tab.put] at h
    split at h
    · exact List.mem_cons.mp h
    · split at h
      · exact (List.mem_cons.mp h).imp_right (List.mem_cons_of_mem _)
      · rcases List.mem_cons.mp h with h | h
        · exact .inr (h ▸ List.mem_cons_self ..)
        · exact (ih h).imp_right (List.mem_cons_of_mem _)

theorem Tab.Rising.put {α : Type} {t : Tab α} (h : t.Rising) (a : Nat) (v : α) : (t.put a v).Rising := by
  induction t with
  | nil => exact List.pairwise_singleton ..
  | cons c r ih =>
    obtain ⟨k, x⟩ := c
    obtain ⟨hk, hr⟩ := List.pairwise_cons.mp h
    simp only [Tab.put]
    split
    · next hak =>
      refine List.pairwise_cons.mpr ⟨fun e he => ?_, h⟩
      rcases List.mem_cons.mp he with he | he
      · exact he ▸ hak
      · exact Nat.lt_trans hak (hk e he)
    · split
      · next hak => exact List.pairwise_cons.mpr ⟨fun e he => hak ▸ hk e he, hr⟩
      · refine List.pairwise_cons.mpr ⟨fun e he => ?_, ih hr⟩
        rcases Tab.mem_put he with he | he
        · subst he; show k < a; omega
        · exact hk e he

theorem Tab.lookup_put {α : Type} (t : Tab α) (a b : Nat) (v : α) :
    (t.put a v).lookup b = if b = a then some v else t.lookup b := by
  induction t with
  | nil => simp only [Tab.put, List.lookup_cons, List.lookup_nil]; split <;> simp_all
  | cons c r ih =>
    obtain ⟨k, x⟩ := c
    simp only [Tab.put]
    split
    · simp only [List.lookup_cons (k := a)]; split <;> simp_all
    · split
      · next h => subst h; simp only [List.lookup_cons]; split <;> simp_all
      · simp only [List.lookup_cons, ih]; split <;> split <;> simp_all

/-- Bytes written one after another, no address twice: each stands in the log, before what was written earlier. -/
theorem lookup_foldl_wr {cs : Tab Byte} (h : cs.Rising) (s : St) (a : Nat) :
    (cs.foldl (fun s c => s.wr c.1 c.2) s).log.lookup a = (cs.lookup a).or (s.log.lookup a) := by
  induction cs generalizing s with
  | nil => rfl
  | cons c r ih =>
    obtain ⟨k, v⟩ := c
    obtain ⟨hc, hr⟩ := List.pairwise_cons.mp h
    rw [List.foldl_cons, ih hr]
    simp only [St.wr, List.lookup_cons]
    by_cases e : a = k
    · subst e
      have : r.lookup a = none := List.lookup_eq_none_iff.mpr fun f hf => by simpa using Nat.ne_of_lt (hc f hf)
      simp [this]
    · have : (a == k) = false := by simpa using e
      simp only [this]

/-! ### The byte that the last of some writes leaves -/

/-- The byte at `a` that one write (address, length, value) leaves, little-endian (R3). -/
def byteOf (w : Nat × Nat × Nat) (a : Nat) : Option Byte :=
  if w.1 ≤ a ∧ a < w.1 + w.2.1 then some (BitVec.ofNat 8 (w.2.2 / 256 ^ (a - w.1))) else none

theorem lastByte_cons (w : Nat × Nat × Nat) (ws : List (Nat × Nat × Nat)) (a : Nat) :
    lastByte (w :: ws) a = (lastByte ws a).or (byteOf w a) := by
  unfold lastByte byteOf
  rw [List.reverse_cons, List.find?_append, Option.map_or]
  congr 1
  by_cases h : w.1 ≤ a ∧ a < w.1 + w.2.1
  · simp [h]
  · rw [if_neg h, List.find?_singleton, if_neg (by simpa using h)]; rfl

theorem lastByte_eq_none {ws : List (Nat × Nat × Nat)} {a : Nat} (h : ∀ w ∈ ws, byteOf w a = none) : lastByte ws a = none := by
  induction ws with
  | nil => rfl
  | cons w r ih =>
    rw [lastByte_cons, ih fun v hv => h v (List.mem_cons_of_mem _ hv), h w (List.mem_cons_self ..)]; rfl

/-- The cells of a number put into a table: its bytes stand, the others stay. -/
theorem lookup_put_cells (a n v b : Nat) (t : Tab Byte) :
    ((cellsOf a n v).foldl (fun t c => Tab.put t c.1 c.2) t).lookup b = (byteOf (a, n, v) b).or (t.lookup b) := by
  induction n generalizing a v t with
  | zero => simp only [cellsOf, List.foldl_nil, byteOf]; rw [if_neg (by omega)]; rfl
  | succ n ih =>
    simp only [cellsOf, List.foldl_cons, ih, Tab.lookup_put, byteOf]
    by_cases h : b = a
    · subst h
      rw [if_neg (by omega), if_pos rfl, if_pos ⟨Nat.le_refl b, by omega⟩, Nat.sub_self, Nat.pow_zero, Nat.div_one]
      rfl
    · rw [if_neg h]
      by_cases hb : a + 1 ≤ b ∧ b < a + 1 + n
      · have hp : b - a = b - (a + 1) + 1 := by omega
        rw [if_pos hb, if_pos (by omega), hp, Nat.pow_succ', Nat.div_div_eq_div_mul]
      · rw [if_neg hb, if_neg (by omega)]

/-! ### The bytes of a store's writes -/

/-- A write at a place, by the place's address in memory. -/
def writeAt (d : Device) (w : Place × Nat × Nat) : Nat × Nat × Nat := (w.1.key d, w.2)

/-- Writes that do not reach a byte leave it to the others. -/
theorem lastByte_filter {d : Device} {ws : List (Place × Nat × Nat)} {p : Place × Nat × Nat → Bool} {a : Nat}
    (h : ∀ w ∈ ws, p w = false → byteOf (writeAt d w) a = none) :
    lastByte ((ws.filter p).map (writeAt d)) a = lastByte (ws.map (writeAt d)) a := by
  induction ws with
  | nil => rfl
  | cons w r ih =>
    have hr := ih fun v hv => h v (List.mem_cons_of_mem _ hv)
    rw [List.map_cons, lastByte_cons]
    by_cases hp : p w
    · rw [List.filter_cons_of_pos hp, List.map_cons, lastByte_cons, hr]
    · rw [List.filter_cons_of_neg hp, hr, h w (List.mem_cons_self ..) (by simpa using hp), Option.or_none]

/-- The bytes that `bytesOf` gathers are those that the last write to each leaves (R144). -/
theorem lookup_bytesOf (d : Device) (ws : List (Place × Nat × Nat)) (f : Place → Bool) (a : Nat) :
    (bytesOf d ws f).lookup a = lastByte ((ws.filter (fun w => f w.1)).map (writeAt d)) a := by
  have go : ∀ (ws : List (Place × Nat × Nat)) (t : Tab Byte),
      (ws.foldl (fun t w => (cellsOf (w.1.key d) w.2.1 w.2.2).foldl (fun t c => Tab.put t c.1 c.2) t) t).lookup a =
        (lastByte (ws.map (writeAt d)) a).or (t.lookup a) := by
    intro ws
    induction ws with
    | nil => exact fun _ => rfl
    | cons w r ih =>
      intro t
      rw [List.foldl_cons, ih, lookup_put_cells, List.map_cons, lastByte_cons, Option.or_assoc]; rfl
  exact (go _ []).trans (by simp)

theorem rising_bytesOf (d : Device) (ws : List (Place × Nat × Nat)) (f : Place → Bool) : Tab.Rising (bytesOf d ws f) := by
  have cells : ∀ (cs : List Host.Cell) (t : Tab Byte), t.Rising → (cs.foldl (fun t c => Tab.put t c.1 c.2) t).Rising := by
    intro cs
    induction cs with
    | nil => exact fun _ h => h
    | cons c r ih => exact fun t h => ih _ (h.put c.1 c.2)
  have go : ∀ (ws : List (Place × Nat × Nat)) (t : Tab Byte), t.Rising →
      (ws.foldl (fun t w => (cellsOf (w.1.key d) w.2.1 w.2.2).foldl (fun t c => Tab.put t c.1 c.2) t) t).Rising := by
    intro ws
    induction ws with
    | nil => exact fun _ h => h
    | cons w r ih => exact fun t h => ih _ (cells _ t h)
  exact go _ [] List.Pairwise.nil

/-- A place in device memory. -/
def Place.isDev : Place → Bool
  | .dev _ _ => true
  | _ => false

theorem foldl_log {α : Type} (f : St → α → St) (hf : ∀ s a, (f s a).log = s.log) (ls : List α) (s : St) :
    (ls.foldl f s).log = s.log := by
  induction ls generalizing s with
  | nil => rfl
  | cons a r ih => rw [List.foldl_cons, ih, hf]

theorem meetAt_log (s : St) (core : Nat) (p : Place) : (s.meetAt core p).log = s.log := by cases p <;> rfl

theorem publish_log (s : St) (e ln : Nat) (cs : List Host.Cell) : (s.publish e ln cs).log = s.log :=
  foldl_log _ (by intros; rfl) _ _

/-- Bytes of one line written: they stand in the log. -/
theorem lookup_wrLine {cs : Tab Byte} (h : cs.Rising) (s : St) (die ln a : Nat) :
    (s.wrLine die ln cs).log.lookup a = (cs.lookup a).or (s.log.lookup a) := by
  unfold St.wrLine
  dsimp only
  rw [lookup_foldl_wr h]
  split
  · rfl
  · rw [publish_log]; rfl

/-- The bytes of a table that lie in a line. -/
theorem lookup_filter_line (t : Tab Byte) (ln a : Nat) :
    (t.filter (fun c => lineOf c.1 == ln)).lookup a = if lineOf a = ln then t.lookup a else none := by
  induction t with
  | nil => simp
  | cons c r ih =>
    obtain ⟨k, v⟩ := c
    by_cases h : lineOf k = ln
    · rw [List.filter_cons_of_pos (by simpa using h), List.lookup_cons, List.lookup_cons, ih]
      by_cases e : a = k
      · subst e; simp [h]
      · have : (a == k) = false := by simpa using e
        simp only [this]
    · rw [List.filter_cons_of_neg (by simpa using h), ih, List.lookup_cons]
      by_cases e : a = k
      · subst e; simp [h]
      · have : (a == k) = false := by simpa using e
        simp only [this]

/-- Bytes written line by line stand in the log when their lines are among those written. -/
theorem lookup_lines {t : Tab Byte} (h : t.Rising) (die : Nat) (lines : List Nat) (s : St) (a : Nat) :
    (lines.foldl (fun s ln => s.wrLine die ln (t.filter (fun c => lineOf c.1 == ln))) s).log.lookup a =
      (if lineOf a ∈ lines then t.lookup a else none).or (s.log.lookup a) := by
  induction lines generalizing s with
  | nil => simp
  | cons ln r ih =>
    rw [List.foldl_cons, ih, lookup_wrLine (List.Pairwise.filter _ h), lookup_filter_line]
    by_cases e : lineOf a = ln
    · by_cases m : lineOf a ∈ r
      · rw [if_pos m, if_pos e, if_pos (List.mem_cons_of_mem _ m), ← Option.or_assoc, Option.or_self]
      · rw [if_neg m, if_pos e, if_pos (e ▸ List.mem_cons_self ..)]; rfl
    · simp [e]

theorem lookup_all_lines {t : Tab Byte} (a : Nat) :
    (if lineOf a ∈ (t.map (fun c => lineOf c.1)).eraseDups then t.lookup a else none) = t.lookup a := by
  split
  · rfl
  · next h =>
    refine (List.lookup_eq_none_iff.mpr fun c hc => ?_).symm
    rw [bne_iff_ne]
    rintro rfl
    exact h (List.mem_eraseDups.mpr (List.mem_map.mpr ⟨c, hc, rfl⟩))

/-- What the writes of one instruction leave in the log: those outside device memory after those in it. -/
theorem lookup_storeAll_split (s : St) (core : Nat) (ws : List (Place × Nat × Nat)) (a : Nat) :
    (s.storeAll core ws).log.lookup a =
      ((bytesOf s.d ws (fun p => !p.isDev)).lookup a).or (((bytesOf s.d ws Place.isDev).lookup a).or (s.log.lookup a)) := by
  unfold St.storeAll
  simp only [St.withD_fields]
  rw [lookup_foldl_wr (rising_bytesOf ..), lookup_lines (rising_bytesOf ..), lookup_all_lines]
  rw [foldl_log _ (fun s (w : Place × Nat × Nat) => meetAt_log s core w.1) ws s]
  refine congrArg (fun f => ((bytesOf s.d ws f).lookup a).or (((bytesOf s.d ws Place.isDev).lookup a).or (s.log.lookup a))) ?_
  funext p
  cases p <;> rfl

/-- Where the writes outside device memory lie above those in it, the log holds at each byte what the last of all writes leaves. -/
theorem lookup_storeAll {s : St} {core : Nat} {ws : List (Place × Nat × Nat)} {a m : Nat}
    (hdev : ∀ w ∈ ws, w.1.isDev = true → w.1.key s.d + w.2.1 ≤ m) (hrest : ∀ w ∈ ws, w.1.isDev = false → m ≤ w.1.key s.d) :
    (s.storeAll core ws).log.lookup a = (lastByte (ws.map (writeAt s.d)) a).or (s.log.lookup a) := by
  rw [lookup_storeAll_split, lookup_bytesOf, lookup_bytesOf, ← Option.or_assoc]
  congr 1
  by_cases ha : a < m
  · have away : ∀ w ∈ ws, w.1.isDev = false → byteOf (writeAt s.d w) a = none := fun w hw hd =>
      if_neg (by have := hrest w hw hd; simp only [writeAt]; omega)
    rw [lastByte_filter (p := fun w => w.1.isDev) away, lastByte_eq_none, Option.none_or]
    intro v hv
    obtain ⟨w, hw, rfl⟩ := List.mem_map.mp hv
    obtain ⟨hw, hd⟩ := List.mem_filter.mp hw
    exact away w hw (by simpa using hd)
  · have away : ∀ w ∈ ws, w.1.isDev = true → byteOf (writeAt s.d w) a = none := fun w hw hd =>
      if_neg (by have := hdev w hw hd; simp only [writeAt]; omega)
    rw [lastByte_filter (p := fun w => !w.1.isDev) (fun w hw hd => away w hw (by simpa using hd)),
      lastByte_eq_none (ws := (ws.filter (fun w => w.1.isDev)).map (writeAt s.d)), Option.or_none]
    intro v hv
    obtain ⟨w, hw, rfl⟩ := List.mem_map.mp hv
    obtain ⟨hw, hd⟩ := List.mem_filter.mp hw
    exact away w hw hd

/-! ### The places that the checks of an access give -/

/-- The address of a place in host memory is one of host memory's region (R301). -/
def Place.Regioned : Place → Prop
  | .host pa => Machine.isHost pa = true
  | _ => True

/-- Host memory lies above device memory (R301), and scratchpads stand above both in `mem`. -/
theorem Place.Regioned.le_key {p : Place} (h : p.Regioned) (hp : p.isDev = false) (d : Device) : 2 ^ 51 ≤ p.key d := by
  cases p with
  | scratch b o => simp only [Place.key, scratchBase]; omega
  | dev pa pte => exact absurd hp (by simp [Place.isDev])
  | host pa => simpa [Place.Regioned, Machine.isHost, Place.key] using h

theorem locate_regioned {s : St} {blk : Nat} {ea : W64} {a : Acc} {p : Place} (h : s.locate blk ea a = .ok p) : p.Regioned := by
  unfold St.locate St.locateBy at h
  dsimp only at h
  split at h
  · cases h
  · split at h
    · split at h
      · cases h
      · split at h
        · cases h
        · cases h; trivial
    · split at h
      · cases h
      · split at h
        · cases h
        · split at h
          · next hh => cases h; exact hh
          · cases h; trivial

/-- A check that passes gives the place to which the address leads. -/
theorem check_ok {s : St} {blk : Nat} {ea : W64} {size al : Nat} {a : Acc} {tile : Bool} {p : Place} (h : s.check blk ea size al a tile = .ok p) :
    s.locate blk ea a = .ok p := by
  unfold St.check at h
  split at h
  · cases h
  · split at h
    · cases h
    · next q hq =>
      cases q with
      | scratch k o =>
        dsimp only at h
        split at h
        · cases h
        · split at h
          · unfold St.tileCheck at h
            dsimp only at h
            split at h
            · split at h
              · cases h; exact hq
              · cases h
            · cases h; exact hq
          · cases h; exact hq
      | dev pa pte => cases h; exact hq
      | host pa => cases h; exact hq

theorem mem_successes {ε α : Type} {ls : List Nat} {f : Nat → Except ε α} {l : Nat} {p : α}
    (h : (l, p) ∈ successes (ls.map (fun l => (l, f l)))) : f l = .ok p := by
  obtain ⟨⟨k, r⟩, hk, hr⟩ := List.mem_filterMap.mp h
  obtain ⟨j, -, hj⟩ := List.mem_map.mp hk
  cases hj
  dsimp only at hr
  split at hr
  · next q hq => cases hr; exact hq
  · cases hr

/-- What checks that pass give: each lane's place, and a state in which the translations used stay cached. -/
theorem checks_ok {s u : St} {i : Iss} {ls : List Nat} {ea : Nat → W64} {size al : Nat} {a : Acc} {tile : Bool} {ps : List (Nat × Place)}
    (h : s.checks i ls ea size al a tile = .ok (ps, u)) :
    ps = successes (ls.map (fun l => (l, s.check i.blk (ea l) size al a tile))) ∧
      u = s.walked i ea ((ps.filter (!·.2.isScratch)).map (·.1)) := by
  unfold St.checks at h
  dsimp only at h
  split at h
  · cases h
  · cases h; exact ⟨rfl, rfl⟩

theorem checks_place {s u : St} {i : Iss} {ls : List Nat} {ea : Nat → W64} {size al : Nat} {a : Acc} {tile : Bool} {ps : List (Nat × Place)}
    (h : s.checks i ls ea size al a tile = .ok (ps, u)) {l : Nat} {p : Place} (hp : (l, p) ∈ ps) :
    s.check i.blk (ea l) size al a tile = .ok p := mem_successes ((checks_ok h).1 ▸ hp)

theorem checks_regioned {s u : St} {i : Iss} {ls : List Nat} {ea : Nat → W64} {size al : Nat} {a : Acc} {tile : Bool} {ps : List (Nat × Place)}
    (h : s.checks i ls ea size al a tile = .ok (ps, u)) {p : Nat × Place} (hp : p ∈ ps) : p.2.Regioned :=
  locate_regioned (check_ok (checks_place h hp))

theorem cacheTlb_keeps (s : St) (slice asid va : Nat) :
    (s.cacheTlb slice asid va).log = s.log ∧ (s.cacheTlb slice asid va).d.waves = s.d.waves := by
  unfold St.cacheTlb
  split
  · exact ⟨rfl, rfl⟩
  · split <;> exact ⟨rfl, rfl⟩

/-- Translations that are cached write no byte, and of the wave they change `walking` only. -/
theorem walked_keeps (s : St) (i : Iss) (ea : Nat → W64) (ls : List Nat) :
    (s.walked i ea ls).log = s.log ∧ ((s.walked i ea ls).d.wave i.w = s.d.wave i.w ∨
      (s.walked i ea ls).d.wave i.w = { s.d.wave i.w with walking := true }) := by
  have cached : ∀ (ls : List Nat) (t : St), (ls.foldl (fun s l => s.cacheTlb (sliceOf i.core) i.asid (ea l).toNat) t).log = t.log ∧
      (ls.foldl (fun s l => s.cacheTlb (sliceOf i.core) i.asid (ea l).toNat) t).d.waves = t.d.waves := by
    intro ls
    induction ls with
    | nil => exact fun _ => ⟨rfl, rfl⟩
    | cons l r ih =>
      intro t
      obtain ⟨h1, h2⟩ := cacheTlb_keeps t (sliceOf i.core) i.asid (ea l).toNat
      exact ⟨(ih _).1.trans h1, (ih _).2.trans h2⟩
  obtain ⟨hl, hw⟩ := cached ls s
  unfold St.walked
  dsimp only
  split
  · exact ⟨rfl, .inl rfl⟩
  · refine ⟨hl, .inr ?_⟩
    rw [(St.withD_fields _ _).1, Device.wave_setWave, if_pos rfl, Device.wave, hw]; rfl

/-! ### Handlers that go on -/

/-- A handler goes on by its frame and its threads alone. -/
theorem HandlerGoesOn.congr {x y : Wave} (h : HandlerGoesOn x) (hf : y.frame = x.frame) (ht : y.thr = x.thr) : HandlerGoesOn y := by
  intro f e
  obtain ⟨l, hl, hb, hd⟩ := h f (hf ▸ e)
  exact ⟨l, hl, hb, by rwa [Wave.thread, ht]⟩

theorem HandlerGoesOn.addWrites {x : Wave} (h : HandlerGoesOn x) (op : Option Nat) (late : Bool) (ws : List (Nat × Place)) :
    HandlerGoesOn (x.addWrites op late ws) :=
  h.congr (Wave.foldl_keeps Wave.frame _ (by intros; rfl) ws x) (Wave.foldl_keeps Wave.thr _ (by intros; rfl) ws x)

theorem HandlerGoesOn.held {s : St} {i : Iss} {l : Late} {ws : List (Nat × Place)} (h : HandlerGoesOn (s.d.wave i.w)) :
    HandlerGoesOn ((s.holdAccess i l ws).d.wave i.w) := by
  unfold St.holdAccess
  rw [(St.withD_fields _ _).1]
  dsimp only
  rw [Device.wave_setWave, if_pos rfl]
  refine HandlerGoesOn.congr (x := if l.wr then (s.d.wave i.w).addWrites (some i.opid) true ws else s.d.wave i.w) ?_ rfl rfl
  split
  · exact h.addWrites _ _ _
  · exact h

theorem HandlerGoesOn.performed {r : Perf} {i : Iss} (h : HandlerGoesOn (r.st.d.wave i.w)) : HandlerGoesOn ((r.after i).d.wave i.w) := by
  unfold Perf.after
  rw [(St.withD_fields _ _).1, Device.wave_setWave, if_pos rfl]
  exact (h.addWrites _ _ _).addWrites _ _ _

/-! ### The bytes of an access -/

/-- An access whose order has no release does nothing before itself (R275). -/
theorem orderBefore_of_lt {s : St} {i : Iss} {order scope : Nat} (h : order < 2) : s.orderBefore i order scope = .ok s := by
  unfold St.orderBefore
  split
  · rfl
  · simp [show ¬ 2 ≤ order by omega, show order ≠ 4 by omega]

/-- The bytes after an access without release: those that performing it writes, or none where it is held (R271, R275). -/
theorem Accesses.bytes {ins : Instr} {opc : BitVec 12} {s : State} {i : Iss} {x : Wave} {order scope size : Nat} {rd wr : Bool} {ea : Nat → W64}
    {ps : List (Nat × Place)} {dst : Option Dest} {u : St} {perf : St → Perf} (ha : Accesses ins opc s i x order scope size rd wr ea ps dst u perf)
    (ho : order < 2) (hs : s.inv) (hu : u.log = []) (hh : HandlerGoesOn (u.d.wave i.w)) (hw : (perf u).st.d.waves = u.d.waves) :
    ∃ t, exec ins s = .next t ∧ t.mem.read = fun n => if u.mustWait (i.late x ins order scope size rd wr ea ps) then s.mem.read n
      else ((perf u).st.log.lookup n).getD (s.mem.read n) := by
  obtain ⟨done, held⟩ := ha.1 u (orderBefore_of_lt ho)
  cases hm : u.mustWait (i.late x ins order scope size rd wr ea ps) with
  | true =>
    obtain ⟨t, ht, hmem, -⟩ := held hm hh.held
    refine ⟨t, ht, funext fun n => ?_⟩
    have hlog : (u.holdAccess i (i.late x ins order scope size rd wr ea ps) (addressed ea ps)).log = [] := hu
    rw [hmem, State.after, hlog]; rfl
  | false =>
    have hp : HandlerGoesOn ((perf u).st.d.wave i.w) := by rw [Device.wave, hw]; exact hh
    obtain ⟨t, ht, hmem, -⟩ := done hm hp.performed
    refine ⟨t, ht, funext fun n => ?_⟩
    rw [hmem, State.after, Memory.read_writeAll hs]; rfl

/-! ### Stores -/

/-- The writes that a store makes, by address: those of the lanes whose write does not fail (R146). -/
theorem writes_eq (u : St) (ps : List (Nat × Place)) (size : Nat) (val : Nat → Nat) :
    (u.goodWrites (ps.map (fun p => (p.2, size, val p.1)))).map (writeAt u.d) =
      ps.filterMap (fun p => if (u.writeErr p.2).isNone then some (p.2.key u.d, size, val p.1) else none) := by
  unfold St.goodWrites
  induction ps with
  | nil => rfl
  | cons p r ih =>
    simp only [List.map_cons, List.filter_cons, List.filterMap_cons]
    by_cases h : (u.writeErr p.2).isNone
    · rw [if_pos h, if_pos h, List.map_cons, ih]; rfl
    · rw [if_neg h, if_neg h, ih]

/-- The log after a store is performed holds, at each byte, what the last lane storing there stores (R144, R148). -/
theorem lookup_storePerf {s u : St} {i : Iss} {ls : List Nat} {ea : Nat → W64} {size al : Nat} {acc : Acc} {ps : List (Nat × Place)}
    (hc : s.checks i ls ea size al acc = .ok (ps, u)) (hd : ∀ l pa pte, (l, Place.dev pa pte) ∈ ps → pa + size ≤ 2 ^ 51)
    (opc : BitVec 12) (val : Nat → Nat) (n : Nat) :
    (u.storePerf opc i size ea val ps).st.log.lookup n =
      (lastByte (ps.filterMap (fun p => if (u.writeErr p.2).isNone then some (p.2.key u.d, size, val p.1) else none)) n).or (u.log.lookup n) := by
  have made : ∀ w ∈ u.goodWrites (ps.map (fun p => (p.2, size, val p.1))), ∃ p ∈ ps, w = (p.2, size, val p.1) := fun w hw => by
    obtain ⟨p, hp, rfl⟩ := List.mem_map.mp (List.mem_filter.mp hw).1
    exact ⟨p, hp, rfl⟩
  rw [← writes_eq]
  refine lookup_storeAll (m := 2 ^ 51) (fun w hw hdev => ?_) (fun w hw hdev => ?_)
  · obtain ⟨⟨l, p⟩, hp, rfl⟩ := made w hw
    cases p with
    | dev pa pte => exact hd l pa pte hp
    | scratch b o => cases hdev
    | host pa => cases hdev
  · obtain ⟨p, hp, rfl⟩ := made w hw
    exact (checks_regioned hc hp).le_key hdev _

theorem storePerf_waves (s : St) (opc : BitVec 12) (i : Iss) (size : Nat) (ea : Nat → W64) (val : Nat → Nat) (ps : List (Nat × Place)) :
    (s.storePerf opc i size ea val ps).st.d.waves = s.d.waves := storeAll_waves _ _ _

/-- AN ACCESS THAT STORES, whatever else its performance does to the device: the bytes after it. -/
theorem Accesses.storedBytes {ins : Instr} {opc : BitVec 12} {s : State} {i : Iss} {x : Wave} {order scope size al : Nat} {ea : Nat → W64}
    {ps : List (Nat × Place)} {dst : Option Dest} {u : St} {perf : St → Perf} {val : Nat → Nat}
    (ha : Accesses ins opc s i x order scope size false true ea ps dst u perf) (ho : order < 2) (hs : s.inv) (hh : HandlerGoesOn x)
    (hc : (s.at' i x).checks i (lanesOf i.act) ea size al .write = .ok (ps, u))
    (hd : ∀ l pa pte, (l, Place.dev pa pte) ∈ ps → pa + size ≤ 2 ^ 51)
    (hlog : (perf u).st.log = (u.storePerf opc i size ea val ps).st.log) (hw : (perf u).st.d.waves = u.d.waves) :
    let ws := ps.filterMap (fun p => if (u.writeErr p.2).isNone then some (p.2.key u.d, size, val p.1) else none)
    ∃ t, exec ins s = .next t ∧ t.mem.read = fun n => if u.mustWait (i.late x ins order scope size false true ea ps) then s.mem.read n
      else (lastByte ws n).getD (s.mem.read n) := by
  intro ws
  obtain ⟨hl, hx⟩ := walked_keeps (s.at' i x) i ea ((ps.filter (!·.2.isScratch)).map (·.1))
  rw [← (checks_ok hc).2] at hl hx
  rw [at'_wave] at hx
  have hu : u.log = [] := hl.trans (at'_fields s i x).2.1
  have hg : HandlerGoesOn (u.d.wave i.w) := by
    rcases hx with hx | hx <;> rw [hx]
    · exact hh
    · exact hh.congr rfl rfl
  obtain ⟨t, ht, hmem⟩ := ha.bytes ho hs hu hg hw
  refine ⟨t, ht, hmem.trans (funext fun n => ?_)⟩
  rw [hlog, lookup_storePerf hc hd opc val n, hu, List.lookup_nil, Option.or_none]

/-! ### The lines that an `STN` parks -/

theorem waves_of_machine {d e : Device} (h : e.machine = d.machine) : e.waves = d.waves := congrArg (·.waves) h

theorem takeClk_waves (d : Device) (e : Nat) (vc : Tab Nat) : (d.takeClk e vc).waves = d.waves := waves_of_machine (machine_takeClk d e vc)

theorem leavePark_waves (d : Device) (ln : Nat) : (d.leavePark ln).waves = d.waves := by
  unfold Device.leavePark
  split
  · exact waves_of_machine (machine_leaveClk _ _ _)
  · rfl

theorem goHome_waves (d : Device) (ln : Nat) : (d.goHome ln).waves = d.waves := leavePark_waves d ln

theorem invalidate_waves (d : Device) (ln : Nat) : (d.invalidate ln).waves = d.waves := by
  unfold Device.invalidate
  dsimp only
  split
  · exact waves_of_machine (machine_leaveClk _ _ _)
  · rfl

/-- Placing a park changes no wave. -/
theorem placeFrom_waves (d : Device) (asid : Nat) (q : Nat × Nat × Nat) (ln vline fuel : Nat) (set : W64) (n : Nat) :
    (d.placeFrom asid q ln vline fuel set n).1.waves = d.waves := by
  induction fuel generalizing set n with
  | zero => exact goHome_waves d ln
  | succ fuel ih =>
    have left : ((d.leavePark ln).invalidate ln).waves = d.waves := (invalidate_waves _ _).trans (leavePark_waves _ _)
    unfold Device.placeFrom
    dsimp only
    split
    · exact goHome_waves d ln
    · split
      · split
        · split
          · exact left
          · dsimp only
            exact (takeClk_waves ..).trans left
        · exact left
      · split
        · exact goHome_waves d ln
        · exact ih _ _

theorem place_waves (d : Device) (core asid slot ln vline : Nat) (set : W64) : (d.place core asid slot ln vline set).1.waves = d.waves := by
  unfold Device.place
  split
  · exact goHome_waves d ln
  · exact placeFrom_waves _ _ _ _ _ _ _ _

/-- Parking the lines of an `STN` writes no byte and changes no wave. -/
theorem parkLines_keeps (s : St) (i : Iss) (set : W64) (ea : Nat → W64) (ps : List (Nat × Place)) :
    (s.parkLines i set ea ps).2.log = s.log ∧ (s.parkLines i set ea ps).2.d.waves = s.d.waves := by
  unfold St.parkLines
  generalize linesOf ps = lines
  generalize ([] : Tab (Nat × Nat)) = v
  induction lines generalizing s v with
  | nil => exact ⟨rfl, rfl⟩
  | cons ln r ih =>
    rw [List.foldl_cons]
    refine ⟨(ih _ _).1, (ih _ _).2.trans ?_⟩
    dsimp only
    split
    · rfl
    · exact place_waves _ _ _ _ _ _ _

theorem stnPerf_keeps (opc : BitVec 12) (rep : Bool) (b : Src) (ty : BitVec 3) (nsel : BitVec 4) (i : Iss) (x : Wave) (ea : Nat → W64)
    (ps : List (Nat × Place)) (s : St) :
    (stnPerf opc rep b ty nsel i x ea ps s).st.log = (s.storePerf opc i (tySize ty) ea (fun l => dataVal b x l ty) ps).st.log ∧
      (stnPerf opc rep b ty nsel i x ea ps s).st.d.waves = s.d.waves := by
  obtain ⟨hl, hw⟩ := parkLines_keeps (s.storePerf opc i (tySize ty) ea (fun l => dataVal b x l ty) ps).st i (x.nreg nsel.toNat) ea
    (ps.filter (fun p => (s.writeErr p.2).isNone))
  exact ⟨hl, hw.trans (storePerf_waves ..)⟩

/-! ### The instructions that store -/

/-- A store that passes its checks makes an access (R148). -/
theorem storeOp_accesses {opc : BitVec 12} {ins : Instr} {h : Ctl} {d : Option Opnd} {a b : Src} {ofs : BitVec 16} {n size order scope : Nat}
    {pre : Wave → Option Nat} {perf : Iss → Wave → (Nat → W64) → List (Nat × Place) → St → Perf}
    (he : ∀ s, exec ins s = storeOp opc ins h d a b ofs n size order scope pre perf s) {s : State} {i : Iss} {x : Wave}
    (g : Goes h { Req.none with srcs := a.rng 2 ++ b.rng n, dsts := dstRng d 1 } s i x) {ps : List (Nat × Place)} {u : St}
    (hc : (s.at' i x).checks i (lanesOf i.act) (a.ea ofs x) size size .write = .ok (ps, u)) (hpre : i.act ≠ 0 → pre x = none) :
    Accesses ins opc s i x order scope size false true (a.ea ofs x) ps (d.map (·.dest 1)) u (perf i x (a.ea ofs x) ps) := by
  have hp : (if i.act = 0 then none else pre x) = none := by
    split
    · rfl
    · next ha => exact hpre ha
  refine accesses_of (fun s => (he s).trans rfl) g (pub := ps.any (fun p => p.2.outside i.blk)) ?_
  dsimp only
  rw [at'_wave, hc]
  dsimp only
  rw [hp]

theorem st_accesses {h : Ctl} {a b : Src} {ofs : BitVec 16} {scope order ty : BitVec 3} {vec ch : BitVec 2} {s : State} {i : Iss} {x : Wave}
    (g : Goes h { Req.none with srcs := a.rng 2 ++ b.rng (groupN ty vec), dsts := [] } s i x) {ps : List (Nat × Place)} {u : St}
    (hc : (s.at' i x).checks i (lanesOf i.act) (a.ea ofs x) (tySize ty * 2 ^ vec.toNat) (tySize ty * 2 ^ vec.toNat) .write = .ok (ps, u)) :
    Accesses (.st h a b ofs scope order ty vec ch) 0x401 s i x order.toNat scope.toNat (tySize ty * 2 ^ vec.toNat) false true (a.ea ofs x) ps none u
      (stPerf b ty vec i x (a.ea ofs x) ps) :=
  storeOp_accesses (d := none) (exec_st h a b ofs scope order ty vec ch) g hc (fun _ => rfl)

/-- Both forms of `STN`, where the set they name is one (R153). -/
theorem stnOp_accesses {opc : BitVec 12} {ins : Instr} {h : Ctl} {d : Option Opnd} {a b : Src} {ofs : BitVec 16} {scope order ty : BitVec 3}
    {nsel : BitVec 4} (he : ∀ s, exec ins s = stnOp opc ins h d a b ofs scope order ty nsel s) {s : State} {i : Iss} {x : Wave}
    (g : Goes h { Req.none with srcs := a.rng 2 ++ b.rng (intN ty), dsts := dstRng d 1 } s i x) {ps : List (Nat × Place)} {u : St}
    (hc : (s.at' i x).checks i (lanesOf i.act) (a.ea ofs x) (tySize ty) (tySize ty) .write = .ok (ps, u))
    (hset : i.act ≠ 0 → setOk (x.nreg nsel.toNat) = true) :
    Accesses ins opc s i x order.toNat scope.toNat (tySize ty) false true (a.ea ofs x) ps (d.map (·.dest 1)) u
      (stnPerf opc d.isSome b ty nsel i x (a.ea ofs x) ps) :=
  storeOp_accesses he g hc (fun ha => if_pos (hset ha))

/-- `TKSAV`, once its checks pass, makes an access. -/
theorem tksav_accesses {h : Ctl} {a : Src} {ofs : BitVec 16} {s : State} {i : Iss} {x : Wave} (g : Goes h { Req.none with srcs := a.rng 2 } s i x)
    {ps : List (Nat × Place)} {u : St} (hc : (s.at' i x).checks i (lanesOf i.act) (a.ea ofs x) 16 16 .write = .ok (ps, u)) :
    Accesses (.tksav h a ofs) 0x342 s i x 0 0 16 false true (a.ea ofs x) ps none u (tksavPerf i x (a.ea ofs x) ps) := by
  refine accesses_of (fun s => (exec_tksav h a ofs s).trans rfl) g (pub := ps.any (fun p => p.2.outside i.blk)) ?_
  dsimp only
  rw [at'_wave, hc]

/-- Settles O39: each of the four instructions makes an access that stores, and the bytes of its last writes are what memory then reads. -/
theorem storesChangeTheirBytes : Obligations.StoresChangeTheirBytes := by
  unfold Obligations.StoresChangeTheirBytes
  refine ⟨?st, ?stn, ?stnReport, ?tksav⟩
  case st =>
    intro h a b ofs scope order ty vec ch s i x ps u hs g hh ho hc hd
    exact (st_accesses g hc).storedBytes (val := fun l => groupVal b x l ty vec) ho hs hh hc hd rfl (storePerf_waves ..)
  case stn =>
    intro h a b ofs scope order ty nsel s i x ps u hs g hh ho hset hc hd
    have access := stnOp_accesses (d := none) (exec_stn h a b ofs scope order ty nsel) g hc hset
    obtain ⟨hlog, hw⟩ := stnPerf_keeps 0x402 false b ty nsel i x (a.ea ofs x) ps u
    exact access.storedBytes (val := fun l => dataVal b x l ty) ho hs hh hc hd hlog hw
  case stnReport =>
    intro h d a b ofs scope order ty nsel s i x ps u hs g hh ho hset hc hd
    have access := stnOp_accesses (d := some d) (exec_stnReport h d a b ofs scope order ty nsel) g hc hset
    obtain ⟨hlog, hw⟩ := stnPerf_keeps 0x403 true b ty nsel i x (a.ea ofs x) ps u
    exact access.storedBytes (val := fun l => dataVal b x l ty) ho hs hh hc hd hlog hw
  case tksav =>
    intro h a ofs s i x ps u hs g hh hc hd
    exact (tksav_accesses g hc).storedBytes (val := fun _ => x.tokBytes) Nat.zero_lt_two hs hh hc hd rfl (storePerf_waves ..)

end Sys2Proof.Machine
end

section
/-! SUPPORT AND PROOF. The machine after reset (O4), and predicates and the guard (O7): what a predicate reads after a write, and which lanes of a
path group an issue acts for. -/

namespace Sys2Proof.Machine

/-- Settles O4: the tables of the reset state are empty, so every entry reads as its default. -/
theorem resetValues : Obligations.ResetValues := by
  unfold Obligations.ResetValues
  refine ⟨rfl, rfl, fun k => ⟨rfl, rfl, rfl, rfl⟩, fun k l i => ⟨rfl, rfl, ?_⟩, ⟨rfl, rfl, rfl, rfl⟩, ⟨rfl, rfl, rfl⟩⟩
  have unset : (State.reset.dev.wave k).preds.get false (8 * l + i) = false := rfl
  rw [Wave.pred, unset, Bool.or_false]

@[simp] theorem Wave.pred_seven (x : Wave) (l : Nat) : x.pred l 7 = true := rfl

@[simp] theorem Wave.setPred_seven (x : Wave) (l : Nat) (v : Bool) : x.setPred l 7 v = x := rfl

/-- The keys of the predicates of different lanes differ (R17). -/
theorem Wave.pred_setPred (x : Wave) {l k n m : Nat} (v : Bool) (hn : n < 7) (hm : m < 8) :
    (x.setPred l n v).pred k m = if k = l ∧ m = n then v else x.pred k m := by
  rw [Wave.setPred, if_neg (Nat.ne_of_lt hn)]
  by_cases h7 : m = 7
  · subst h7
    rw [if_neg (by omega)]
    rfl
  · have key : 8 * l + n = 8 * k + m ↔ k = l ∧ m = n := by omega
    simp only [Wave.pred, h7, decide_false, Bool.false_or, Tab.get_put, key]

/-- The choice of a path group writes the rotation state, and nothing else (R340). -/
theorem Wave.choose_fields {x y : Wave} {g : Lanes} (h : x.choose = some (g, y)) : y = { x with fav := y.fav, rc := y.rc } := by
  unfold Wave.choose at h
  dsimp only at h
  split at h
  · exact absurd h (by simp)
  · -- whether the favoured group has a lane left, then whether an older group's turn has come
    split at h <;> split at h <;> (cases h; rfl)

theorem Wave.pred_of_choose {x y : Wave} {g : Lanes} (h : x.choose = some (g, y)) (l n : Nat) : y.pred l n = x.pred l n := by
  rw [Wave.choose_fields h]
  rfl

/-- The lanes an issue acts for are those of its path group whose guard is true in the wave with the results of its position landed (R32, R47). -/
theorem act_getLsbD {s : State} {h : Ctl} {i : Iss} {x : Wave} (g : (St.of s).group h = some (i, x)) {l : Nat} (hl : l < 32) :
    i.act.getLsbD l = (i.grp.getLsbD l && (((s.dev.wave i.w).landAt 0).pred l h.pred.toNat != h.neg)) := by
  obtain ⟨-, -, -, -, -, -, chosen, act⟩ := group_spec g
  rw [act, maskLanes_getLsbD, decide_eq_true hl, Bool.true_and, Wave.pred_of_choose chosen]
  rfl

/-- Settles O7. -/
theorem predicatesAndGuards : Obligations.PredicatesAndGuards := by
  unfold Obligations.PredicatesAndGuards
  exact ⟨fun x l v => ⟨x.pred_seven l, x.setPred_seven l v⟩, fun x l k n m v hn hm => x.pred_setPred v hn hm,
    fun s h i x g l hl => act_getLsbD g hl⟩

end Sys2Proof.Machine
end

section
/-! SUPPORT AND PROOF. Results that come due (O9): the registers that a landing result and a retiring operation write, lane by lane, and what
retirement leaves of the token. -/

namespace Sys2Proof.Machine

/-! ### Registers of a lane -/

/-- Writes some registers of a lane, those within the allocation (R15, R206). -/
def Wave.writeRegs (x : Wave) (l : Nat) (rs : List Nat) (val : Nat → W32) : Wave :=
  rs.foldl (fun x r => if r < x.alloc then x.setReg l r (val r) else x) x

/-- The same registers of several lanes. -/
def Wave.writeLanes (x : Wave) (m : Lanes) (rs : List Nat) (val : Nat → Nat → W32) : Wave :=
  (lanesOf m).foldl (fun x l => x.writeRegs l rs (val l)) x

/-- A wave without its registers. -/
def Wave.besideRegs (x : Wave) : Wave := { x with regs := [], bad := [] }

theorem Wave.fields_of_besideRegs {x y : Wave} (h : y.besideRegs = x.besideRegs) :
    y.alloc = x.alloc ∧ y.pipe = x.pipe ∧ y.toks = x.toks ∧ y.untracked = x.untracked ∧ y.asyncDue = x.asyncDue := by
  simp only [Wave.besideRegs, Wave.mk.injEq] at h
  simp only [h, and_self]

@[simp] theorem Wave.besideRegs_writeRegs (x : Wave) (l : Nat) (rs : List Nat) (val : Nat → W32) : (x.writeRegs l rs val).besideRegs = x.besideRegs :=
  Wave.foldl_keeps Wave.besideRegs _ (fun _ _ => by split <;> rfl) _ _

@[simp] theorem Wave.besideRegs_writeLanes (x : Wave) (m : Lanes) (rs : List Nat) (val : Nat → Nat → W32) :
    (x.writeLanes m rs val).besideRegs = x.besideRegs :=
  Wave.foldl_keeps Wave.besideRegs _ (fun x l => x.besideRegs_writeRegs l rs (val l)) _ _

theorem Wave.reg_writeRegs (x : Wave) (l : Nat) {rs : List Nat} (val : Nat → W32) (hrs : ∀ r ∈ rs, r < 256) (k : Nat) {q : Nat} (hq : q < 256) :
    (x.writeRegs l rs val).reg k q = if k = l ∧ q ∈ rs ∧ q < x.alloc then val q else x.reg k q := by
  induction rs generalizing x with
  | nil => simp [Wave.writeRegs]
  | cons a rs ih =>
    have ha : a < 256 := hrs a (List.mem_cons_self ..)
    rw [Wave.writeRegs, List.foldl_cons, ← Wave.writeRegs, ih _ (fun r hr => hrs r (List.mem_cons_of_mem _ hr))]
    by_cases inside : a < x.alloc
    · rw [if_pos inside, Wave.reg_setReg x l a k q (val a) ha hq, (x.setReg_fields l a (val a)).2.2.2.2.1]
      by_cases e : q = a
      · subst e
        by_cases hk : k = l
        · simp [hk, inside]
        · simp [hk, Ne.symm hk]
      · simp [e, Ne.symm e]
    · rw [if_neg inside]
      by_cases e : q = a
      · subst e
        simp [inside]
      · simp [e]

theorem Wave.reg_writeLanes (x : Wave) (m : Lanes) {rs : List Nat} (val : Nat → Nat → W32) (hrs : ∀ r ∈ rs, r < 256) (k : Nat) {q : Nat} (hq : q < 256) :
    (x.writeLanes m rs val).reg k q = if m.getLsbD k = true ∧ q ∈ rs ∧ q < x.alloc then val k q else x.reg k q := by
  have all : ∀ (ls : List Nat) (x : Wave), ls.Nodup →
      (ls.foldl (fun x l => x.writeRegs l rs (val l)) x).reg k q = if k ∈ ls ∧ q ∈ rs ∧ q < x.alloc then val k q else x.reg k q := by
    intro ls
    induction ls with
    | nil => simp
    | cons a ls ih =>
      intro x hls
      obtain ⟨fresh, rest⟩ := List.nodup_cons.mp hls
      have alloc : (x.writeRegs a rs (val a)).alloc = x.alloc := (Wave.fields_of_besideRegs (x.besideRegs_writeRegs a rs (val a))).1
      rw [List.foldl_cons, ih _ rest, alloc, Wave.reg_writeRegs x a (val a) hrs k hq]
      by_cases e : k = a
      · subst e
        simp [fresh]
      · simp [e]
  have lanes : k ∈ lanesOf m ↔ m.getLsbD k = true := ⟨act_of_mem, mem_of_act⟩
  rw [Wave.writeLanes, all _ x (lanesOf_nodup m)]
  simp only [lanes]

/-- The word of register `q` in a result that starts at `r`. -/
def wordAt (r v q : Nat) : W32 := BitVec.ofNat 32 (v / 2 ^ (32 * (q - r)))

/-- A group of registers is written word by word (R16, R206). -/
theorem Wave.setGroup_eq_writeRegs (x : Wave) (l r n v : Nat) : x.setGroup l r n v = x.writeRegs l (Dest.regs (.w r n)) (wordAt r v) := by
  induction n generalizing x r v with
  | zero => rfl
  | succ n ih =>
    have first : wordAt r v r = BitVec.ofNat 32 v := by simp [wordAt]
    have later : ∀ q ∈ Dest.regs (.w (r + 1) n), wordAt (r + 1) (v / 2 ^ 32) q = wordAt r v q := by
      intro q hq
      obtain ⟨j, -, rfl⟩ := List.mem_map.mp hq
      have shift : 32 * (j + (r + 1) - r) = 32 + 32 * (j + (r + 1) - (r + 1)) := by omega
      rw [wordAt, wordAt, shift, Nat.pow_add, Nat.div_div_eq_div_mul]
    have regs : Dest.regs (.w r (n + 1)) = r :: Dest.regs (.w (r + 1) n) := by
      simp [Dest.regs, List.range_succ_eq_map, Nat.add_comm, Nat.add_left_comm]
    rw [Wave.setGroup, ih, regs, Wave.writeRegs, Wave.writeRegs, List.foldl_cons, first]
    exact foldl_congr_mem (fun y q hq => by rw [later q hq]) _

theorem Dest.mem_regs_w {r n q : Nat} : q ∈ Dest.regs (.w r n) ↔ r ≤ q ∧ q < r + n := by
  simp only [Dest.regs, List.mem_map, List.mem_range]
  constructor
  · rintro ⟨j, hj, rfl⟩
    omega
  · rintro ⟨h1, h2⟩
    exact ⟨q - r, by omega, by omega⟩

/-- What a result of `n` words from `w` register `r`, written in the lanes of a mask, leaves in a register. -/
theorem Wave.reg_writeResult (x : Wave) (m : Lanes) {r n : Nat} (v : Nat → Nat) {k q : Nat} (hn : r + n ≤ 256) (hq : q < 256) :
    (x.writeLanes m (Dest.regs (.w r n)) (fun l => wordAt r (v l))).reg k q =
      if m.getLsbD k = true ∧ r ≤ q ∧ q < r + n ∧ q < x.alloc then wordAt r (v k) q else x.reg k q := by
  have inside : ∀ p ∈ Dest.regs (.w r n), p < 256 := fun p hp => by have := (Dest.mem_regs_w.mp hp).2; omega
  rw [Wave.reg_writeLanes x m _ inside k hq]
  simp only [Dest.mem_regs_w, and_assoc]

/-! ### Results of the pipe (R32) -/

theorem Wave.pos_advance (x : Wave) (n : Nat) : (x.advance n).pos = x.pos + BitVec.ofNat 16 n := by
  induction n with
  | zero => simp [Wave.advance, Wave.pos_landAt]
  | succ n ih =>
    rw [Wave.advance_succ, Wave.pos_landAt, BitVec.ofNat_add, ← BitVec.add_assoc, ← ih]
    rfl

theorem Wave.landAt_of_none_due {x : Wave} {k : Nat} (h : ∀ e ∈ x.pipe, x.ahead e ≠ k) : x.landAt k = x := by
  have due : x.pipe.filter (fun e => x.ahead e == k) = [] := filter_eq_nil_of (fun e he => by simpa using h e he)
  have later : x.pipe.filter (fun e => x.ahead e != k) = x.pipe := List.filter_eq_self.mpr (fun e he => by simpa using h e he)
  rw [Wave.landAt, due, later]
  rfl

theorem Wave.landAt_single {x : Wave} {e : PipeEnt} {k : Nat} (hp : x.pipe = [e]) (hd : x.ahead e = k) :
    x.landAt k = Wave.landOne { x with pipe := [] } e := by
  simp [Wave.landAt, hp, hd]

/-- A result for `w` registers lands in them; else only the operation that it completes changes. -/
theorem Wave.landOne_w (x : Wave) {e : PipeEnt} {r n : Nat} (hd : e.dst = .w r n) :
    (x.landOne e).pipe = x.pipe ∧
      (x.landOne e).regs = (x.writeLanes e.lanes (Dest.regs (.w r n)) (fun l => wordAt r (e.vals.get 0 l))).regs := by
  have lands : (lanesOf e.lanes).foldl (fun x l => x.writeLane (.w r n) l (e.vals.get 0 l)) x =
      x.writeLanes e.lanes (Dest.regs (.w r n)) (fun l => wordAt r (e.vals.get 0 l)) :=
    foldl_congr_mem (fun y l _ => y.setGroup_eq_writeRegs l r n _) x
  obtain ⟨-, pipe, -⟩ := Wave.fields_of_besideRegs (x.besideRegs_writeLanes e.lanes (Dest.regs (.w r n)) (fun l => wordAt r (e.vals.get 0 l)))
  unfold Wave.landOne
  rw [hd]
  simp only [Dest.waveWide, Bool.false_eq_true, if_false, lands]
  cases e.post with
  | none => exact ⟨pipe, rfl⟩
  | some k => exact ⟨pipe, rfl⟩

/-! ### Retirement (R28, R31, R146, R347) -/

/-- The word that an operation writes: 0 after an error that is neither a queue reset nor a barrier's (R146, R167, R223). -/
def Op.word (o : Op) (l r : Nat) : W32 :=
  BitVec.ofNat 32 ((if o.err.any (fun e => e.kind != 3 && e.kind != 11) then 0 else o.vals.get 0 l) / 2 ^ (32 * match o.dst with
    | .w r0 _ => r - r0
    | _ => 0))

theorem Op.word_of_failed {o : Op} {e : Detail} (herr : o.err = some e) (hqueue : e.kind ≠ 3) (hbarrier : e.kind ≠ 11) (l r : Nat) : o.word l r = 0 := by
  have zeroes : (e.kind != 3 && e.kind != 11) = true := by rw [bne_iff_ne.mpr hqueue, bne_iff_ne.mpr hbarrier, Bool.true_and]
  rw [Op.word, herr, Option.any_some, if_pos zeroes, Nat.zero_div]
  rfl

/-- The registers that an operation writes: those of its destination that no debugger has forced (R362). -/
def Op.written (o : Op) : List Nat := o.dst.regs.filter (fun r => !o.dropped.contains r)

/-- The operation's token counts down and keeps the first error; an untracked error is due as a trap. -/
def Wave.countDown (x : Wave) (o : Op) : Wave :=
  match o.tok with
  | some k =>
    let t := x.tok k
    x.setTok k { count := t.count - 1, err := t.err || o.err.isSome, det := t.det.or o.err }
  | none => if o.err.isSome then { x with untracked := x.untracked.or o.err, asyncDue := true } else x

/-- A retirement writes the result, clears the pending bits, then counts the token down. -/
theorem Wave.retireOp_eq (x : Wave) (o : Op) : ∃ p, x.retireOp o =
    Wave.countDown { Wave.writeLanes { x with ops := x.ops.filter (fun p => p.id != o.id) } o.lanes o.written o.word with pend := p } o := by
  have drops : ∀ (y : Wave) l, y.writeRegs l o.written (o.word l) =
      o.dst.regs.foldl (fun x r => if o.dropped.contains r then x else if r < x.alloc then x.setReg l r (o.word l r) else x) y := by
    intro y l
    rw [Wave.writeRegs, Op.written, List.foldl_filter]
    exact foldl_congr_mem (fun z r _ => by cases o.dropped.contains r <;> rfl) y
  have writes : ∀ y : Wave, y.writeLanes o.lanes o.written o.word = (lanesOf o.lanes).foldl (fun x l =>
      o.dst.regs.foldl (fun x r => if o.dropped.contains r then x else if r < x.alloc then x.setReg l r (o.word l r) else x) x) y :=
    fun y => foldl_congr_mem (fun z l _ => drops z l) y
  rw [writes]
  exact ⟨_, rfl⟩

/-- No count of a token writes a register. -/
theorem Wave.reg_countDown (x : Wave) (o : Op) (l r : Nat) : (x.countDown o).reg l r = x.reg l r := by
  unfold Wave.countDown
  cases o.tok with
  | some k => rfl
  | none =>
    dsimp only
    split <;> rfl

/-- What a retirement that writes `w` registers leaves in a register (R15, R31, R146). -/
theorem Wave.reg_retireOp (x : Wave) {o : Op} {r n l q : Nat} (hd : o.dst = .w r n) (hf : o.dropped = []) (hn : r + n ≤ 256) (hq : q < 256) :
    (x.retireOp o).reg l q = if o.lanes.getLsbD l = true ∧ r ≤ q ∧ q < r + n ∧ q < x.alloc then o.word l q else x.reg l q := by
  obtain ⟨p, retired⟩ := x.retireOp_eq o
  have all : o.written = Dest.regs (.w r n) := by
    rw [Op.written, hf, hd]
    exact List.filter_eq_self.mpr (fun _ _ => rfl)
  have word : o.word = fun l => wordAt r (if o.err.any (fun e => e.kind != 3 && e.kind != 11) then 0 else o.vals.get 0 l) := by
    funext l q
    rw [Op.word, hd]
    rfl
  rw [retired, Wave.reg_countDown, all, word]
  exact Wave.reg_writeResult { x with ops := _ } o.lanes _ hn hq

/-- Until its token is counted, a retirement leaves tokens and untracked errors as they were. -/
theorem Wave.retireOp_counts (x : Wave) (o : Op) : ∃ y : Wave, x.retireOp o = y.countDown o ∧
    y.toks = x.toks ∧ y.untracked = x.untracked ∧ y.asyncDue = x.asyncDue := by
  obtain ⟨p, retired⟩ := x.retireOp_eq o
  obtain ⟨-, -, toks, untracked, due⟩ := Wave.fields_of_besideRegs
    (Wave.besideRegs_writeLanes { x with ops := x.ops.filter (fun p => p.id != o.id) } o.lanes o.written o.word)
  exact ⟨_, retired, toks, untracked, due⟩

/-- The token of a retired operation (R28, R347). -/
theorem Wave.tok_retireOp (x : Wave) {o : Op} {k : Nat} (hk : o.tok = some k) :
    (x.retireOp o).tok k = ⟨(x.tok k).count - 1, (x.tok k).err || o.err.isSome, (x.tok k).det.or o.err⟩ := by
  obtain ⟨y, retired, toks, -, -⟩ := x.retireOp_counts o
  have same : y.tok k = x.tok k := by rw [Wave.tok, toks, ← Wave.tok]
  rw [retired, Wave.countDown, hk]
  simp only [Wave.tok_setTok, if_true, same]

/-- An operation that no token tracks leaves its error to be trapped on (R146). -/
theorem Wave.untracked_retireOp (x : Wave) {o : Op} (hk : o.tok = none) :
    (x.retireOp o).asyncDue = (x.asyncDue || o.err.isSome) ∧ (x.retireOp o).untracked = x.untracked.or o.err := by
  obtain ⟨y, retired, -, untracked, due⟩ := x.retireOp_counts o
  rw [retired, Wave.countDown, hk, ← untracked, ← due]
  cases o.err <;> simp

/-- Settles O9. -/
theorem resultsComeDue : Obligations.ResultsComeDue := by
  unfold Obligations.ResultsComeDue
  refine ⟨Wave.pos_advance, fun x none_due => Wave.landAt_of_none_due none_due, ?lands, ?tracked, fun x o hk => x.untracked_retireOp hk, ?good, ?failed⟩
  case lands =>
    intro x e r len l k hp hd hdst _ hk hlen
    obtain ⟨pipe, regs⟩ := Wave.landOne_w { x with pipe := [] } hdst
    rw [Wave.landAt_single hp hd]
    refine ⟨pipe, ?_⟩
    rw [Wave.reg, regs, ← Wave.reg]
    exact Wave.reg_writeResult { x with pipe := [] } e.lanes _ hlen hk
  case tracked =>
    intro x o k hk
    rw [x.tok_retireOp hk]
    exact ⟨rfl, rfl, rfl⟩
  case good =>
    intro x o r len l k hdst hf herr _ hk hlen
    rw [x.reg_retireOp hdst hf hlen hk, Op.word, herr, hdst]
    rfl
  case failed =>
    intro x o r len l k e hdst hf herr hqueue hbarrier _ hk hlen hl hrk hkr halloc
    rw [x.reg_retireOp hdst hf hlen hk, if_pos ⟨hl, hrk, hkr, halloc⟩, Op.word_of_failed herr hqueue hbarrier]

end Sys2Proof.Machine
end

section
/-! SUPPORT AND PROOF. When an instruction issues (O12): what each check of R59 answers, in their order, and the path group of a wave whose running
threads stand at one address. -/

namespace Sys2Proof.Machine

/-! ### What stops an issue -/

theorem stops_of {s : State} {h : Ctl} {q : Req} {i : Iss} {x : Wave} {u : St} (g : (St.of s).group h = some (i, x))
    (hu : (s.at' i x).stopsAt i x q = some u) : Stops h q s u := by
  intro opc body
  unfold issue run
  simp only [g, show (St.of s).withD (·.setWave i.w x) = s.at' i x from rfl, hu]

section
variable {s : State} {i : Iss} {x : Wave} {q : Req}

/-- The test of a safe point just before the issue (R353). -/
theorem noSafeStop_iff : NoSafeStop i.h s i x ↔
    (i.h.sp && (s.dev.block i.blk).preq && decide (s.dev.clock.toNat < (s.dev.block i.blk).deadline.toNat) && !(x.thread (lowest i.grp)).passed) = false := by
  simp only [NoSafeStop, Bool.and_eq_false_iff, decide_eq_false_iff_not, Nat.not_lt, Bool.not_eq_false', or_assoc]

theorem stopsAt_safe (h : ¬NoSafeStop i.h s i x) : (s.at' i x).stopsAt i x q = some ((s.at' i x).safeStop i.w i.grp) := by
  rw [noSafeStop_iff, Bool.not_eq_false] at h
  exact if_pos h

theorem stopsAt_regs (h : NoSafeStop i.h s i x) {c : Nat} {v0 v1 : W64} (hr : x.regCheck (s.at' i x) i q = some (c, v0, v1)) :
    (s.at' i x).stopsAt i x q = some ((s.at' i x).faultAt i c v0 v1 0 0) := by
  refine (if_neg (Bool.eq_false_iff.mp (noSafeStop_iff.mp h))).trans ?_
  rw [hr]

theorem stopsAt_waits (h : NoSafeStop i.h s i x) (hr : x.regCheck (s.at' i x) i q = none) {k n : Nat} {t : Option Nat} (hw : x.hint i.h = (some (k, n), t)) :
    (s.at' i x).stopsAt i x q = some ((s.at' i x).withD (·.setWave i.w { x with wait := .token k n })) := by
  refine (if_neg (Bool.eq_false_iff.mp (noSafeStop_iff.mp h))).trans ?_
  rw [hr, hw]

theorem stopsAt_tokenError (h : NoSafeStop i.h s i x) (hr : x.regCheck (s.at' i x) i q = none) {k : Nat} (hw : x.hint i.h = (none, some k)) :
    (s.at' i x).stopsAt i x q =
      some ((s.at' i x).faultAt i 7 (tokV x k (x.tok k).det).1 (tokV x k (x.tok k).det).2.1 (tokV x k (x.tok k).det).2.2.1 (tokV x k (x.tok k).det).2.2.2) := by
  refine (if_neg (Bool.eq_false_iff.mp (noSafeStop_iff.mp h))).trans ?_
  rw [hr, hw]

/-- Past its hint, an instruction is stopped by its hazards alone. -/
theorem stopsAt_hazard (h : NoSafeStop i.h s i x) (hr : x.regCheck (s.at' i x) i q = none) (hw : x.hint i.h = (none, none)) :
    (s.at' i x).stopsAt i x q = (x.hazard (s.at' i x) i q).map (fun f => (s.at' i x).faultAt i f.1 f.2.1 f.2.2 0 0) := by
  refine (if_neg (Bool.eq_false_iff.mp (noSafeStop_iff.mp h))).trans ?_
  rw [hr, hw]
  cases x.hazard (s.at' i x) i q <;> rfl

/-! ### Registers and tiles (R15, R34) -/

theorem regCheck_range {r : Nat × Nat} (h : q.ranges.find? (fun r => decide (x.alloc < r.1 + r.2)) = some r) (u : St) :
    x.regCheck u i q = some (1, regV0 r.1 i.act, 0) := by
  have same : (fun r => !inAlloc x.alloc r) = fun r : Nat × Nat => decide (x.alloc < r.1 + r.2) := by
    funext r
    simp only [inAlloc, ← decide_not, Nat.not_le]
  rw [Wave.regCheck, same, h]

theorem find_range_none (h : ∀ r ∈ q.ranges, r.1 + r.2 ≤ x.alloc) : q.ranges.find? (fun r => !inAlloc x.alloc r) = none := by
  rw [List.find?_eq_none]
  intro r hr
  simp [inAlloc, h r hr]

theorem regCheck_tile (h : ∀ r ∈ q.ranges, r.1 + r.2 ≤ x.alloc) {t : Nat} (ht : q.tiles.find? (fun t => decide ((s.dev.block x.blk).accN ≤ t)) = some t) :
    x.regCheck (s.at' i x) i q = some (1, regV0 (0x134 + t) i.act, 0) := by
  rw [Wave.regCheck, find_range_none h, (at'_fields s i x).1, ht]

theorem regCheck_none (h : RegsInside q s x) : x.regCheck (s.at' i x) i q = none := by
  have tiles : q.tiles.find? (fun t => decide ((s.dev.block x.blk).accN ≤ t)) = none := by
    rw [List.find?_eq_none]
    intro t ht
    simp [h.2 t ht]
  rw [Wave.regCheck, find_range_none h.1, (at'_fields s i x).1, tiles]

end

/-! ### The wait hint (R49, R194) -/

section
variable {x : Wave} {h : Ctl} {k : BitVec 4} {n : BitVec 6}

theorem hint_waits (hw : h.wait = some (k, n)) (hc : n.toNat < (x.tok k.toNat).count) : x.hint h = (some (k.toNat, n.toNat), none) := by
  rw [Wave.hint, hw]
  exact if_pos hc

theorem hint_fails (hw : h.wait = some (k, n)) (hc : (x.tok k.toNat).count ≤ n.toNat) (he : (x.tok k.toNat).err = true) :
    x.hint h = (none, some k.toNat) := by
  rw [Wave.hint, hw]
  exact (if_neg (Nat.not_lt.mpr hc)).trans (if_pos he)

end

theorem hint_met {x : Wave} {h : Ctl} (hm : HintMet h x) : x.hint h = (none, none) := by
  unfold Wave.hint
  cases hw : h.wait with
  | none => rfl
  | some w =>
    obtain ⟨count, err⟩ := hm w.1 w.2 hw
    exact (if_neg (Nat.not_lt.mpr count)).trans (if_neg (by simp [err]))

/-! ### Hazards (R31, R35, R319) -/

section
variable {s : State} {i : Iss} {x : Wave} {q : Req}

theorem hazard_source (ha : i.act ≠ 0) {r : Nat × Nat × Bool} (h : q.srcs.find? (fun r => !r.2.2 && x.pending (r.1, r.2.1)) = some r) (u : St) :
    x.hazard u i q = some (2, regV0 r.1 i.act, 0) := by
  unfold Wave.hazard
  rw [if_neg ha, h]

theorem find_source_none (h : ∀ r ∈ q.srcs, r.2.2 = true ∨ x.pending (r.1, r.2.1) = false) :
    q.srcs.find? (fun r => !r.2.2 && x.pending (r.1, r.2.1)) = none := by
  rw [List.find?_eq_none]
  intro r hr
  rcases h r hr with stale | ready
  · simp [stale]
  · simp [ready]

theorem hazard_tile (ha : i.act ≠ 0) (h : ∀ r ∈ q.srcs, r.2.2 = true ∨ x.pending (r.1, r.2.1) = false) {t : Nat} (ht : q.out = some t)
    (hb : ((s.at' i x).d.prog i.core ((s.dev.block x.blk).accB + t)).getLsbD 31 = true) :
    x.hazard (s.at' i x) i q =
      some (2, regV0 (0x134 + t) i.act, ((s.at' i x).d.prog i.core ((s.dev.block x.blk).accB + t)).setWidth 64) := by
  unfold Wave.hazard
  rw [if_neg ha, find_source_none h, if_neg ha, ht]
  exact if_pos hb

/-- With its sources ready, an instruction meets only the checks that follow them. -/
theorem hazard_ready (h : SourcesReady q s i x) : x.hazard (s.at' i x) i q = Wave.hazard.rest x i q := by
  unfold Wave.hazard
  by_cases ha : i.act = 0
  · rw [if_pos ha, if_pos ha]
  · obtain ⟨sources, out⟩ := h ha
    rw [if_neg ha, find_source_none sources, if_neg ha]
    cases ht : q.out with
    | none => rfl
    | some t => exact if_neg (Bool.eq_false_iff.mp (out t ht))

theorem rest_uncorrectable {r : Nat × Nat} {rs : List (Nat × Nat)} (h : badSources q i x = r :: rs) : Wave.hazard.rest x i q =
    some (4, regV0 r.2 i.act, BitVec.ofNat 64 (maskLanes (fun l => (r :: rs).any (·.1 == l))).toNat) := by
  unfold Wave.hazard.rest
  dsimp only
  rw [← badSources, h]

theorem rest_destination (hb : badSources q i x = []) (ha : i.act ≠ 0) {r : Nat × Nat} (h : q.dsts.find? (fun r => x.pending r) = some r) :
    Wave.hazard.rest x i q = some (3, regV0 r.1 i.act, 0) := by
  unfold Wave.hazard.rest
  dsimp only
  rw [← badSources, hb, if_neg ha, h]

theorem find_destination_none (h : i.act ≠ 0 → ∀ r ∈ q.dsts, x.pending r = false) :
    (if i.act = 0 then none else q.dsts.find? (fun r => x.pending r)) = none := by
  split
  · rfl
  · next ha =>
    rw [List.find?_eq_none]
    intro r hr
    simp [h ha r hr]

theorem rest_token (hb : badSources q i x = []) (hd : i.act ≠ 0 → ∀ r ∈ q.dsts, x.pending r = false) {k : BitVec 4} (hk : i.h.post = some k)
    (hc : (x.tok k.toNat).count = 63) : Wave.hazard.rest x i q = some (5, (tokV x k.toNat none).1, 0) := by
  unfold Wave.hazard.rest
  dsimp only
  rw [← badSources, hb, find_destination_none hd, hk]
  exact if_pos hc

theorem rest_none (hb : badSources q i x = []) (hd : i.act ≠ 0 → ∀ r ∈ q.dsts, x.pending r = false)
    (hk : ∀ k, i.h.post = some k → (x.tok k.toNat).count ≠ 63) : Wave.hazard.rest x i q = none := by
  unfold Wave.hazard.rest
  dsimp only
  rw [← badSources, hb, find_destination_none hd]
  cases h : i.h.post with
  | none => rfl
  | some k => exact if_neg (hk k h)

end

/-! ### The path group (R340) -/

theorem maskLanes_self (m : Lanes) (f : Nat → Bool) (h : ∀ l, m.getLsbD l = true → f l = true) : maskLanes (fun l => m.getLsbD l && f l) = m := by
  apply BitVec.eq_of_getLsbD_eq
  intro l hl
  rw [maskLanes_getLsbD, decide_eq_true hl, Bool.true_and]
  cases hm : m.getLsbD l
  · rfl
  · rw [h l hm, Bool.true_and]

theorem lowest_mem {m : Lanes} (h : m ≠ 0) : m.getLsbD (lowest m) = true := by
  have some_lane : lanesOf m ≠ [] := fun e => h (lanesOf_eq_nil.mp e)
  rw [lowest, List.headD_eq_head?_getD, List.head?_eq_some_head some_lane]
  exact act_of_mem (List.head_mem some_lane)

theorem Wave.lowestPc_mem (x : Wave) {m : Lanes} (h : m ≠ 0) : m.getLsbD (x.lowestPc m) = true := by
  have all : ∀ (ls : List Nat) (b : Nat), (∀ l ∈ ls, m.getLsbD l = true) → m.getLsbD b = true →
      m.getLsbD (ls.foldl (fun b l => if (x.thread l).pc.toNat < (x.thread b).pc.toNat then l else b) b) = true := by
    intro ls
    induction ls with
    | nil => exact fun b _ hb => hb
    | cons a ls ih =>
      intro b hls hb
      refine ih _ (fun l hl => hls l (List.mem_cons_of_mem _ hl)) ?_
      dsimp only
      split
      · exact hls a (List.mem_cons_self ..)
      · exact hb
  exact all _ _ (fun l hl => act_of_mem hl) (lowest_mem h)

/-- Running threads that all stand at one address, with no run in progress, are the path group. -/
theorem Wave.choose_of_one_pc {x : Wave} {pc : Addr} (hr : x.runs ≠ 0) (hf : x.fav = 0) (hpc : ∀ l, x.runs.getLsbD l = true → (x.thread l).pc = pc) :
    x.choose = some (x.runs, x) := by
  have fav : x.fav &&& x.runs = 0 := by
    rw [hf]
    exact BitVec.zero_and
  have same : { x with fav := 0 } = x := by rw [← hf]
  have group : x.groupAt x.runs (x.lowestPc x.runs) = x.runs :=
    maskLanes_self _ _ (fun l hl => by rw [hpc l hl, hpc _ (x.lowestPc_mem hr), beq_self_eq_true])
  have others : x.runs &&& ~~~x.runs = 0 := BitVec.and_not_self _
  unfold Wave.choose
  dsimp only
  rw [if_neg hr, if_pos fav, same, if_pos fav, group, others]
  rfl

theorem group_of_choose {s : State} {h : Ctl} {g : Lanes} {x : Wave} (hc : ((s.dev.wave s.dev.cur).landAt 0).choose = some (g, x)) (hl : x.live = true) :
    ∃ i, (St.of s).group h = some (i, x) ∧ i.w = s.dev.cur ∧ i.grp = g ∧ i.h = h ∧ i.ba = (x.thread (lowest g)).pc := by
  unfold St.group
  dsimp only
  rw [show (St.of s).d = s.dev from rfl, hc]
  dsimp only
  rw [hl]
  exact ⟨_, rfl, rfl, rfl, rfl, rfl⟩

/-! ### The order of the checks (R59) -/

section
variable {s : State} {h : Ctl} {q : Req} {i : Iss} {x : Wave} (g : (St.of s).group h = some (i, x)) (hs : NoSafeStop h s i x)
include g hs

/-- A hazard stops an instruction whose registers lie within and whose hint is met. -/
theorem stops_of_hazard (hi : RegsInside q s x) (hm : HintMet h x) {c : Nat} {v0 v1 : W64} (hz : x.hazard (s.at' i x) i q = some (c, v0, v1)) :
    Stops h q s ((s.at' i x).faultAt i c v0 v1 0 0) := by
  obtain ⟨-, rfl, -⟩ := group_spec g
  refine stops_of g ?_
  rw [stopsAt_hazard hs (regCheck_none hi) (hint_met hm), hz]
  rfl

/-- An instruction that no check stops issues. -/
theorem goes_of_checks (hi : RegsInside q s x) (hm : HintMet h x) (hsrc : SourcesReady q s i x) (hb : badSources q i x = [])
    (hd : i.act ≠ 0 → ∀ r ∈ q.dsts, x.pending r = false) (hk : ∀ k, h.post = some k → (x.tok k.toNat).count ≠ 63) : Goes h q s i x := by
  obtain ⟨-, rfl, -⟩ := group_spec g
  refine ⟨g, ?_⟩
  show (s.at' i x).stopsAt i x q = none
  rw [stopsAt_hazard hs (regCheck_none hi) (hint_met hm), hazard_ready hsrc, rest_none hb hd hk]
  rfl

end

/-- An instruction of a wave with nothing outstanding, without a hint, issues. -/
theorem goes_of_quiet {s : State} {h : Ctl} {q : Req} {i : Iss} {x : Wave} (g : (St.of s).group h = some (i, x))
    (hs : h.sp = false ∨ (s.dev.block x.blk).preq = false) (hi : RegsInside q s x) (hw : h.wait = none) (hp : x.pend = 0) (hb : x.bad = [])
    (ho : q.out = none) (hk : ∀ k, h.post = some k → (x.tok k.toNat).count ≠ 63) : Goes h q s i x := by
  obtain ⟨-, -, -, blk, -⟩ := group_spec g
  have ready : ∀ r, x.pending r = false := fun r => by
    rw [Wave.pending, hp]
    exact bne_eq_false_iff_eq.mpr BitVec.zero_and
  have safe : NoSafeStop h s i x := by
    rw [NoSafeStop, blk]
    exact hs.imp_right .inl
  refine goes_of_checks g safe hi (fun k n e => ?_) (fun _ => ⟨fun r _ => .inr (ready _), fun t e => ?_⟩) ?_ (fun _ r _ => ready r) hk
  · rw [hw] at e
    cases e
  · rw [ho] at e
    cases e
  · rw [badSources, hb]
    rfl

/-- Settles O12. -/
theorem issuesNormally : Obligations.IssuesNormally := by
  unfold Obligations.IssuesNormally
  refine ⟨?quiet, ?safePoint, ?range, ?tile, ?waits, ?tokenError, ?source, ?tileOut, ?uncorrectable, ?destination, ?token, ?goes, ?group, ?onePc⟩
  case quiet =>
    intro s h q i x g hs hr ht hw hp hb ho hk
    exact goes_of_quiet g hs ⟨hr, ht⟩ hw hp hb ho hk
  case safePoint =>
    intro s h q i x g hs
    obtain ⟨-, rfl, -⟩ := group_spec g
    exact stops_of g (stopsAt_safe hs)
  case range =>
    intro s h q i x r g hs hr
    obtain ⟨-, rfl, -⟩ := group_spec g
    exact stops_of g (stopsAt_regs hs (regCheck_range hr _))
  case tile =>
    intro s h q i x t g hs hr ht
    obtain ⟨-, rfl, -⟩ := group_spec g
    exact stops_of g (stopsAt_regs hs (regCheck_tile hr ht))
  case waits =>
    intro s h q i x k n g hs hi hw hc
    obtain ⟨-, rfl, -⟩ := group_spec g
    exact stops_of g (stopsAt_waits hs (regCheck_none hi) (hint_waits hw hc))
  case tokenError =>
    intro s h q i x k n g hs hi hw hc he
    obtain ⟨-, rfl, -⟩ := group_spec g
    exact stops_of g (stopsAt_tokenError hs (regCheck_none hi) (hint_fails hw hc he))
  case source =>
    intro s h q i x r g hs hi hm ha hr
    exact stops_of_hazard g hs hi hm (hazard_source ha hr _)
  case tileOut =>
    intro s h q i x t g hs hi hm ha hsrc ht hb
    exact stops_of_hazard g hs hi hm (hazard_tile ha hsrc ht hb)
  case uncorrectable =>
    intro s h q i x r rs g hs hi hm hsrc hb
    exact stops_of_hazard g hs hi hm ((hazard_ready hsrc).trans (rest_uncorrectable hb))
  case destination =>
    intro s h q i x r g hs hi hm hsrc hb ha hr
    exact stops_of_hazard g hs hi hm ((hazard_ready hsrc).trans (rest_destination hb ha hr))
  case token =>
    intro s h q i x k g hs hi hm hsrc hb hd hk hc
    have hih : i.h = h := (group_spec g).2.1
    exact stops_of_hazard g hs hi hm ((hazard_ready hsrc).trans (rest_token hb hd (hih ▸ hk) hc))
  case goes =>
    intro s h q i x g hs hi hm hsrc hb hd hk
    exact goes_of_checks g hs hi hm hsrc hb hd hk
  case group =>
    intro s h g x hc hl
    exact group_of_choose hc hl
  case onePc =>
    intro x pc hr hf hpc
    exact Wave.choose_of_one_pc hr hf hpc

end Sys2Proof.Machine
end

section
/-! SUPPORT AND PROOF. Transfers in every form (O24): what a transfer that passes its checks goes on with, and how it waits for its accesses and its
spill stores. -/

namespace Sys2Proof.Machine

/-- An instruction that carries out an effect leaves that effect's state. -/
theorem leaves_of_carryOut {ins : Instr} {opc : BitVec 12} {h : Ctl} {q : Req} {s : State} {i : Iss} {x : Wave} {e : Eff} (g : Goes h q s i x)
    (he : exec ins s = .next (s.after ((s.at' i x).carryOut i opc (.ok e)))) (hp : e.post = none) (hy : e.yields = false) (hl : e.leave = none)
    (hw : e.waits = none) : Leaves ins opc s i e.st e.out (if e.taken i then 3 else e.pos) e.next := by
  intro hh
  obtain ⟨t, next, mem, agree, wait, goesOn⟩ := issue_goesOn (opc := opc) (body := fun _ _ => .ok e) g rfl hp hy hl hh
  rw [issue_goes g] at next
  rw [hw] at wait
  exact ⟨t, he.trans next, mem, agree, wait, goesOn⟩

/-- The places of the stack accesses that some lanes make. -/
theorem stackPlaces_map {ls : List Nat} {f : Nat → Except StackErr (Option Place)} {p : Nat → Option Place} (h : ∀ l ∈ ls, f l = .ok (p l)) :
    stackPlaces (ls.map (fun l => (l, f l))) = ls.filterMap (fun l => (p l).map (fun q => (l, q))) := by
  rw [stackPlaces, successes_map h, List.filterMap_map]
  rfl

theorem byCheck_nil : byCheck [] = [] := rfl

theorem firstBad_nil (cause : StackErr → Nat) : firstBad [] cause = none := rfl

theorem filterMap_congr_mem {α β : Type} {ls : List α} {f g : α → Option β} (h : ∀ a ∈ ls, f a = g a) : ls.filterMap f = ls.filterMap g := by
  induction ls with
  | nil => rfl
  | cons a r ih => rw [List.filterMap_cons, List.filterMap_cons, h a (List.mem_cons_self ..), ih (fun b hb => h b (List.mem_cons_of_mem _ hb))]

/-- The stores of the pushes are those of the active lanes. -/
theorem spillsOf_congr {i : Iss} {x : Wave} {k : Xfer} {travel : Bool} {p q : Nat → Option Place} (h : ∀ l, i.act.getLsbD l = true → p l = q l) :
    spillsOf i x k travel p = spillsOf i x k travel q := by
  unfold spillsOf
  split
  · exact filterMap_congr_mem (fun l hl => by rw [h l (act_of_mem hl)])
  · rfl

/-- The effect of a transfer: what its pushes, pops and hops leave, and where its lanes go. -/
def xferEff (opc : BitVec 12) (i : Iss) (u : St) (tgt : Nat → Addr) : Eff :=
  { Eff.plain u with next := fun l => some (tgt l), pos := if alwaysTaken opc && i.act ≠ 0 then 3 else 1 }

/-- A transfer passes its checks: its targets are code addresses (R92), a return waits for no token (R95), `p` is where each lane's push or pop
leads, `w` where each hopping lane's stack word goes, in a segment of the launch, and the wave of a hopping lane has nothing outstanding (R96). -/
structure XferPasses (s : State) (i : Iss) (x : Wave) (k : Xfer) (target : Target) (p w : Nat → Option Place) : Prop where
  near : k ≠ .ret → ∀ l, i.act.getLsbD l = true → (target i x l).toNat < 2 ^ 57
  onTime : k = .ret → i.act ≠ 0 → ∀ n, 8 ≤ n → n < 16 → (x.tok n).count = 0
  stack : ∀ l, i.act.getLsbD l = true → (s.at' i x).xferAcc i k (s.dev.launch i.slot).travel (x.thread l) = .ok (p l)
  hops : ∀ l ∈ (s.at' i x).hopsOf i ((s.at' i x).xferTo i x k target p),
    ((s.at' i x).d.segOf i.slot ((s.at' i x).xferTo i x k target p l).toNat).isSome ∧ (s.at' i x).hopWord i x l = .ok (w l)
  quiet : (s.at' i x).hopsOf i ((s.at' i x).xferTo i x k target p) ≠ [] → (∀ n, n < 16 → (x.tok n).count = 0) ∧ x.pend = 0

/-- The checks of the lanes' pushes or pops (R95). -/
def stackChecks (s : State) (i : Iss) (x : Wave) (k : Xfer) : List (Nat × Except StackErr (Option Place)) :=
  (lanesOf i.act).map (fun l => (l, (s.at' i x).xferAcc i k (s.dev.launch i.slot).travel (x.thread l)))

/-- The places of the stack accesses and stack words of a transfer. -/
def xferPlaces (u : St) (i : Iss) (tgt : Nat → Addr) (p w : Nat → Option Place) : List (Nat × Place) :=
  (lanesOf i.act).filterMap (fun l => (p l).map (fun q => (l, q))) ++ (u.hopsOf i tgt).filterMap (fun l => (w l).map (fun q => (l, q)))

section
variable {opc : BitVec 12} {h : Ctl} {srcs : List (Nat × Nat × Bool)} {k : Xfer} {live : BitVec 11} {target : Target} {s : State} {i : Iss} {x : Wave}
  {p w : Nat → Option Place}

section
variable (c : XferPasses s i x k target p w)
include c

/-- What a transfer's stack checks gave is `p` in the lanes whose guard is true. -/
theorem XferPasses.places {l : Nat} (hl : i.act.getLsbD l = true) : gotten none (stackChecks s i x k) l = p l :=
  gotten_map none (fun l hl => c.stack l (act_of_mem hl)) (mem_of_act hl)

/-- So the lanes whose guard is true go where `p` says. -/
theorem XferPasses.targets (l : Nat) (hl : i.act.getLsbD l = true) :
    (s.at' i x).xferTo i x k target (gotten none (stackChecks s i x k)) l = (s.at' i x).xferTo i x k target p l := xferTo_congr (c.places hl)

/-- No token and no pending register keeps a lane from its hop (R96). -/
theorem XferPasses.unhindered :
    (!((s.at' i x).hopsOf i ((s.at' i x).xferTo i x k target p)).isEmpty && (!x.busyToks.isEmpty || x.pend != 0)) = false := by
  by_cases none_hop : (s.at' i x).hopsOf i ((s.at' i x).xferTo i x k target p) = []
  · rw [none_hop]
    rfl
  · obtain ⟨counts, pend⟩ := c.quiet none_hop
    rw [busyToks_nil counts, pend]
    exact Bool.and_false _

/-- Each hopping lane's target lies in a segment of the launch (R96). -/
theorem XferPasses.segments : ((s.at' i x).hopsOf i ((s.at' i x).xferTo i x k target p)).filter (fun l =>
    ((s.at' i x).d.segOf i.slot ((s.at' i x).xferTo i x k target (gotten none (stackChecks s i x k)) l).toNat).isNone) = [] :=
  filter_eq_nil_of fun l hl => by
    rw [c.targets l (hopsOf_sub hl), Option.isNone_eq_false_iff]
    exact (c.hops l hl).1

end

/-- A transfer that passes its checks waits for its accesses, then for its spill stores, then has its effect. -/
theorem transfer_passes (g : Goes h { Req.none with srcs := srcs } s i x) (c : XferPasses s i x k target p w) :
    transfer opc h srcs k live target s = .next (s.after ((s.at' i x).carryOut i opc ((s.at' i x).stackFirst i x k
      (xferPlaces (s.at' i x) i ((s.at' i x).xferTo i x k target p) p w)
      ((s.at' i x).spillFirst i x (spillsOf i x k (s.dev.launch i.slot).travel p)
        (.ok (xferEff opc i ((s.at' i x).xferDo i k live ((s.at' i x).xferTo i x k target p) p w)
          ((s.at' i x).xferTo i x k target (gotten none (stackChecks s i x k))))))))) := by
  have stack : ∀ l ∈ lanesOf i.act, (s.at' i x).xferAcc i k (s.dev.launch i.slot).travel (x.thread l) = .ok (p l) := fun l hl => c.stack l (act_of_mem hl)
  have word : ∀ l ∈ (s.at' i x).hopsOf i ((s.at' i x).xferTo i x k target p), (s.at' i x).hopWord i x l = .ok (w l) := fun l hl => (c.hops l hl).2
  have hops := hopsOf_congr (s := s.at' i x) c.targets
  unfold transfer
  rw [issue_goes g]
  dsimp only
  rw [at'_wave, farLanes_nil c.near]
  dsimp only
  rw [lateTok_none c.onTime]
  dsimp only
  rw [show (s.at' i x).d.launch i.slot = s.dev.launch i.slot from rfl, failures_nil stack, byCheck_nil, firstBad_nil, ← stackChecks]
  dsimp only
  rw [hops, c.unhindered, if_neg Bool.false_ne_true, c.segments]
  dsimp only
  rw [failures_nil word, firstBad_nil]
  dsimp only
  rw [stackPlaces_map word, spillsOf_congr (fun l hl => c.places hl),
    xferDo_congr c.targets (fun l hl => c.places hl) (fun l hl => gotten_map none word (hops ▸ hl)), stackChecks, stackPlaces_map stack]
  rfl

/-- Where its checks leave it, a transfer goes on to the targets of its lanes. -/
theorem xferEff_leaves {ins : Instr} {u : St} {tgt : Nat → Addr} (g : Goes h { Req.none with srcs := srcs } s i x) {go : Nat → Addr}
    (hgo : ∀ l, i.act.getLsbD l = true → go l = tgt l)
    (he : exec ins s = .next (s.after ((s.at' i x).carryOut i opc (.ok (xferEff opc i u go))))) :
    Leaves ins opc s i u .none (if (lanesOf i.act).any (fun l => tgt l != i.ba + 12) || (alwaysTaken opc && i.act ≠ 0) then 3 else 1)
      (fun l => some (tgt l)) := by
  have taken : (xferEff opc i u go).taken i = (lanesOf i.act).any (fun l => tgt l != i.ba + 12) :=
    any_congr_mem (fun l hl => by rw [← hgo l (act_of_mem hl)]; rfl)
  have positions : (if (xferEff opc i u go).taken i then 3 else (xferEff opc i u go).pos) =
      if (lanesOf i.act).any (fun l => tgt l != i.ba + 12) || (alwaysTaken opc && i.act ≠ 0) then 3 else 1 := by
    rw [taken]
    cases (lanesOf i.act).any (fun l => tgt l != i.ba + 12) <;> rfl
  have left := leaves_of_carryOut g he rfl rfl rfl rfl
  rw [positions] at left
  exact leaves_congr (fun l hl => congrArg some (hgo l hl)) left

/-- The access error of spill stores that the Dunvia Link has lost (R21, R350). -/
theorem StackErr.res_lost (ea : W64) (a : Acc) (lanes : Lanes) (kind : Nat) : (StackErr.mk false (.plain 29) ea a kind).res lanes =
    .trap 29 ea (BitVec.ofNat 64 (lanes.toNat + 2 ^ 32 * 7 + 2 ^ 36 * a.code)) 0 (BitVec.ofNat 64 kind) := by
  simp [StackErr.res, memRes, MErr.plain]

/-- An instruction that comes to its spill stores makes them, goes on after them, or takes the access error of those that are lost (R21). -/
theorem spills_of_carryOut {ins : Instr} {ws : List (Nat × Nat × Place × Nat)} {e : Eff} {goesOn : Prop} (hws : ws ≠ [])
    (he : exec ins s = .next (s.after ((s.at' i x).carryOut i opc ((s.at' i x).spillFirst i x ws (.ok e)))))
    (next : exec ins s = .next (s.after ((s.at' i x).carryOut i opc (.ok e))) → goesOn) : Spills ins s i x ws goesOn := by
  unfold St.spillFirst at he
  rw [if_neg (by simpa using hws)] at he
  refine ⟨fun first => ?_, fun sp made => ⟨fun kept => next ?_, fun lost rest some_lost => ?_⟩⟩
  · rw [first] at he
    exact he
  · simp only [made, kept] at he
    exact he
  · simp only [made, some_lost, StackErr.res_lost] at he
    exact he

section
variable {u : St} {ps : List (Nat × Place)} {ea : Nat → W64} (hea : ea = fun l => let a := (x.thread l).stkptr; if k = .call then a - 8 else a)
include hea

/-- A transfer waits before its issue where one of its accesses would be held (R275). -/
theorem stackFirst_held (held : ps ≠ [] ∧ u.mustWait (i.late x (.nop i.h) 0 0 8 false false ea ps) = true) (r : Res) :
    u.stackFirst i x k ps r = .hold u .bound := by
  subst hea
  obtain ⟨some_access, waits⟩ := held
  rw [St.stackFirst, if_neg (by simpa using some_access)]
  exact if_pos waits

theorem stackFirst_free (free : ¬(ps ≠ [] ∧ u.mustWait (i.late x (.nop i.h) 0 0 8 false false ea ps) = true)) (r : Res) : u.stackFirst i x k ps r = r := by
  subst hea
  unfold St.stackFirst
  split
  · rfl
  · next some_access => exact if_neg (fun waits => free ⟨by simpa using some_access, waits⟩)

end

/-- An instruction that runs a transfer transfers (R92 to R96). -/
theorem transfers_of {ins : Instr} (he : ∀ s, exec ins s = transfer opc h srcs k live target s) : Transfers ins opc h srcs k live target := by
  intro s i x p w g near onTime stack tgt hops quiet ps ea n ws goesOn
  have checked : XferPasses s i x k target p w := ⟨near, onTime, stack, hops, quiet⟩
  let eff : Eff := xferEff opc i ((s.at' i x).xferDo i k live tgt p w) ((s.at' i x).xferTo i x k target (gotten none (stackChecks s i x k)))
  have passes : exec ins s = .next (s.after ((s.at' i x).carryOut i opc ((s.at' i x).stackFirst i x k ps ((s.at' i x).spillFirst i x ws (.ok eff))))) :=
    (he s).trans (transfer_passes g checked)
  have next : exec ins s = .next (s.after ((s.at' i x).carryOut i opc (.ok eff))) → goesOn := xferEff_leaves g checked.targets
  split
  · next held =>
    rw [stackFirst_held rfl held] at passes
    exact passes
  · next free =>
    rw [stackFirst_free rfl free] at passes
    split
    · next none_spilled =>
      rw [none_spilled] at passes
      exact next passes
    · next spilled => exact spills_of_carryOut spilled passes next

end

/-- Settles O24: each of the seven runs a transfer. -/
theorem transfersSpillAndHop : Obligations.TransfersSpillAndHop := by
  unfold Obligations.TransfersSpillAndHop
  exact ⟨fun h disp live => transfers_of (exec_bra h disp live), fun h disp => transfers_of (exec_brl h disp),
    fun h a live => transfers_of (exec_brx h a live), fun h disp live => transfers_of (exec_call h disp live),
    fun h disp => transfers_of (exec_calll h disp), fun h a live => transfers_of (exec_callx h a live),
    fun h live => transfers_of (exec_ret h live)⟩

end Sys2Proof.Machine
end

section
/-! SUPPORT AND PROOF. The decoder reads back every word (O1): the operand fields of each point, then the bits of field M; and the words that the
spec writes out (O2). -/

namespace Sys2Proof

-- One theorem at a time, as the tests are: every thread of the elaborator takes a stack of its own from the memory of the check.
set_option Elab.async false

/-! ### Bits put side by side -/

@[simp] theorem ofBool_beq_one (b : Bool) : (BitVec.ofBool b == 1#1) = b := by cases b <;> rfl

/-- A displacement of 20 bits, of B and M (R52). -/
theorem glue_disp20 (x : BitVec 20) : bits x 10 10 ++ bits x 0 10 = x := (bits_glue x 0 10 10 10 rfl).trans (bits_self x)

/-- A displacement of 30 bits, of A, B and M (R52). -/
theorem glue_disp30 (x : BitVec 30) : bits x 20 10 ++ bits x 10 10 ++ bits x 0 10 = x := by
  rw [bits_glue x 10 10 10 20 rfl]
  exact (bits_glue x 0 10 20 10 rfl).trans (bits_self x)

/-- A displacement of 60 bits, of D, A, B and M (R52). -/
theorem glue_disp60 (x : BitVec 60) : bits x 50 10 ++ bits x 40 10 ++ bits x 30 10 ++ bits x 0 30 = x := by
  rw [bits_glue x 40 10 10 50 rfl, bits_glue x 30 10 20 40 rfl]
  exact (bits_glue x 0 30 30 30 rfl).trans (bits_self x)

/-- A literal of 32 bits, of B and M (R52). -/
theorem glue_imm32 (x : BitVec 32) : bits x 22 10 ++ bits x 0 22 = x := (bits_glue x 0 22 10 22 rfl).trans (bits_self x)

/-! ### Operands that are there by a modifier -/

/-- A source that is there exactly when it is used reads back. -/
theorem optS_bits {c : Bool} {s : Slot} {o : Option Src} (h : optChk c s o = none) : optS c (optBits o) = .ok o := by
  cases o with
  | none => cases c <;> simp_all [optChk, unused, optS]
  | some x =>
    cases c with
    | false => simp [optChk] at h
    | true => simp only [optS, optBits, if_true, sOp_bits (s := s) h, Except.map]

theorem optS_some {x : Src} {s : Slot} (h : x.chk s = none) : optS true (optBits (some x)) = .ok (some x) := optS_bits (s := s) h

theorem optD_some {o : Opnd} {s : Slot} (h : o.chk s = none) : optD true (optDBits (some o)) = .ok (some o) := by
  simp only [optD, optDBits, if_true, dOp_bits h, Except.map]

/-- The operands of `PMOV` read back in every mode that is legal (R119). -/
theorem pmov_reads {mode : BitVec 2} {d : Option Opnd} {a : Option Src} {mask : BitVec 7} (h : pmovChk mode d a mask = none) :
    optD (mode.toNat ≠ 1) (optDBits d) = .ok d ∧ optS (mode.toNat ≠ 0) (optBits a) = .ok a := by
  unfold pmovChk at h
  split at h
  next d mode_eq =>
    obtain ⟨hd, -⟩ := Option.or_eq_none_iff.mp h
    rw [mode_eq]
    exact ⟨optD_some hd, rfl⟩
  next a mode_eq =>
    rw [mode_eq]
    exact ⟨rfl, optS_some h⟩
  next d a mode_eq =>
    obtain ⟨operands, -⟩ := Option.or_eq_none_iff.mp h
    obtain ⟨hd, ha⟩ := Option.or_eq_none_iff.mp operands
    rw [mode_eq]
    exact ⟨optD_some hd, optS_some ha⟩
  all_goals cases h

/-- The operands of `MMOV` read back in every mode that is legal (R190). -/
theorem mmov_reads {mode : BitVec 2} {d : Opnd} {a : Src} {b : Option Src} (h : mmovChk mode d a b = none) :
    dOp d.dBits = .ok d ∧ sOp a.bits = .ok a ∧ optS (mode.toNat = 2) (optBits b) = .ok b := by
  have reads : ∀ {sd sa sb : Slot} {c : Bool}, ((d.chk sd).or (a.chk sa)).or (optChk c sb b) = none →
      dOp d.dBits = .ok d ∧ sOp a.bits = .ok a ∧ optS c (optBits b) = .ok b := by
    intro sd sa sb c checks
    obtain ⟨operands, hb⟩ := Option.or_eq_none_iff.mp checks
    obtain ⟨hd, ha⟩ := Option.or_eq_none_iff.mp operands
    exact ⟨dOp_bits hd, sOp_bits ha, optS_bits hb⟩
  unfold mmovChk at h
  split at h
  case h_4 => cases h
  all_goals
    next mode_eq =>
      rw [mode_eq]
      exact reads h

/-- The destination of `MFS` has a slot, by the width of its register (R242). -/
theorem mfsChk_slot {d : Opnd} {a : Src} (h : mfsChk d a = none) : ∃ s, d.chk s = none := by
  unfold mfsChk at h
  split at h
  · exact ⟨_, h⟩
  · cases h

/-- A literal form takes no modifier but NEGA and NEGB, the two that its field M holds. -/
theorem literal_mods {f : FMod} {rm sat : Bool} (h : f.chk rm sat [.nega, .negb] = none) :
    (⟨f.rm, f.sat, false, false, false, f.negb, f.nega⟩ : FMod) = f := by
  obtain ⟨r, s, absb, absa, negc, negb, nega⟩ := f
  simp_all [FMod.chk, code]

/-! ### The round trip -/

/-- A step of the decoder that reads its field goes on. -/
theorem read_bind {α β : Type} (x : α) (f : α → Except Illegal β) : (Except.ok x >>= f) = f x := rfl

/-- Every check of a list passes: a conjunction with one part for each check. -/
def AllPass : List (Option Illegal) → Prop
  | [] => True
  | [c] => c = none
  | c :: d :: l => c = none ∧ AllPass (d :: l)

/-- An instruction is legal when each of its checks passes. -/
theorem allPass_of_firstIllegal : ∀ {l : List (Option Illegal)}, firstIllegal l = none → AllPass l
  | [], _ => trivial
  | [c], h => ((firstIllegal_cons c []).mp h).1
  | c :: d :: l, h =>
    have ⟨first, rest⟩ := (firstIllegal_cons c (d :: l)).mp h
    ⟨first, allPass_of_firstIllegal rest⟩

/-- The fields of a legal instruction read back: each point by what the decoder reads there, each operand by the slot that takes it; then, for all
alike, the guard, the hints and the bits of M. An event has no fields. -/
theorem parse_fields {i : Instr} {f : Fields} (hw : AllPass i.checks) (hf : i.fields = some f) : parse f = .ok i := by
  cases i <;> cases hf
  all_goals unfold fieldsOf
  -- Control transfers, traps and waits (R91)
  case' bra h disp live => rw [parse_bra]
  case' call h disp live => rw [parse_call]
  case' brl h disp => rw [parse_brl]
  case' calll h disp => rw [parse_calll]
  case' brx h a live =>
    obtain ⟨-, ha⟩ := hw
    rw [parse_brx, sOp_bits ha]
  case' callx h a live =>
    obtain ⟨-, ha⟩ := hw
    rw [parse_callx, sOp_bits ha]
  case' ret h live => rw [parse_ret]
  case' exit h => rw [parse_exit]
  case' loop h a len =>
    obtain ⟨-, ha⟩ := hw
    rw [parse_loop, sOp_bits ha]
  case' lbrk h n => rw [parse_lbrk]
  case' dly h n => rw [parse_dly]
  case' nop h => rw [parse_nop]
  case' yield h => rw [parse_yield]
  case' ipref h a ofs nb lvl =>
    obtain ⟨-, ha, -⟩ := hw
    rw [parse_ipref, sOp_bits ha]
  case' trap h code => rw [parse_trap]
  case' eret h => rw [parse_eret]
  case' bkpt h code => rw [parse_bkpt]
  case' sysc h code => rw [parse_sysc]
  -- Integer and address arithmetic (R108)
  case' iadd h d a b ty sat =>
    obtain ⟨-, -, hd, ha, hb⟩ := hw
    rw [parse_iadd, dOp_bits hd, sOp_bits ha, sOp_bits hb]
  case' isub h d a b ty sat =>
    obtain ⟨-, -, hd, ha, hb⟩ := hw
    rw [parse_isub, dOp_bits hd, sOp_bits ha, sOp_bits hb]
  case' imul h d a b ty =>
    obtain ⟨-, -, hd, ha, hb⟩ := hw
    rw [parse_imul, dOp_bits hd, sOp_bits ha, sOp_bits hb]
  case' imulh h d a b ty =>
    obtain ⟨-, -, hd, ha, hb⟩ := hw
    rw [parse_imulh, dOp_bits hd, sOp_bits ha, sOp_bits hb]
  case' imad h d a b c ty =>
    obtain ⟨-, -, hd, ha, hb, hc⟩ := hw
    have rc := sOp_bits hc
    rw [parse_imad, dOp_bits hd, sOp_bits ha, sOp_bits hb]
  case' imadw h d a b c ty =>
    obtain ⟨-, -, hd, ha, hb, hc⟩ := hw
    have rc := sOp_bits hc
    rw [parse_imadw, dOp_bits hd, sOp_bits ha, sOp_bits hb]
  case' imin h d a b ty =>
    obtain ⟨-, -, hd, ha, hb⟩ := hw
    rw [parse_imin, dOp_bits hd, sOp_bits ha, sOp_bits hb]
  case' imax h d a b ty =>
    obtain ⟨-, -, hd, ha, hb⟩ := hw
    rw [parse_imax, dOp_bits hd, sOp_bits ha, sOp_bits hb]
  case' iabs h d a ty sat =>
    obtain ⟨-, -, hd, ha⟩ := hw
    rw [parse_iabs, dOp_bits hd, sOp_bits ha]
  case' and h d a b ty =>
    obtain ⟨-, -, hd, ha, hb⟩ := hw
    rw [parse_and, dOp_bits hd, sOp_bits ha, sOp_bits hb]
  case' or h d a b ty =>
    obtain ⟨-, -, hd, ha, hb⟩ := hw
    rw [parse_or, dOp_bits hd, sOp_bits ha, sOp_bits hb]
  case' xor h d a b ty =>
    obtain ⟨-, -, hd, ha, hb⟩ := hw
    rw [parse_xor, dOp_bits hd, sOp_bits ha, sOp_bits hb]
  case' andn h d a b ty =>
    obtain ⟨-, -, hd, ha, hb⟩ := hw
    rw [parse_andn, dOp_bits hd, sOp_bits ha, sOp_bits hb]
  case' orn h d a b ty =>
    obtain ⟨-, -, hd, ha, hb⟩ := hw
    rw [parse_orn, dOp_bits hd, sOp_bits ha, sOp_bits hb]
  case' shl h d a b ty =>
    obtain ⟨-, -, hd, ha, hb⟩ := hw
    rw [parse_shl, dOp_bits hd, sOp_bits ha, sOp_bits hb]
  case' shr h d a b ty =>
    obtain ⟨-, -, hd, ha, hb⟩ := hw
    rw [parse_shr, dOp_bits hd, sOp_bits ha, sOp_bits hb]
  case' sar h d a b ty =>
    obtain ⟨-, -, hd, ha, hb⟩ := hw
    rw [parse_sar, dOp_bits hd, sOp_bits ha, sOp_bits hb]
  case' rot h d a b ty =>
    obtain ⟨-, -, hd, ha, hb⟩ := hw
    rw [parse_rot, dOp_bits hd, sOp_bits ha, sOp_bits hb]
  case' fsh h d a b c ty dir =>
    obtain ⟨-, -, hd, ha, hb, hc⟩ := hw
    have rc := sOp_bits hc
    rw [parse_fsh, dOp_bits hd, sOp_bits ha, sOp_bits hb]
  case' bfx h d a ty pos len =>
    obtain ⟨-, -, hd, ha, -⟩ := hw
    rw [parse_bfx, dOp_bits hd, sOp_bits ha]
  case' bfi h d a b ty pos len =>
    obtain ⟨-, -, hd, ha, hb, -⟩ := hw
    rw [parse_bfi, dOp_bits hd, sOp_bits ha, sOp_bits hb]
  case' popc h d a ty =>
    obtain ⟨-, -, hd, ha⟩ := hw
    rw [parse_popc, dOp_bits hd, sOp_bits ha]
  case' clz h d a ty =>
    obtain ⟨-, -, hd, ha⟩ := hw
    rw [parse_clz, dOp_bits hd, sOp_bits ha]
  case' brev h d a ty =>
    obtain ⟨-, -, hd, ha⟩ := hw
    rw [parse_brev, dOp_bits hd, sOp_bits ha]
  case' prmb h d a b c ty =>
    obtain ⟨-, -, hd, ha, hb, hc⟩ := hw
    have rc := sOp_bits hc
    rw [parse_prmb, dOp_bits hd, sOp_bits ha, sOp_bits hb]
  case' sel h d a b c ty =>
    obtain ⟨-, -, hd, ha, hb, hc⟩ := hw
    have rc := sOp_bits hc
    rw [parse_sel, dOp_bits hd, sOp_bits ha, sOp_bits hb]
  case' mov h d a ty =>
    obtain ⟨-, -, hd, ha⟩ := hw
    rw [parse_mov, dOp_bits hd, sOp_bits ha]
  case' lea h d a b ty sh =>
    obtain ⟨-, -, hd, ha, hb⟩ := hw
    rw [parse_lea, dOp_bits hd, sOp_bits ha, sOp_bits hb]
  case' iadd64 h d a b ty sat =>
    obtain ⟨-, -, hd, ha, hb⟩ := hw
    rw [parse_iadd64, dOp_bits hd, sOp_bits ha, sOp_bits hb]
  case' isub64 h d a b ty sat =>
    obtain ⟨-, -, hd, ha, hb⟩ := hw
    rw [parse_isub64, dOp_bits hd, sOp_bits ha, sOp_bits hb]
  case' icvt h d a ty sat sty =>
    obtain ⟨-, hd, ha⟩ := hw
    rw [parse_icvt, dOp_bits hd, sOp_bits ha]
  -- Their literal forms (R114)
  case' iaddLit h d a imm ty sat =>
    obtain ⟨-, -, hd, ha⟩ := hw
    rw [parse_iaddLit, dOp_bits hd, sOp_bits ha]
  case' isubLit h d a imm ty sat =>
    obtain ⟨-, -, hd, ha⟩ := hw
    rw [parse_isubLit, dOp_bits hd, sOp_bits ha]
  case' imulLit h d a imm ty =>
    obtain ⟨-, -, hd, ha⟩ := hw
    rw [parse_imulLit, dOp_bits hd, sOp_bits ha]
  case' imulhLit h d a imm ty =>
    obtain ⟨-, -, hd, ha⟩ := hw
    rw [parse_imulhLit, dOp_bits hd, sOp_bits ha]
  case' iminLit h d a imm ty =>
    obtain ⟨-, -, hd, ha⟩ := hw
    rw [parse_iminLit, dOp_bits hd, sOp_bits ha]
  case' imaxLit h d a imm ty =>
    obtain ⟨-, -, hd, ha⟩ := hw
    rw [parse_imaxLit, dOp_bits hd, sOp_bits ha]
  case' andLit h d a imm ty =>
    obtain ⟨-, -, hd, ha⟩ := hw
    rw [parse_andLit, dOp_bits hd, sOp_bits ha]
  case' orLit h d a imm ty =>
    obtain ⟨-, -, hd, ha⟩ := hw
    rw [parse_orLit, dOp_bits hd, sOp_bits ha]
  case' xorLit h d a imm ty =>
    obtain ⟨-, -, hd, ha⟩ := hw
    rw [parse_xorLit, dOp_bits hd, sOp_bits ha]
  case' andnLit h d a imm ty =>
    obtain ⟨-, -, hd, ha⟩ := hw
    rw [parse_andnLit, dOp_bits hd, sOp_bits ha]
  case' ornLit h d a imm ty =>
    obtain ⟨-, -, hd, ha⟩ := hw
    rw [parse_ornLit, dOp_bits hd, sOp_bits ha]
  case' shlLit h d a imm ty =>
    obtain ⟨-, -, hd, ha⟩ := hw
    rw [parse_shlLit, dOp_bits hd, sOp_bits ha]
  case' shrLit h d a imm ty =>
    obtain ⟨-, -, hd, ha⟩ := hw
    rw [parse_shrLit, dOp_bits hd, sOp_bits ha]
  case' sarLit h d a imm ty =>
    obtain ⟨-, -, hd, ha⟩ := hw
    rw [parse_sarLit, dOp_bits hd, sOp_bits ha]
  case' rotLit h d a imm ty =>
    obtain ⟨-, -, hd, ha⟩ := hw
    rw [parse_rotLit, dOp_bits hd, sOp_bits ha]
  case' movi h d imm ty =>
    obtain ⟨-, -, hd⟩ := hw
    rw [parse_movi, dOp_bits hd]
  case' movh h d a imm ty =>
    obtain ⟨-, -, hd, ha⟩ := hw
    rw [parse_movh, dOp_bits hd, sOp_bits ha]
  -- Comparison and predicates (R116)
  case' icmp h d a b c ty cond comb =>
    obtain ⟨-, hd, ha, hb, hc, -⟩ := hw
    have rc := optS_bits hc
    rw [parse_icmp, dOp_bits hd, sOp_bits ha, sOp_bits hb]
  case' plop h d a b c lut =>
    obtain ⟨-, hd, ha, hb, hc⟩ := hw
    have rc := sOp_bits hc
    rw [parse_plop, dOp_bits hd, sOp_bits ha, sOp_bits hb]
  case' pmov h d a mask mode =>
    obtain ⟨-, operands⟩ := hw
    obtain ⟨rd, ra⟩ := pmov_reads operands
    rw [parse_pmov]
  -- Scalar floats and FP64 (R121)
  case' fadd h d a b ty f =>
    obtain ⟨-, -, hd, ha, hb, -⟩ := hw
    rw [parse_fadd, dOp_bits hd, sOp_bits ha, sOp_bits hb]
  case' faddF64 h d a b ty f =>
    obtain ⟨-, -, hd, ha, hb, -⟩ := hw
    rw [parse_faddF64, dOp_bits hd, sOp_bits ha, sOp_bits hb]
  case' fsub h d a b ty f =>
    obtain ⟨-, -, hd, ha, hb, -⟩ := hw
    rw [parse_fsub, dOp_bits hd, sOp_bits ha, sOp_bits hb]
  case' fsubF64 h d a b ty f =>
    obtain ⟨-, -, hd, ha, hb, -⟩ := hw
    rw [parse_fsubF64, dOp_bits hd, sOp_bits ha, sOp_bits hb]
  case' fmul h d a b ty f =>
    obtain ⟨-, -, hd, ha, hb, -⟩ := hw
    rw [parse_fmul, dOp_bits hd, sOp_bits ha, sOp_bits hb]
  case' fmulF64 h d a b ty f =>
    obtain ⟨-, -, hd, ha, hb, -⟩ := hw
    rw [parse_fmulF64, dOp_bits hd, sOp_bits ha, sOp_bits hb]
  case' ffma h d a b c ty f =>
    obtain ⟨-, -, hd, ha, hb, hc, -⟩ := hw
    have rc := sOp_bits hc
    rw [parse_ffma, dOp_bits hd, sOp_bits ha, sOp_bits hb]
  case' ffmaF64 h d a b c ty f =>
    obtain ⟨-, -, hd, ha, hb, hc, -⟩ := hw
    have rc := sOp_bits hc
    rw [parse_ffmaF64, dOp_bits hd, sOp_bits ha, sOp_bits hb]
  case' fmin h d a b ty f =>
    obtain ⟨-, -, hd, ha, hb, -⟩ := hw
    rw [parse_fmin, dOp_bits hd, sOp_bits ha, sOp_bits hb]
  case' fminF64 h d a b ty f =>
    obtain ⟨-, -, hd, ha, hb, -⟩ := hw
    rw [parse_fminF64, dOp_bits hd, sOp_bits ha, sOp_bits hb]
  case' fmax h d a b ty f =>
    obtain ⟨-, -, hd, ha, hb, -⟩ := hw
    rw [parse_fmax, dOp_bits hd, sOp_bits ha, sOp_bits hb]
  case' fmaxF64 h d a b ty f =>
    obtain ⟨-, -, hd, ha, hb, -⟩ := hw
    rw [parse_fmaxF64, dOp_bits hd, sOp_bits ha, sOp_bits hb]
  case' fcmp h d a b c ty cond comb =>
    obtain ⟨-, -, hd, ha, hb, hc⟩ := hw
    have rc := optS_bits hc
    rw [parse_fcmp, dOp_bits hd, sOp_bits ha, sOp_bits hb]
  case' fcls h d a ty mask =>
    obtain ⟨-, -, hd, ha, -⟩ := hw
    rw [parse_fcls, dOp_bits hd, sOp_bits ha]
  case' fcmpF64 h d a b c ty cond comb =>
    obtain ⟨-, -, hd, ha, hb, hc⟩ := hw
    have rc := optS_bits hc
    rw [parse_fcmpF64, dOp_bits hd, sOp_bits ha, sOp_bits hb]
  case' fclsF64 h d a ty mask =>
    obtain ⟨-, -, hd, ha, -⟩ := hw
    rw [parse_fclsF64, dOp_bits hd, sOp_bits ha]
  case' fscl h d a b ty f =>
    obtain ⟨-, -, hd, ha, hb, -⟩ := hw
    rw [parse_fscl, dOp_bits hd, sOp_bits ha, sOp_bits hb]
  case' fsclF64 h d a b ty f =>
    obtain ⟨-, -, hd, ha, hb, -⟩ := hw
    rw [parse_fsclF64, dOp_bits hd, sOp_bits ha, sOp_bits hb]
  case' frnd h d a ty f =>
    obtain ⟨-, -, hd, ha, -⟩ := hw
    rw [parse_frnd, dOp_bits hd, sOp_bits ha]
  case' frndF64 h d a ty f =>
    obtain ⟨-, -, hd, ha, -⟩ := hw
    rw [parse_frndF64, dOp_bits hd, sOp_bits ha]
  -- Their literal forms
  case' faddLit h d a imm ty f =>
    obtain ⟨-, -, hd, ha, hf⟩ := hw
    have mods := literal_mods hf
    rw [parse_faddLit, dOp_bits hd, sOp_bits ha]
  case' fsubLit h d a imm ty f =>
    obtain ⟨-, -, hd, ha, hf⟩ := hw
    have mods := literal_mods hf
    rw [parse_fsubLit, dOp_bits hd, sOp_bits ha]
  case' fmulLit h d a imm ty f =>
    obtain ⟨-, -, hd, ha, hf⟩ := hw
    have mods := literal_mods hf
    rw [parse_fmulLit, dOp_bits hd, sOp_bits ha]
  case' fminLit h d a imm ty f =>
    obtain ⟨-, -, hd, ha, hf⟩ := hw
    have mods := literal_mods hf
    rw [parse_fminLit, dOp_bits hd, sOp_bits ha]
  case' fmaxLit h d a imm ty f =>
    obtain ⟨-, -, hd, ha, hf⟩ := hw
    have mods := literal_mods hf
    rw [parse_fmaxLit, dOp_bits hd, sOp_bits ha]
  case' fcmpLit h d a imm ty cond =>
    obtain ⟨-, -, hd, ha⟩ := hw
    rw [parse_fcmpLit, dOp_bits hd, sOp_bits ha]
  -- Special functions (R130)
  case' frcp h d a ty f =>
    obtain ⟨-, -, -, hd, ha, -⟩ := hw
    rw [parse_frcp, dOp_bits hd, sOp_bits ha]
  case' frsq h d a ty f =>
    obtain ⟨-, -, -, hd, ha, -⟩ := hw
    rw [parse_frsq, dOp_bits hd, sOp_bits ha]
  case' fsqrt h d a ty f =>
    obtain ⟨-, -, -, hd, ha, -⟩ := hw
    rw [parse_fsqrt, dOp_bits hd, sOp_bits ha]
  case' fex2 h d a ty f =>
    obtain ⟨-, -, -, hd, ha, -⟩ := hw
    rw [parse_fex2, dOp_bits hd, sOp_bits ha]
  case' flg2 h d a ty f =>
    obtain ⟨-, -, -, hd, ha, -⟩ := hw
    rw [parse_flg2, dOp_bits hd, sOp_bits ha]
  case' fsin h d a ty f =>
    obtain ⟨-, -, -, hd, ha, -⟩ := hw
    rw [parse_fsin, dOp_bits hd, sOp_bits ha]
  case' fcos h d a ty f =>
    obtain ⟨-, -, -, hd, ha, -⟩ := hw
    rw [parse_fcos, dOp_bits hd, sOp_bits ha]
  -- Packed arithmetic and conversions (R134)
  case' hfma2 h d a b c ty f =>
    obtain ⟨-, -, hd, ha, hb, hc, -⟩ := hw
    have rc := sOp_bits hc
    rw [parse_hfma2, dOp_bits hd, sOp_bits ha, sOp_bits hb]
  case' hadd2 h d a b ty f =>
    obtain ⟨-, -, hd, ha, hb, -⟩ := hw
    rw [parse_hadd2, dOp_bits hd, sOp_bits ha, sOp_bits hb]
  case' hmul2 h d a b ty f =>
    obtain ⟨-, -, hd, ha, hb, -⟩ := hw
    rw [parse_hmul2, dOp_bits hd, sOp_bits ha, sOp_bits hb]
  case' qdot4 h d a b c ty rm sat bty =>
    obtain ⟨-, -, hd, ha, hb, hc⟩ := hw
    have rc := sOp_bits hc
    rw [parse_qdot4, dOp_bits hd, sOp_bits ha, sOp_bits hb]
  case' idot4 h d a b c ty sat bsgn =>
    obtain ⟨-, -, hd, ha, hb, hc⟩ := hw
    have rc := sOp_bits hc
    rw [parse_idot4, dOp_bits hd, sOp_bits ha, sOp_bits hb]
  case' fcvt h d a ty rm sat sty =>
    obtain ⟨-, -, -, hd, ha⟩ := hw
    rw [parse_fcvt, dOp_bits hd, sOp_bits ha]
  case' f2i h d a ty rm sty =>
    obtain ⟨-, -, hd, ha⟩ := hw
    rw [parse_f2i, dOp_bits hd, sOp_bits ha]
  case' i2f h d a ty rm sat sty =>
    obtain ⟨-, -, hd, ha⟩ := hw
    rw [parse_i2f, dOp_bits hd, sOp_bits ha]
  case' pack8 h d a b c ty rm sat half =>
    obtain ⟨-, -, hd, ha, hb, hc⟩ := hw
    have rc := sOp_bits hc
    rw [parse_pack8, dOp_bits hd, sOp_bits ha, sOp_bits hb]
  case' unpk8 h d a ty ety half =>
    obtain ⟨-, -, hd, ha⟩ := hw
    rw [parse_unpk8, dOp_bits hd, sOp_bits ha]
  -- Lane exchange (R178)
  case' shfl h d a b ty seg mode =>
    obtain ⟨-, -, hd, ha, hb, -⟩ := hw
    rw [parse_shfl, dOp_bits hd, sOp_bits ha, sOp_bits hb]
  case' vote h d a cnt neg mode =>
    obtain ⟨-, hd, ha, -⟩ := hw
    rw [parse_vote, dOp_bits hd, sOp_bits ha]
  case' matchLanes h d a ty =>
    obtain ⟨-, -, hd, ha⟩ := hw
    rw [parse_matchLanes, dOp_bits hd, sOp_bits ha]
  case' redux h d a ty rop =>
    obtain ⟨-, -, hd, ha, -⟩ := hw
    rw [parse_redux, dOp_bits hd, sOp_bits ha]
  case' wfence h => rw [parse_wfence]
  -- Masks (R185)
  case' mjoin h d disp =>
    obtain ⟨-, hd⟩ := hw
    rw [parse_mjoin, dOp_bits hd]
  case' mleave h set => rw [parse_mleave]
  case' mwait h a =>
    obtain ⟨-, ha⟩ := hw
    rw [parse_mwait, sOp_bits ha]
  case' mmov h d a b mode =>
    obtain ⟨-, operands⟩ := hw
    obtain ⟨rd, ra, rb⟩ := mmov_reads operands
    rw [parse_mmov]
  case' msync h a =>
    obtain ⟨-, ha⟩ := hw
    rw [parse_msync, sOp_bits ha]
  -- Threads and registers (R200)
  case' spawn h a b wsrc wid tgt nw prio idem =>
    obtain ⟨-, ha, hb, hwsrc, -⟩ := hw
    have rb := optS_bits hb
    have rwsrc := optS_bits hwsrc
    rw [parse_spawn, sOp_bits ha]
  case' cont h a b wsrc wid tgt nw prio idem =>
    obtain ⟨-, ha, hb, hwsrc, -⟩ := hw
    have rb := optS_bits hb
    have rwsrc := optS_bits hwsrc
    rw [parse_cont, sOp_bits ha]
  case' split h a disp live =>
    obtain ⟨-, ha⟩ := hw
    rw [parse_split, sOp_bits ha]
  case' rgive h nb => rw [parse_rgive]
  case' rclaim h nb => rw [parse_rclaim]
  case' segq h d a =>
    obtain ⟨-, -, hd, ha⟩ := hw
    rw [parse_segq, dOp_bits hd, sOp_bits ha]
  case' launch h d a ofs lq =>
    obtain ⟨-, -, hd, ha⟩ := hw
    rw [parse_launch, dOp_bits hd, sOp_bits ha]
  -- Tokens (R193)
  case' waitk h a n =>
    obtain ⟨-, ha⟩ := hw
    rw [parse_waitk, sOp_bits ha]
  case' tkrd h d =>
    obtain ⟨-, hd⟩ := hw
    rw [parse_tkrd, dOp_bits hd]
  case' tksav h a ofs =>
    obtain ⟨-, ha⟩ := hw
    rw [parse_tksav, sOp_bits ha]
  case' tkrst h opn set => rw [parse_tkrst]
  -- Loads, stores and maintenance (R142)
  case' ld h d a ofs scope order ty vec ch =>
    obtain ⟨-, -, ha, hd, -⟩ := hw
    rw [parse_ld, dOp_bits hd, sOp_bits ha]
  case' st h a b ofs scope order ty vec ch =>
    obtain ⟨-, ha, hb, -⟩ := hw
    rw [parse_st, sOp_bits ha, sOp_bits hb]
  case' stn h a b ofs scope order ty nsel =>
    obtain ⟨-, ha, hb, -⟩ := hw
    rw [parse_stn, sOp_bits ha, sOp_bits hb]
  case' stnReport h d a b ofs scope order ty nsel =>
    obtain ⟨-, -, hd, ha, hb, -⟩ := hw
    rw [parse_stnReport, dOp_bits hd, sOp_bits ha, sOp_bits hb]
  case' pref h a ofs lvl =>
    obtain ⟨-, ha, -⟩ := hw
    rw [parse_pref, sOp_bits ha]
  case' ldf h d a ofs ty vec =>
    obtain ⟨-, -, ha, hd, -⟩ := hw
    rw [parse_ldf, dOp_bits hd, sOp_bits ha]
  case' dcwb h a ofs scope =>
    obtain ⟨-, ha, -⟩ := hw
    rw [parse_dcwb, sOp_bits ha]
  case' dcinv h a ofs scope =>
    obtain ⟨-, ha, -⟩ := hw
    rw [parse_dcinv, sOp_bits ha]
  case' dcfl h a ofs scope =>
    obtain ⟨-, ha, -⟩ := hw
    rw [parse_dcfl, sOp_bits ha]
  case' icinv h a ofs scope =>
    obtain ⟨-, ha, -⟩ := hw
    rw [parse_icinv, sOp_bits ha]
  case' ifence h => rw [parse_ifence]
  case' fence h scope order => rw [parse_fence]
  -- Reader sets
  case' rsmk h d a b keep lvl =>
    obtain ⟨-, hd, ha, hb, -⟩ := hw
    rw [parse_rsmk, dOp_bits hd, sOp_bits ha, sOp_bits hb]
  case' rsrev h a b ofs mode =>
    obtain ⟨-, ha, hb, -⟩ := hw
    rw [parse_rsrev, sOp_bits ha, sOp_bits hb]
  case' rsqry h d a ofs =>
    obtain ⟨-, -, hd, ha⟩ := hw
    rw [parse_rsqry, dOp_bits hd, sOp_bits ha]
  -- Atomics (R162)
  case' atom h d a b ofs scope order ty aop =>
    obtain ⟨-, -, hd, ha, hb, -⟩ := hw
    rw [parse_atom, dOp_bits hd, sOp_bits ha, sOp_bits hb]
  case' acas h d a b ofs scope order ty =>
    obtain ⟨-, -, -, hd, ha, hb, -⟩ := hw
    rw [parse_acas, dOp_bits hd, sOp_bits ha, sOp_bits hb]
  case' red h a b ofs scope order ty aop =>
    obtain ⟨-, ha, hb, -⟩ := hw
    rw [parse_red, sOp_bits ha, sOp_bits hb]
  -- Queues (R166)
  case' enq h d a b ofs scope order sz blk =>
    obtain ⟨-, -, hd, ha, hb, -⟩ := hw
    rw [parse_enq, dOp_bits hd, sOp_bits ha, sOp_bits hb]
  case' deq h d a ofs scope order sz blk =>
    obtain ⟨-, -, hd, ha, -⟩ := hw
    rw [parse_deq, dOp_bits hd, sOp_bits ha]
  case' qinit h a b ofs sz =>
    obtain ⟨-, ha, hb⟩ := hw
    rw [parse_qinit, sOp_bits ha, sOp_bits hb]
  case' qstat h d a ofs =>
    obtain ⟨-, -, hd, ha⟩ := hw
    rw [parse_qstat, dOp_bits hd, sOp_bits ha]
  -- Sharing groups (R170)
  case' gjoin h => rw [parse_gjoin]
  case' gleave h => rw [parse_gleave]
  case' gmap h a slot =>
    obtain ⟨-, ha, -⟩ := hw
    rw [parse_gmap, sOp_bits ha]
  -- Copies (R212)
  case' cpy h a ofs =>
    obtain ⟨-, ha⟩ := hw
    rw [parse_cpy, sOp_bits ha]
  case' gath h a ofs =>
    obtain ⟨-, ha⟩ := hw
    rw [parse_gath, sOp_bits ha]
  case' scat h a ofs =>
    obtain ⟨-, ha⟩ := hw
    rw [parse_scat, sOp_bits ha]
  case' mcast h a ofs =>
    obtain ⟨-, ha⟩ := hw
    rw [parse_mcast, sOp_bits ha]
  case' cpyq h d a ofs =>
    obtain ⟨-, -, hd, ha⟩ := hw
    rw [parse_cpyq, dOp_bits hd, sOp_bits ha]
  -- Barriers and tiles (R222, R225)
  case' binit h a b ofs =>
    obtain ⟨-, ha, hb⟩ := hw
    rw [parse_binit, sOp_bits ha, sOp_bits hb]
  case' barr h a b ofs =>
    obtain ⟨-, ha, hb⟩ := hw
    rw [parse_barr, sOp_bits ha, sOp_bits hb]
  case' bwait h d a b ofs =>
    obtain ⟨-, -, hd, ha, hb⟩ := hw
    rw [parse_bwait, dOp_bits hd, sOp_bits ha, sOp_bits hb]
  case' btst h d a ofs =>
    obtain ⟨-, -, hd, ha⟩ := hw
    rw [parse_btst, dOp_bits hd, sOp_bits ha]
  case' tdecl h a b rdy tile =>
    obtain ⟨-, ha, hb⟩ := hw
    rw [parse_tdecl, sOp_bits ha, sOp_bits hb]
  case' tstat h d tile =>
    obtain ⟨-, -, hd⟩ := hw
    rw [parse_tstat, dOp_bits hd]
  case' trel h tile => rw [parse_trel]
  -- The matrix unit (R229)
  case' mma h d a b c ty be5 kq za =>
    obtain ⟨-, -, hd, ha, hb, hc, -⟩ := hw
    have rc := sOp_bits hc
    rw [parse_mma, dOp_bits hd, sOp_bits ha, sOp_bits hb]
  case' mmap h d a b c ty be5 kq za =>
    obtain ⟨-, -, hd, ha, hb, hc, -⟩ := hw
    have rc := sOp_bits hc
    rw [parse_mmap, dOp_bits hd, sOp_bits ha, sOp_bits hb]
  case' accsc h d a b c =>
    obtain ⟨-, -, hd, ha, hb, hc⟩ := hw
    have rc := sOp_bits hc
    rw [parse_accsc, dOp_bits hd, sOp_bits ha, sOp_bits hb]
  case' accz h d =>
    obtain ⟨-, -, hd⟩ := hw
    rw [parse_accz, dOp_bits hd]
  case' accrd h d a b =>
    obtain ⟨-, -, hd, ha, hb⟩ := hw
    rw [parse_accrd, dOp_bits hd, sOp_bits ha, sOp_bits hb]
  case' accwr h d a b =>
    obtain ⟨-, -, hd, ha, hb⟩ := hw
    rw [parse_accwr, dOp_bits hd, sOp_bits ha, sOp_bits hb]
  case' accld h d a str =>
    obtain ⟨-, -, hd, ha, -⟩ := hw
    rw [parse_accld, dOp_bits hd, sOp_bits ha]
  case' accst h a b str =>
    obtain ⟨-, -, ha, hb, -⟩ := hw
    rw [parse_accst, sOp_bits ha, sOp_bits hb]
  -- Collectives and active messages (R237)
  case' coll h d a b ofs =>
    obtain ⟨-, -, hd, ha, hb⟩ := hw
    rw [parse_coll, dOp_bits hd, sOp_bits ha, sOp_bits hb]
  case' viewq h d b sl =>
    obtain ⟨-, -, hd, hb⟩ := hw
    rw [parse_viewq, dOp_bits hd, sOp_bits hb]
  case' amsend h a b c nw =>
    obtain ⟨-, ha, hb, hc, -⟩ := hw
    have rc := sOp_bits hc
    have rb := optS_bits hb
    rw [parse_amsend, sOp_bits ha]
  case' arrq h d blk =>
    obtain ⟨-, -, hd⟩ := hw
    rw [parse_arrq, dOp_bits hd]
  -- Special registers (R242)
  case' mfs h d a =>
    obtain ⟨-, ha, dest⟩ := hw
    obtain ⟨_, hd⟩ := mfsChk_slot dest
    rw [parse_mfs, dOp_bits hd, sOp_bits ha]
  case' mts h d a =>
    obtain ⟨-, hd, ha⟩ := hw
    rw [parse_mts, dOp_bits hd, sOp_bits ha]
  all_goals
    simp (disch := omega) only [read_bind, Ctl.of_bits, bit, bits_append_hi, bits_append_lo, Nat.reduceSub, bits_self, ofBool_beq_one, glue_disp20,
      glue_disp30, glue_disp60, glue_imm32, *]

/-- A well-formed instruction that has a word decodes from it. -/
theorem decode_encode {i : Instr} {w : BitVec 96} (hw : i.wf = true) (he : encode i = some w) : decode w = .ok i := by
  obtain ⟨f, hf, rfl⟩ := Option.map_eq_some_iff.mp he
  have legal : i.illegal = none := by simpa [Instr.wf] using hw
  exact decode_of_parse hw hf (parse_fields (allPass_of_firstIllegal legal) hf)

/-- What decodes is well formed and has the word that it decodes from. -/
theorem wf_and_encode_of_decode {w : BitVec 96} {i : Instr} (h : decode w = .ok i) : i.wf = true ∧ encode i = some w := by
  unfold decode at h
  split at h
  · cases h
  · split at h
    · cases h
    · next legal =>
      split at h
      · next encodes =>
        cases h
        exact ⟨by simp [Instr.wf, legal], encodes⟩
      · cases h

/-- Settles O1: the fields of a word read back one by one, and the decoder compares the word of what it has read with the word it was given. -/
theorem decodeEncode : Obligations.DecodeEncode := by
  unfold Obligations.DecodeEncode
  exact ⟨fun _ _ => decode_encode, fun _ _ => wf_and_encode_of_decode⟩

/-- Settles O2: each word is the word of its instruction, which is well formed, and so decodes to it; for the last the decoder is run. -/
theorem decodeWords : Obligations.DecodeWords := by
  unfold Obligations.DecodeWords
  refine ⟨?_, ?_, ?_, ?_, ?_, ?_, ?_, ?_, ?_, ?_, ?_, ?_, ?illegal⟩
  case illegal => decide
  all_goals exact decode_encode (by decide) (by decide)

end Sys2Proof
end

section
/-! SUPPORT AND PROOF. Every step keeps memory in its one form (O5), and a step runs what it fetches and decodes (O3). -/

namespace Sys2Proof.Machine

set_option Elab.async false

/-! ### The canonical form -/

/-- Every meaning keeps the canonical form: it changes memory by writing bytes only. -/
theorem exec_keeps_inv {i : Instr} {s t : State} (hs : s.inv) (h : exec i s = .next t) : t.inv := by
  obtain ⟨f, he⟩ := runs i s
  obtain ⟨l, hl⟩ := run_mem (he ▸ h)
  rw [State.inv, hl]
  exact Memory.wf_writeAll hs l

/-- What a step has written so far leaves the form. -/
theorem after_inv {s : State} (hs : s.inv) (u : St) : (s.after u).inv := Memory.wf_writeAll hs u.log

/-- Settles O5: a step is the meaning of an event from the same memory, of an instruction from what its fetch leaves, or the writes of a failed
fetch or of the end of the cycle alone. -/
theorem invariantKept : Obligations.InvariantKept := by
  unfold Obligations.InvariantKept
  refine ⟨fun s t hs h => ?_, fun i s t => exec_keeps_inv⟩
  unfold step at h
  split at h
  next e rest _ => exact exec_keeps_inv (s := ⟨s.mem, { s.dev with agenda := rest }⟩) hs h
  next =>
    split at h
    next w _ =>
      split at h
      next i u _ => exact exec_keeps_inv (after_inv hs u) h
      next u _ =>
        cases h
        exact after_inv hs u
    next =>
      cases h
      exact after_inv hs _

/-! ### The fetch of a step -/

section
variable {s : State} {w : Nat} (idle : s.dev.agenda = []) (turn : (St.of s).pick = some w)
include idle turn

/-- With no event due, the wave whose turn it is runs what it fetches. -/
theorem step_of_fetched {i : Instr} {t : St} (fetched : (St.of s).fetchFor w = .ok (i, t)) : step s = exec i (s.after t) := by
  simp only [step, idle, turn, fetched]

/-- With no event due, a fetch that fails is the step. -/
theorem step_of_fault {t : St} (fault : (St.of s).fetchFor w = .error t) : step s = .next (s.after t) := by
  simp only [step, idle, turn, fault]

end

section
variable {s u : St} {w : Nat} {pc : Addr} (taken : u = s.withD (·.turnTo w)) (front : (u.d.wave w).front = some pc)
include taken front

/-- Sequential flow out of the pinned segment faults (R388). -/
theorem fetchFor_leaves (leaves : u.leavesSegment w pc = true) : s.fetchFor w = .error (u.fetchFault w 0) := by
  subst taken
  simp only [St.fetchFor, front, leaves, if_true]

variable (stays : u.leavesSegment w pc = false)
include stays

theorem fetchFor_failed {k : Nat} (failed : u.fetch w (u.d.block (u.d.wave w).blk).asid pc.toNat = .error k) :
    s.fetchFor w = .error (u.fetchFault w k) := by
  subst taken
  simp only [St.fetchFor, front, stays, failed, Bool.false_eq_true, if_false]

/-- A word that is fetched is latched; one that decodes to nothing is the illegal word (R61). -/
theorem fetchFor_fetched {word : BitVec 96} {t : St} (fetched : u.fetch w (u.d.block (u.d.wave w).blk).asid pc.toNat = .ok (word, t)) :
    s.fetchFor w = .ok ((decode word).toOption.getD .illegalWord, t.withD fun d => { d with iword := word }) := by
  subst taken
  simp only [St.fetchFor, front, stays, fetched, Bool.false_eq_true, if_false]
  cases decode word <;> rfl

end

/-! ### The bytes that a fetch reads -/

/-- A byte of a block that the quarter's L0I holds is read from it (R295). -/
theorem codeByte_held {u : St} {w asid va : Nat} {x : IBlock} (held : u.d.iblock 0 (w / 16) asid (va / 192 * 192) = some x) :
    u.codeByte w asid va = x.bytes.getD (va % 192) 0 := by
  have offset : va - va / 192 * 192 = va % 192 := by omega
  simp only [St.codeByte, held, offset]

theorem fetch_word {u t : St} {w asid pc : Nat} {word : BitVec 96} (h : u.fetch w asid pc = .ok (word, t)) : word = u.codeWord w asid pc := by
  unfold St.fetch at h
  split at h
  · exact absurd h (by simp)
  · exact (congrArg Prod.fst (Except.ok.inj h)).symm

/-- A store holds the block that it has taken last. -/
theorem iblock_keepBlock (d : Device) (b : IBlock) : (d.keepBlock b).iblock b.level b.unit b.asid b.va = some b := by
  simp [Device.keepBlock, Device.iblock]

/-- A block that comes into the L2I has the bytes that the die's memory holds (R295). -/
theorem fillL2_iblock {u : St} {core asid b : Nat} (absent : u.d.iblock 2 (dieOf core) asid b = none) (keeps : u.keeps (sliceOf core) asid b = true) :
    let v := (u.cacheTlb (sliceOf core) asid b).cacheTlb (sliceOf core) asid (b + 191)
    (u.fillL2 core asid b).d.iblock 2 (dieOf core) asid b = some ⟨2, dieOf core, asid, b, v.codeBytes (sliceOf core) asid b 192⟩ := by
  intro v
  have filled : u.fillL2 core asid b = v.withD (·.keepBlock ⟨2, dieOf core, asid, b, v.codeBytes (sliceOf core) asid b 192⟩) := by
    simp [St.fillL2, absent, keeps, v]
  rw [filled]
  exact iblock_keepBlock _ _

/-- Settles O3: the branches of `step` and of its fetch, and the bytes of the blocks that the instruction stores hold. -/
theorem stepRunsDecoded : Obligations.StepRunsDecoded := by
  unfold Obligations.StepRunsDecoded
  refine ⟨?leaves, ?failed, ?fetched, ?bytes, fun _ _ _ _ => fillL2_iblock, ?event, ?cycle⟩
  case leaves =>
    intro s w pc idle turn u front leaves
    exact step_of_fault idle turn (fetchFor_leaves rfl front leaves)
  case failed =>
    intro s w pc k idle turn u front stays failed
    exact step_of_fault idle turn (fetchFor_failed rfl front stays failed)
  case fetched =>
    intro s w pc word t idle turn u front stays fetched v
    rw [step_of_fetched idle turn (fetchFor_fetched rfl front stays fetched)]
    cases decode word <;> rfl
  case bytes =>
    intro u t w asid pc word b fetched held
    rw [fetch_word fetched, St.codeWord]
    congr 1
    exact List.map_congr_left fun k hk => codeByte_held (held k (List.mem_range.mp hk))
  case event =>
    intro s e rest due
    simp only [step, due]
  case cycle =>
    intro s idle none_issues
    simp only [step, idle, none_issues]

end Sys2Proof.Machine
end

section
/-! SUPPORT AND PROOF. What falls due at a wave (O49): an event that is enabled leaves what its meaning comes to. -/

namespace Sys2Proof.Machine

set_option Elab.async false

/-! ### Events that are enabled -/

@[simp] theorem St.of_d (s : State) : (St.of s).d = s.dev := rfl

section
variable {ins : Instr} {s : State} {f : St → Option St} (he : exec ins s = event s f)
include he

/-- An event that is enabled leaves what its meaning comes to. -/
theorem writes_of_event {u : St} (enabled : f (St.of s) = some u) : Writes ins s u := by
  rw [Writes, he, event, run, enabled]
  rfl

/-- An enabled event that writes no memory leaves the device that its meaning comes to. -/
theorem becomes_of_event {d : Device} (enabled : f (St.of s) = some ((St.of s).withD fun _ => d)) : Becomes ins s d :=
  writes_of_event he enabled

end

/-- The oldest operation on a token retires when it is complete and the pipe holds no earlier result of its registers (R28). -/
theorem Wave.retire_oldest {x : Wave} {tok : Option Nat} {o : Op} (oldest : x.oldestOp tok = some o) (complete : o.done = true)
    (clear : x.pipeHolds o = false) : x.retire tok = some ((x.retireOp o).settle, o) := by
  simp [Wave.retire, oldest, complete, clear]

/-! ### Attempts that all succeed -/

section
variable {α ε : Type} {ls : List Nat} {f : Nat → Except ε α} {p : Nat → α} (succeed : ∀ l ∈ ls, f l = .ok (p l))
include succeed

/-- What is done lane by lane with the attempts is done with what each gave. -/
theorem foldl_of_succeed {σ : Type} {act : σ → Nat × Except ε α → σ} (t : σ) :
    (ls.map (fun l => (l, f l))).foldl act t = ls.foldl (fun t l => act t (l, .ok (p l))) t := by
  rw [List.foldl_map]
  exact foldl_congr_mem (fun t l hl => by rw [succeed l hl]) t

/-- What is kept of the attempts that fail is nothing. -/
theorem filterMap_of_succeed {β : Type} {kept : Nat × Except ε α → Option β} (none_kept : ∀ l q, kept (l, .ok q) = none) :
    (ls.map (fun l => (l, f l))).filterMap kept = [] := by
  rw [List.filterMap_map, List.filterMap_eq_nil_iff]
  intro l hl
  rw [Function.comp_apply, succeed l hl]
  exact none_kept l (p l)

end

/-! ### The events of a wave -/

/-- Settles O49: under its premises each event is enabled, and what its meaning then comes to is what the statement says. -/
theorem waveEventsHappen : Obligations.WaveEventsHappen := by
  unfold Obligations.WaveEventsHappen
  refine ⟨?illegal, ?lands, ?granted, ?memoryError, ?membership, ?arrives, ?retires, ?ends, ?leaves⟩
  case illegal =>
    intro s g y chosen live
    refine becomes_of_event (exec_illegalWord s) ?_
    simp only [St.of_d, St.withD, chosen, live, Bool.not_true, Bool.false_eq_true, if_false]
  case lands =>
    intro w s live due
    have any_due : (s.dev.wave w).pipe.any (fun e => (s.dev.wave w).ahead e == 0) = true := by simpa using due
    refine becomes_of_event (exec_fixedLatencyWriteback w s) ?_
    simp only [St.of_d, live, any_due]
    rfl
  case granted =>
    intro w s n o d claims live runs first served
    refine becomes_of_event (exec_rclaimGrant w s) ?_
    simp only [St.of_d, claims, live, runs, first, served]
    rfl
  case memoryError =>
    intro w s d g act pc t live due runs detail next
    refine writes_of_event (exec_asyncMemoryErrorTrap w s) ?_
    simp only [St.of_d, live, due, runs, detail, next]
    rfl
  case membership =>
    intro w s old new n g act pc t changed live runs no_error next
    refine writes_of_event (exec_membershipChangeTrap w s) ?_
    simp only [St.of_d, changed, live, runs, no_error, next]
    rfl
  case arrives =>
    intro w s ls g act pc t p top live runs no_handler arriving some_arrive next tops reached
    have nonempty : ls.isEmpty = false := by simpa using some_arrive
    have top_eq : ∀ l, (s.dev.launch ((St.of s).arrivalIss w g pc).slot).travelTop ((s.dev.wave w).thread l).workid = top l :=
      fun l => (congrFun tops l).symm
    refine writes_of_event (exec_hopArrival w s) ?_
    simp only [St.of_d, live, runs, no_handler, ← arriving, nonempty, next, top_eq]
    rw [filterMap_of_succeed reached (fun _ _ => rfl), foldl_of_succeed reached]
    rfl
  case retires =>
    intro w tok s o bound live oldest complete clear
    refine becomes_of_event (exec_operationRetire w tok s) ?_
    simp only [St.of_d, St.withD, live, if_pos bound, Wave.retire_oldest oldest complete clear, Bool.not_true, Bool.false_eq_true, if_false,
      Option.map_some]
  case ends =>
    intro w s live all_done retired no_handler stays none_held
    have none_late : s.dev.late.any (·.uid == (s.dev.wave w).uid) = false := by simpa using none_held
    refine becomes_of_event (exec_waveEnd w s) ?_
    simp only [St.of_d, live, all_done, retired, no_handler, stays, none_late]
    rfl
  case leaves =>
    intro w s live leaving
    refine writes_of_event (exec_cooperativeLeave w s) ?_
    simp only [List.map_map, St.of_d, live, leaving]
    rfl

end Sys2Proof.Machine
end

section
/-! SUPPORT AND PROOF. What the integer operations compute (O60): the value of a pattern and the pattern of a result as the one number of a type's
range that is congruent to them, and the operations on 32-bit patterns as those of bit vectors. -/

namespace Sys2Proof.Machine

/-! ### The range of a type (R69) -/

theorem intW_cases : ∀ ty : BitVec 3, intW ty = 8 ∨ intW ty = 16 ∨ intW ty = 32 ∨ intW ty = 64 := by decide

/-- The types that one register holds have at most 32 bits. -/
theorem intW_le_of_one_register : ∀ ty : BitVec 3, ty.toNat < 6 → intW ty ≤ 32 := by decide

theorem two_pow_intW_pos (ty : BitVec 3) : (0 : Int) < 2 ^ intW ty := Int.pow_pos (by decide)

/-- Half of the values of a type have the top bit set. -/
theorem two_pow_intW (ty : BitVec 3) : (2 : Int) ^ intW ty = 2 * 2 ^ (intW ty - 1) := by
  have pos : intW ty = intW ty - 1 + 1 := by have := intW_cases ty; omega
  rw [← Int.pow_succ', ← pos]

/-- A type has `2^W` values, from its least one on. -/
theorem intMax_eq (ty : BitVec 3) : intMax ty = intMin ty + 2 ^ intW ty - 1 := by
  have half := two_pow_intW ty
  unfold intMax intMin
  split <;> omega

theorem intMin_le_intMax (ty : BitVec 3) : intMin ty ≤ intMax ty := by
  have pos := two_pow_intW_pos ty
  have top := intMax_eq ty
  omega

/-- Two values of one type's range that agree modulo `2^W` are the same. -/
theorem eq_of_emod_eq_of_range {ty : BitVec 3} {x y : Int} (hx : intMin ty ≤ x ∧ x ≤ intMax ty) (hy : intMin ty ≤ y ∧ y ≤ intMax ty)
    (h : x % 2 ^ intW ty = y % 2 ^ intW ty) : x = y := by
  have top := intMax_eq ty
  have offset : x - intMin ty = y - intMin ty :=
    calc x - intMin ty = (x - intMin ty) % 2 ^ intW ty := (Int.emod_eq_of_lt (by omega) (by omega)).symm
      _ = (y - intMin ty) % 2 ^ intW ty := (Int.emod_sub_cancel_right _).mpr h
      _ = y - intMin ty := Int.emod_eq_of_lt (by omega) (by omega)
  omega

/-! ### Reading a pattern (R69, R70) -/

/-- A value that is read lies in the range of its type. -/
theorem intOf_range (ty : BitVec 3) (v : Nat) : intMin ty ≤ intOf ty v ∧ intOf ty v ≤ intMax ty := by
  have half := two_pow_intW ty
  have below : v % 2 ^ intW ty < 2 ^ intW ty := Nat.mod_lt _ (Nat.two_pow_pos _)
  have half_nat : ((2 ^ (intW ty - 1) : Nat) : Int) = 2 ^ (intW ty - 1) := Int.natCast_pow 2 _
  have full_nat : ((2 ^ intW ty : Nat) : Int) = 2 ^ intW ty := Int.natCast_pow 2 _
  unfold intOf intMin intMax
  cases intSigned ty with
  | false => simp only [Bool.false_and, Bool.false_eq_true, if_false]; omega
  | true =>
    simp only [Bool.true_and, decide_eq_true_eq, if_true]
    split <;> omega

/-- A value that is read is the pattern modulo `2^W`. -/
theorem intOf_emod (ty : BitVec 3) (v : Nat) : intOf ty v % 2 ^ intW ty = v % 2 ^ intW ty := by
  have low : ((v % 2 ^ intW ty : Nat) : Int) % 2 ^ intW ty = v % 2 ^ intW ty := by
    rw [Int.natCast_emod, Int.natCast_pow]
    exact Int.emod_emod _ _
  unfold intOf
  dsimp only
  split
  · exact (Int.sub_emod_right _ _).trans low
  · exact low

/-- What is read is the one value of the range that is congruent to the pattern. -/
theorem intOf_eq {ty : BitVec 3} {x : Int} {v : Nat} (hx : intMin ty ≤ x ∧ x ≤ intMax ty) (h : v % 2 ^ intW ty = x % 2 ^ intW ty) :
    intOf ty v = x :=
  eq_of_emod_eq_of_range (intOf_range ty v) hx ((intOf_emod ty v).trans h)

/-! ### Writing a result (R70, R71) -/

theorem clamp_range (ty : BitVec 3) (v : Int) : intMin ty ≤ clamp ty v ∧ clamp ty v ≤ intMax ty :=
  ⟨Int.le_max_left _ _, Int.max_le.mpr ⟨intMin_le_intMax ty, Int.min_le_left _ _⟩⟩

/-- The low W bits of an exact result. -/
theorem toNat_emod_emod (v : Int) (w : Nat) : ((v % 2 ^ w).toNat : Int) % 2 ^ w = v % 2 ^ w := by
  have pos : (0 : Int) < 2 ^ w := Int.pow_pos (by decide)
  rw [Int.toNat_of_nonneg (Int.emod_nonneg _ (by omega))]
  exact Int.emod_emod _ _

/-- The pattern of a word is its value modulo `2^32`, so modulo each smaller power of two. -/
theorem toNat_ofInt_emod {w : Nat} (hw : w ≤ 32) (v : Int) : ((BitVec.ofInt 32 v).toNat : Int) % 2 ^ w = v % 2 ^ w := by
  have divides : (2 : Int) ^ w ∣ 2 ^ 32 := ⟨2 ^ (32 - w), by rw [← Int.pow_add, Nat.add_sub_of_le hw]⟩
  have word : ((BitVec.ofInt 32 v).toNat : Int) % 2 ^ 32 = v % 2 ^ 32 := by
    rw [BitVec.toNat_ofInt]
    exact toNat_emod_emod v 32
  rw [← Int.emod_emod_of_dvd _ divides, word, Int.emod_emod_of_dvd _ divides]

/-- The pattern written is congruent to the exact value, clamped with SAT. -/
theorem intRes_emod (ty : BitVec 3) (sat : Bool) (v : Int) :
    intRes ty sat v % 2 ^ intW ty = (if sat then clamp ty v else v) % 2 ^ intW ty := by
  unfold intRes
  dsimp only
  split
  case isTrue => exact toNat_emod_emod _ _
  case isFalse wide =>
    have narrow : intW ty ≤ 32 := by have := intW_cases ty; omega
    exact (toNat_ofInt_emod narrow _).trans ((intOf_emod ty _).trans (toNat_emod_emod _ _))

/-- With SAT the result reads back as the clamped value. -/
theorem intOf_intRes_sat (ty : BitVec 3) (v : Int) : intOf ty (intRes ty true v) = clamp ty v :=
  intOf_eq (clamp_range ty v) (intRes_emod ty true v)

/-- Under a type of at most 32 bits the pattern is the value extended to 32 bits. -/
theorem intRes_extended {ty : BitVec 3} (h : ty.toNat < 6) (sat : Bool) (v : Int) :
    intRes ty sat v = (BitVec.ofInt 32 (intOf ty (intRes ty sat v))).toNat := by
  have word : intW ty ≠ 64 := by have := intW_le_of_one_register ty h; omega
  have read : intOf ty (intRes ty sat v) = intOf ty ((if sat then clamp ty v else v) % 2 ^ intW ty).toNat :=
    intOf_eq (intOf_range ty _) ((intRes_emod ty sat v).trans ((toNat_emod_emod _ _).symm.trans (intOf_emod ty _).symm))
  rw [read, intRes]
  exact if_neg word

/-- Under a 32-bit type, signed or not, a wrapped result is the word of the exact value. -/
theorem intRes_word {ty : BitVec 3} (h : intW ty = 32) (v : Int) : intRes ty false v = (BitVec.ofInt 32 v).toNat := by
  have same := (intOf_emod ty (v % 2 ^ intW ty).toNat).trans (toNat_emod_emod v _)
  rw [h] at same
  rw [intRes, if_neg (by omega), BitVec.toNat_ofInt, BitVec.toNat_ofInt, h]
  exact congrArg Int.toNat same

/-! ### Logical operations on words (R108) -/

/-- An operation on 64-bit patterns that keeps low bits to themselves is the operation on words. -/
theorem toNat_ofInt_bitsOp {f : Nat → Nat → Nat} (hf : ∀ m n, f m n % 2 ^ 32 = f (m % 2 ^ 32) (n % 2 ^ 32)) (a b : Int) :
    (BitVec.ofInt 32 (bitsOp f a b)).toNat = f (BitVec.ofInt 32 a).toNat (BitVec.ofInt 32 b).toNat := by
  have low : ∀ x : Int, (x % 2 ^ 64).toNat % 2 ^ 32 = (BitVec.ofInt 32 x).toNat := by
    intro x
    rw [BitVec.toNat_ofInt]
    omega
  rw [bitsOp, BitVec.ofInt_natCast, BitVec.toNat_ofNat, hf, low, low]

theorem ofInt_iand (a b : Int) : BitVec.ofInt 32 (iand a b) = BitVec.ofInt 32 a &&& BitVec.ofInt 32 b :=
  BitVec.eq_of_toNat_eq ((toNat_ofInt_bitsOp (fun _ _ => Nat.and_mod_two_pow) a b).trans (BitVec.toNat_and ..).symm)

theorem ofInt_ior (a b : Int) : BitVec.ofInt 32 (ior a b) = BitVec.ofInt 32 a ||| BitVec.ofInt 32 b :=
  BitVec.eq_of_toNat_eq ((toNat_ofInt_bitsOp (fun _ _ => Nat.or_mod_two_pow) a b).trans (BitVec.toNat_or ..).symm)

theorem ofInt_ixor (a b : Int) : BitVec.ofInt 32 (ixor a b) = BitVec.ofInt 32 a ^^^ BitVec.ofInt 32 b :=
  BitVec.eq_of_toNat_eq ((toNat_ofInt_bitsOp (fun _ _ => Nat.xor_mod_two_pow) a b).trans (BitVec.toNat_xor ..).symm)

/-- `-b - 1` is the complement. -/
theorem ofInt_complement (b : Int) : BitVec.ofInt 32 (-b - 1) = ~~~BitVec.ofInt 32 b := by
  rw [BitVec.not_eq_neg_add, ← BitVec.ofInt_neg, BitVec.sub_eq_add_neg, Int.sub_eq_add_neg, BitVec.ofInt_add]
  rfl

theorem ofInt_iandn (a b : Int) : BitVec.ofInt 32 (iandn a b) = BitVec.ofInt 32 a &&& ~~~BitVec.ofInt 32 b := by
  rw [iandn, ofInt_iand, ofInt_complement]

theorem ofInt_iorn (a b : Int) : BitVec.ofInt 32 (iorn a b) = BitVec.ofInt 32 a ||| ~~~BitVec.ofInt 32 b := by
  rw [iorn, ofInt_ior, ofInt_complement]

theorem ofInt_toNat (a : BitVec 32) : BitVec.ofInt 32 a.toNat = a := by
  rw [BitVec.ofInt_natCast, BitVec.ofNat_toNat, BitVec.setWidth_eq]

/-! ### Shifts and rotations of words (R109) -/

theorem ofInt_shl (a : BitVec 32) (n : Nat) : BitVec.ofInt 32 (shl 32 a.toNat n) = a <<< n := by
  unfold shl
  split
  case isTrue =>
    apply BitVec.eq_of_toNat_eq
    rw [BitVec.toNat_shiftLeft, Nat.shiftLeft_eq, ← BitVec.toNat_ofNat, ← BitVec.ofInt_natCast]
    push_cast
    rfl
  case isFalse out => exact (BitVec.shiftLeft_eq_zero (Nat.le_of_not_lt out)).symm

/-- A quotient by `2^n` is already 0 or -1 once every bit has left. -/
theorem shr_eq_shiftRight {w n : Nat} {a : Int} (lo : -2 ^ w ≤ a) (hi : a < 2 ^ w) : shr w a n = a >>> n := by
  rw [Int.shiftRight_eq_div_pow, shr]
  push_cast
  split
  case isTrue => rfl
  case isFalse out =>
    have grown : (2 : Int) ^ w ≤ 2 ^ n := by exact_mod_cast Nat.pow_le_pow_right Nat.zero_lt_two (Nat.le_of_not_lt out)
    split
    · exact (Int.ediv_eq_neg_one_of_neg_of_le ‹_› (by omega)).symm
    · exact (Int.ediv_eq_zero_of_lt (by omega) (by omega)).symm

theorem ofInt_shr (a : BitVec 32) (n : Nat) : BitVec.ofInt 32 (shr 32 a.toNat n) = a >>> n := by
  rw [shr_eq_shiftRight (by omega) (by have := a.isLt; omega)]
  apply BitVec.eq_of_toNat_eq
  rw [← Int.natCast_shiftRight, BitVec.ofInt_natCast, ← BitVec.toNat_ushiftRight, BitVec.ofNat_toNat, BitVec.setWidth_eq]

theorem ofInt_sar (a : BitVec 32) (n : Nat) : BitVec.ofInt 32 (shr 32 a.toInt n) = a.sshiftRight n := by
  rw [shr_eq_shiftRight (by have := a.le_toInt; omega) (by have := a.toInt_lt; omega), BitVec.sshiftRight_eq]

theorem ofInt_rot (a : BitVec 32) (n : Nat) : BitVec.ofInt 32 (rot 32 a.toNat n) = a.rotateLeft n := by
  have pattern : ((a.toNat : Int) % 2 ^ 32).toNat = a.toNat := by have := a.isLt; omega
  have turned : a.toNat / 2 ^ (32 - n % 32) < 2 ^ (n % 32) := by
    rw [Nat.div_lt_iff_lt_mul (Nat.two_pow_pos _), ← Nat.pow_add, Nat.add_sub_of_le (by omega)]
    exact a.isLt
  have fits : a.toNat >>> (32 - n % 32) < 2 ^ 32 := Nat.lt_of_le_of_lt (Nat.shiftRight_le ..) a.isLt
  apply BitVec.eq_of_toNat_eq
  rw [rot, pattern, BitVec.ofInt_natCast, BitVec.toNat_ofNat, ← Nat.shiftLeft_eq, Nat.shiftLeft_add_eq_or_of_lt turned, Nat.or_mod_two_pow,
    ← Nat.shiftRight_eq_div_pow, Nat.mod_eq_of_lt fits, BitVec.toNat_rotateLeft]

/-! ### Bit reversal and leading zeros (R108) -/

/-- Bit i of the reversal is bit n − 1 − i. -/
theorem testBit_reverseBits (v : Nat) {n i : Nat} (h : i < n) : (reverseBits v n).testBit i = v.testBit (n - 1 - i) := by
  induction n generalizing i with
  | zero => omega
  | succ n ih =>
    cases i with
    | zero =>
      rw [reverseBits, Nat.testBit_zero, Nat.testBit_eq_decide_div_mod_eq, show n + 1 - 1 - 0 = n from rfl]
      exact decide_eq_decide.mpr (by omega)
    | succ i =>
      have dropped : reverseBits v (n + 1) / 2 = reverseBits v n := by rw [reverseBits]; omega
      rw [Nat.testBit_succ, dropped, ih (by omega)]
      congr 1
      omega

/-- The leading one bit of a value of n bits stands just below its leading zeros. -/
theorem leadingZeros_bounds {v n : Nat} (h : v < 2 ^ n) :
    (v ≠ 0 → 2 ^ (n - 1 - leadingZeros v n) ≤ v) ∧ v < 2 ^ (n - leadingZeros v n) := by
  by_cases zero : v = 0
  · subst zero
    exact ⟨fun nonzero => absurd rfl nonzero, Nat.two_pow_pos _⟩
  have short : v.log2 < n := (Nat.log2_lt zero).mpr h
  rw [leadingZeros, if_neg zero, show n - 1 - (n - 1 - v.log2) = v.log2 by omega, show n - (n - 1 - v.log2) = v.log2 + 1 by omega]
  exact ⟨fun _ => Nat.log2_self_le zero, Nat.lt_log2_self⟩

/-! ### The integer operations -/

/-- Settles O60: values and results are fixed by their range and their residue modulo `2^W`; on words each operation is the bit vector's. -/
theorem integerMeanings : Obligations.IntegerMeanings := by
  unfold Obligations.IntegerMeanings
  have unsigned : intW 4 = 32 := rfl
  have signed : intW 5 = 32 := rfl
  refine ⟨?value, ?wrapped, ?clamped, ?logical, ?shifts, fun v n i => testBit_reverseBits v, fun v => leadingZeros_bounds⟩
  case value =>
    intro ty v
    obtain ⟨least, greatest⟩ := intOf_range ty v
    have top := intMax_eq ty
    exact ⟨least, by change _ < intMin ty + _; omega, Int.emod_eq_emod_iff_emod_sub_eq_zero.mp (intOf_emod ty v)⟩
  case wrapped =>
    intro ty v
    have congruent := (intOf_emod ty _).trans (intRes_emod ty false v)
    exact ⟨Int.emod_eq_emod_iff_emod_sub_eq_zero.mp congruent, fun narrow => intRes_extended narrow false v⟩
  case clamped =>
    intro ty v
    rw [intOf_intRes_sat, clamp, intMax_eq, Int.min_comm]
    rfl
  case logical =>
    intro a b
    simp only [intRes_word unsigned, intRes_word signed, ofInt_iand, ofInt_ior, ofInt_ixor, ofInt_iandn, ofInt_iorn, ofInt_toNat,
      BitVec.ofInt_toInt, and_self]
  case shifts =>
    intro a n
    simp only [intRes_word unsigned, intRes_word signed, ofInt_shl, ofInt_shr, ofInt_sar, ofInt_rot, and_self]

end Sys2Proof.Machine
end

section
/-! SUPPORT AND PROOF. Integer arithmetic, comparison and predicates (O10, O13 to O17): each instruction is one of a few families, and what a family
posts is said once. Where an operation is no single constant, `( … :)` reads it off the meaning before it is met with the statement. -/

namespace Sys2Proof.Machine

/-! ### Families of instructions (R107, R109, R114, R117) -/

section
variable {ins : Instr} {opc : BitVec 12} {h : Ctl} {d : Opnd} {a b : Src} {ty : BitVec 3}

/-- A two-source integer instruction posts the exact result of its sources under TY, wrapped or clamped. -/
theorem intBin_result {lat : Nat} {sat : Bool} {f : Int → Int → Int} (he : ∀ s, exec ins s = intBin opc lat h d a b ty sat f s) :
    FixedResult ins opc h (req (d.rng (intN ty)) [a.rng (intN ty), b.rng (intN ty)]) lat (d.dest (intN ty))
      (fun _ x l => intRes ty sat (f (a.int x l ty) (b.int x l ty))) := alu_result he

/-- Its literal form takes the literal for the second source. -/
theorem intLit_result {lat : Nat} {imm : BitVec 32} {sat : Bool} {f : Int → Int → Int} (he : ∀ s, exec ins s = intLit opc lat h d a imm ty sat f s) :
    FixedResult ins opc h (req (d.rng (intN ty)) [a.rng (intN ty)]) lat (d.dest (intN ty))
      (fun _ x l => intRes ty sat (f (a.int x l ty) (litInt imm ty))) := alu_result he

/-- A one-source integer instruction. -/
theorem intUn_result {n : Nat} {f : Wave → Nat → Int → Nat} (he : ∀ s, exec ins s = intUn opc h d a ty n f s) :
    FixedResult ins opc h (req (d.rng n) [a.rng (intN ty)]) 2 (d.dest n) (fun _ x l => f x l (a.int x l ty)) := alu_result he

/-- A shift by the low eight bits of a 32-bit source. -/
theorem shiftBin_result {f : Nat → Int → Nat → Int} (he : ∀ s, exec ins s = shiftBin opc h d a b ty f s) :
    FixedResult ins opc h (req (d.rng (intN ty)) [a.rng (intN ty), b.rng 1]) 2 (d.dest (intN ty))
      (fun _ x l => intRes ty false (f (intW ty) (a.int x l ty) ((b.w x l).toNat % 256))) := alu_result he

/-- A shift by the low eight bits of a literal. -/
theorem shiftLit_result {imm : BitVec 32} {f : Nat → Int → Nat → Int} (he : ∀ s, exec ins s = shiftLit opc h d a imm ty f s) :
    FixedResult ins opc h (req (d.rng (intN ty)) [a.rng (intN ty)]) 2 (d.dest (intN ty))
      (fun _ x l => intRes ty false (f (intW ty) (a.int x l ty) (imm.toNat % 256))) := alu_result he

/-- A comparison of integers posts its condition, combined with the third predicate. -/
theorem cmpInt_result {c : Option Src} {cond : BitVec 3} {cb : BitVec 2} (he : ∀ s, exec ins s = cmpInt opc h d a b c ty cond cb s) :
    FixedResult ins opc h (req (d.rng 1) [a.rng (intN ty), b.rng (intN ty)]) 2 (d.dest 1)
      (fun _ x l => bitVal (comb cb (icond cond (a.int x l ty) (b.int x l ty)) (thirdPred c x l))) := alu_result he

/-- A comparison of floats, with the pattern of its second source given lane by lane. -/
theorem cmpFlt_result {lat cond : Nat} {bsrc : List (Nat × Nat × Bool)} {pat : Wave → Nat → Nat} {c : Option Src} {cb : BitVec 2}
    (he : ∀ s, exec ins s = cmpFlt opc lat h d a bsrc pat c ty cond cb s) :
    FixedResult ins opc h (req (d.rng 1) [a.rng (fltN ty), bsrc]) lat (d.dest 1) (fun _ x l =>
      bitVal (comb cb (fcond cond ((fmtOf ty.toNat).value (a.flt x l ty)) ((fmtOf ty.toNat).value (pat x l))) (thirdPred c x l))) := alu_result he

/-- A classification posts the class, or whether MASK holds it. -/
theorem fltClass_result {lat : Nat} {mask : BitVec 9} (he : ∀ s, exec ins s = fltClass opc lat h d a ty mask s) :
    FixedResult ins opc h (req (d.rng 1) [a.rng (fltN ty)]) lat (d.dest 1) (fun _ x l =>
      if d.isP then bitVal ((fmtOf ty.toNat).fcls (a.flt x l ty) &&& mask.toNat != 0) else (fmtOf ty.toNat).fcls (a.flt x l ty)) := alu_result he

end

/-! ### Integer instructions (R108 to R115) -/

/-- Settles O13: each is a two-source integer instruction of its own operation. -/
theorem integerTwoSource : Obligations.IntegerTwoSource := by
  unfold Obligations.IntegerTwoSource
  refine ⟨?iadd, ?isub, ?imul, ?imulh, ?imin, ?imax, ?and, ?or, ?xor, ?andn, ?orn, ?iadd64, ?isub64, ?bfi⟩
  case iadd => exact fun h d a b ty sat => intBin_result (exec_iadd h d a b ty sat)
  case isub => exact fun h d a b ty sat => intBin_result (exec_isub h d a b ty sat)
  case imul => exact fun h d a b ty => intBin_result (exec_imul h d a b ty)
  case imulh => exact fun h d a b ty => (intBin_result (exec_imulh h d a b ty) :)
  case imin => exact fun h d a b ty => intBin_result (exec_imin h d a b ty)
  case imax => exact fun h d a b ty => intBin_result (exec_imax h d a b ty)
  case and => exact fun h d a b ty => intBin_result (exec_and h d a b ty)
  case or => exact fun h d a b ty => intBin_result (exec_or h d a b ty)
  case xor => exact fun h d a b ty => intBin_result (exec_xor h d a b ty)
  case andn => exact fun h d a b ty => (intBin_result (exec_andn h d a b ty) :)
  case orn => exact fun h d a b ty => (intBin_result (exec_orn h d a b ty) :)
  case iadd64 => exact fun h d a b ty sat => intBin_result (exec_iadd64 h d a b ty sat)
  case isub64 => exact fun h d a b ty sat => intBin_result (exec_isub64 h d a b ty sat)
  case bfi => exact fun h d a b ty pos len => (intBin_result (exec_bfi h d a b ty pos len) :)

/-- Settles O14: the literal forms of O13's operations, and the two moves of a literal. -/
theorem integerLiteral : Obligations.IntegerLiteral := by
  unfold Obligations.IntegerLiteral
  refine ⟨?iadd, ?isub, ?imul, ?imulh, ?imin, ?imax, ?and, ?or, ?xor, ?andn, ?orn, ?movi, ?movh⟩
  case iadd => exact fun h d a imm ty sat => intLit_result (exec_iaddLit h d a imm ty sat)
  case isub => exact fun h d a imm ty sat => intLit_result (exec_isubLit h d a imm ty sat)
  case imul => exact fun h d a imm ty => intLit_result (exec_imulLit h d a imm ty)
  case imulh => exact fun h d a imm ty => (intLit_result (exec_imulhLit h d a imm ty) :)
  case imin => exact fun h d a imm ty => intLit_result (exec_iminLit h d a imm ty)
  case imax => exact fun h d a imm ty => intLit_result (exec_imaxLit h d a imm ty)
  case and => exact fun h d a imm ty => intLit_result (exec_andLit h d a imm ty)
  case or => exact fun h d a imm ty => intLit_result (exec_orLit h d a imm ty)
  case xor => exact fun h d a imm ty => intLit_result (exec_xorLit h d a imm ty)
  case andn => exact fun h d a imm ty => (intLit_result (exec_andnLit h d a imm ty) :)
  case orn => exact fun h d a imm ty => (intLit_result (exec_ornLit h d a imm ty) :)
  case movi => exact fun h d imm ty => alu_result (exec_movi h d imm ty)
  case movh => exact fun h d a imm ty => alu_result (exec_movh h d a imm ty)

/-- Settles O15. -/
theorem shiftsAndRotates : Obligations.ShiftsAndRotates := by
  unfold Obligations.ShiftsAndRotates
  refine ⟨?shl, ?shr, ?sar, ?rot, ?shlLit, ?shrLit, ?sarLit, ?rotLit⟩
  case shl => exact fun h d a b ty => shiftBin_result (exec_shl h d a b ty)
  case shr => exact fun h d a b ty => shiftBin_result (exec_shr h d a b ty)
  case sar => exact fun h d a b ty => shiftBin_result (exec_sar h d a b ty)
  case rot => exact fun h d a b ty => shiftBin_result (exec_rot h d a b ty)
  case shlLit => exact fun h d a imm ty => shiftLit_result (exec_shlLit h d a imm ty)
  case shrLit => exact fun h d a imm ty => shiftLit_result (exec_shrLit h d a imm ty)
  case sarLit => exact fun h d a imm ty => shiftLit_result (exec_sarLit h d a imm ty)
  case rotLit => exact fun h d a imm ty => shiftLit_result (exec_rotLit h d a imm ty)

/-- `PRMB` posts the permutation of the bytes of its first two sources by the third (R111). -/
theorem prmb_result (h : Ctl) (d : Opnd) (a b c : Src) (ty : BitVec 3) :
    FixedResult (.prmb h d a b c ty) 0x098 h (req (d.rng 1) [a.rng 1, b.rng 1, c.rng 1]) 2 (d.dest 1)
      (fun _ x l => prmb (a.w x l).toNat (b.w x l).toNat (c.w x l).toNat) := alu_result (exec_prmb h d a b c ty)

/-- Settles O16: those whose one source has the width of TY, and those that read other widths or three sources. -/
theorem integerOther : Obligations.IntegerOther := by
  unfold Obligations.IntegerOther
  refine ⟨?imad, ?imadw, ?iabs, ?fsh, ?bfx, ?popc, ?clz, ?brev, prmb_result, ?sel, ?mov, ?lea, ?icvt⟩
  case iabs => exact fun h d a ty sat => (intUn_result (exec_iabs h d a ty sat) :)
  case bfx => exact fun h d a ty pos len => (intUn_result (exec_bfx h d a ty pos len) :)
  case popc => exact fun h d a ty => (intUn_result (exec_popc h d a ty) :)
  case clz => exact fun h d a ty => (intUn_result (exec_clz h d a ty) :)
  case brev => exact fun h d a ty => (intUn_result (exec_brev h d a ty) :)
  case imad => exact fun h d a b c ty => alu_result (exec_imad h d a b c ty)
  case imadw => exact fun h d a b c ty => alu_result (exec_imadw h d a b c ty)
  case fsh => exact fun h d a b c ty dir => alu_result (exec_fsh h d a b c ty dir)
  case sel => exact fun h d a b c ty => alu_result (exec_sel h d a b c ty)
  case mov => exact fun h d a ty => alu_result (exec_mov h d a ty)
  case lea => exact fun h d a b ty sh => alu_result (exec_lea h d a b ty sh)
  case icvt => exact fun h d a ty sat sty => alu_result (exec_icvt h d a ty sat sty)

/-! ### The bytes of a permutation (R111) -/

theorem field_lt (v lo n : Nat) : field v lo n < 2 ^ n := Nat.mod_lt _ (Nat.two_pow_pos n)

/-- The bytes of a source string: those of its low word, then those of its high one. -/
theorem field_sourceString {a b : Nat} (ha : a < 2 ^ 32) {n : Nat} (hn : n < 8) :
    field (a + 2 ^ 32 * b) (8 * n) 8 = if n < 4 then field a (8 * n) 8 else field b (8 * (n - 4)) 8 := by
  unfold field
  split
  case isTrue low =>
    have whole : 2 ^ 32 * b = 2 ^ (8 * n) * (2 ^ 8 * (2 ^ (24 - 8 * n) * b)) := by
      rw [← Nat.mul_assoc, ← Nat.mul_assoc, ← Nat.pow_add, ← Nat.pow_add]
      congr 2
      omega
    rw [whole, Nat.add_mul_div_left _ _ (Nat.two_pow_pos _), Nat.add_mul_mod_self_left]
  case isFalse high =>
    have shift : 8 * n = 32 + 8 * (n - 4) := by omega
    rw [shift, Nat.pow_add, ← Nat.div_div_eq_div_mul, Nat.add_mul_div_left _ _ (Nat.two_pow_pos _), Nat.div_eq_of_lt ha, Nat.zero_add]

/-- The byte that a selector names, or copies of its top bit. -/
theorem prmbByte_eq {a b : Nat} (ha : a < 2 ^ 32) {s : Nat} (hs : s < 16) :
    prmbByte (a + 2 ^ 32 * b) s =
      (let src := if s % 8 < 4 then field a (8 * (s % 8)) 8 else field b (8 * (s % 8 - 4)) 8
       if s < 8 then src else if 128 ≤ src then 0xFF else 0) := by
  have copies : s / 8 % 2 = 0 ↔ s < 8 := by omega
  rw [← field_sourceString ha (Nat.mod_lt s (by decide))]
  unfold prmbByte
  dsimp only
  by_cases low : s < 8
  · rw [if_pos (copies.mpr low), if_pos low]
    rfl
  · rw [if_neg (mt copies.mp low), if_neg low]
    rfl

theorem prmbByte_lt (src sel : Nat) : prmbByte src sel < 256 := by
  unfold prmbByte
  dsimp only
  split
  · exact Nat.mod_lt _ (by decide)
  · split <;> decide

/-- Four bytes stand in a number one above the other. -/
theorem field_fourBytes {f : Nat → Nat} (hf : ∀ k, f k < 256) {e : Nat} (he : e < 4) :
    field (f 0 + 2 ^ 8 * f 1 + 2 ^ 16 * f 2 + 2 ^ 24 * f 3) (8 * e) 8 = f e := by
  have b0 := hf 0
  have b1 := hf 1
  have b2 := hf 2
  have b3 := hf 3
  unfold field
  obtain rfl | rfl | rfl | rfl : e = 0 ∨ e = 1 ∨ e = 2 ∨ e = 3 := by omega
  all_goals omega

/-- The bytes of a permutation are those that the four low selectors of `c` name. -/
theorem field_prmb (a b c : Nat) {e : Nat} (he : e < 4) : field (prmb a b c) (8 * e) 8 = prmbByte (a + 2 ^ 32 * b) (field c (4 * e) 4) := by
  rw [← field_fourBytes (f := fun k => prmbByte (a + 2 ^ 32 * b) (field c (4 * k) 4)) (fun _ => prmbByte_lt _ _) he]
  simp [prmb, field]

theorem prmb_lt (a b c : Nat) : prmb a b c < 2 ^ 32 := by
  have byte := prmbByte_lt (a + 2 ^ 32 * b)
  have b0 := byte (c % 16)
  have b1 := byte (c / 2 ^ 4 % 16)
  have b2 := byte (c / 2 ^ 8 % 16)
  have b3 := byte (c / 2 ^ 12 % 16)
  unfold prmb
  dsimp only
  omega

/-- Settles O10: the result of `PRMB`, byte by byte. -/
theorem bytesArePermuted : Obligations.BytesArePermuted := by
  unfold Obligations.BytesArePermuted
  intro h d a b c ty
  refine ⟨_, prmb_result h d a b c ty, fun i x l e he => ⟨prmb_lt _ _ _, ?_⟩⟩
  rw [field_prmb _ _ _ he]
  exact prmbByte_eq (a.w x l).isLt (field_lt _ _ 4)

/-! ### Comparisons and predicates (R116 to R119) -/

/-- Settles O17. -/
theorem comparesAndPredicates : Obligations.ComparesAndPredicates := by
  unfold Obligations.ComparesAndPredicates
  refine ⟨?icmp, ?plop, ?pmov, ?fcmp, ?fcmpF64, ?fcls, ?fclsF64, ?fcmpLit⟩
  case icmp => exact fun h d a b c ty cond cb => cmpInt_result (exec_icmp h d a b c ty cond cb)
  case plop => exact fun h d a b c lut => alu_result (exec_plop h d a b c lut)
  case pmov => exact fun h d a mask mode => fixedResult_of (exec_pmov h d a mask mode) (fun _ _ => rfl)
  case fcmp => exact fun h d a b c ty cond cb => cmpFlt_result (exec_fcmp h d a b c ty cond cb)
  case fcmpF64 => exact fun h d a b c ty cond cb => cmpFlt_result (exec_fcmpF64 h d a b c ty cond cb)
  case fcls => exact fun h d a ty mask => fltClass_result (exec_fcls h d a ty mask)
  case fclsF64 => exact fun h d a ty mask => fltClass_result (exec_fclsF64 h d a ty mask)
  case fcmpLit => exact fun h d a imm ty cond => cmpFlt_result (exec_fcmpLit h d a imm ty cond)

end Sys2Proof.Machine
end

section
/-! SUPPORT AND PROOF. Branches, calls and returns that make no access (O22, O23): a transfer of O24 in which no lane hops and no lane's push or pop
leaves the chip. -/

namespace Sys2Proof.Machine

/-- No lane hops where each stays. -/
theorem hopsOf_stays {s : State} {i : Iss} {x : Wave} {tgt : Nat → W64} (h : Stays s i x tgt) :
    (s.at' i x).hopsOf i (fun l => addrOf (tgt l)) = [] := by
  unfold St.hopsOf
  rcases h with settled | served
  · exact if_neg (by rw [show (s.at' i x).d.launch i.slot = s.dev.launch i.slot from rfl, settled]; decide)
  · split
    · exact filter_eq_nil_of fun l hl => by rw [served l (act_of_mem hl)]; rfl
    · rfl

/-- The effect of a transfer in which no lane hops: its pushes or pops, then the loops left. -/
theorem xferDo_no_hop {s : St} {i : Iss} {k : Xfer} {live : BitVec 11} {tgt : Nat → Addr} {p w : Nat → Option Place} (h : s.hopsOf i tgt = []) :
    s.xferDo i k live tgt p w =
      if k = .branch then (s.xferStack i k (s.d.launch i.slot).travel p).withD (fun d => d.setWave i.w ((d.wave i.w).unloop i.act tgt))
      else s.xferStack i k (s.d.launch i.slot).travel p := by
  unfold St.xferDo
  rw [h]
  rfl

section
variable {ins : Instr} {opc : BitVec 12} {h : Ctl} {srcs : List (Nat × Nat × Bool)} {k : Xfer} {live : BitVec 11} {target : Target} {s : State}
  {i : Iss} {x : Wave}

/-- A transfer in which no lane hops and no push or pop makes an access goes on to its targets. -/
theorem Transfers.onChip {tgt : Nat → Addr} (ht : Transfers ins opc h srcs k live target) (g : Goes h { Req.none with srcs := srcs } s i x)
    (near : k ≠ .ret → ∀ l, i.act.getLsbD l = true → (target i x l).toNat < 2 ^ 57)
    (onTime : k = .ret → i.act ≠ 0 → ∀ n, 8 ≤ n → n < 16 → (x.tok n).count = 0)
    (stack : ∀ l, i.act.getLsbD l = true → (s.at' i x).xferAcc i k (s.dev.launch i.slot).travel (x.thread l) = .ok none)
    (htgt : (s.at' i x).xferTo i x k target (fun _ => none) = tgt) (no_hop : (s.at' i x).hopsOf i tgt = []) :
    Leaves ins opc s i ((s.at' i x).xferDo i k live tgt (fun _ => none) (fun _ => none)) .none
      (if (lanesOf i.act).any (fun l => tgt l != i.ba + 12) || (alwaysTaken opc && i.act ≠ 0) then 3 else 1) (fun l => some (tgt l)) := by
  subst htgt
  have left := ht s i x (fun _ => none) (fun _ => none) g near onTime stack (by rw [no_hop]; exact fun l hl => nomatch hl)
    (fun some_hop => absurd no_hop some_hop)
  have no_spill : spillsOf i x k (s.dev.launch i.slot).travel (fun _ => none) = [] := by
    unfold spillsOf
    split
    · exact List.filterMap_eq_nil_iff.mpr fun _ _ => rfl
    · rfl
  have no_access : (lanesOf i.act).filterMap (fun l => (none : Option Place).map (fun q => (l, q))) = [] :=
    List.filterMap_eq_nil_iff.mpr fun _ _ => rfl
  dsimp only at left
  rw [no_hop, no_access, no_spill, if_neg (fun access => access.1 rfl), if_pos rfl] at left
  exact left

/-! ### Branches (R92, R94) -/

/-- A fold of which no step changes anything. -/
theorem foldl_same {α β : Type} (ls : List α) (b : β) : ls.foldl (fun b _ => b) b = b := by
  induction ls with
  | nil => rfl
  | cons a r ih => exact ih

/-- A branch whose lanes stay on the core leaves the loops that its targets lie outside of, and goes there. -/
theorem branch_leaves (ht : Transfers ins opc h srcs .branch live target) (hopc : alwaysTaken opc = false)
    (g : Goes h { Req.none with srcs := srcs } s i x) (near : ∀ l, i.act.getLsbD l = true → (target i x l).toNat < 2 ^ 57)
    (stays : Stays s i x (target i x)) :
    LeavesWave ins opc s i (x.unloop i.act (fun l => addrOf (target i x l))) .none
      (if (lanesOf i.act).any (fun l => addrOf (target i x l) != i.ba + 12) then 3 else 1) (fun l => some (addrOf (target i x l))) := by
  have no_hop := hopsOf_stays stays
  have left := ht.onChip (tgt := fun l => addrOf (target i x l)) g (fun _ => near) nofun (fun _ _ => rfl) rfl no_hop
  have stack : (s.at' i x).xferStack i .branch ((s.at' i x).d.launch i.slot).travel (fun _ => none) = s.at' i x := by
    unfold St.xferStack
    exact foldl_same _ _
  rw [hopc, Bool.false_and, Bool.or_false, xferDo_no_hop no_hop, if_pos rfl, stack] at left
  exact left.wave rfl (agree_trans (agree_at' s i x) (agree_setWave _ _ _)) (by simp)

/-! ### Calls and returns on the chip (R20, R21, R95) -/

/-- A push where an entry is free. -/
theorem pushLane_onChip {ra : W64} (u : St) (l : Nat) (free : ((u.d.wave i.w).thread l).rs.length < 4) :
    u.pushLane i false l ra = u.withD (fun d => d.setWave i.w ((d.wave i.w).updThread l (fun t => { t with rs := ra :: t.rs }))) := by
  have kept : (ra :: ((u.d.wave i.w).thread l).rs).take 4 = ra :: ((u.d.wave i.w).thread l).rs := List.take_of_length_le (Nat.succ_le_of_lt free)
  unfold St.pushLane
  simp only [kept, Bool.false_or, decide_eq_true_eq, if_neg (Nat.ne_of_lt free)]
  rfl

/-- A pop where an entry is on chip. -/
theorem popLane_onChip (u : St) (l : Nat) (held : ((u.d.wave i.w).thread l).rs ≠ []) :
    (u.popLane i false l none).2 = u.withD (fun d => d.setWave i.w ((d.wave i.w).updThread l (fun t => { t with rs := t.rs.drop 1 }))) := by
  unfold St.popLane
  simp only [Bool.false_or, List.isEmpty_iff, if_neg held]
  rfl

/-- The pushes or pops of a transfer, where each changes its lane's thread only. -/
theorem stack_leaves {tgt : Nat → Addr} {n : Nat} {upd : Thread → Thread} {P : Thread → Prop} {f : St → Nat → St}
    (hf : ∀ (u : St) l, P ((u.d.wave i.w).thread l) → f u l = u.withD (fun d => d.setWave i.w ((d.wave i.w).updThread l upd)))
    (hP : ∀ l, i.act.getLsbD l = true → P (x.thread l))
    (left : Leaves ins opc s i ((lanesOf i.act).foldl f (s.at' i x)) .none n (fun l => some (tgt l))) :
    LeavesWave ins opc s i ((lanesOf i.act).foldl (fun z l => z.updThread l upd) x) .none n (fun l => some (tgt l)) := by
  have changes : ∀ (u : St) l, P ((u.d.wave i.w).thread l) →
      (f u l).log = u.log ∧ (f u l).m0 = u.m0 ∧ u.d.agree (f u l).d i.w ∧ (f u l).d.wave i.w = (u.d.wave i.w).updThread l upd := by
    intro u l hl
    rw [hf u l hl]
    exact ⟨rfl, rfl, agree_setWave _ _ _, by simp⟩
  obtain ⟨log, -, agree, wave⟩ := foldl_threads changes (lanesOf i.act) (lanesOf_nodup _) (s.at' i x)
    (fun l hl => by rw [at'_wave]; exact hP l (act_of_mem hl))
  rw [at'_wave] at wave
  exact left.wave log (agree_trans (agree_at' s i x) agree) wave

/-- A call that is not of a travelling launch, with an entry of the four free in each lane, pushes the next address and goes to its target. -/
theorem call_leaves (ht : Transfers ins opc h srcs .call live target) (g : Goes h { Req.none with srcs := srcs } s i x)
    (near : ∀ l, i.act.getLsbD l = true → (target i x l).toNat < 2 ^ 57) (settled : (s.dev.launch i.slot).travel = false)
    (free : ∀ l, i.act.getLsbD l = true → (x.thread l).rs.length < 4) :
    LeavesWave ins opc s i ((lanesOf i.act).foldl (fun z l => z.updThread l (fun t => { t with rs := (i.ba + 12).setWidth 64 :: t.rs })) x) .none
      (if (lanesOf i.act).any (fun l => addrOf (target i x l) != i.ba + 12) || (alwaysTaken opc && i.act ≠ 0) then 3 else 1)
      (fun l => some (addrOf (target i x l))) := by
  have no_hop : (s.at' i x).hopsOf i (fun l => addrOf (target i x l)) = [] := hopsOf_stays (.inl settled)
  have push : ∀ l, i.act.getLsbD l = true → (s.at' i x).xferAcc i .call (s.dev.launch i.slot).travel (x.thread l) = .ok none := by
    intro l hl
    simp [St.xferAcc, St.pushPlace, settled, Nat.ne_of_lt (free l hl)]
  have left := ht.onChip (tgt := fun l => addrOf (target i x l)) g (fun _ => near) nofun push rfl no_hop
  rw [xferDo_no_hop no_hop, if_neg nofun, show ((s.at' i x).d.launch i.slot).travel = false from settled] at left
  exact stack_leaves (P := fun t => t.rs.length < 4) pushLane_onChip free left

/-- A return that is not of a travelling launch, with an entry on chip in each lane, pops it and goes there. -/
theorem return_leaves (ht : Transfers ins opc h srcs .ret live target) (g : Goes h { Req.none with srcs := srcs } s i x)
    (settled : (s.dev.launch i.slot).travel = false) (onTime : i.act ≠ 0 → ∀ k, 8 ≤ k → k < 16 → (x.tok k).count = 0)
    (held : ∀ l, i.act.getLsbD l = true → (x.thread l).rs ≠ []) :
    LeavesWave ins opc s i ((lanesOf i.act).foldl (fun z l => z.updThread l (fun t => { t with rs := t.rs.drop 1 })) x) .none
      (if (lanesOf i.act).any (fun l => addrOf ((x.thread l).rs.headD 0) != i.ba + 12) || (alwaysTaken opc && i.act ≠ 0) then 3 else 1)
      (fun l => some (addrOf ((x.thread l).rs.headD 0))) := by
  have no_hop : (s.at' i x).hopsOf i (fun l => addrOf ((x.thread l).rs.headD 0)) = [] := hopsOf_stays (.inl settled)
  have pop : ∀ l, i.act.getLsbD l = true → (s.at' i x).xferAcc i .ret (s.dev.launch i.slot).travel (x.thread l) = .ok none := by
    intro l hl
    simp [St.xferAcc, St.popPlace, held l hl]
  have left := ht.onChip (tgt := fun l => addrOf ((x.thread l).rs.headD 0)) g (fun k => absurd rfl k) (fun _ => onTime) pop rfl no_hop
  rw [xferDo_no_hop no_hop, if_neg nofun, show ((s.at' i x).d.launch i.slot).travel = false from settled] at left
  exact stack_leaves (P := fun t => t.rs ≠ []) popLane_onChip held left

end

/-- An instruction that is always taken takes 3 positions with an active lane (R93). -/
theorem positions_alwaysTaken {opc : BitVec 12} (hopc : alwaysTaken opc = true) (m : Lanes) (away : Nat → Bool) :
    (if (lanesOf m).any away || (alwaysTaken opc && m ≠ 0) then 3 else 1) = if m = 0 then 1 else 3 := by
  by_cases idle : m = 0
  · subst idle
    simp
  · have taken : (alwaysTaken opc && decide (m ≠ 0)) = true := by rw [hopc, decide_eq_true idle, Bool.and_self]
    rw [taken, Bool.or_true, if_pos rfl, if_neg idle]

/-! ### The transfers -/

/-- Settles O22. -/
theorem branchesGoThere : Obligations.BranchesGoThere := by
  unfold Obligations.BranchesGoThere
  refine ⟨?bra, ?brl, ?brx⟩
  case bra => exact fun h disp live s i x g near stays => (branch_leaves (transfers_of (exec_bra h disp live)) rfl g near stays :)
  case brl => exact fun h disp s i x g near stays => (branch_leaves (transfers_of (exec_brl h disp)) rfl g near stays :)
  case brx => exact fun h a live s i x g near stays => (branch_leaves (transfers_of (exec_brx h a live)) rfl g near stays :)

/-- Settles O23. -/
theorem callsAndReturns : Obligations.CallsAndReturns := by
  unfold Obligations.CallsAndReturns
  refine ⟨?call, ?calll, ?callx, ?ret⟩
  case call =>
    intro h disp live s i x g near settled free
    have left := call_leaves (transfers_of (exec_call h disp live)) g near settled free
    rw [positions_alwaysTaken rfl] at left
    exact left
  case calll =>
    intro h disp s i x g near settled free
    have left := call_leaves (transfers_of (exec_calll h disp)) g near settled free
    rw [show alwaysTaken 0x044 = false from rfl, Bool.false_and, Bool.or_false] at left
    exact left
  case callx =>
    intro h a live s i x g near settled free
    have left := call_leaves (transfers_of (exec_callx h a live)) g near settled free
    rw [positions_alwaysTaken rfl] at left
    exact left
  case ret =>
    intro h live s i x g settled onTime held
    have left := return_leaves (transfers_of (exec_ret h live)) g settled onTime held
    rw [positions_alwaysTaken rfl] at left
    exact left

end Sys2Proof.Machine
end

section
/-! SUPPORT AND PROOF. Loops, idling, traps of their own and the return from a handler (O25 to O27): the wave that an issue leaves when it ends the
run of its path group, traps after it, or leaves a handler. -/

namespace Sys2Proof.Machine

/-! ### What follows the issue of a wave -/

/-- The device when the wave of an issue has become `y`: its counters written, its turn taken (R242, R338, R339). -/
def Device.turned (d : Device) (i : Iss) (opc : BitVec 12) (y : Wave) : Device := ((d.setWave i.w y).flushPmc i.w).tookTurn i.asid i.w opc

section
variable (d : Device) (i : Iss) (opc : BitVec 12) (y : Wave)

theorem agree_turned : d.agree (d.turned i opc y) i.w :=
  agree_trans (agree_setWave _ _ _) (agree_trans (agree_flushPmc _ _) (agree_tookTurn _ _ _ _ _))

/-- Written counters leave the wave; nothing else of it changes. -/
theorem wave_turned : (d.turned i opc y).wave i.w = { y with pmcSet := [] } := by
  unfold Device.turned Device.flushPmc
  rw [tookTurn_wave, Device.wave_setWave, if_pos rfl]
  dsimp only
  split
  · next unset =>
    rw [Device.wave_setWave, if_pos rfl, ← List.isEmpty_iff.mp unset]
  · rw [Device.wave_setWave, if_pos rfl]

theorem turned_arch : ((d.turned i opc y).wave i.w).arch = y.arch := by rw [wave_turned]; rfl

theorem turned_thread (l : Nat) : ((d.turned i opc y).wave i.w).thread l = y.thread l := by rw [wave_turned]; rfl

theorem turned_mask (m : Nat) : ((d.turned i opc y).wave i.w).mask m = y.mask m := by rw [wave_turned]; rfl

end

theorem stepped_rc (d : Device) (w : Nat) : ((d.stepped w).wave w).rc = (d.wave w).rc := by
  unfold Device.stepped
  dsimp only
  split
  · rw [Device.wave_setWave, if_pos rfl]
  · rfl

/-- The issue of an effect with no trap of its own that publishes nothing and comes to no safe point. -/
theorem finish_eq {s : St} {x : Wave} {i : Iss} {opc : BitVec 12} {e : Eff} (hs : e.st = s) (hx : s.d.wave i.w = x) (hp : e.post = none)
    (hpub : e.pub = false) (hsafe : (e.yields && (s.d.block i.blk).preq) = false) :
    St.finish i opc e = s.withD fun d => (d.turned i opc (x.issued i opc e (s.d.block i.blk).preq d.turns)).stepped i.w := by
  subst hs hx
  unfold St.finish
  rw [hp, hpub]
  dsimp only
  rw [hsafe]
  rfl

/-- A wave that has gone on by its issue has gone on. -/
theorem goesOn_turned {d : Device} {i : Iss} {opc : BitVec 12} {z y : Wave} {n : Nat} {tgt : Nat → Option Addr} (h : WaveGoesOn i z y n tgt) :
    WaveGoesOn i z (((d.turned i opc y).stepped i.w).wave i.w) n tgt := by
  refine goesOn_congr h ?_ (fun l => ?_) (fun m => ?_)
  · rw [stepped_arch, turned_arch]
  · rw [stepped_thread, turned_thread]
  · rw [stepped_mask, turned_mask]

/-- A handler of which a lane goes on is not at its end. -/
theorem handlerEnd_of_goesOn {u : St} {i : Iss} {opc : BitVec 12} {out : Out} {z : Wave} {n : Nat} {tgt : Nat → Option Addr}
    (goesOn : WaveGoesOn i (z.post i opc out) (u.d.wave i.w) n tgt) (hh : HandlerGoesOn z) : u.handlerEnd i.w = u := by
  obtain ⟨arch, threads, -⟩ := goesOn
  have frame : (u.d.wave i.w).frame = z.frame := by
    rw [frame_of_arch arch, advance_frame, frame_of_arch (wentOn_arch ..), post_frame]
  refine handlerEnd_goes fun f hf => ?_
  obtain ⟨l, -, handler, goes⟩ := hh f (frame ▸ hf)
  obtain ⟨-, -, -, -, done⟩ := threads l
  rw [post_thread] at done
  exact ⟨l, handler, fun ended => goes (done.mp ended)⟩

/-! ### The wave with which the cycles of an issue begin -/

/-- The wave that has its post, its next PCs and its rotation; its cycles are still to come (R49, R98, R340). -/
def Wave.begun (x : Wave) (i : Iss) (opc : BitVec 12) (e : Eff) (preq : Bool) (turn : Nat) : Wave :=
  let y := ((x.post i opc e.out).goOn i e).rotate i.grp
  y.sched (if e.yields && !preq then 64 else y.rc) (e.positions i) turn (e.waits.getD .ready) none

section
variable {x : Wave} {i : Iss} {opc : BitVec 12} {e : Eff} {preq : Bool} {turn : Nat}

theorem issued_inSequence (hp : e.post = none) (hl : e.leave = none) :
    x.issued i opc e preq turn = (x.begun i opc e preq turn).cycles (e.positions i) := by
  unfold Wave.issued
  rw [hp, hl]
  rfl

theorem issued_trapping (hp : e.post.isSome = true) :
    x.issued i opc e preq turn = (x.begun i opc e preq turn).advance (e.positions i) := by
  unfold Wave.issued
  dsimp only
  rw [if_pos hp]
  rfl

theorem issued_returning (hp : e.post = none) {a : Addr} (hl : e.leave = some a) :
    x.issued i opc e preq turn = (((x.begun i opc e preq turn).advance (e.positions i)).goBack a).settle := by
  unfold Wave.issued
  rw [hp, hl, if_neg (by decide)]
  rfl

theorem begun_arch : (x.begun i opc e preq turn).arch = ((x.post i opc e.out).goOn i e).arch := Wave.arch_rotate _ _

theorem begun_firm (l : Nat) : ((x.begun i opc e preq turn).thread l).firm = (((x.post i opc e.out).goOn i e).thread l).firm := firm_rotate _ _ l

theorem goOn_trapping (hp : e.post.isSome = true) :
    x.goOn i e = x.updLanes i.act (fun t => { t with pc := i.ba + 12, passed := false, seq := true }) := if_pos hp

theorem goOn_returning (hp : e.post = none) {a : Addr} (hl : e.leave = some a) : x.goOn i e = x := by
  unfold Wave.goOn
  rw [hp, hl]
  rfl

end

/-! ### The end of a run (R103, R340) -/

/-- A `YIELD` with REQ = 0 and an active lane leaves the run counter at its end. -/
theorem issued_rc {x : Wave} {i : Iss} {opc : BitVec 12} {e : Eff} (turn : Nat) (hp : e.post = none) (hl : e.leave = none) (hy : e.yields = true) :
    (x.issued i opc e false turn).rc = 64 := by
  rw [issued_inSequence hp hl, Wave.begun, hy, Wave.cycles_sched]
  rfl

/-- The effect of `YIELD`. -/
def yieldEff (u : St) (i : Iss) : Eff := { Eff.plain u with yields := i.act != 0 }

/-- `YIELD` with REQ = 0 goes on like any instruction, and ends the run of its path group. -/
theorem yield_issues {h : Ctl} {s : State} {i : Iss} {x : Wave} (g : Goes h Req.none s i x) (unrequested : (s.dev.block i.blk).preq = false)
    (hh : HandlerGoesOn x) :
    ∃ t, exec (.yield h) s = .next t ∧ Issued s t i (x.post i 0x04C .none) ∧ (i.act ≠ 0 → (t.dev.wave i.w).rc = 64) := by
  have no_request : ((s.at' i x).d.block i.blk).preq = false := unrequested
  have finished := finish_eq (s := s.at' i x) (opc := 0x04C) (e := yieldEff (s.at' i x) i) rfl (at'_wave s i x) rfl rfl (by rw [no_request, Bool.and_false])
  rw [no_request] at finished
  have positions : (yieldEff (s.at' i x) i).positions i = 1 + i.h.gap.toNat := by
    rw [Eff.positions, taken_plain i rfl]
    rfl
  have goesOn : WaveGoesOn i (x.post i 0x04C .none) ((St.finish i 0x04C (yieldEff (s.at' i x) i)).d.wave i.w) (1 + i.h.gap.toNat) (fun _ => none) := by
    rw [finished, ← positions]
    exact goesOn_turned (issued_goesOn x i 0x04C _ false _ rfl rfl)
  refine ⟨s.after (St.finish i 0x04C (yieldEff (s.at' i x) i)), ?issues, ⟨?memory, ?agrees, goesOn⟩, fun active => ?run⟩
  case issues =>
    rw [exec_yield, execYield, issue_goes g]
    exact congrArg (fun u => Host.Outcome.next (s.after u)) (handlerEnd_of_goesOn goesOn hh)
  case memory =>
    rw [finished]
    rfl
  case agrees =>
    rw [finished]
    exact agree_trans (agree_at' s i x) (agree_trans (agree_turned _ _ _ _) (agree_stepped _ _))
  case run =>
    have yields : (yieldEff (s.at' i x) i).yields = true := bne_iff_ne.mpr active
    rw [finished]
    refine (stepped_rc _ _).trans ?_
    rw [wave_turned]
    exact issued_rc _ rfl rfl yields

/-! ### Traps after the issue (R105) -/

/-- What the firm part of a thread says. -/
theorem Thread.of_firm {t u : Thread} (h : t.firm = u.firm) : t.pc = u.pc ∧ t.rs = u.rs ∧ t.frozen = u.frozen ∧ (t.st = .done ↔ u.st = .done) := by
  simp only [Thread.firm, Prod.mk.injEq] at h
  obtain ⟨pc, rs, -, -, frozen, done⟩ := h
  exact ⟨pc, rs, frozen, by rw [← beq_iff_eq, done, beq_iff_eq]⟩

/-- The wave of an issue that takes a trap of its own has advanced, its active lanes at the next instruction. -/
theorem issued_trapping_wave {x : Wave} {i : Iss} {opc : BitVec 12} {e : Eff} {preq : Bool} {turn : Nat} (hp : e.post.isSome = true) :
    (x.issued i opc e preq turn).arch = ((x.post i opc e.out).advance (e.positions i)).arch ∧
      ∀ l, ((x.issued i opc e preq turn).thread l).pc = (if i.act.getLsbD l then i.ba + 12 else (x.thread l).pc) ∧
        ((x.issued i opc e preq turn).thread l).rs = (x.thread l).rs ∧
        (((x.issued i opc e preq turn).thread l).st = .done ↔ (x.thread l).st = .done) := by
  rw [issued_trapping hp]
  refine ⟨Wave.advance_congr ?_ _, fun l => ?_⟩
  · rw [begun_arch, goOn_trapping hp, Wave.arch_updLanes]
  · have same := (Thread.firm_of_fixed (Wave.fixed_advance (x.begun i opc e preq turn) (e.positions i) l)).trans (begun_firm l)
    rw [goOn_trapping hp, Wave.thread_updLanes, post_thread] at same
    by_cases active : i.act.getLsbD l = true
    · rw [if_pos active] at same ⊢
      obtain ⟨pc, rs, -, done⟩ := Thread.of_firm same
      exact ⟨pc, rs, done⟩
    · rw [if_neg active] at same ⊢
      obtain ⟨pc, rs, -, done⟩ := Thread.of_firm same
      exact ⟨pc, rs, done⟩

/-- An issue with a trap of its own takes it from the state that the issue has left. -/
theorem finish_trapping {s : St} {x : Wave} {i : Iss} {opc : BitVec 12} {e : Eff} {cause : Nat} {code : BitVec 16} (hs : e.st = s)
    (hx : s.d.wave i.w = x) (hp : e.post = some (cause, code)) (hpub : e.pub = false) (hy : e.yields = false) :
    St.finish i opc e = (((s.withD fun d => d.turned i opc (x.issued i opc e (s.d.block i.blk).preq d.turns)).postTrap i x cause code).withD fun d =>
      d.setWave i.w (d.wave i.w).settle).withD (·.stepped i.w) := by
  subst hs hx
  unfold St.finish
  rw [hp, hpub, hy]
  rfl

/-- The effect of an instruction that takes a trap of its own. -/
def trapEff (u : St) (cause : Nat) (code : BitVec 16) : Eff := { Eff.plain u with post := some (cause, code) }

/-- `TRAP`, `BKPT` and `SYSC` differ in their cause only. -/
theorem trapsAfter_of {ins : Instr} {opc : BitVec 12} {h : Ctl} {cause : Nat} {code : BitVec 16}
    (he : ∀ s, exec ins s = issue opc h Req.none (fun i s => .ok { Eff.plain s with post := if i.act = 0 then none else some (cause, code) }) s) :
    TrapsAfter ins opc h cause code := by
  intro s i x g active
  have positions : (trapEff (s.at' i x) cause code).positions i = 1 + i.h.gap.toNat := by
    rw [Eff.positions, taken_plain i rfl]
    rfl
  have carried : exec ins s = .next (s.after ((St.finish i opc (trapEff (s.at' i x) cause code)).handlerEnd i.w)) := by
    rw [he, issue_goes g, if_neg active]
    rfl
  rw [finish_trapping (s := s.at' i x) rfl (at'_wave s i x) rfl rfl rfl] at carried
  obtain ⟨arch, threads⟩ := issued_trapping_wave (x := x) (i := i) (opc := opc) (e := trapEff (s.at' i x) cause code)
    (preq := (s.dev.block i.blk).preq) (turn := s.dev.turns) rfl
  refine ⟨_, rfl, agree_trans (agree_at' s i x) (agree_turned _ _ _ _), ?wave, fun l => ?thread, carried⟩
  case wave =>
    rw [← positions]
    exact (turned_arch ..).trans arch
  case thread =>
    have stands := threads l
    rw [← turned_thread (s.at' i x).d i opc (x.issued i opc _ _ _)] at stands
    exact stands

/-- `IPREF` fetches the blocks it names for each active lane (R104). -/
theorem ipref_leaves {h : Ctl} {a : Src} {ofs : BitVec 16} {nb : BitVec 8} {lvl : BitVec 2} {s : State} {i : Iss} {x : Wave}
    (g : Goes h { Req.none with srcs := a.rng 2 } s i x) :
    Leaves (.ipref h a ofs nb lvl) 0x04D s i ((lanesOf i.act).foldl (fun u l => (List.range (nb.toNat + 1)).foldl (fun u k =>
      u.fillBlock i.core i.asid ((a.ea ofs x l).toNat / 192 * 192 + 192 * k) (lvl == 1)) u) (s.at' i x)) .none 1 (fun _ => none) := by
  have left := leaves_of (e := Eff.plain ((lanesOf i.act).foldl (fun u l => (List.range (nb.toNat + 1)).foldl (fun u k =>
      u.fillBlock i.core i.asid ((a.ea ofs x l).toNat / 192 * 192 + 192 * k) (lvl == 1)) u) (s.at' i x)))
    (exec_ipref h a ofs nb lvl) g (by dsimp only; rw [at'_wave]) rfl rfl rfl
  rw [taken_plain i rfl] at left
  exact left

/-- Settles O26. -/
theorem trapsOfTheirOwn : Obligations.TrapsOfTheirOwn := by
  unfold Obligations.TrapsOfTheirOwn
  exact ⟨fun h code => trapsAfter_of (exec_trap h code), fun h code => trapsAfter_of (exec_bkpt h code),
    fun h code => trapsAfter_of (exec_sysc h code), fun _ _ _ _ _ _ _ _ g => ipref_leaves g⟩

/-! ### Loops, EXIT and idling (R97 to R103) -/

/-- The instruction after the body of a `LOOP` (R97). -/
def loopPast (i : Iss) (len : BitVec 20) : Addr := i.ba + 12 + 12 * len.setWidth 57 + 12

/-- Where a `LOOP` sends a lane: past its body for a count of 0, else into it. -/
def loopNext (i : Iss) (x : Wave) (a : Src) (len : BitVec 20) (l : Nat) : Option Addr :=
  if a.w x l = 0 then some (loopPast i len) else some (i.ba + 12)

/-- The levels that a `LOOP` adds, in the active lanes whose count is not 0. -/
def Wave.enterLoop (x : Wave) (i : Iss) (a : Src) (len : BitVec 20) : Wave :=
  (lanesOf i.act).foldl (fun z l => if a.w x l = 0 then z
    else z.updThread l (fun t => { t with ls := t.ls ++ [⟨i.ba + 12, i.ba + 12 + 12 * len.setWidth 57, a.w x l⟩] })) x

/-- The effect of a `LOOP`. -/
def loopEff (u : St) (i : Iss) (x : Wave) (a : Src) (len : BitVec 20) : Eff :=
  { Eff.plain (u.withD (·.setWave i.w (x.enterLoop i a len))) with next := loopNext i x a len }

/-- A `LOOP` is taken when a lane skips its body. -/
theorem loopEff_taken (u : St) (i : Iss) (x : Wave) (a : Src) (len : BitVec 20) :
    (loopEff u i x a len).taken i = (lanesOf i.act).any (fun l => a.w x l == 0 && loopPast i len != i.ba + 12) := by
  refine any_congr_mem fun l _ => ?_
  dsimp only [loopEff, loopNext]
  by_cases skips : a.w x l = 0
  · rw [if_pos skips, beq_iff_eq.mpr skips, Bool.true_and]
  · rw [if_neg skips, beq_eq_false_iff_ne.mpr skips, Bool.false_and]
    exact bne_self_eq_false _

/-- A `LOOP` with a level free in each active lane adds its levels and sends each lane on. -/
theorem loop_leaves {h : Ctl} {a : Src} {len : BitVec 20} {s : State} {i : Iss} {x : Wave} (g : Goes h { Req.none with srcs := a.rng 1 } s i x)
    (room : ∀ l, i.act.getLsbD l = true → (x.thread l).ls.length ≠ 4) :
    LeavesWave (.loop h a len) 0x048 s i (x.enterLoop i a len) .none
      (if (lanesOf i.act).any (fun l => a.w x l == 0 && loopPast i len != i.ba + 12) then 3 else 1) (loopNext i x a len) := by
  have none_full : (lanesOf i.act).filter (fun l => decide ((x.thread l).ls.length = 4)) = [] :=
    filter_eq_nil_of fun l hl => decide_eq_false (room l (act_of_mem hl))
  rw [← loopEff_taken (s.at' i x)]
  exact leavesWave_of (e := loopEff (s.at' i x) i x a len) (exec_loop h a len) g (by dsimp only; rw [at'_wave, none_full]; rfl) rfl rfl rfl rfl rfl
    (agree_trans (agree_at' s i x) (agree_setWave _ _ _)) (by simp [loopEff, Eff.plain])

/-- Settles O25. -/
theorem loopsAndIdling : Obligations.LoopsAndIdling := by
  unfold Obligations.LoopsAndIdling
  refine ⟨fun _ _ _ _ _ _ g room => loop_leaves g room, ?lbrk, ?exit, ?dly, ?nop, fun _ _ _ _ => yield_issues⟩
  case lbrk => exact fun h n s i x g => leavesOn_of (f := fun z => z.updLanes i.act _) (exec_lbrk h n) g rfl
  case exit => exact fun h s i x g => leavesOn_of (f := fun z => (lanesOf i.act).foldl (fun z l => z.endLane l) z) (exec_exit h) g rfl
  case dly => exact fun h n s i x g => leavesSame_of (exec_dly h n) g rfl
  case nop => exact fun h s i x g => leavesSame_of (exec_nop h) g rfl

/-! ### The return from a handler (R106, R349) -/

/-- A read changes clocks and copies of memory lines only. -/
theorem load_keeps (s : St) (core : Nat) (p : Place) (n : Nat) : (s.load core p n).2.log = s.log ∧ (s.load core p n).2.d.machine = s.d.machine := by
  cases p with
  | scratch b o => exact ⟨meetAt_log s core _, machine_meetAt s core _⟩
  | host pa => exact ⟨meetAt_log s core _, machine_meetAt s core _⟩
  | dev pa pte =>
    unfold St.load
    dsimp only
    split
    · exact ⟨rfl, machine_meetPark ..⟩
    · exact ⟨rfl, machine_obtain ..⟩

/-- The wave has the position counter and the pipe that the trap frame kept, and is in no handler. -/
def Wave.Restored (x : Wave) (f : Frame) : Prop := x.frame = none ∧ x.pos = f.pos ∧ x.pipe = f.pipe

theorem Wave.Restored.congr {x y : Wave} {f : Frame} (h : x.Restored f) (same : y.arch = x.arch) : y.Restored f := by
  obtain ⟨frame, pos, pipe⟩ := h
  exact ⟨(frame_of_arch same).trans frame, (congrArg Wave.pos same).trans pos, (congrArg Wave.pipe same).trans pipe⟩

/-- Every thread is unfrozen and has its wait age of the trap frame. -/
def Wave.unfreeze (x : Wave) (f : Frame) : Wave :=
  (List.range 32).foldl (fun x l => x.updThread l (fun t => { t with frozen := false, age := f.ages.get 0 l })) x

theorem leaveHandler_eq {x : Wave} {f : Frame} (h : x.frame = some f) : x.leaveHandler =
    Wave.unfreeze { x with pos := f.pos, rc := f.rc, fav := f.fav, pipe := f.pipe, frame := none, wait := x.wait.kept } f := by
  unfold Wave.leaveHandler
  rw [h]
  rfl

theorem unfreeze_arch (x : Wave) (f : Frame) : (x.unfreeze f).arch = x.arch :=
  Wave.foldl_keeps Wave.arch (fun (x : Wave) l => x.updThread l _) (fun _ _ => rfl) _ _

theorem unfreeze_thread (x : Wave) (f : Frame) (l : Nat) :
    (x.unfreeze f).thread l = if l < 32 then { x.thread l with frozen := false, age := f.ages.get 0 l } else x.thread l := by
  rw [Wave.unfreeze, Wave.thread_foldl_upd (List.range 32) List.nodup_range (fun l t => { t with frozen := false, age := f.ages.get 0 l })]
  simp only [List.mem_range]

/-- Leaving a handler brings back the frame and unfreezes every thread, whose state stays. -/
theorem leaveHandler_spec {x : Wave} {f : Frame} (h : x.frame = some f) : x.leaveHandler.Restored f ∧
    ∀ l, (x.leaveHandler.thread l).st = (x.thread l).st ∧ (l < 32 → (x.leaveHandler.thread l).frozen = false) := by
  rw [leaveHandler_eq h]
  refine ⟨Wave.Restored.congr ⟨rfl, rfl, rfl⟩ (unfreeze_arch _ f), fun l => ?_⟩
  rw [unfreeze_thread]
  split
  · exact ⟨rfl, fun _ => rfl⟩
  · next out => exact ⟨rfl, fun inside => absurd inside out⟩

theorem goBack_eq {x : Wave} {f : Frame} (h : x.frame = some f) (a : Addr) : x.goBack a =
    (x.advance 8).leaveHandler.updLanes f.lanes (fun t => if t.st == .done then t else { t with pc := a, passed := false, seq := false }) := by
  unfold Wave.goBack
  rw [h]

/-- The resume address changes what a thread holds of PCs only. -/
theorem resumed_frozen (t : Thread) (a : Addr) :
    (if t.st == .done then t else { t with pc := a, passed := false, seq := false }).frozen = t.frozen := by
  split <;> rfl

/-- Going back from a handler: the frame comes back, and the handler lanes that are not DONE go to the resume address. -/
theorem goBack_spec {x : Wave} {f : Frame} (h : x.frame = some f) (a : Addr) : (x.goBack a).Restored f ∧
    (∀ l, l < 32 → ((x.goBack a).thread l).frozen = false) ∧
      ∀ l, f.lanes.getLsbD l = true → (x.thread l).st ≠ .done → ((x.goBack a).thread l).pc = a := by
  obtain ⟨restored, threads⟩ := leaveHandler_spec ((advance_frame x 8).trans h)
  have state : ∀ l, ((x.advance 8).thread l).st = (x.thread l).st := by
    intro l
    have fixed := Wave.fixed_advance x 8 l
    simp only [Thread.fixed, Prod.mk.injEq] at fixed
    obtain ⟨-, -, -, -, st, -⟩ := fixed
    exact st
  rw [goBack_eq h]
  refine ⟨restored.congr (Wave.arch_updLanes ..), fun l inside => ?_, fun l handler alive => ?_⟩
  · rw [Wave.thread_updLanes]
    split
    · exact (resumed_frozen _ a).trans ((threads l).2 inside)
    · exact (threads l).2 inside
  · rw [Wave.thread_updLanes, if_pos handler, if_neg]
    rw [beq_iff_eq, (threads l).1, state]
    exact alive

/-- The wave of an issue that returns from a handler has gone back. -/
theorem issued_returning_wave {x : Wave} {i : Iss} {opc : BitVec 12} {e : Eff} {preq : Bool} {turn : Nat} (hp : e.post = none) {a : Addr}
    (hl : e.leave = some a) {f : Frame} (h : x.frame = some f) : (x.issued i opc e preq turn).Restored f ∧
      (∀ l, l < 32 → ((x.issued i opc e preq turn).thread l).frozen = false) ∧
      ∀ l, f.lanes.getLsbD l = true → (x.thread l).st ≠ .done → ((x.issued i opc e preq turn).thread l).pc = a := by
  let z := (x.begun i opc e preq turn).advance (e.positions i)
  have frame : z.frame = some f := by
    rw [advance_frame, frame_of_arch begun_arch, goOn_returning hp hl, post_frame, h]
  have state : ∀ l, (z.thread l).st = .done ↔ (x.thread l).st = .done := by
    intro l
    have same := (Thread.firm_of_fixed (Wave.fixed_advance (x.begun i opc e preq turn) (e.positions i) l)).trans (begun_firm l)
    rw [goOn_returning hp hl, post_thread] at same
    obtain ⟨-, -, -, done⟩ := Thread.of_firm same
    exact done
  obtain ⟨restored, unfrozen, resumes⟩ := goBack_spec frame a
  rw [issued_returning hp hl]
  refine ⟨restored.congr (Wave.arch_settle _), fun l inside => ?_, fun l handler alive => ?_⟩
  · obtain ⟨-, -, frozen, -⟩ := Thread.of_firm (Wave.firm_settle (z.goBack a) l)
    exact frozen.trans (unfrozen l inside)
  · obtain ⟨pc, -, -, -⟩ := Thread.of_firm (Wave.firm_settle (z.goBack a) l)
    exact pc.trans (resumes l handler (mt (state l).mp alive))

/-- The effect of a return to an address. -/
def returnEff (u : St) (a : Addr) : Eff := { Eff.plain u with leave := some a }

/-- An issue that returns from a handler leaves it. -/
theorem finish_returning {s : St} {x : Wave} {i : Iss} (hx : s.d.wave i.w = x) {f : Frame} (h : x.frame = some f) (opc : BitVec 12) (a : Addr) :
    let u := St.finish i opc (returnEff s a)
    u.log = s.log ∧ (u.d.wave i.w).Restored f ∧ (∀ l, l < 32 → ((u.d.wave i.w).thread l).frozen = false) ∧
      ∀ l, f.lanes.getLsbD l = true → (x.thread l).st ≠ .done → ((u.d.wave i.w).thread l).pc = a := by
  obtain ⟨restored, unfrozen, resumes⟩ := issued_returning_wave (x := x) (i := i) (opc := opc) (e := returnEff s a) (preq := (s.d.block i.blk).preq)
    (turn := s.d.turns) rfl rfl h
  intro u
  have finished : u = _ := finish_eq rfl hx rfl rfl rfl
  rw [finished]
  refine ⟨rfl, restored.congr ((stepped_arch ..).trans (turned_arch ..)), fun l inside => ?_, fun l handler alive => ?_⟩
  · exact (congrArg Thread.frozen ((stepped_thread ..).trans (turned_thread ..))).trans (unfrozen l inside)
  · exact (congrArg Thread.pc ((stepped_thread ..).trans (turned_thread ..))).trans (resumes l handler alive)

theorem handlerEnd_of_no_handler {s : St} {w : Nat} (h : (s.d.wave w).frame = none) : s.handlerEnd w = s :=
  handlerEnd_goes fun f hf => by rw [h] at hf; cases hf

section
variable {h : Ctl} {s : State} {i : Iss} {x : Wave} (g : Goes h Req.none s i x) (active : i.act ≠ 0)
include g active

/-- `ERET` outside a handler is the fault of cause 40 (R106). -/
theorem eret_faults (outside : x.frame = none) : Faults (.eret h) s i (s.at' i x) 40 0 (BitVec.ofNat 64 i.act.toNat) 0 0 :=
  (exec_eret h s).trans (issue_trap g (by
    dsimp only
    rw [if_neg active, at'_wave, outside]
    rfl))

variable {f : Frame} (inside : x.frame = some f)
include inside

/-- `ERET` waits for the results of its handler. -/
theorem eret_drains (due : x.pipe ≠ []) : WaitsOn (.eret h) s i ((s.at' i x).withD (·.setWave i.w (x.advance 8))) .ready :=
  (exec_eret h s).trans (issue_hold g (by
    have some_due : x.pipe.isEmpty = false := by simpa using due
    dsimp only
    rw [if_neg active, at'_wave, inside, some_due]
    rfl))

variable {p : Place} (drained : x.pipe = []) (reached : (s.at' i x).stackAcc i (x.fault + 24) .read = .ok p)
include drained reached

/-- With its pipe drained, `ERET` reads the resume address of the record, and waits where the handler's earlier stores hold the read. -/
theorem eret_reads : exec (.eret h) s = .next (s.after ((s.at' i x).carryOut i 0x04F ((s.at' i x).boundFirst i x (fun _ => x.fault + 24) 8
    ((lanesOf f.lanes).map (fun l => (l, p)))
    (.ok (returnEff ((s.at' i x).load i.core p 8).2 (addrOf (BitVec.ofNat 64 ((s.at' i x).load i.core p 8).1))))))) := by
  rw [exec_eret, execEret, issue_goes g, if_neg active, at'_wave, inside, drained]
  simp only [Option.isNone_some, List.isEmpty_nil, Bool.not_true, Bool.false_eq_true, if_false, reached]
  rfl

end

/-- Settles O27. -/
theorem handlerReturn : Obligations.HandlerReturn := by
  unfold Obligations.HandlerReturn
  refine ⟨fun _ _ _ _ _ g active inside => eret_drains g active inside, ?returns, ?held, fun _ _ _ _ => eret_faults⟩
  case returns =>
    intro h s i x f p g active inside drained reached free
    have reads := eret_reads g active inside drained reached
    rw [St.boundFirst, if_neg (by rw [free]; decide)] at reads
    obtain ⟨log, machine⟩ := load_keeps (s.at' i x) i.core p 8
    have wave : ((s.at' i x).load i.core p 8).2.d.wave i.w = x := by
      rw [Device.wave, waves_of_machine machine]
      exact at'_wave s i x
    obtain ⟨written, ⟨frame, pos, pipe⟩, unfrozen, resumes⟩ := finish_returning wave inside 0x04F _
    refine ⟨_, reads, ?_⟩
    rw [St.carryOut, handlerEnd_of_no_handler frame]
    exact ⟨congrArg s.mem.writeAll (written.trans log), frame, pos, pipe, unfrozen, resumes⟩
  case held =>
    intro h s i x f p g active inside drained reached held
    have reads := eret_reads g active inside drained reached
    rw [St.boundFirst, if_pos held] at reads
    exact reads

end Sys2Proof.Machine
end

section
/-! SUPPORT AND PROOF. Floating point (O18 to O20): what each family of float instructions posts is said once, of its operation `g` on the formats'
patterns. Where an operation is no single constant, `( … :)` reads it off the meaning before it is met with the statement. -/

namespace Sys2Proof.Machine

/-! ### Families of instructions (R125, R128, R129, R130, R134) -/

section
variable {ins : Instr} {opc : BitVec 12} {lat : Nat} {h : Ctl} {d : Opnd} {a b : Src} {ty : BitVec 3} {f : FMod}

/-- A float instruction of two sources works on them after their modifiers. -/
theorem fltBin_result {g : Fmt → Nat → Nat → Nat} (he : ∀ s, exec ins s = fltBin opc lat h d a b ty f g s) :
    FixedResult ins opc h (req (d.rng (fltN ty)) [a.rng (fltN ty), b.rng (fltN ty)]) lat (d.dest (fltN ty))
      (fun _ x l => g (fmtOf ty.toNat) (fa f a ty x l) (fb f b ty x l)) := alu_result he

/-- A float instruction of one source. -/
theorem fltUn_result {g : Fmt → Nat → Nat} (he : ∀ s, exec ins s = fltUn opc lat h d a ty f g s) :
    FixedResult ins opc h (req (d.rng (fltN ty)) [a.rng (fltN ty)]) lat (d.dest (fltN ty))
      (fun _ x l => g (fmtOf ty.toNat) (fa f a ty x l)) := alu_result he

/-- A literal form takes the pattern IMM32, after the modifiers of the second source, at latency 4. -/
theorem fltLit_result {imm : BitVec 32} {g : Fmt → Nat → Nat → Nat} (he : ∀ s, exec ins s = fltLit opc h d a imm ty f g s) :
    FixedResult ins opc h (req (d.rng (fltN ty)) [a.rng (fltN ty)]) 4 (d.dest (fltN ty))
      (fun _ x l => g (fmtOf ty.toNat) (fa f a ty x l) ((fmtOf ty.toNat).modify f.absb f.negb imm.toNat)) := alu_result he

/-- A special function posts a long-latency operation with the model's value of function `fn`. -/
theorem fltSpecial_result {fn : Nat} (he : ∀ s, exec ins s = fltSpecial opc fn h d a ty f s) :
    LongResult ins opc h (req (d.rng (fltN ty)) [a.rng (fltN ty)]) (d.dest (fltN ty))
      (fun _ x l => (fmtOf ty.toNat).special ty.toNat fn f.rm.toNat (fa f a ty x l)) := sfu_result he

/-- A packed operation works on element 0 and element 1, and posts the second above the first. -/
theorem packedOp_result {srcs : List Src} {g : Fmt → Wave → Nat → Nat → Nat} (he : ∀ s, exec ins s = packedOp opc h d srcs ty g s) :
    FixedResult ins opc h (req (d.rng 1) (srcs.map (·.rng 1))) 4 (d.dest 1)
      (fun _ x l => g (fmtOf ty.toNat) x l 0 + 2 ^ 16 * g (fmtOf ty.toNat) x l 1) := alu_result he

end

/-! ### Scalar arithmetic (R125, R126, R128, R129) -/

/-- Settles O18: two-source and one-source operations of each type, those of FP64, and the forms with a literal; FFMA and FSCL read
sources of their own. -/
theorem floatArithmetic : Obligations.FloatArithmetic := by
  unfold Obligations.FloatArithmetic
  refine ⟨?fadd, ?fsub, ?fmul, ?ffma, ?fmin, ?fmax, ?fscl, ?frnd, ?faddF64, ?fsubF64, ?fmulF64, ?ffmaF64, ?fminF64, ?fmaxF64, ?fsclF64,
    ?frndF64, ?faddLit, ?fsubLit, ?fmulLit, ?fminLit, ?fmaxLit⟩
  case fadd => exact fun h d a b ty f => (fltBin_result (exec_fadd h d a b ty f) :)
  case fsub => exact fun h d a b ty f => (fltBin_result (exec_fsub h d a b ty f) :)
  case fmul => exact fun h d a b ty f => (fltBin_result (exec_fmul h d a b ty f) :)
  case fmin => exact fun h d a b ty f => (fltBin_result (exec_fmin h d a b ty f) :)
  case fmax => exact fun h d a b ty f => (fltBin_result (exec_fmax h d a b ty f) :)
  case ffma => exact fun h d a b c ty f => alu_result (exec_ffma h d a b c ty f)
  case fscl => exact fun h d a b ty f => alu_result (exec_fscl h d a b ty f)
  case frnd => exact fun h d a ty f => (fltUn_result (exec_frnd h d a ty f) :)
  case faddF64 => exact fun h d a b ty f => (fltBin_result (exec_faddF64 h d a b ty f) :)
  case fsubF64 => exact fun h d a b ty f => (fltBin_result (exec_fsubF64 h d a b ty f) :)
  case fmulF64 => exact fun h d a b ty f => (fltBin_result (exec_fmulF64 h d a b ty f) :)
  case fminF64 => exact fun h d a b ty f => (fltBin_result (exec_fminF64 h d a b ty f) :)
  case fmaxF64 => exact fun h d a b ty f => (fltBin_result (exec_fmaxF64 h d a b ty f) :)
  case ffmaF64 => exact fun h d a b c ty f => alu_result (exec_ffmaF64 h d a b c ty f)
  case fsclF64 => exact fun h d a b ty f => alu_result (exec_fsclF64 h d a b ty f)
  case frndF64 => exact fun h d a ty f => (fltUn_result (exec_frndF64 h d a ty f) :)
  case faddLit => exact fun h d a imm ty f => (fltLit_result (exec_faddLit h d a imm ty f) :)
  case fsubLit => exact fun h d a imm ty f => (fltLit_result (exec_fsubLit h d a imm ty f) :)
  case fmulLit => exact fun h d a imm ty f => (fltLit_result (exec_fmulLit h d a imm ty f) :)
  case fminLit => exact fun h d a imm ty f => (fltLit_result (exec_fminLit h d a imm ty f) :)
  case fmaxLit => exact fun h d a imm ty f => (fltLit_result (exec_fmaxLit h d a imm ty f) :)

/-! ### Special functions (R130 to R133) -/

/-- Settles O19: the seven are one family, told apart by the number of their function. -/
theorem specialFunctions : Obligations.SpecialFunctions := by
  unfold Obligations.SpecialFunctions
  refine ⟨?frcp, ?frsq, ?fsqrt, ?fex2, ?flg2, ?fsin, ?fcos⟩
  case frcp => exact fun h d a ty f => fltSpecial_result (exec_frcp h d a ty f)
  case frsq => exact fun h d a ty f => fltSpecial_result (exec_frsq h d a ty f)
  case fsqrt => exact fun h d a ty f => fltSpecial_result (exec_fsqrt h d a ty f)
  case fex2 => exact fun h d a ty f => fltSpecial_result (exec_fex2 h d a ty f)
  case flg2 => exact fun h d a ty f => fltSpecial_result (exec_flg2 h d a ty f)
  case fsin => exact fun h d a ty f => fltSpecial_result (exec_fsin h d a ty f)
  case fcos => exact fun h d a ty f => fltSpecial_result (exec_fcos h d a ty f)

/-! ### Packed arithmetic and conversions (R134 to R141) -/

/-- `UNPK8` converts the two bytes of the half that HALF names, the second to the next register under FP32 and else to the upper 16 bits (R141). -/
theorem unpk8_result (h : Ctl) (d : Opnd) (a : Src) (ty : BitVec 3) (ety half : Bool) :
    FixedResult (.unpk8 h d a ty ety half) 0x249 h (req (d.rng (if ty.toNat = 4 then 2 else 1)) [a.rng 1]) 4
      (d.dest (if ty.toNat = 4 then 2 else 1)) (fun _ x l =>
        (fmtOf ty.toNat).round 0 false ((fmtOf (if ety then 1 else 0)).value (byteAt (a.w x l).toNat (if half then 2 else 0))) +
          2 ^ (if ty.toNat = 4 then 32 else 16) *
            (fmtOf ty.toNat).round 0 false ((fmtOf (if ety then 1 else 0)).value (byteAt (a.w x l).toNat (if half then 3 else 1)))) := by
  refine (alu_result (exec_unpk8 h d a ty ety half)).congr fun _ x l _ => ?_
  have second : (if half then 2 else 0) + 1 = if half then 3 else 1 := by cases half <;> rfl
  dsimp only
  rw [second]
  by_cases single : ty.toNat = 4
  · rw [if_pos single, if_pos single]
  · rw [if_neg single, if_neg single]

/-- Settles O20: the packed operations are one family; the dot products and conversions post a result of their own. -/
theorem packedAndConversions : Obligations.PackedAndConversions := by
  unfold Obligations.PackedAndConversions
  refine ⟨?hfma2, ?hadd2, ?hmul2, ?qdot4, ?idot4, ?fcvt, ?f2i, ?i2f, ?pack8, unpk8_result⟩
  case hfma2 => exact fun h d a b c ty f => (packedOp_result (exec_hfma2 h d a b c ty f) :)
  case hadd2 => exact fun h d a b ty f => (packedOp_result (exec_hadd2 h d a b ty f) :)
  case hmul2 => exact fun h d a b ty f => (packedOp_result (exec_hmul2 h d a b ty f) :)
  case qdot4 => exact fun h d a b c ty rm sat bty => alu_result (exec_qdot4 h d a b c ty rm sat bty)
  case idot4 => exact fun h d a b c ty sat bsgn => alu_result (exec_idot4 h d a b c ty sat bsgn)
  case fcvt => exact fun h d a ty rm sat sty => alu_result (exec_fcvt h d a ty rm sat sty)
  case f2i => exact fun h d a ty rm sty => alu_result (exec_f2i h d a ty rm sty)
  case i2f => exact fun h d a ty rm sat sty => alu_result (exec_i2f h d a ty rm sat sty)
  case pack8 => exact fun h d a b c ty rm sat half => alu_result (exec_pack8 h d a b c ty rm sat half)

end Sys2Proof.Machine
end

section
/-! SUPPORT AND PROOF. Memory's one form (O6) and the order of a queue's slots (O42): fields of a number, and what writing one leaves of the
others. -/

namespace Sys2Proof.Machine

/-! ### Memory (R144, R271, R301) -/

/-- Memories in canonical form that read alike are one: an entry that only one of them lists would read as unlisted in the other. -/
theorem Memory.eq_of_read_eq {m n : Memory} {lo : Nat} (hm : Memory.wfFrom lo m = true) (hn : Memory.wfFrom lo n = true)
    (h : ∀ a, m.read a = n.read a) : m = n := by
  induction m generalizing n lo with
  | nil =>
    cases n with
    | nil => rfl
    | cons e r =>
      obtain ⟨k, v⟩ := e
      simp only [Memory.wfFrom, Bool.and_eq_true, bne_iff_ne] at hn
      exact absurd (h k).symm (by simpa [Memory.read, Tab.get] using hn.1.2)
  | cons e r ih =>
    obtain ⟨k, v⟩ := e
    simp only [Memory.wfFrom, Bool.and_eq_true, bne_iff_ne, decide_eq_true_eq] at hm
    obtain ⟨⟨hlo, hv⟩, hr⟩ := hm
    have hk : v = n.read k := by simpa [Memory.read, Tab.get] using h k
    cases n with
    | nil => exact absurd hk hv
    | cons f q =>
      obtain ⟨j, w⟩ := f
      simp only [Memory.wfFrom, Bool.and_eq_true, bne_iff_ne, decide_eq_true_eq] at hn
      obtain ⟨⟨hlo', hw⟩, hq⟩ := hn
      have hj : (Memory.read ((k, v) :: r) j) = w := by rw [h j]; simp [Memory.read, Tab.get]
      have same : k = j := by
        rcases Nat.lt_trichotomy k j with lt | same | lt
        · refine absurd (hk.trans ?_) hv
          rw [show Memory.read ((j, w) :: q) k = Memory.read q k by simp only [Memory.read, Tab.get, if_neg (Nat.ne_of_gt lt)]]
          exact Memory.read_lt hq (by omega)
        · exact same
        · refine absurd (hj.symm.trans ?_) hw
          rw [show Memory.read ((k, v) :: r) j = Memory.read r j by simp only [Memory.read, Tab.get, if_neg (Nat.ne_of_gt lt)]]
          exact Memory.read_lt hr (by omega)
      subst same
      have hvw : v = w := by simpa [Memory.read, Tab.get] using hk
      rw [hvw, ih hr hq fun a => ?_]
      by_cases ha : k = a
      · subst ha
        rw [Memory.read_lt hr (Nat.lt_succ_self _), Memory.read_lt hq (Nat.lt_succ_self _)]
      · simpa [Memory.read, Tab.get, ha] using h a

/-- Settles O6: reads after writes, and that two canonical lists which read alike are one. -/
theorem memoryForm : Obligations.MemoryForm := by
  unfold Obligations.MemoryForm
  exact ⟨fun m a b v hm => ⟨Memory.wf_write hm a v, Memory.read_write hm a b v⟩, fun m l hm => Memory.wf_writeAll hm l,
    fun m n hm hn h => Memory.eq_of_read_eq hm hn h, fun s a n v b => ⟨s.rdN_wrN a n v, s.rd_wrN a n v b⟩⟩

/-! ### Fields of a number, bit by bit -/

theorem testBit_field (x lo len k : Nat) : (field x lo len).testBit k = (decide (k < len) && x.testBit (lo + k)) := by
  rw [field, Nat.testBit_mod_two_pow, Nat.testBit_div_two_pow, Nat.add_comm]

/-- A number is what lies above a field, the field, and what lies below it. -/
theorem field_split (x lo len : Nat) : x = 2 ^ lo * (2 ^ len * (x / 2 ^ (lo + len)) + field x lo len) + x % 2 ^ lo := by
  rw [field, Nat.pow_add, ← Nat.div_div_eq_div_mul, Nat.div_add_mod, Nat.div_add_mod]

/-- A field that is set holds the new value, and every other bit is as it was. -/
theorem testBit_setField (x lo len v k : Nat) :
    (setField x lo len v).testBit k = if lo ≤ k ∧ k < lo + len then v.testBit (k - lo) else x.testBit k := by
  have below : x % 2 ^ lo < 2 ^ lo := Nat.mod_lt _ (Nat.two_pow_pos _)
  have set : setField x lo len v = 2 ^ lo * (2 ^ len * (x / 2 ^ (lo + len)) + v % 2 ^ len) + x % 2 ^ lo := by
    have h := field_split x lo len
    rw [Nat.mul_add] at h ⊢
    rw [setField, Nat.mul_comm (field x lo len), Nat.mul_comm (v % 2 ^ len)]
    omega
  rw [set, Nat.testBit_two_pow_mul_add _ below]
  by_cases lower : k < lo
  · rw [if_pos lower, if_neg (by omega), Nat.testBit_mod_two_pow, decide_eq_true lower, Bool.true_and]
  · rw [if_neg lower, Nat.testBit_two_pow_mul_add _ (Nat.mod_lt _ (Nat.two_pow_pos _))]
    by_cases inside : k - lo < len
    · rw [if_pos inside, if_pos (by omega), Nat.testBit_mod_two_pow, decide_eq_true inside, Bool.true_and]
    · rw [if_neg inside, if_neg (by omega), Nat.testBit_div_two_pow, show k - lo - len + (lo + len) = k by omega]

theorem field_setField_same (x lo len v : Nat) : field (setField x lo len v) lo len = v % 2 ^ len := by
  refine Nat.eq_of_testBit_eq fun k => ?_
  rw [testBit_field, testBit_setField, Nat.testBit_mod_two_pow]
  by_cases h : k < len
  · rw [if_pos (by omega), Nat.add_sub_cancel_left]
  · rw [decide_eq_false h, Bool.false_and, Bool.false_and]

theorem field_setField_apart (x v : Nat) {lo len a n : Nat} (h : a + n ≤ lo ∨ lo + len ≤ a) : field (setField x lo len v) a n = field x a n := by
  refine Nat.eq_of_testBit_eq fun k => ?_
  rw [testBit_field, testBit_field, testBit_setField]
  by_cases hk : k < n
  · rw [if_neg (by omega)]
  · rw [decide_eq_false hk, Bool.false_and, Bool.false_and]

/-- TAIL, HEAD, LOG2N, RING and SZ of a header are written back as they are (R5, R166). -/
theorem field_hdrClean (h : Nat) {lo len : Nat} (inside : lo + len ≤ 194) : field (hdrClean h) lo len = field h lo len := by
  refine Nat.eq_of_testBit_eq fun k => ?_
  have parts : hdrClean h = 2 ^ 194 * (2 ^ 6 * field h 200 1 + 2 ^ 30 * field h 224 64) + field h 0 194 := by
    unfold hdrClean
    omega
  rw [testBit_field, testBit_field, parts, Nat.testBit_two_pow_mul_add _ (field_lt h 0 194)]
  by_cases hk : k < len
  · rw [if_pos (by omega), testBit_field, decide_eq_true (by omega : lo + k < 194), Bool.true_and, Nat.zero_add]
  · rw [decide_eq_false hk, Bool.false_and, Bool.false_and]

/-! ### Queue operations (R166, R168) -/

section
variable {s : St} {asid : Nat} {hp : Place}

theorem enqTry_full {data : Nat} (full : hdrN (s.homeRead hp 64).1 ≤ hdrOcc (s.homeRead hp 64).1) :
    s.enqTry asid hp data = (.wait, (s.homeRead hp 64).2) := by
  unfold St.enqTry
  dsimp only
  rw [if_pos full]

theorem deqTry_empty (empty : hdrOcc (s.homeRead hp 64).1 = 0) : s.deqTry asid hp = (.wait, (s.homeRead hp 64).2) := by
  unfold St.deqTry
  dsimp only
  rw [if_pos empty]

variable {hdr : Nat} {u : St} (read : s.homeRead hp 64 = (hdr, u)) {p : Place}
include read

/-- With room, the slot at TAIL is written and TAIL advances. -/
theorem enqTry_room {data : Nat} (room : hdrOcc hdr < hdrN hdr) (slot : u.slotPlace asid hdr (hdrTail hdr) = some p) (good : u.writeErr p = none) :
    s.enqTry asid hp data = (.done (hdrTail hdr % 2 ^ 31) (some p),
      (u.homeWrite p (8 * 2 ^ hdrSz hdr) data).homeWrite hp 64 (hdrClean (setField hdr 0 64 (hdrTail hdr + 1)))) := by
  unfold St.enqTry
  rw [read]
  dsimp only
  rw [if_neg (by omega), slot]
  dsimp only
  rw [good]

/-- With a slot that is filled, the slot at HEAD is read and HEAD advances. -/
theorem deqTry_filled (filled : hdrOcc hdr ≠ 0) (slot : u.slotPlace asid hdr (hdrHead hdr) = some p) (good : u.readErr p = none) :
    s.deqTry asid hp = (.done (hdrHead hdr % 2 ^ 31 + 2 ^ 32 * (u.homeRead p (8 * 2 ^ hdrSz hdr)).1) none,
      (u.homeRead p (8 * 2 ^ hdrSz hdr)).2.homeWrite hp 64 (hdrClean (setField hdr 64 64 (hdrHead hdr + 1)))) := by
  unfold St.deqTry
  rw [read]
  dsimp only
  rw [if_neg filled, slot]
  dsimp only
  rw [good]

end

/-- What a header that is written back holds after TAIL or HEAD has been set. -/
theorem header_fields (h v : Nat) :
    hdrTail (hdrClean (setField h 0 64 v)) = v % 2 ^ 64 ∧ hdrHead (hdrClean (setField h 0 64 v)) = hdrHead h ∧
      hdrTail (hdrClean (setField h 64 64 v)) = hdrTail h ∧ hdrHead (hdrClean (setField h 64 64 v)) = v % 2 ^ 64 ∧
      hdrN (hdrClean (setField h 0 64 v)) = hdrN h ∧ hdrRing (hdrClean (setField h 0 64 v)) = hdrRing h := by
  have set : ∀ {lo}, lo + 64 ≤ 194 → field (hdrClean (setField h lo 64 v)) lo 64 = v % 2 ^ 64 := fun inside => by
    rw [field_hdrClean _ inside, field_setField_same]
  have kept : ∀ {lo a n}, a + n ≤ 194 → a + n ≤ lo ∨ lo + 64 ≤ a → field (hdrClean (setField h lo 64 v)) a n = field h a n :=
    fun inside apart => by rw [field_hdrClean _ inside, field_setField_apart _ _ apart]
  unfold hdrTail hdrHead hdrN hdrRing
  rw [set (by omega), set (by omega), kept (lo := 0) (a := 64) (by omega) (by omega), kept (lo := 64) (a := 0) (by omega) (by omega),
    kept (lo := 0) (a := 128) (by omega) (by omega), kept (lo := 0) (a := 134) (by omega) (by omega)]
  exact ⟨rfl, rfl, rfl, rfl, rfl, rfl⟩

/-- Settles O42: each outcome of an enqueue and of a dequeue, and what setting TAIL or HEAD leaves of a header. -/
theorem queueOrder : Obligations.QueueOrder := by
  unfold Obligations.QueueOrder
  intro s asid hp data
  refine ⟨enqTry_full, deqTry_empty, fun room p slot good => ?enqueued, fun filled p slot good => ?dequeued, fun h v _ => header_fields h v⟩
  case enqueued => rw [enqTry_room rfl room slot good]; exact ⟨rfl, rfl⟩
  case dequeued => rw [deqTry_filled rfl filled slot good]; exact ⟨rfl, rfl⟩

end Sys2Proof.Machine
end

section
/-! SUPPORT AND PROOF. The instructions that reach memory (O32 to O37), queues (O41) and sharing groups (O43): one lemma for each family, which
says that an instruction whose checks pass makes its access, or waits for what would hold it. -/

namespace Sys2Proof.Machine

/-! ### Bodies that end in one effect -/

section
variable {ins : Instr} {opc : BitVec 12} {h : Ctl} {q : Req} {body : Iss → St → Res} {s : State} {i : Iss} {x : Wave}
  (he : ∀ s, exec ins s = issue opc h q body s) (g : Goes h q s i x)
include he g

/-- A body that goes on in sequence leaves the state of its effect. -/
theorem leavesNext_of {u : St} {out : Out} {pub : Bool} (hb : body i (s.at' i x) = .ok { Eff.plain u with out := out, pub := pub }) :
    Leaves ins opc s i u out 1 (fun _ => none) := by
  have left := leaves_of he g hb rfl rfl rfl
  rw [taken_plain i rfl] at left
  exact left

/-- A body that goes on in sequence once nothing holds its access. -/
theorem boundNext_of {size : Nat} {ea : Nat → W64} {ps : List (Nat × Place)} {u v : St} {out : Out} {pub : Bool}
    (hb : body i (s.at' i x) = u.boundFirst i x ea size ps (.ok { Eff.plain v with out := out, pub := pub })) :
    LeavesBound ins opc s i x size ea ps u v out 1 (fun _ => none) := by
  have left := bound_of he g hb rfl rfl rfl rfl
  rw [taken_plain i rfl] at left
  exact left

/-- A body that waits. -/
theorem waitsOn_of {u : St} {w : Wait} (hb : body i (s.at' i x) = .hold u w) : WaitsOn ins s i u w := (he s).trans (issue_hold g hb)

/-- A body that fails as the wave's own pushes have left the state. -/
theorem faults_of {u : St} {c : Nat} {v0 v1 v2 v3 : W64} (hb : body i (s.at' i x) = .fail u c v0 v1 v2 v3) : Faults ins s i u c v0 v1 v2 v3 := by
  rw [Faults, he, issue_goes g, hb]; rfl

end

/-! ### Loads and stores (R147 to R150, R156) -/

/-- A load that passes its checks, and whose lines are parked nowhere that it may not reach, makes an access. -/
theorem loadOp_accesses {opc : BitVec 12} {ins : Instr} {h : Ctl} {d : Opnd} {a : Src} {ofs : BitVec 16} {n size order scope : Nat} {op : Option Nat}
    {perf : Iss → (Nat → W64) → List (Nat × Place) → St → Perf}
    (he : ∀ s, exec ins s = loadOp opc ins h d a ofs n size order scope op perf s) {s : State} {i : Iss} {x : Wave}
    (g : Goes h { Req.none with srcs := a.rng 2, dsts := d.rng n } s i x) {ps : List (Nat × Place)} {u : St}
    (hc : (s.at' i x).checks i (lanesOf i.act) (a.ea ofs x) size size .read = .ok (ps, u))
    (reached : op.bind (fun k => u.locateFault i k (a.ea ofs x) ps) = none) :
    Accesses ins opc s i x order scope size true false (a.ea ofs x) ps (some (d.dest n)) u (perf i (a.ea ofs x) ps) := by
  refine accesses_of (fun s => (he s).trans rfl) g (pub := false) ?_
  dsimp only
  rw [at'_wave, hc]
  dsimp only
  rw [reached]

/-- Settles O32: both are loads; only `LD` is turned away by a park. -/
theorem loadsRead : Obligations.LoadsRead := by
  unfold Obligations.LoadsRead
  refine ⟨?ld, ?ldf⟩
  case ld =>
    intro h d a ofs scope order ty vec ch s i x ps u g hc reached
    exact loadOp_accesses (exec_ld h d a ofs scope order ty vec ch) g hc reached
  case ldf =>
    intro h d a ofs ty vec s i x ps u g hc
    exact loadOp_accesses (exec_ldf h d a ofs ty vec) g hc rfl

/-- Settles O33: each is a store; `STN` also needs its set to be one. -/
theorem storesWrite : Obligations.StoresWrite := by
  unfold Obligations.StoresWrite
  refine ⟨?st, ?stn, ?stnReport⟩
  case st =>
    intro h a b ofs scope order ty vec ch s i x ps u g hc
    exact st_accesses g hc
  case stn =>
    intro h a b ofs scope order ty nsel s i x ps u g hc set
    exact stnOp_accesses (d := none) (exec_stn h a b ofs scope order ty nsel) g hc set
  case stnReport =>
    intro h d a b ofs scope order ty nsel s i x ps u g hc set
    exact stnOp_accesses (d := some d) (exec_stnReport h d a b ofs scope order ty nsel) g hc set

/-! ### Cache maintenance (R151, R159, R160) -/

/-- `DCWB`, `DCINV` and `DCFL`, once their checks pass. -/
theorem maintOp_leaves {ins : Instr} {opc : BitVec 12} {h : Ctl} {a : Src} {ofs : BitVec 16} {scope : BitVec 3} {wb drop : Bool}
    (he : ∀ s, exec ins s = maintOp opc h a ofs scope wb drop s) {s : State} {i : Iss} {x : Wave} (g : Goes h { Req.none with srcs := a.rng 2 } s i x)
    {ps : List (Nat × Place)} {u : St} (hc : (s.at' i x).checks i (lanesOf i.act) (a.ea ofs x) 1 1 .write false = .ok (ps, u)) :
    LeavesBound ins opc s i x 1 (a.ea ofs x) ps u
      (ps.foldl (fun u p => u.maintLine i scope.toNat wb drop ((a.ea ofs x p.1).toNat, p.2)) u) .none 1 (fun _ => none) := by
  refine boundNext_of (fun s => (he s).trans rfl) g (pub := false) ?_
  dsimp only
  rw [at'_wave, hc]
  rfl

/-- `ICINV`, once its checks pass. -/
theorem icinv_leaves {h : Ctl} {a : Src} {ofs : BitVec 16} {scope : BitVec 3} {s : State} {i : Iss} {x : Wave}
    (g : Goes h { Req.none with srcs := a.rng 2 } s i x) {ps : List (Nat × Place)} {u : St}
    (hc : (s.at' i x).checks i (lanesOf i.act) (a.ea ofs x) 1 1 .write false = .ok (ps, u)) :
    let v := if 4 ≤ scope.toNat ∧ i.act ≠ 0 then u.withD (·.tellDies (dieOf i.core)) else u
    Leaves (.icinv h a ofs scope) 0x409 s i (ps.foldl (fun u p => u.withD (·.dropBlocks i.core (a.ea ofs x p.1).toNat scope.toNat)) v) .none 1
      (fun _ => none) := by
  refine leavesNext_of (exec_icinv h a ofs scope) g (pub := false) ?_
  dsimp only
  rw [at'_wave, hc]
  simp only [Bool.and_eq_true, decide_eq_true_eq]
  rfl

/-- Settles O34: the three of R159 are one family, told apart by what they write back and discard. -/
theorem cacheMaintenance : Obligations.CacheMaintenance := by
  unfold Obligations.CacheMaintenance
  refine ⟨?pref, ?dcwb, ?dcinv, ?dcfl, ?icinv⟩
  case pref => exact fun h a ofs lvl s i x g => leavesSame_of (exec_pref h a ofs lvl) g rfl
  case dcwb => exact fun h a ofs scope s i x ps u g hc => maintOp_leaves (exec_dcwb h a ofs scope) g hc
  case dcinv => exact fun h a ofs scope s i x ps u g hc => maintOp_leaves (exec_dcinv h a ofs scope) g hc
  case dcfl => exact fun h a ofs scope s i x ps u g hc => maintOp_leaves (exec_dcfl h a ofs scope) g hc
  case icinv => exact fun h a ofs scope s i x ps u g hc => icinv_leaves g hc

/-! ### Fences (R160, R161, R184) -/

section
variable {ins : Instr} {opc : BitVec 12} {h : Ctl} {ready : Device → Nat → Bool} {wt : Wait}
  (he : ∀ s, exec ins s = issue opc h Req.none (fun i s => if i.act ≠ 0 && !ready s.d i.w then .hold s wt else .ok (Eff.plain s)) s)
  {s : State} {i : Iss} {x : Wave} (g : Goes h Req.none s i x)
include he g

/-- A fence that has no effect of its own goes on once it is ready. -/
theorem fence_passes (met : i.act ≠ 0 → ready (s.at' i x).d i.w = true) : LeavesWave ins opc s i x .none 1 (fun _ => none) := by
  refine leavesSame_of he g ?_
  dsimp only
  rw [if_neg fun waits => ?_]
  · rfl
  · rw [Bool.and_eq_true, decide_eq_true_eq] at waits
    rw [met waits.1] at waits
    exact absurd waits.2 (by decide)

/-- Until then its wave waits, and nothing else changes. -/
theorem fence_waits (active : i.act ≠ 0) (before : ready (s.at' i x).d i.w = false) :
    ∃ t, exec ins s = .next t ∧ t.mem = s.mem ∧ t.dev = ((s.at' i x).withD (fun d => d.setWave i.w { x with wait := wt })).d := by
  have waits := waitsOn_of he g (u := s.at' i x) (w := wt) (by rw [before, decide_eq_true active]; rfl)
  rw [WaitsOn] at waits
  refine ⟨_, waits, rfl, ?_⟩
  rw [State.after, St.withD, St.withD, at'_wave]

end

section
variable {h : Ctl} {scope order : BitVec 3} {s : State} {i : Iss} {x : Wave} (g : Goes h Req.none s i x)
include g

/-- With no active lane a fence orders nothing (R47). -/
theorem fence_inactive (inactive : i.act = 0) : LeavesWave (.fence h scope order) 0x40B s i x .none 1 (fun _ => none) :=
  leavesSame_of (exec_fence h scope order) g (by dsimp only; rw [if_pos inactive]; rfl)

variable (active : i.act ≠ 0) {u : St} (pushed : u = if 2 ≤ order.toNat then (s.at' i x).release i scope.toNat else s.at' i x)
include active pushed

/-- A release that leaves a line unwritten takes the write-back fault (R361). -/
theorem fence_fails (rel : 2 ≤ order.toNat) {f : Held} (left : u.unwritten i scope.toNat = some f) :
    let m := f.data.foldl (fun n c => n + 2 ^ c.1) 0
    Faults (.fence h scope order) s i u 26 (BitVec.ofNat 64 (128 * f.line)) (BitVec.ofNat 64 (f.asid + 2 ^ 16 * (f.cl / 18 * 32 + f.cl % 18)))
      (BitVec.ofNat 64 m) (BitVec.ofNat 64 (m / 2 ^ 64)) := by
  refine faults_of (exec_fence h scope order) g ?_
  dsimp only
  rw [if_neg active, ← pushed, if_pos rel, left]
  rfl

/-- A fence whose pushes are done goes on once it is ready, and holds the reads that still wait if it released; until then it waits (R161, R275). -/
theorem fence_orders (done : 2 ≤ order.toNat → u.unwritten i scope.toNat = none) :
    if u.d.fenceReady i.w order.toNat scope.toNat = true then
      Leaves (.fence h scope order) 0x40B s i (if 2 ≤ order.toNat then u.withD (·.holdReads (u.d.wave i.w).uid) else u) .none 1 (fun _ => none)
    else WaitsOn (.fence h scope order) s i u (.fence order.toNat scope.toNat) := by
  have written : (if 2 ≤ order.toNat then u.unwritten i scope.toNat else none) = none := by
    split
    · next rel => exact done rel
    · rfl
  split
  · next ready =>
    refine leavesNext_of (exec_fence h scope order) g (pub := false) ?_
    dsimp only
    rw [if_neg active, ← pushed, written]
    dsimp only
    rw [if_pos ready]
    rfl
  · next waits =>
    refine waitsOn_of (exec_fence h scope order) g ?_
    dsimp only
    rw [if_neg active, ← pushed, written]
    dsimp only
    rw [if_neg waits]

end

/-- Settles O35: `WFENCE` and `IFENCE` differ in what they wait for only; `FENCE` also pushes, and may fail by it. -/
theorem fencesWait : Obligations.FencesWait := by
  unfold Obligations.FencesWait
  refine ⟨?wfence, ?wfenceWaits, ?ifence, ?ifenceWaits, ?fence, ?tksav⟩
  case wfence => exact fun h s i x g met => fence_passes (ready := Device.wfenceReady) (exec_wfence h) g met
  case wfenceWaits => exact fun h s i x g active before => fence_waits (ready := Device.wfenceReady) (exec_wfence h) g active before
  case ifence => exact fun h s i x g met => fence_passes (ready := Device.ifenceReady) (exec_ifence h) g met
  case ifenceWaits => exact fun h s i x g active before => fence_waits (ready := Device.ifenceReady) (exec_ifence h) g active before
  case fence =>
    intro h scope order s i x g
    split
    · next inactive => exact fence_inactive g inactive
    · next active => exact ⟨fun rel f left => fence_fails g active rfl rel left, fence_orders g active rfl⟩
  case tksav => exact fun h a ofs s i x ps u g hc => tksav_accesses g hc

/-! ### Reader sets (R155, R157, R158) -/

/-- What `RSMK` makes of its sources, level by level. -/
theorem rsmk_result (h : Ctl) (d : Opnd) (a b : Src) (keep : BitVec 2) (lvl : BitVec 3) :
    FixedResult (.rsmk h d a b keep lvl) 0x440 h (req (d.rng 2) [a.rng 1, b.rng 1]) 2 (d.dest 2) (fun _ x l => lvl.toNat * 2 ^ 61 + keep.toNat * 2 ^ 38 +
      (if lvl.toNat = 0 then field (b.w x l).toNat 7 2 * 2 ^ 56 + field (b.w x l).toNat 2 5 * 2 ^ 48 + field (b.w x l).toNat 0 2 * 2 ^ 46
       else if lvl.toNat = 1 then field (b.w x l).toNat 7 2 * 2 ^ 56 + field (b.w x l).toNat 2 5 * 2 ^ 48 + (a.w x l).toNat % 16
       else if lvl.toNat = 2 then field (b.w x l).toNat 7 2 * 2 ^ 56 + (a.w x l).toNat % 2 ^ 18
       else if lvl.toNat = 3 then (a.w x l).toNat % 16 else 0)) := by
  refine (alu_result (exec_rsmk h d a b keep lvl)).congr fun _ x l _ => ?_
  have three : ∀ v p q r : Nat, v + p + q + r = v + (p + q + r) := fun v p q r => by omega
  dsimp only
  split
  · next l0 => rw [if_pos l0]; exact three _ _ _ _
  · next l1 => rw [if_neg (by omega), if_pos l1]; exact three _ _ _ _
  · next l2 => rw [if_neg (by omega), if_neg (by omega), if_pos l2]; exact Nat.add_assoc _ _ _
  · next l3 => rw [if_neg (by omega), if_neg (by omega), if_neg (by omega), if_pos l3]
  · next n0 n1 n2 n3 => rw [if_neg n0, if_neg n1, if_neg n2, if_neg n3]; exact (Nat.add_zero _).symm

section
variable {h : Ctl} {a b : Src} {ofs : BitVec 16} {s : State} {i : Iss} {x : Wave} {ps : List (Nat × Place)} {u : St}

/-- `RSREV`, once its checks pass: it waits for what holds its access and for the wave's earlier stores to the lines, then revises their sets. -/
theorem rsrev_leaves {mode : BitVec 2} (g : Goes h { Req.none with srcs := a.rng 2 } s i x)
    (hc : (s.at' i x).checks i (lanesOf i.act) (a.ea ofs x) 1 1 .write false = .ok (ps, u)) (set : i.act ≠ 0 → setOk (x.nreg b.o.idx) = true) :
    if u.mustWait (i.late x (.nop i.h) 0 0 1 false false (a.ea ofs x) ps) || ps.any (fun p => u.stillStores x.uid i.opid (lineOf (a.ea ofs x p.1).toNat) p.2)
    then WaitsOn (.rsrev h a b ofs mode) s i u .bound
    else Leaves (.rsrev h a b ofs mode) 0x441 s i (ps.foldl (fun u p => u.reviseLine i mode.toNat (x.nreg b.o.idx) (a.ea ofs x p.1) p.2) u) .none 1
      (fun _ => none) := by
  have legal : ¬((i.act ≠ 0 && !setOk (x.nreg b.o.idx)) = true) := fun bad => by
    rw [Bool.and_eq_true, decide_eq_true_eq] at bad
    rw [set bad.1] at bad
    exact absurd bad.2 (by decide)
  cases held : u.mustWait (i.late x (.nop i.h) 0 0 1 false false (a.ea ofs x) ps) with
  | true =>
    refine waitsOn_of (exec_rsrev h a b ofs mode) g ?_
    dsimp only
    rw [at'_wave, hc]
    dsimp only
    rw [if_neg legal, St.boundFirst, if_pos held]
  | false =>
    rw [Bool.false_or]
    split
    · next stores =>
      refine waitsOn_of (exec_rsrev h a b ofs mode) g ?_
      dsimp only
      rw [at'_wave, hc]
      dsimp only
      rw [if_neg legal, St.boundFirst, if_neg (by simp [held]), St.storedFirst, if_pos stores]
    · next free =>
      refine leavesNext_of (exec_rsrev h a b ofs mode) g (pub := i.act != 0) ?_
      dsimp only
      rw [at'_wave, hc]
      dsimp only
      rw [if_neg legal, St.boundFirst, if_neg (by simp [held]), St.storedFirst, if_neg free]
      rfl

/-- `RSQRY`, once its checks pass and its lines are parked nowhere that it may not reach. -/
theorem rsqry_leaves {d : Opnd} (g : Goes h { Req.none with srcs := a.rng 2, dsts := d.rng 2 } s i x)
    (hc : (s.at' i x).checks i (lanesOf i.act) (a.ea ofs x) 1 1 .read false = .ok (ps, u)) (reached : u.locateFault i 3 (a.ea ofs x) ps = none) :
    LeavesBound (.rsqry h d a ofs) 0x442 s i x 1 (a.ea ofs x) ps u u
      (.long (d.dest 2) (ps.map (fun p => (p.1, u.d.rsqryAt p.2))) true none false) 1 (fun _ => none) := by
  refine boundNext_of (exec_rsqry h d a ofs) g (pub := false) ?_
  dsimp only
  rw [at'_wave, hc]
  dsimp only
  rw [reached]
  rfl

end

/-- Settles O36: a result by level, a change behind the wave's own stores, and a read. -/
theorem readerSets : Obligations.ReaderSets := by
  unfold Obligations.ReaderSets
  exact ⟨rsmk_result, fun h a b ofs mode s i x ps u g hc set => rsrev_leaves g hc set, fun h d a ofs s i x ps u g hc reached => rsqry_leaves g hc reached⟩

/-! ### Atomics (R162 to R165) -/

theorem hostBadLanes_false (ps : List (Nat × Place)) : hostBadLanes false ps = [] := by
  refine List.filter_eq_nil_iff.mpr fun p _ => ?_
  split <;> simp

/-- An atomic that passes its checks, whose lines are parked nowhere that it may not reach, and which the host can make, makes an access. -/
theorem atomOp_accesses {opc : BitVec 12} {ins : Instr} {h : Ctl} {d : Option Opnd} {a : Src} {ofs : BitVec 16} {order scope : Nat} {ty : BitVec 3}
    {srcs : List (Nat × Nat × Bool)} {op : Option Nat} {hostBad : Bool} {perf : Iss → Wave → (Nat → W64) → List (Nat × Place) → St → Perf}
    (he : ∀ s, exec ins s = atomOp opc ins h d a ofs order scope ty srcs op hostBad perf s) {s : State} {i : Iss} {x : Wave}
    (g : Goes h { Req.none with srcs := a.rng 2 ++ srcs, dsts := dstRng d (intN ty) } s i x) {ps : List (Nat × Place)} {u : St}
    (hc : (s.at' i x).checks i (lanesOf i.act) (a.ea ofs x) (tySize ty) (tySize ty) .both = .ok (ps, u))
    (reached : op.bind (fun k => u.locateFault i k (a.ea ofs x) ps) = none) (made : hostBadLanes hostBad ps = []) :
    Accesses ins opc s i x order scope (tySize ty) op.isSome true (a.ea ofs x) ps (d.map (·.dest (intN ty))) u (perf i x (a.ea ofs x) ps) := by
  refine accesses_of (fun s => (he s).trans (by unfold atomOp; rfl)) g (pub := ps.any (fun p => p.2.outside i.blk)) ?_
  dsimp only
  rw [at'_wave, hc]
  dsimp only
  rw [reached]
  dsimp only
  rw [made]

/-- Settles O37: the three are one family; `RED` asks for no result and is turned away by no park, `ACAS` by no host. -/
theorem atomicsReadAndWrite : Obligations.AtomicsReadAndWrite := by
  unfold Obligations.AtomicsReadAndWrite
  refine ⟨?atom, ?acas, ?red⟩
  case atom =>
    intro h d a b ofs scope order ty aop s i x ps u g hc reached made
    exact atomOp_accesses (d := some d) (exec_atom h d a b ofs scope order ty aop) g hc reached made
  case acas =>
    intro h d a b ofs scope order ty s i x ps u g hc reached
    exact atomOp_accesses (d := some d) (exec_acas h d a b ofs scope order ty) g hc reached (hostBadLanes_false ps)
  case red =>
    intro h a b ofs scope order ty aop s i x ps u g hc made
    exact atomOp_accesses (d := none) (exec_red h a b ofs scope order ty aop) g hc rfl made

/-! ### Queues (R166 to R169) -/

/-- The checks of a queue instruction pass where no header lies in host memory (R166). -/
theorem headers_ok {s u : St} {i : Iss} {ea : Nat → W64} {ps : List (Nat × Place)} (hc : s.checks i (lanesOf i.act) ea 64 64 .both = .ok (ps, u))
    (device : hostPlaces ps = []) : s.headers i ea = .ok (ps, u) := by
  unfold St.headers
  rw [hc]
  dsimp only
  rw [device]

/-- `ENQ` and `DEQ`, once their checks pass, make an access. -/
theorem queueOp_accesses {opc : BitVec 12} {ins : Instr} {h : Ctl} {d : Opnd} {dn : Nat} {a : Src} {srcs : List (Nat × Nat × Bool)} {ofs : BitVec 16}
    {order scope : Nat} {perf : Iss → Wave → (Nat → W64) → List (Nat × Place) → St → Perf}
    (he : ∀ s, exec ins s = queueOp opc ins h d dn a srcs ofs order scope perf s) {s : State} {i : Iss} {x : Wave}
    (g : Goes h { Req.none with srcs := a.rng 2 ++ srcs, dsts := d.rng dn } s i x) {ps : List (Nat × Place)} {u : St}
    (hc : (s.at' i x).checks i (lanesOf i.act) (a.ea ofs x) 64 64 .both = .ok (ps, u)) (device : hostPlaces ps = []) :
    Accesses ins opc s i x order scope 64 true true (a.ea ofs x) ps (some (d.dest dn)) u (perf i x (a.ea ofs x) ps) := by
  refine accesses_of (fun s => (he s).trans rfl) g (pub := i.act != 0) ?_
  dsimp only
  rw [at'_wave, headers_ok hc device]

section
variable {h : Ctl} {a b : Src} {ofs : BitVec 16} {s : State} {i : Iss} {x : Wave} {ps : List (Nat × Place)} {u : St}
  (hc : (s.at' i x).checks i (lanesOf i.act) (a.ea ofs x) 64 64 .both = .ok (ps, u)) (device : hostPlaces ps = [])
include hc device

/-- `QINIT`, once its checks pass and every size is one that R167 allows. -/
theorem qinit_leaves {sz : BitVec 2} (g : Goes h { Req.none with srcs := a.rng 2 ++ b.rng 2 } s i x)
    (sizes : ∀ p ∈ ps, (b.x x p.1).toNat % 64 ≤ 24) :
    LeavesBound (.qinit h a b ofs sz) 0x4C2 s i x 64 (a.ea ofs x) ps u (ps.foldl (fun u p => u.qinitAt p.2 (b.x x p.1) sz.toNat) u) .none 1
      (fun _ => none) := by
  have big : ps.filter (fun p => decide (24 < (b.x x p.1).toNat % 64)) = [] :=
    List.filter_eq_nil_iff.mpr fun p hp => by have := sizes p hp; simpa using this
  refine boundNext_of (exec_qinit h a b ofs sz) g (pub := i.act != 0) ?_
  dsimp only
  rw [at'_wave, hc]
  dsimp only
  rw [big, device]
  rfl

/-- `QSTAT`, once its checks pass. -/
theorem qstat_leaves {d : Opnd} (g : Goes h { Req.none with srcs := a.rng 2, dsts := d.rng 2 } s i x) :
    LeavesBound (.qstat h d a ofs) 0x4C3 s i x 64 (a.ea ofs x) ps u (u.qstats i ps).2
      (.long (d.dest 2) (u.qstats i ps).1 true (u.readErrs 0x4C3 (a.ea ofs x) ps) false) 1 (fun _ => none) := by
  refine boundNext_of (exec_qstat h d a ofs) g (pub := false) ?_
  dsimp only
  rw [at'_wave, headers_ok hc device]
  rfl

end

/-- Settles O41: `ENQ` and `DEQ` are accesses; `QINIT` and `QSTAT` wait for what would hold one. -/
theorem queuesAtTheirHeaders : Obligations.QueuesAtTheirHeaders := by
  unfold Obligations.QueuesAtTheirHeaders
  refine ⟨?enq, ?deq, ?qinit, ?qstat⟩
  case enq =>
    intro h d a b ofs scope order sz blk s i x ps u g hc device
    exact queueOp_accesses (exec_enq h d a b ofs scope order sz blk) g hc device
  case deq =>
    intro h d a ofs scope order sz blk s i x ps u g hc device
    exact queueOp_accesses (exec_deq h d a ofs scope order sz blk) g hc device
  case qinit =>
    intro h a b ofs sz s i x ps u g hc sizes device
    exact qinit_leaves hc device g sizes
  case qstat =>
    intro h d a ofs s i x ps u g hc device
    exact qstat_leaves hc device g

/-! ### Sharing groups (R170 to R172) -/

/-- An instruction that changes its block, and with no active lane does nothing (R47). -/
theorem changesBlock_of {ins : Instr} {opc : BitVec 12} {h : Ctl} {q : Req} {f : Iss → Wave → Device → Block}
    (he : ∀ s, exec ins s = issue opc h q (fun i s => .ok (Eff.plain (if i.act = 0 then s else
      s.withD fun d => d.setBlock i.blk (f i (s.d.wave i.w) d)))) s) {s : State} {i : Iss} {x : Wave} (g : Goes h q s i x) :
    if i.act = 0 then LeavesWave ins opc s i x .none 1 (fun _ => none)
    else Leaves ins opc s i ((s.at' i x).withD fun d => d.setBlock i.blk (f i x d)) .none 1 (fun _ => none) := by
  split
  · next inactive => exact leavesSame_of he g (by dsimp only; rw [if_pos inactive]; rfl)
  · next active => exact leavesNext_of he g (pub := false) (by dsimp only; rw [if_neg active, at'_wave]; rfl)

/-- The block as `GJOIN` leaves it (R171). -/
def Block.afterGjoin (b : Block) : Block := if b.formed || b.member then b else { b with member := true }

/-- The block as `GLEAVE` leaves it (R171). -/
def Block.afterGleave (b : Block) : Block := if b.member then { b with leaving := true } else b

/-- The block as `GMAP` leaves it: a window slot shows the member that a lane names, in its present generation, or none (R172). -/
def mappedBlock (a : Src) (slot : BitVec 6) (i : Iss) (x : Wave) (d : Device) : Block :=
  { d.block i.blk with
    windows := (d.block i.blk).windows.put slot.toNat ((d.memberOf i.blk (a.w x (lowest i.act)).toNat).map (fun k => ⟨k / 64, k % 64, (d.block k).gen⟩)) }

/-- Settles O43: each changes the issuing wave's block, and nothing else. -/
theorem sharingGroups : Obligations.SharingGroups := by
  unfold Obligations.SharingGroups
  refine ⟨?gjoin, ?gleave, ?gmap⟩
  case gjoin => exact fun h s i x g => changesBlock_of (f := fun i _ d => (d.block i.blk).afterGjoin) (exec_gjoin h) g
  case gleave => exact fun h s i x g => changesBlock_of (f := fun i _ d => (d.block i.blk).afterGleave) (exec_gleave h) g
  case gmap => exact fun h a slot s i x g => changesBlock_of (f := mappedBlock a slot) (exec_gmap h a slot) g

end Sys2Proof.Machine
end

section
/-! SUPPORT AND PROOF. What only reads stores nothing (O38): reads, recalls, read-once bits, parks and the checks of an access change the memory
system's records, and no byte and no wave but for `walking`. -/

namespace Sys2Proof.Machine

/-! ### What the checks of an access change (R146, R307) -/

/-- A translation that is cached changes the translation caches only. -/
theorem cacheTlb_eq (s : St) (slice asid va : Nat) : ∃ tlb, s.cacheTlb slice asid va = s.withD fun d => { d with tlb := tlb } := by
  unfold St.cacheTlb
  split
  · exact ⟨s.d.tlb, rfl⟩
  · split
    · exact ⟨s.d.tlb, rfl⟩
    · exact ⟨_, rfl⟩

/-- Checks that had to walk change the translation caches, and note the walk at the wave. -/
theorem walked_eq (s : St) (i : Iss) (ea : Nat → W64) (ls : List Nat) : s.walked i ea ls = s ∨
    ∃ tlb, s.walked i ea ls = s.withD fun d => { d with tlb := tlb }.setWave i.w { d.wave i.w with walking := true } := by
  have cached : ∃ tlb, ls.foldl (fun s l => s.cacheTlb (sliceOf i.core) i.asid (ea l).toNat) s = s.withD fun d => { d with tlb := tlb } := by
    induction ls generalizing s with
    | nil => exact ⟨s.d.tlb, rfl⟩
    | cons l r ih =>
      obtain ⟨t, ht⟩ := cacheTlb_eq s (sliceOf i.core) i.asid (ea l).toNat
      obtain ⟨t', ht'⟩ := ih (s.cacheTlb (sliceOf i.core) i.asid (ea l).toNat)
      exact ⟨t', ht'.trans (by rw [ht]; rfl)⟩
  obtain ⟨tlb, h⟩ := cached
  unfold St.walked
  dsimp only
  split
  · exact .inl rfl
  · exact .inr ⟨tlb, by rw [h]; rfl⟩

theorem successes_lanes {ε α : Type} {ls : List Nat} {f : Nat → Except ε α} (h : failures (ls.map (fun l => (l, f l))) = []) :
    (successes (ls.map (fun l => (l, f l)))).map (·.1) = ls := by
  induction ls with
  | nil => rfl
  | cons l r ih =>
    unfold failures successes at *
    rw [List.map_cons, List.filterMap_cons] at *
    cases hf : f l with
    | error e => rw [hf] at h; cases h
    | ok p =>
      rw [hf] at h
      exact congrArg (l :: ·) (ih h)

section
variable {s u : St} {i : Iss} {ls : List Nat} {ea : Nat → W64} {size al : Nat} {acc : Acc} {tile : Bool} {ps : List (Nat × Place)}
  (hc : s.checks i ls ea size al acc tile = .ok (ps, u))
include hc

/-- Checks that pass give each lane a place. -/
theorem checks_lanes : ps.map (·.1) = ls := by
  unfold St.checks at hc
  dsimp only at hc
  split at hc
  · cases hc
  · next passed =>
    cases hc
    exact successes_lanes passed

/-- The state that checks leave: no byte is written, and of the waves that of the issue may have walked. -/
theorem checks_frame : u.m0 = s.m0 ∧ u.log = s.log ∧
    ∀ k, u.d.wave k = s.d.wave k ∨ (k = i.w ∧ u.d.wave k = { s.d.wave k with walking := true }) := by
  rw [(checks_ok hc).2]
  rcases walked_eq s i ea ((ps.filter (!·.2.isScratch)).map (·.1)) with same | ⟨tlb, walk⟩
  · rw [same]
    exact ⟨rfl, rfl, fun _ => .inl rfl⟩
  · rw [walk]
    refine ⟨rfl, rfl, fun k => ?_⟩
    rw [(St.withD_fields _ _).1, Device.wave_setWave]
    by_cases hk : i.w = k
    · subst hk
      exact .inr ⟨rfl, if_pos rfl⟩
    · exact .inl (if_neg hk)

end

/-- After the checks of an issue nothing is written, and a handler that went on still does. -/
theorem checks_ready {s : State} {i : Iss} {x : Wave} {ls : List Nat} {ea : Nat → W64} {size al : Nat} {acc : Acc} {tile : Bool}
    {ps : List (Nat × Place)} {u : St} (hc : (s.at' i x).checks i ls ea size al acc tile = .ok (ps, u)) (hh : HandlerGoesOn x) :
    u.log = [] ∧ HandlerGoesOn (u.d.wave i.w) := by
  obtain ⟨-, log, waves⟩ := checks_frame hc
  refine ⟨log.trans (at'_fields s i x).2.1, ?_⟩
  have wave := waves i.w
  rw [at'_wave] at wave
  rcases wave with same | ⟨-, walk⟩
  · rwa [same]
  · rw [walk]
    exact hh.congr rfl rfl

/-! ### Accesses that write no byte -/

/-- `t` differs from `s` by no byte written and by no wave. -/
def St.Reads (s t : St) : Prop := t.log = s.log ∧ t.d.waves = s.d.waves

theorem St.Reads.refl (s : St) : s.Reads s := ⟨rfl, rfl⟩

theorem St.Reads.trans {s t u : St} (h : s.Reads t) (k : t.Reads u) : s.Reads u := ⟨k.1.trans h.1, k.2.trans h.2⟩

theorem St.Reads.foldl {α : Type} {f : St → α → St} (h : ∀ (s : St) a, s.Reads (f s a)) (ls : List α) (s : St) : s.Reads (ls.foldl f s) := by
  induction ls generalizing s with
  | nil => exact .refl s
  | cons a r ih => exact (h s a).trans (ih _)

/-- A change of the device that keeps the waves. -/
theorem St.Reads.withD {s : St} {f : Device → Device} (h : (f s.d).waves = s.d.waves) : s.Reads (s.withD f) := ⟨rfl, h⟩

theorem St.Reads.handler {s t : St} (h : s.Reads t) {w : Nat} (hh : HandlerGoesOn (s.d.wave w)) : HandlerGoesOn (t.d.wave w) := by
  rwa [Device.wave, h.2]

theorem reads_load (s : St) (core : Nat) (p : Place) (n : Nat) : s.Reads (s.load core p n).2 :=
  ⟨(load_keeps s core p n).1, waves_of_machine (load_keeps s core p n).2⟩

theorem reads_loadFar (s : St) (core : Nat) (p : Place) (n : Nat) : s.Reads (s.loadFar core p n).2 := by
  cases p with
  | scratch b o => exact reads_load s core _ n
  | host pa => exact reads_load s core _ n
  | dev pa pte =>
    unfold St.loadFar
    dsimp only
    split
    · exact .withD (waves_of_machine (machine_meetPark ..))
    · exact .withD (waves_of_machine (machine_fromOwner ..))

theorem reads_readLane (s : St) (i : Iss) (p : Place) (n : Nat) : s.Reads (s.readLane i p n).2 := by
  unfold St.readLane
  split
  · exact reads_loadFar ..
  · exact reads_load ..

theorem reads_readAt (s : St) (i : Iss) (loc : Bool) (size : Nat) (p : Place) : s.Reads (s.readAt i loc size p).2 := by
  unfold St.readAt
  split
  · split
    · exact .refl s
    · exact reads_readLane ..
  · exact reads_readLane ..

theorem readOnce_waves (d : Device) (core ln : Nat) : (d.readOnce core ln).waves = d.waves := by
  have cleared : ∀ (u : BitVec 18) (p : Park), (if u = 0 then d.goHome ln else { d with parks := d.parks.put ln (some p) }).waves = d.waves :=
    fun u p => by
      split
      · exact goHome_waves d ln
      · rfl
  unfold Device.readOnce
  split
  · rfl
  · split
    · rfl
    · exact cleared _ _

theorem reads_markRead (s : St) (core : Nat) (ps : List (Nat × Place)) : s.Reads (s.markRead core ps) := .foldl (fun s p => by
  unfold St.readOnceAt
  split
  · exact .withD (readOnce_waves ..)
  · exact .refl s) ps s

/-- A load as it is performed writes no byte (R147). -/
theorem reads_loadPerf (s : St) (opc : BitVec 12) (i : Iss) (once loc : Bool) (size : Nat) (ea : Nat → W64) (val : Nat → Nat)
    (ps : List (Nat × Place)) : s.Reads (s.loadPerf opc i once loc size ea val ps).st := by
  have lanes : ∀ t : St, t.Reads (t.loadLanes i loc size val ps).2 := fun t => .foldl (fun s (p : Nat × Place) => reads_readAt s i loc size p.2) ps t
  cases once with
  | true => exact ((St.Reads.withD rfl : s.Reads (s.countRecalls i ps)).trans (lanes _)).trans (reads_markRead ..)
  | false => exact lanes s

/-- A far load as it is performed writes no byte (R150). -/
theorem reads_farPerf (s : St) (opc : BitVec 12) (i : Iss) (size : Nat) (ea : Nat → W64) (val : Nat → Nat) (ps : List (Nat × Place)) :
    s.Reads (s.farPerf opc i size ea val ps).st := .foldl (fun s (p : Nat × Place) => reads_loadFar s i.core p.2 size) ps s

/-- A change of a line's set writes no byte (R157). -/
theorem reads_reviseLine (s : St) (i : Iss) (mode : Nat) (set va : W64) (p : Place) : s.Reads (s.reviseLine i mode set va p) := by
  unfold St.reviseLine
  split
  · split
    · exact .withD (place_waves ..)
    · exact .refl s
  · exact .refl s

section
variable {ins : Instr} {opc : BitVec 12} {s : State} {i : Iss} {u v : St}

theorem after_log_nil (h : v.log = []) : (s.after v).mem = s.mem := by rw [State.after, h]; rfl

/-- An issue whose effect writes no byte leaves memory as it was. -/
theorem LeavesWaiting.writesNothing {out : Out} {n : Nat} {tgt : Nat → Option Addr} {wt : Wait} (hl : LeavesWaiting ins opc s i v out n tgt wt)
    (log : v.log = []) (hh : HandlerGoesOn (v.d.wave i.w)) : ∃ t, exec ins s = .next t ∧ t.mem = s.mem := by
  obtain ⟨t, next, mem, -⟩ := hl hh
  exact ⟨t, next, mem.trans (after_log_nil log)⟩

/-- Nor does an instruction that waits with no byte written. -/
theorem WaitsOn.writesNothing {wt : Wait} (hw : WaitsOn ins s i v wt) (log : v.log = []) : ∃ t, exec ins s = .next t ∧ t.mem = s.mem :=
  ⟨_, hw, after_log_nil log⟩

variable (log : u.log = []) (hh : HandlerGoesOn (u.d.wave i.w))
include log hh

/-- An access without release that only reads leaves memory as it was, performed or held. -/
theorem Accesses.writesNothing {x : Wave} {order scope size : Nat} {rd wr : Bool} {ea : Nat → W64} {ps : List (Nat × Place)} {dst : Option Dest}
    {perf : St → Perf} (ha : Accesses ins opc s i x order scope size rd wr ea ps dst u perf) (ho : order < 2) (reads : u.Reads (perf u).st) :
    ∃ t, exec ins s = .next t ∧ t.mem = s.mem := by
  obtain ⟨done, held⟩ := ha.1 u (orderBefore_of_lt ho)
  cases waits : u.mustWait (i.late x ins order scope size rd wr ea ps) with
  | true => exact (held waits).writesNothing log hh.held
  | false => exact (done waits).writesNothing (reads.1.trans log) (reads.handler hh).performed

/-- So does an instruction that waits for what holds its access, and else only reads. -/
theorem LeavesBound.writesNothing {x : Wave} {size : Nat} {ea : Nat → W64} {ps : List (Nat × Place)} {out : Out} {n : Nat}
    {tgt : Nat → Option Addr} (hl : LeavesBound ins opc s i x size ea ps u v out n tgt) (reads : u.Reads v) :
    ∃ t, exec ins s = .next t ∧ t.mem = s.mem := by
  unfold LeavesBound at hl
  split at hl
  · exact hl.writesNothing log
  · exact LeavesWaiting.writesNothing hl (reads.1.trans log) (reads.handler hh)

end

/-- Settles O38: each makes an access that only reads, in the state that its checks leave. -/
theorem loadsChangeNoByte : Obligations.LoadsChangeNoByte := by
  unfold Obligations.LoadsChangeNoByte
  refine ⟨?ld, ?ldf, ?rsrev, ?rsqry, ?checks⟩
  case ld =>
    intro h d a ofs scope order ty vec ch s i x ps u g hh ho hc reached
    obtain ⟨log, handler⟩ := checks_ready hc hh
    exact (loadOp_accesses (exec_ld h d a ofs scope order ty vec ch) g hc reached).writesNothing log handler ho (reads_loadPerf ..)
  case ldf =>
    intro h d a ofs ty vec s i x ps u g hh hc
    obtain ⟨log, handler⟩ := checks_ready hc hh
    exact (loadOp_accesses (exec_ldf h d a ofs ty vec) g hc rfl).writesNothing log handler Nat.zero_lt_two (reads_farPerf ..)
  case rsrev =>
    intro h a b ofs mode s i x ps u g hh hc set
    obtain ⟨log, handler⟩ := checks_ready hc hh
    have reads : u.Reads (ps.foldl (fun u p => u.reviseLine i mode.toNat (x.nreg b.o.idx) (a.ea ofs x p.1) p.2) u) :=
      .foldl (fun s (p : Nat × Place) => reads_reviseLine s i _ _ _ p.2) ps u
    have leaves := rsrev_leaves (mode := mode) g hc set
    split at leaves
    · exact leaves.writesNothing log
    · exact LeavesWaiting.writesNothing leaves (reads.1.trans log) (reads.handler handler)
  case rsqry =>
    intro h d a ofs s i x ps u g hh hc reached
    obtain ⟨log, handler⟩ := checks_ready hc hh
    exact (rsqry_leaves g hc reached).writesNothing log handler (.refl u)
  case checks =>
    intro s i ls ea size al acc tile ps u hc
    obtain ⟨m0, log, waves⟩ := checks_frame hc
    exact ⟨m0, log, waves, checks_lanes hc, fun l p hp => checks_place hc hp⟩

end Sys2Proof.Machine
end

section
/-! SUPPORT AND PROOF. Masks, held threads and tokens (O11, O28). Holds and releases are seen as rounds that come to rest: a thread that a round changes
goes to RUN or is held at a meet address, and each round that goes on clears a mask, so at most twelve do. -/

namespace Sys2Proof.Machine

/-! ### Masks that an operation changes (R27) -/

/-- A mask as a register holds it: one with no lane is clear, its meet address 0 (R27). -/
def Mask.stored (m : Mask) : Mask := if m.lanes = 0 then ⟨0, 0⟩ else m

theorem Wave.mask_setMask (x : Wave) (i k : Nat) (m : Mask) : (x.setMask i m).mask k = if i = k then m.stored else x.mask k :=
  Tab.get_put _ _ _ _ _

/-- Masks that are each changed once. -/
theorem Wave.mask_foldl_set (p : Nat → Bool) (g : Mask → Mask) {ls : List Nat} (distinct : ls.Nodup) (x : Wave) (m : Nat) :
    (ls.foldl (fun z k => if p k then z.setMask k (g (z.mask k)) else z) x).mask m =
      if m ∈ ls ∧ p m = true then (g (x.mask m)).stored else x.mask m := by
  induction ls generalizing x with
  | nil => simp
  | cons k r ih =>
    obtain ⟨fresh, rest⟩ := List.nodup_cons.mp distinct
    have first : (if p k then x.setMask k (g (x.mask k)) else x).mask m = if k = m ∧ p k = true then (g (x.mask m)).stored else x.mask m := by
      split
      · next hp =>
        rw [Wave.mask_setMask]
        by_cases e : k = m
        · subst e; simp [hp]
        · simp [e]
      · next hp => simp [hp]
    rw [List.foldl_cons, ih rest, first]
    by_cases e : k = m
    · subst e
      simp [fresh]
    · simp [e, Ne.symm e]

/-- A fold that only sets masks changes nothing else. -/
theorem Wave.foldl_setMask_rest (p : Nat → Bool) (g : Mask → Mask) (ls : List Nat) (x : Wave) :
    { ls.foldl (fun z k => if p k then z.setMask k (g (z.mask k)) else z) x with masks := x.masks } = x := by
  have kept := Wave.foldl_keeps (fun z => { z with masks := x.masks }) (fun z k => if p k then z.setMask k (g (z.mask k)) else z)
    (fun z k => by split <;> rfl) ls x
  exact kept

/-! ### `MLEAVE` (R188) -/

/-- A mask that the lanes leave. -/
def Mask.without (m : Mask) (lanes : Lanes) : Mask := ⟨m.lanes &&& ~~~lanes, m.meet⟩

/-- The wave when the active lanes have left the masks of SET. -/
def Wave.leaveSet (x : Wave) (i : Iss) (set : BitVec 12) : Wave :=
  (List.range 12).foldl (fun z k => if set.getLsbD k then z.setMask k ((z.mask k).without i.act) else z) x

theorem mleave_leaves {h : Ctl} {set : BitVec 12} {s : State} {i : Iss} {x : Wave} (g : Goes h Req.none s i x) :
    LeavesWave (.mleave h set) 0x2C1 s i (x.leaveSet i set) .none 1 (fun _ => none) :=
  leavesOn_of (f := fun z => z.leaveSet i set) (exec_mleave h set) g rfl

/-- No bit of SET, no mask. -/
theorem Wave.leaveSet_zero (x : Wave) (i : Iss) : x.leaveSet i 0 = x := by
  unfold Wave.leaveSet
  induction List.range 12 with
  | nil => rfl
  | cons k r ih => rw [List.foldl_cons, if_neg (by simp)]; exact ih

/-- Only masks change. -/
theorem Wave.leaveSet_rest (x : Wave) (i : Iss) (set : BitVec 12) : { x.leaveSet i set with masks := x.masks } = x :=
  Wave.foldl_setMask_rest (fun k => set.getLsbD k) (·.without i.act) (List.range 12) x

/-- Settles O11: each mask of SET is stored without the active lanes. -/
theorem lanesLeaveMasks : Obligations.LanesLeaveMasks := by
  unfold Obligations.LanesLeaveMasks
  intro h set s i x g
  refine ⟨x.leaveSet i set, mleave_leaves g, x.leaveSet_rest i set, ?none, fun m => ?masks⟩
  case none =>
    rintro rfl
    exact x.leaveSet_zero i
  case masks =>
    rw [Wave.leaveSet, Wave.mask_foldl_set _ (·.without i.act) List.nodup_range]
    simp only [List.mem_range]
    rfl

/-! ### What a thread is after holds and releases (R186, R191) -/

/-- A thread of lane `l` stands at the meet address of a mask that the lane is a member of (R186). -/
def Wave.standsAtMeet (x : Wave) (l : Nat) (t : Thread) : Bool :=
  (List.range 12).any (fun i => (x.mask i).lanes.getLsbD l && t.pc.setWidth 64 == (x.mask i).meet)

theorem Wave.standsAtMeet_iff {x : Wave} {l : Nat} {t : Thread} :
    x.standsAtMeet l t = true ↔ ∃ m, m < 12 ∧ (x.mask m).lanes.getLsbD l = true ∧ t.pc.setWidth 64 = (x.mask m).meet := by
  simp [Wave.standsAtMeet]

/-- The thread that `holdAt` makes of a thread of lane `l`. -/
def Wave.heldOf (x : Wave) (l : Nat) (t : Thread) : Thread :=
  match t.st, t.hold with
  | .run, _ => if x.standsAtMeet l t then { t with st := .held, hold := .meet } else t
  | .held, .meet => if x.standsAtMeet l t then t else { t with st := .run }
  | .held, .mwait i => if (x.mask i).lanes.getLsbD l then t else { t with st := .run, hold := .meet }
  | _, _ => t

/-- The thread that `syncRelease` makes of a thread. -/
def Wave.freedOf (x : Wave) (t : Thread) : Thread := if x.syncFree t then { t with st := .run, hold := .meet } else t

theorem Wave.heldOf_congr {x y : Wave} (h : x.masks = y.masks) (l : Nat) (t : Thread) : x.heldOf l t = y.heldOf l t := by
  have masks : x.mask = y.mask := funext (Wave.mask_of_masks h)
  unfold Wave.heldOf Wave.standsAtMeet
  rw [masks]

/-- `z` is `y` with the thread of lane `l` become `t`, and its masks. -/
def Wave.Sets (y : Wave) (l : Nat) (t : Thread) (z : Wave) : Prop :=
  z.masks = y.masks ∧ ∀ k, z.thread k = if l = k then t else y.thread k

theorem Wave.sets_setThread (y : Wave) (l : Nat) (t : Thread) : y.Sets l t (y.setThread l t) := ⟨rfl, fun _ => Wave.thread_setThread ..⟩

theorem Wave.sets_self (y : Wave) (l : Nat) : y.Sets l (y.thread l) y := ⟨rfl, fun k => by
  split
  · next e => rw [e]
  · rfl⟩

theorem Wave.Sets.ite {y z u : Wave} {l : Nat} {t v : Thread} (c : Prop) [Decidable c] (h : y.Sets l t z) (k : y.Sets l v u) :
    y.Sets l (if c then t else v) (if c then z else u) := by
  split
  · exact h
  · exact k

/-- Threads of distinct lanes, each changed once by a step that may look at the masks. -/
theorem Wave.thread_foldl_lanes {f : Wave → Nat → Wave} {g : Nat → Thread → Thread} {x : Wave}
    (step : ∀ (y : Wave) l, y.masks = x.masks → y.Sets l (g l (y.thread l)) (f y l)) {ls : List Nat} (distinct : ls.Nodup) (k : Nat) :
    (ls.foldl f x).thread k = if k ∈ ls then g k (x.thread k) else x.thread k := by
  have all : ∀ y : Wave, y.masks = x.masks → (ls.foldl f y).thread k = if k ∈ ls then g k (y.thread k) else y.thread k := by
    induction ls with
    | nil => simp
    | cons l r ih =>
      intro y hy
      obtain ⟨fresh, rest⟩ := List.nodup_cons.mp distinct
      obtain ⟨masks, threads⟩ := step y l hy
      rw [List.foldl_cons, ih rest _ (masks.trans hy), threads]
      by_cases e : l = k
      · subst e; simp [fresh]
      · simp [e, Ne.symm e]
  exact all x rfl

theorem Wave.thread_holdAt (x : Wave) {l : Nat} (hl : l < 32) : x.holdAt.thread l = x.heldOf l (x.thread l) := by
  unfold Wave.holdAt
  rw [Wave.thread_foldl_lanes (g := x.heldOf) ?step List.nodup_range, if_pos (List.mem_range.mpr hl)]
  intro y k hy
  rw [Wave.heldOf_congr hy.symm]
  unfold Wave.heldOf Wave.standsAtMeet
  dsimp only
  cases hs : (y.thread k).st with
  | run => exact .ite _ (y.sets_setThread k _) (y.sets_self k)
  | done => exact y.sets_self k
  | held =>
    cases hh : (y.thread k).hold with
    | meet => exact .ite _ (y.sets_self k) (y.sets_setThread k _)
    | mwait m => exact .ite _ (y.sets_self k) (y.sets_setThread k _)
    | msync lm => exact y.sets_self k

theorem Wave.thread_syncRelease (x : Wave) {l : Nat} (hl : l < 32) : x.syncRelease.thread l = x.freedOf (x.thread l) := by
  unfold Wave.syncRelease
  rw [Wave.thread_foldl_lanes (g := fun k t => if x.syncFree (x.thread k) then { x.thread k with st := .run, hold := .meet } else t)
    (fun y k _ => .ite _ (y.sets_setThread k _) (y.sets_self k)) List.nodup_range, if_pos (List.mem_range.mpr hl)]
  rfl

/-- What a hold or a release makes of a thread: nothing, or one that is not DONE runs, or is held, at its PC. -/
def Thread.Moves (t u : Thread) : Prop := u = t ∨ (t.st ≠ .done ∧ u.st ≠ .done ∧ u.hold = .meet ∧ u.pc = t.pc)

theorem Thread.Moves.refl (t : Thread) : t.Moves t := .inl rfl

theorem Thread.Moves.trans {t u v : Thread} (h : t.Moves u) (k : u.Moves v) : t.Moves v := by
  rcases h with rfl | ⟨live, running, hold, pc⟩
  · exact k
  · rcases k with rfl | ⟨-, live', meet, pc'⟩
    · exact .inr ⟨live, running, hold, pc⟩
    · exact .inr ⟨live, live', meet, pc'.trans pc⟩

section
variable {t u : Thread} (h : t.Moves u)
include h

theorem Thread.Moves.pc_eq : u.pc = t.pc := by
  rcases h with rfl | ⟨-, -, -, pc⟩
  · rfl
  · exact pc

theorem Thread.Moves.done_iff : u.st = .done ↔ t.st = .done := by
  rcases h with rfl | ⟨live, live', -⟩
  · rfl
  · exact ⟨fun e => absurd e live', fun e => absurd e live⟩

/-- A thread that is held elsewhere than at a meet address has not been changed. -/
theorem Thread.Moves.eq_of_hold (held : u.hold ≠ .meet) : u = t := by
  rcases h with same | ⟨-, -, meet, -⟩
  · exact same
  · exact absurd meet held

theorem Thread.Moves.meet (running : t.st ≠ .done ∧ t.hold = .meet) : u.st ≠ .done ∧ u.hold = .meet := by
  rcases h with rfl | ⟨-, live, meet, -⟩
  · exact running
  · exact ⟨live, meet⟩

end

section
variable (x : Wave) (l : Nat) (t : Thread)

theorem Wave.heldOf_moves : t.Moves (x.heldOf l t) := by
  unfold Wave.heldOf
  cases hs : t.st with
  | run =>
    dsimp only
    split
    · exact .inr (by simp [hs])
    · exact .refl t
  | done => exact .refl t
  | held =>
    cases hh : t.hold with
    | meet =>
      dsimp only
      split
      · exact .refl t
      · exact .inr (by simp [hs])
    | mwait m =>
      dsimp only
      split
      · exact .refl t
      · exact .inr (by simp [hs])
    | msync lm => exact .refl t

theorem Wave.heldOf_msync {lm : Lanes} (held : t.st = .held) (hold : t.hold = .msync lm) : x.heldOf l t = t := by
  unfold Wave.heldOf
  rw [held, hold]

/-- What is held in `MWAIT` is a member of the mask. -/
theorem Wave.heldOf_mwait {m : Nat} (held : (x.heldOf l t).st = .held) (hold : (x.heldOf l t).hold = .mwait m) :
    (x.mask m).lanes.getLsbD l = true := by
  have same := (x.heldOf_moves l t).eq_of_hold (by rw [hold]; exact nofun)
  rw [same] at held hold
  rw [← Bool.not_eq_false]
  intro stranger
  unfold Wave.heldOf at same
  rw [held, hold] at same
  dsimp only at same
  rw [if_neg (by rw [stranger]; decide)] at same
  have let_go := congrArg Thread.hold same
  rw [hold] at let_go
  cases let_go

/-- What is held at fetch stands at the meet address of a mask that it is a member of. -/
theorem Wave.heldOf_meet (held : (x.heldOf l t).st = .held) (hold : (x.heldOf l t).hold = .meet) : x.standsAtMeet l t = true := by
  rw [← Bool.not_eq_false]
  intro away
  cases hs : t.st with
  | run => simp [Wave.heldOf, hs, away] at held
  | done => simp [Wave.heldOf, hs] at held
  | held =>
    cases hh : t.hold with
    | meet => simp [Wave.heldOf, hs, hh, away] at held
    | mwait m =>
      by_cases member : (x.mask m).lanes.getLsbD l = true
      · simp [Wave.heldOf, hs, hh, member] at hold
      · simp [Wave.heldOf, hs, hh, member] at held
    | msync lm => simp [Wave.heldOf, hs, hh] at hold

/-- What runs stands at no meet address of a mask that it is a member of, but for a thread that has just come out of `MWAIT`. -/
theorem Wave.heldOf_run (runs : (x.heldOf l t).st = .run)
    (waits : ∀ m, t.st = .held → t.hold = .mwait m → (x.mask m).lanes.getLsbD l = true) : x.standsAtMeet l t = false := by
  rw [← Bool.not_eq_true]
  intro stands
  cases hs : t.st with
  | run => simp [Wave.heldOf, hs, stands] at runs
  | done => simp [Wave.heldOf, hs] at runs
  | held =>
    cases hh : t.hold with
    | meet => simp [Wave.heldOf, hs, hh, stands] at runs
    | mwait m => simp [Wave.heldOf, hs, hh, waits m hs hh] at runs
    | msync lm => simp [Wave.heldOf, hs, hh] at runs

/-- A thread that is arrived at a mask or DONE stays so (R186). -/
theorem Wave.heldOf_arrived {m : Nat} (hm : m < 12) (h : (t.st == .done || arrivedAt (x.mask m) m l t) = true) :
    ((x.heldOf l t).st == .done || arrivedAt (x.mask m) m l (x.heldOf l t)) = true := by
  cases hs : t.st with
  | run =>
    have stands : x.standsAtMeet l t = true := Wave.standsAtMeet_iff.mpr ⟨m, hm, by simpa [arrivedAt, hs] using h⟩
    simpa [Wave.heldOf, arrivedAt, hs, stands] using h
  | done => simp [Wave.heldOf, hs]
  | held =>
    cases hh : t.hold with
    | meet =>
      have stands : x.standsAtMeet l t = true := Wave.standsAtMeet_iff.mpr ⟨m, hm, by simpa [arrivedAt, hs, hh] using h⟩
      simpa [Wave.heldOf, arrivedAt, hs, hh, stands] using h
    | mwait k =>
      have same : k = m := by simp [arrivedAt, hs, hh] at h; exact h.2
      subst same
      have member : (x.mask k).lanes.getLsbD l = true := by simp [arrivedAt, hs, hh] at h; exact h
      simpa [Wave.heldOf, hs, hh, member] using h
    | msync lm => simp [arrivedAt, hs, hh] at h

end

/-! ### `MSYNC` (R191) -/

theorem Wave.syncFree_iff {x : Wave} {t : Thread} : x.syncFree t = true ↔ ∃ lm, t.st = .held ∧ t.hold = .msync lm ∧
    ∀ j, j < 32 → lm.getLsbD j = true → (x.thread j).st = .done ∨ ((x.thread j).st = .held ∧ (x.thread j).hold = .msync lm) := by
  unfold Wave.syncFree
  cases hs : t.st <;> cases hh : t.hold <;> simp [mem_lanesOf]

theorem Wave.freedOf_moves (x : Wave) (t : Thread) : t.Moves (x.freedOf t) := by
  unfold Wave.freedOf
  split
  · next free =>
    obtain ⟨lm, held, -⟩ := Wave.syncFree_iff.mp free
    exact .inr (by simp [held])
  · exact .refl t

/-- Threads that have moved since have come to no `MSYNC`. -/
theorem Wave.syncFree_of_moves {x y : Wave} (moves : ∀ l, l < 32 → (x.thread l).Moves (y.thread l)) {t : Thread} (free : y.syncFree t = true) :
    x.syncFree t = true := by
  obtain ⟨lm, held, hold, lanes⟩ := Wave.syncFree_iff.mp free
  refine Wave.syncFree_iff.mpr ⟨lm, held, hold, fun j hj member => ?_⟩
  rcases lanes j hj member with done | waits
  · exact .inl ((moves j hj).done_iff.mp done)
  · rw [← (moves j hj).eq_of_hold (by rw [waits.2]; exact nofun)]
    exact .inr waits

/-! ### A round of holds and releases (R186, R191) -/

/-- The threads held and freed, before masks are released. -/
def Wave.holds (x : Wave) : Wave := x.holdAt.syncRelease.holdAt

/-- The masks released that can be. -/
def Wave.releaseAll (x : Wave) : Wave := ((List.range 12).filter (x.releasable ·)).foldl (fun x i => x.setMask i ⟨0, 0⟩) x

theorem Wave.masks_holdAt (x : Wave) : x.holdAt.masks = x.masks :=
  Wave.foldl_keeps Wave.masks _ (fun x l => by dsimp only; split <;> (try split) <;> rfl) _ _

theorem Wave.masks_syncRelease (x : Wave) : x.syncRelease.masks = x.masks :=
  Wave.foldl_keeps Wave.masks _ (fun y l => by split <;> rfl) _ _

theorem Wave.mask_holds (x : Wave) : x.holds.mask = x.mask := funext (Wave.mask_of_masks x.masks_holds)

theorem Wave.mask_releaseAll (x : Wave) (m : Nat) : x.releaseAll.mask m = if m < 12 ∧ x.releasable m = true then ⟨0, 0⟩ else x.mask m := by
  have set := Wave.mask_foldl_set (x.releasable ·) (fun _ => ⟨0, 0⟩) (List.nodup_range (n := 12)) x m
  rw [← List.foldl_filter] at set
  rw [Wave.releaseAll, set]
  simp [Mask.stored]

theorem Wave.thread_releaseAll (x : Wave) (l : Nat) : x.releaseAll.thread l = x.thread l :=
  Wave.foldl_keeps (Wave.thread · l) (fun (x : Wave) i => x.setMask i ⟨0, 0⟩) (fun _ _ => rfl) _ _

section
variable (x : Wave) {l : Nat} (hl : l < 32)
include hl

theorem Wave.moves_holdAt : (x.thread l).Moves (x.holdAt.thread l) := by
  rw [x.thread_holdAt hl]
  exact x.heldOf_moves l _

theorem Wave.moves_syncRelease : (x.thread l).Moves (x.syncRelease.thread l) := by
  rw [x.thread_syncRelease hl]
  exact x.freedOf_moves _

theorem Wave.moves_holds : (x.thread l).Moves (x.holds.thread l) :=
  ((x.moves_holdAt hl).trans (x.holdAt.moves_syncRelease hl)).trans (x.holdAt.syncRelease.moves_holdAt hl)

/-- A thread in `MSYNC` is not looked at until it is freed. -/
theorem Wave.holdAt_msync {lm : Lanes} (held : (x.thread l).st = .held) (hold : (x.thread l).hold = .msync lm) :
    x.holdAt.thread l = x.thread l := by
  rw [x.thread_holdAt hl, x.heldOf_msync l _ held hold]

theorem Wave.syncRelease_stays (busy : x.syncFree (x.thread l) = false) : x.syncRelease.thread l = x.thread l := by
  rw [x.thread_syncRelease hl, Wave.freedOf, busy]
  rfl

theorem Wave.syncRelease_frees (free : x.syncFree (x.thread l) = true) : x.syncRelease.thread l = { x.thread l with st := .run, hold := .meet } := by
  rw [x.thread_syncRelease hl, Wave.freedOf, if_pos free]

end

theorem Wave.releasable_iff {x : Wave} {m : Nat} : x.releasable m = true ↔
    (x.mask m).lanes ≠ 0 ∧ ∀ l, l < 32 → (x.mask m).lanes.getLsbD l = true → (x.thread l).st = .done ∨ arrivedAt (x.mask m) m l (x.thread l) = true := by
  simp [Wave.releasable, mem_lanesOf]

/-- What is arrived waits in no `MSYNC`. -/
theorem Wave.not_syncFree_of_arrived {x : Wave} {k : Mask} {m l : Nat} {t : Thread} (h : t.st = .done ∨ arrivedAt k m l t = true) :
    x.syncFree t = false := by
  rw [← Bool.not_eq_true]
  intro free
  obtain ⟨lm, held, hold, -⟩ := Wave.syncFree_iff.mp free
  simp [arrivedAt, held, hold] at h

/-- A mask that could be released before a round can be after its holds. -/
theorem Wave.releasable_holds {x : Wave} {m : Nat} (hm : m < 12) (h : x.releasable m = true) : x.holds.releasable m = true := by
  obtain ⟨members, arrived⟩ := Wave.releasable_iff.mp h
  refine Wave.releasable_iff.mpr ⟨by rwa [x.mask_holds], fun l hl member => ?_⟩
  rw [x.mask_holds] at member ⊢
  have at_fetch : (x.holdAt.thread l).st = .done ∨ arrivedAt (x.mask m) m l (x.holdAt.thread l) = true := by
    rw [x.thread_holdAt hl]
    simpa using x.heldOf_arrived l _ hm (by simpa using arrived l hl member)
  have masks : x.holdAt.syncRelease.mask m = x.mask m := Wave.mask_of_masks (x.holdAt.masks_syncRelease.trans x.masks_holdAt) m
  rw [← x.holdAt.syncRelease_stays hl (Wave.not_syncFree_of_arrived at_fetch), ← masks] at at_fetch
  rw [Wave.holds, Wave.thread_holdAt _ hl, ← masks]
  simpa using Wave.heldOf_arrived _ l _ hm (by simpa using at_fetch)

/-- A thread as a round leaves it: it is held for a reason, or runs, and then stands at no meet address (R186, R189, R191). -/
structure Wave.Rests (y : Wave) (l : Nat) : Prop where
  runs : (y.thread l).st = .run → y.standsAtMeet l (y.thread l) = false
  meets : (y.thread l).st = .held → (y.thread l).hold = .meet → y.standsAtMeet l (y.thread l) = true
  waits : ∀ m, (y.thread l).st = .held → (y.thread l).hold = .mwait m → (y.mask m).lanes.getLsbD l = true
  syncs : y.syncFree (y.thread l) = false

theorem Wave.standsAtMeet_congr {x y : Wave} (masks : x.mask = y.mask) {l : Nat} {t u : Thread} (pc : t.pc = u.pc) :
    x.standsAtMeet l t = y.standsAtMeet l u := by
  unfold Wave.standsAtMeet
  rw [masks, pc]

theorem Wave.holds_rests (x : Wave) {l : Nat} (hl : l < 32) : x.holds.Rests l := by
  have first : x.holdAt.mask = x.mask := funext (Wave.mask_of_masks x.masks_holdAt)
  have second : x.holdAt.syncRelease.mask = x.mask := (funext (Wave.mask_of_masks x.holdAt.masks_syncRelease)).trans first
  have last : x.holds.thread l = x.holdAt.syncRelease.heldOf l (x.holdAt.syncRelease.thread l) := Wave.thread_holdAt _ hl
  have pc := (x.holdAt.syncRelease.heldOf_moves l (x.holdAt.syncRelease.thread l)).pc_eq
  have stands : x.holds.standsAtMeet l (x.holds.thread l) = x.holdAt.syncRelease.standsAtMeet l (x.holdAt.syncRelease.thread l) :=
    Wave.standsAtMeet_congr (x.mask_holds.trans second.symm) (by rw [last, pc])
  refine ⟨fun runs => ?runs, fun held hold => ?meets, fun m held hold => ?waits, ?syncs⟩
  case runs =>
    rw [last] at runs
    rw [stands]
    refine Wave.heldOf_run _ _ _ runs fun m held hold => ?_
    have same := (x.holdAt.moves_syncRelease hl).eq_of_hold (by rw [hold]; exact nofun)
    rw [same, x.thread_holdAt hl] at held hold
    rw [second]
    exact x.heldOf_mwait l _ held hold
  case meets =>
    rw [last] at held hold
    rw [stands]
    exact Wave.heldOf_meet _ _ _ held hold
  case waits =>
    rw [last] at held hold
    rw [x.mask_holds, ← second]
    exact Wave.heldOf_mwait _ _ _ held hold
  case syncs =>
    rw [← Bool.not_eq_true]
    intro free
    obtain ⟨lm, held, hold, -⟩ := Wave.syncFree_iff.mp free
    have later : ∀ k, k < 32 → (x.holdAt.thread k).Moves (x.holds.thread k) := fun k hk =>
      (x.holdAt.moves_syncRelease hk).trans (x.holdAt.syncRelease.moves_holdAt hk)
    have same := (later l hl).eq_of_hold (by rw [hold]; exact nofun)
    have freed := x.holdAt.syncRelease_frees hl (same ▸ Wave.syncFree_of_moves later free)
    have kept := (x.holdAt.syncRelease.moves_holdAt hl).eq_of_hold (by rw [← Wave.holds, hold]; exact nofun)
    rw [← Wave.holds, freed] at kept
    rw [kept] at held
    cases held

/-- A thread whose `MSYNC` is complete is let go in the next round. -/
theorem Wave.holds_frees (x : Wave) {l : Nat} (hl : l < 32) (free : x.syncFree (x.thread l) = true) :
    (x.holds.thread l).st ≠ .done ∧ (x.holds.thread l).hold = .meet := by
  obtain ⟨lm, held, hold, lanes⟩ := Wave.syncFree_iff.mp free
  have same := x.holdAt_msync hl held hold
  have still : x.holdAt.syncFree (x.holdAt.thread l) = true := by
    rw [same]
    refine Wave.syncFree_iff.mpr ⟨lm, held, hold, fun j hj member => ?_⟩
    rcases lanes j hj member with done | waits
    · exact .inl ((x.moves_holdAt hj).done_iff.mpr done)
    · rw [x.holdAt_msync hj waits.1 waits.2]
      exact .inr waits
  refine (x.holdAt.syncRelease.moves_holdAt hl).meet ?_
  rw [x.holdAt.syncRelease_frees hl still]
  exact ⟨nofun, rfl⟩

/-- A thread whose `MSYNC` is not complete stays as it is. -/
theorem Wave.holds_keeps (x : Wave) {l : Nat} (hl : l < 32) {lm : Lanes} (held : (x.thread l).st = .held) (hold : (x.thread l).hold = .msync lm)
    (busy : x.syncFree (x.thread l) = false) : x.holds.thread l = x.thread l := by
  have same := x.holdAt_msync hl held hold
  have still : x.holdAt.syncFree (x.holdAt.thread l) = false := by
    rw [same]
    rw [← Bool.not_eq_true]
    intro free
    exact absurd (Wave.syncFree_of_moves (fun k hk => x.moves_holdAt hk) free) (by rw [busy]; decide)
  have freed := (x.holdAt.syncRelease_stays hl still).trans same
  rw [Wave.holds, Wave.holdAt_msync _ hl (by rw [freed, held]) (by rw [freed, hold]), freed]

/-! ### Rounds until nothing more is released -/

/-- `x` settles to `y`: by rounds that release masks, and one after which none can be released. -/
inductive Wave.Settles : Wave → Wave → Prop
  | rest {x : Wave} (none : ∀ m, m < 12 → x.holds.releasable m = false) : Settles x x.holds
  | round {x y : Wave} (later : Settles x.holds.releaseAll y) : Settles x y

/-- A test that is passed where another is, but for one element that passes only the other, counts fewer. -/
theorem countP_lt_of_imp {α : Type} {p q : α → Bool} {ls : List α} (imp : ∀ a, p a = true → q a = true) {a : α} (ha : a ∈ ls)
    (hq : q a = true) (hp : p a = false) : ls.countP p < ls.countP q := by
  induction ls with
  | nil => cases ha
  | cons b r ih =>
    have le : r.countP p ≤ r.countP q := List.countP_mono_left fun c _ => imp c
    rw [List.countP_cons, List.countP_cons]
    rcases List.mem_cons.mp ha with rfl | later
    · rw [if_neg (by rw [hp]; decide), if_pos hq]
      omega
    · have lt := ih later
      by_cases hb : p b = true
      · rw [if_pos hb, if_pos (imp b hb)]
        omega
      · rw [if_neg hb]
        omega

/-- How many masks are not clear. -/
def Wave.inUse (x : Wave) : Nat := (List.range 12).countP (fun m => (x.mask m).lanes != 0)

theorem Wave.inUse_releaseAll (x : Wave) {m : Nat} (hm : m < 12) (h : x.holds.releasable m = true) : x.holds.releaseAll.inUse < x.inUse := by
  have masks := congrFun x.mask_holds
  refine countP_lt_of_imp (fun k used => ?kept) (List.mem_range.mpr hm) ?used ?cleared
  case kept =>
    rw [Wave.mask_releaseAll] at used
    split at used
    · exact absurd used (by decide)
    · rwa [masks] at used
  case used =>
    have members := (Wave.releasable_iff.mp h).1
    rw [masks] at members
    exact bne_iff_ne.mpr members
  case cleared =>
    rw [Wave.mask_releaseAll, if_pos ⟨hm, h⟩]
    rfl

theorem Wave.settles_settleN (n : Nat) (x : Wave) (h : x.inUse < n) : x.Settles (Wave.settleN n x) := by
  induction n generalizing x with
  | zero => cases h
  | succ n ih =>
    simp only [Wave.settleN]
    split
    · next none =>
      refine .rest fun m hm => ?_
      rw [List.isEmpty_iff, List.filter_eq_nil_iff] at none
      exact Bool.not_eq_true _ ▸ none m (List.mem_range.mpr hm)
    · next some =>
      obtain ⟨m, found⟩ := List.exists_mem_of_ne_nil _ (mt List.isEmpty_iff.mpr some)
      obtain ⟨low, released⟩ := List.mem_filter.mp found
      have fewer := x.inUse_releaseAll (List.mem_range.mp low) released
      exact .round (ih x.holds.releaseAll (by omega))

/-- Thirteen rounds are enough for twelve masks. -/
theorem Wave.settles_settle (x : Wave) : x.Settles x.settle := by
  have few : x.inUse ≤ (List.range 12).length := List.countP_le_length
  rw [List.length_range] at few
  exact x.settles_settleN 13 (Nat.lt_succ_of_le few)

section
variable {x y : Wave} (h : x.Settles y)
include h

/-- All rounds after the first leave threads that have moved. -/
theorem Wave.Settles.moves {l : Nat} (hl : l < 32) : (x.holds.thread l).Moves (y.thread l) := by
  induction h with
  | rest => exact .refl _
  | @round x y _ ih =>
    rw [← x.holds.thread_releaseAll l]
    exact (x.holds.releaseAll.moves_holds hl).trans ih

theorem Wave.Settles.thread_moves {l : Nat} (hl : l < 32) : (x.thread l).Moves (y.thread l) := (x.moves_holds hl).trans (h.moves hl)

theorem Wave.Settles.rests {l : Nat} (hl : l < 32) : y.Rests l := by
  induction h with
  | rest => exact Wave.holds_rests _ hl
  | round _ ih => exact ih

theorem Wave.Settles.not_releasable {m : Nat} (hm : m < 12) : y.releasable m = false := by
  induction h with
  | rest none => exact none m hm
  | round _ ih => exact ih

theorem Wave.Settles.keeps_waiting {l : Nat} (hl : l < 32) {lm : Lanes} (held : (x.thread l).st = .held) (hold : (x.thread l).hold = .msync lm)
    (busy : x.syncFree (x.thread l) = false) : y.thread l = x.thread l := by
  induction h with
  | rest => exact Wave.holds_keeps _ hl held hold busy
  | @round x y _ ih =>
    have same := (x.holds.thread_releaseAll l).trans (x.holds_keeps hl held hold busy)
    have moves : ∀ k, k < 32 → (x.thread k).Moves (x.holds.releaseAll.thread k) := fun k hk => by
      rw [x.holds.thread_releaseAll]
      exact x.moves_holds hk
    have still : x.holds.releaseAll.syncFree (x.holds.releaseAll.thread l) = false := by
      rw [same]
      rw [← Bool.not_eq_true]
      intro free
      exact absurd (Wave.syncFree_of_moves moves free) (by rw [busy]; decide)
    rw [← same] at held hold ⊢
    exact ih held hold still

end

/-! ### Masks that are released (R186) -/

/-- A thread is DONE, stands at the meet address of mask `m`, or is held in `MWAIT` on it (R186, R189). -/
def Thread.ComesTo (k : Mask) (m : Nat) (t : Thread) : Prop :=
  t.st = .done ∨ t.pc.setWidth 64 = k.meet ∨ (t.st = .held ∧ t.hold = .mwait m)

theorem Thread.comesTo_of_arrived {k : Mask} {m l : Nat} {t : Thread} (h : t.st = .done ∨ arrivedAt k m l t = true) : t.ComesTo k m := by
  rcases h with done | arrived
  · exact .inl done
  · right
    cases hs : t.st <;> cases hh : t.hold <;> simp_all [arrivedAt]

theorem Thread.Moves.comesTo {t u : Thread} (h : t.Moves u) {k : Mask} {m : Nat} (c : u.ComesTo k m) : t.ComesTo k m := by
  rcases c with done | meet | ⟨held, hold⟩
  · exact .inl (h.done_iff.mp done)
  · exact .inr (.inl (h.pc_eq ▸ meet))
  · rw [← h.eq_of_hold (by rw [hold]; exact nofun)]
    exact .inr (.inr ⟨held, hold⟩)

section
variable {x y : Wave} (h : x.Settles y)
include h

/-- A mask changes by its release only, and is released only when each member has come. -/
theorem Wave.Settles.mask (m : Nat) : y.mask m = x.mask m ∨
    (y.mask m = ⟨0, 0⟩ ∧ m < 12 ∧ (x.mask m).lanes ≠ 0 ∧ ∀ l, (x.mask m).lanes.getLsbD l = true → (x.thread l).ComesTo (x.mask m) m) := by
  induction h with
  | rest => exact .inl (congrFun (Wave.mask_holds _) m)
  | @round x y _ ih =>
    have masks := congrFun x.mask_holds m
    by_cases now : m < 12 ∧ x.holds.releasable m = true
    · have cleared : x.holds.releaseAll.mask m = ⟨0, 0⟩ := by rw [Wave.mask_releaseAll, if_pos now]
      obtain ⟨members, arrived⟩ := Wave.releasable_iff.mp now.2
      rw [masks] at members arrived
      refine .inr ⟨?_, now.1, members, fun l member => ?_⟩
      · rcases ih with same | ⟨zero, -⟩
        · rw [same, cleared]
        · exact zero
      · have hl := lt_of_getLsbD member
        exact (x.moves_holds hl).comesTo (Thread.comesTo_of_arrived (arrived l hl member))
    · rw [Wave.mask_releaseAll, if_neg now, masks] at ih
      rcases ih with same | ⟨zero, low, members, arrived⟩
      · exact .inl same
      · refine .inr ⟨zero, low, members, fun l member => ?_⟩
        have come := arrived l member
        rw [x.holds.thread_releaseAll] at come
        exact (x.moves_holds (lt_of_getLsbD member)).comesTo come

/-- A mask that could be released is clear. -/
theorem Wave.Settles.released {m : Nat} (hm : m < 12) (able : x.releasable m = true) : y.mask m = ⟨0, 0⟩ := by
  have first := Wave.releasable_holds hm able
  cases h with
  | rest none => exact absurd first (by rw [none m hm]; decide)
  | round later =>
    have cleared : x.holds.releaseAll.mask m = ⟨0, 0⟩ := by rw [Wave.mask_releaseAll, if_pos ⟨hm, first⟩]
    rcases later.mask m with same | ⟨zero, -⟩
    · rw [same, cleared]
    · exact zero

/-- A thread whose `MSYNC` is complete is let go. -/
theorem Wave.Settles.frees {l : Nat} (hl : l < 32) (free : x.syncFree (x.thread l) = true) : (y.thread l).st ≠ .done ∧ (y.thread l).hold = .meet :=
  (h.moves hl).meet (x.holds_frees hl free)

end

/-- The wave without its threads and masks. -/
def Wave.bare (x : Wave) : Wave := { x with thr := [], masks := [] }

theorem Wave.eq_of_bare {x y : Wave} (h : y.bare = x.bare) : { y with thr := x.thr, masks := x.masks } = x :=
  congrArg (fun z : Wave => { z with thr := x.thr, masks := x.masks }) h

theorem Wave.bare_holdAt (x : Wave) : x.holdAt.bare = x.bare :=
  Wave.foldl_keeps Wave.bare _ (fun x l => by dsimp only; split <;> (try split) <;> rfl) _ _

theorem Wave.bare_syncRelease (x : Wave) : x.syncRelease.bare = x.bare :=
  Wave.foldl_keeps Wave.bare _ (fun y l => by split <;> rfl) _ _

theorem Wave.bare_releaseAll (x : Wave) : x.releaseAll.bare = x.bare :=
  Wave.foldl_keeps Wave.bare (fun (x : Wave) i => x.setMask i ⟨0, 0⟩) (fun _ _ => rfl) _ _

/-- Holds and releases change threads and masks only. -/
theorem Wave.Settles.bare {x y : Wave} (h : x.Settles y) : y.bare = x.bare := by
  have holds : ∀ x : Wave, x.holds.bare = x.bare := fun x => by
    rw [Wave.holds, Wave.bare_holdAt, Wave.bare_syncRelease, Wave.bare_holdAt]
  induction h with
  | rest => exact holds _
  | round _ ih => rw [ih, Wave.bare_releaseAll, holds]

/-! ### Masks and waiting (R185 to R191) -/

theorem mjoin_leaves {h : Ctl} {d : Opnd} {disp : BitVec 20} {s : State} {i : Iss} {x : Wave} (g : Goes h Req.none s i x)
    (joins : i.act ≠ 0 → (i.ba.setWidth 64 + 4 * disp.signExtend 64 : W64).toNat < 2 ^ 48 ∧
      ((x.mask d.idx).lanes = 0 ∨ (x.mask d.idx).meet = i.ba.setWidth 64 + 4 * disp.signExtend 64)) :
    LeavesWave (.mjoin h d disp) 0x2C0 s i
      (if i.act = 0 then x else x.setMask d.idx ⟨(x.mask d.idx).lanes ||| i.act, i.ba.setWidth 64 + 4 * disp.signExtend 64⟩) .none 1 (fun _ => none) := by
  split
  · next inactive => exact leavesSame_of (exec_mjoin h d disp) g (by dsimp only; rw [if_pos inactive]; rfl)
  · next active =>
    obtain ⟨low, agrees⟩ := joins active
    refine leavesOn_of (f := fun z => z.setMask d.idx ⟨(x.mask d.idx).lanes ||| i.act, i.ba.setWidth 64 + 4 * disp.signExtend 64⟩) (exec_mjoin h d disp) g ?_
    dsimp only
    rw [at'_wave, if_neg active, if_neg (by omega), if_neg (by rcases agrees with clear | same <;> simp [*])]
    rfl

/-- Each active lane's LM is itself a member, the LMs of active lanes are equal or apart, and no member waits with another (R191). -/
def Wave.syncsWell (x : Wave) (i : Iss) (lm : Nat → Lanes) : Prop := ∀ l, i.act.getLsbD l = true → (lm l).getLsbD l = true ∧
  (∀ k, i.act.getLsbD k = true → lm k = lm l ∨ lm k &&& lm l = 0) ∧
  ∀ k, (lm l).getLsbD k = true → ∀ m, (x.thread k).st = .held → (x.thread k).hold = .msync m → m = lm l

theorem msync_leaves {h : Ctl} {a : Src} {s : State} {i : Iss} {x : Wave} (g : Goes h { Req.none with srcs := a.rng 1 } s i x)
    (well : x.syncsWell i (fun l => a.w x l &&& x.alive)) :
    LeavesWave (.msync h a) 0x2C4 s i
      ((lanesOf i.act).foldl (fun z l => z.updThread l (fun t => { t with st := .held, hold := .msync (a.w x l &&& x.alive) })) x) .none 1
      (fun _ => none) := by
  refine leavesOn_of (f := fun z => (lanesOf i.act).foldl
    (fun z l => z.updThread l (fun t => { t with st := .held, hold := .msync (a.w x l &&& x.alive) })) z) (exec_msync h a) g ?_
  dsimp only
  rw [at'_wave, filter_eq_nil_of fun l hl => ?_]
  · rfl
  · obtain ⟨member, apart, together⟩ := well l (act_of_mem hl)
    simp only [Bool.or_eq_false_iff, List.any_eq_false]
    refine ⟨⟨by simpa using member, fun k hk => ?_⟩, fun k hk => ?_⟩
    · rcases apart k (act_of_mem hk) with same | none <;> simp [*]
    · have waits := together k (act_of_mem hk)
      cases hs : (x.thread k).st <;> cases hh : (x.thread k).hold <;> simp
      exact waits _ hs hh

/-! ### Tokens and special registers (R194, R195, R197, R242) -/

theorem waitk_leaves {h : Ctl} {a : Src} {n : BitVec 6} {s : State} {i : Iss} {x : Wave} (g : Goes h Req.none s i x)
    (met : i.act ≠ 0 → (x.tok a.o.idx).count ≤ n.toNat ∧ (x.tok a.o.idx).err = false) :
    LeavesWave (.waitk h a n) 0x340 s i x .none 1 (fun _ => none) := by
  refine leavesSame_of (exec_waitk h a n) g ?_
  dsimp only
  rw [at'_wave]
  split
  · rfl
  · next active =>
    obtain ⟨few, sound⟩ := met active
    rw [if_neg (by omega), sound]
    rfl

/-- The tokens of SET opened or cleared (R197, R347). -/
def Wave.resetToks (x : Wave) (opn : Bool) (set : BitVec 16) : Wave :=
  (List.range 16).foldl (fun z k => if set.getLsbD k then z.setTok k (if opn then { z.tok k with err := true } else { z.tok k with err := false, det := none })
    else z) x

theorem tkrst_leaves {h : Ctl} {opn : Bool} {set : BitVec 16} {s : State} {i : Iss} {x : Wave} (g : Goes h Req.none s i x) :
    LeavesWave (.tkrst h opn set) 0x343 s i (if i.act = 0 then x else x.resetToks opn set) .none 1 (fun _ => none) := by
  split
  · next inactive => exact leavesSame_of (exec_tkrst h opn set) g (by dsimp only; rw [if_pos inactive]; rfl)
  · next active => exact leavesOn_of (f := (·.resetToks opn set)) (exec_tkrst h opn set) g (by dsimp only; rw [if_neg active]; rfl)

/-- The wave with a write of `MTS` in its pipe (R242). -/
def Wave.postSr (x : Wave) (i : Iss) (d : Opnd) (a : Src) : Wave :=
  { x with pipe := x.pipe ++ [⟨x.pos + 2, .sr d.idx, i.act, valsOf i.act (fun l => (a.x x l).toNat), none⟩] }

theorem mts_leaves {h : Ctl} {d : Opnd} {a : Src} {s : State} {i : Iss} {x : Wave} (g : Goes h { Req.none with srcs := a.rng 2 } s i x) :
    LeavesWave (.mts h d a) 0x781 s i (if i.act = 0 then x else x.postSr i d a) .none 1 (fun _ => none) := by
  split
  · next inactive => exact leavesSame_of (exec_mts h d a) g (by dsimp only; rw [if_pos inactive]; rfl)
  · next active => exact leavesOn_of (f := fun z => z.postSr i d a) (exec_mts h d a) g (by dsimp only; rw [if_neg active]; rfl)

theorem mfs_leaves {h : Ctl} {d : Opnd} {a : Src} {s : State} {i : Iss} {x : Wave} (g : Goes h { Req.none with dsts := d.rng (srWords a.o.idx) } s i x) :
    LeavesWave (.mfs h d a) 0x780 s i x (.fixed 2 (d.dest (srWords a.o.idx)) (valsOf i.act (fun l => (s.at' i x).srValue i x l a.o.idx))) 1
      (fun _ => none) :=
  leavesSame_of (exec_mfs h d a) g (by dsimp only; rw [at'_wave]; rfl)

/-- Settles O28: the instructions one by one, then what `settle` leaves, by its rounds. -/
theorem masksAndTokens : Obligations.MasksAndTokens := by
  unfold Obligations.MasksAndTokens
  refine ⟨?mjoin, ?mleave, ?mwait, ?mmov, ?msync, ?waitk, ?tkrd, ?tkrst, ?mfs, ?mts, ?released, ?none_left, ?held, ?kept, ?rest⟩
  case mjoin => exact fun _ _ _ _ _ _ g joins => mjoin_leaves g joins
  case mleave => exact fun _ _ _ _ _ g => mleave_leaves g
  case mwait => exact fun h a s i x g => leavesOn_of (f := fun z => z.updLanes (i.act &&& (z.mask a.o.idx).lanes) _) (exec_mwait h a) g rfl
  case mmov => exact fun h d a b mode => fixedResult_of (exec_mmov h d a b mode) (fun _ _ => rfl)
  case msync => exact fun _ _ _ _ _ g well => msync_leaves g well
  case waitk => exact fun _ _ _ _ _ _ g met => waitk_leaves g met
  case tkrd => exact fun h d => alu_result (exec_tkrd h d)
  case tkrst => exact fun _ _ _ _ _ _ g => tkrst_leaves g
  case mfs => exact fun _ _ _ _ _ _ g => mfs_leaves g
  case mts => exact fun _ _ _ _ _ _ g => mts_leaves g
  case released => exact fun x m => x.settles_settle.mask m
  case none_left => exact fun x m hm => ⟨x.settles_settle.not_releasable hm, x.settles_settle.released hm⟩
  case held =>
    intro x l hl
    obtain ⟨runs, meets, waits, syncs⟩ := x.settles_settle.rests hl
    refine ⟨fun running m hm member pc => ?_, fun held hold => Wave.standsAtMeet_iff.mp (meets held hold), waits, fun _ _ _ => syncs,
      fun _ hold => (x.settles_settle.thread_moves hl).eq_of_hold hold⟩
    exact absurd (Wave.standsAtMeet_iff.mpr ⟨m, hm, member, pc⟩) (by rw [runs running]; decide)
  case kept =>
    intro x l hl
    have settles := x.settles_settle
    have firm := x.firm_settle l
    have loops := x.settle_loops.1 l
    simp only [Thread.firm, Prod.mk.injEq] at firm
    simp only [Thread.loops, Prod.mk.injEq] at loops
    exact ⟨settles.frees hl, fun lm => settles.keeps_waiting hl, (settles.thread_moves hl).done_iff, firm.1, firm.2.1, loops.1⟩
  case rest => exact fun x => Wave.eq_of_bare x.settles_settle.bare

end Sys2Proof.Machine
end

section
/-! SUPPORT AND PROOF. Lane exchange (O21), threads that are made (O29), the register pool and the segment query (O30), and launches (O31): each
instruction that passes its checks has one effect, and a launch that is carried out is the only one of its cycle. -/

namespace Sys2Proof.Machine

/-! ### Lane exchange (R179 to R183) -/

theorem maskLanes_congr {f g : Nat → Bool} (h : ∀ l, l < 32 → f l = g l) : maskLanes f = maskLanes g := by
  apply BitVec.eq_of_getLsbD_eq
  intro l hl
  rw [maskLanes_getLsbD, maskLanes_getLsbD, h l hl]

/-- The mask of the lanes of `m` that pass a test. -/
theorem maskOfList_filter (m : Lanes) (p : Nat → Bool) : maskOfList ((lanesOf m).filter p) = maskLanes (fun k => m.getLsbD k && p k) :=
  maskLanes_congr fun l hl => by
    rw [Bool.eq_iff_iff, List.contains_iff_mem, List.mem_filter, mem_lanesOf, Bool.and_eq_true]
    simp [hl]

/-- Settles O21: each is a lane operation; `VOTE` and `MATCH` give their lanes as masks. -/
theorem laneExchange : Obligations.LaneExchange := by
  unfold Obligations.LaneExchange
  refine ⟨?shfl, ?vote, ?matchLanes, ?redux⟩
  case shfl => exact fun h d a b ty seg mode => laneOp_result (exec_shfl h d a b ty seg mode)
  case vote =>
    intro h d a cnt neg mode
    refine (laneOp_result (exec_vote h d a cnt neg mode)).congr fun i x l _ => ?_
    dsimp only
    rw [maskOfList_filter]
    match mode with
    | 0 => rfl
    | 1 => rfl
    | 2 => rfl
    | 3 => rfl
  case matchLanes =>
    exact fun h d a ty => (laneOp_result (exec_matchLanes h d a ty)).congr fun i x l _ => by rw [maskOfList_filter]
  case redux =>
    intro h d a ty rop
    refine (laneOp_result (exec_redux h d a ty rop)).congr fun i x l _ => ?_
    cases lanesOf i.act with
    | nil => rfl
    | cons k ks => rfl

/-! ### Threads that are made (R199 to R204) -/

section
variable {opc : BitVec 12} {kind : Nat} {ends : Bool} {ins : Instr} {h : Ctl} {a : Src} {b wsrc : Option Src} {tgt : BitVec 2} {nw : BitVec 4}
  {prio : BitVec 2} {idem : Bool} {s : State} {i : Iss} {x : Wave} {e : Nat → Nat}

/-- The record of each active lane in the send buffer (R202). -/
def St.sendAll (u : St) (i : Iss) (tgt : BitVec 2) (rcd : Nat → BitVec 512) : St :=
  (lanesOf i.act).foldl (fun u l => u.send i.w (u.targetCore i.core i.asid tgt.toNat (rcd l)) false (rcd l)) u

/-- The active lanes' threads ended (R203). -/
def St.endLanes (u : St) (i : Iss) : St := u.withD fun d => d.setWave i.w ((lanesOf i.act).foldl (fun z l => z.endLane l) (d.wave i.w))

/-- `SPAWN` and `CONT` with an entry in each active lane send each lane's record; `CONT` ends the lanes. -/
theorem spawnOp_leaves (he : ∀ s, exec ins s = spawnOp opc kind ends h a b wsrc tgt nw prio idem s)
    (g : Goes h { Req.none with srcs := a.rng 2 ++ srcRng b nw.toNat ++ srcRng wsrc 2 } s i x)
    (entries : ∀ l, i.act.getLsbD l = true → (s.at' i x).entryOf i (a.x x l) = .ok (e l)) :
    let sent := ((s.at' i x).tableRead i (a.x x)).sendAll i tgt (fun l => spawnRec i x kind a b wsrc nw prio idem l (e l))
    Leaves ins opc s i (if ends then sent.endLanes i else sent) .none 1 (fun _ => none) := by
  have lanes : ∀ l ∈ lanesOf i.act, (s.at' i x).entryOf i (a.x x l) = .ok (e l) := fun l hl => entries l (act_of_mem hl)
  refine leavesNext_of (fun s => (he s).trans rfl) g (pub := i.act != 0) ?_
  dsimp only
  rw [at'_wave, failures_nil lanes, successes_map lanes, List.foldl_map]
  rfl

end

/-- A lane of a `SPLIT` that stays goes to the target when its predicate is true, else on in sequence (R204). -/
def splitNext (i : Iss) (p : Nat → Bool) (target : W64) (l : Nat) : Option Addr :=
  if (splitLeaves i p).contains l then none else some (if p l then addrOf target else i.ba + 12)

/-- The effect of a `SPLIT`. -/
def splitEff (u : St) (i : Iss) (x : Wave) (p : Nat → Bool) (target : W64) (live : BitVec 11) : Eff :=
  { Eff.plain ((splitLeaves i p).foldl (fun u l => u.splitLane i x live (splitTo i p target) l) u) with
    next := splitNext i p target, pub := i.act != 0 }

/-- A `SPLIT` is taken when a lane that stays goes to the target. -/
theorem splitEff_taken (u : St) (i : Iss) (x : Wave) (p : Nat → Bool) (target : W64) (live : BitVec 11) :
    (splitEff u i x p target live).taken i = (lanesOf i.act).any (fun l => !(splitLeaves i p).contains l && p l && addrOf target != i.ba + 12) := by
  refine any_congr_mem fun l _ => ?_
  dsimp only [splitEff, splitNext]
  cases (splitLeaves i p).contains l <;> cases p l <;> simp

theorem split_leaves {h : Ctl} {a : Src} {disp : BitVec 20} {live : BitVec 11} {s : State} {i : Iss} {x : Wave} {target : W64}
    (ht : i.ba.setWidth 64 + 4 * disp.signExtend 64 = target) (g : Goes h Req.none s i x)
    (flat : ∀ l, i.act.getLsbD l = true → (x.thread l).rs = [] ∧ (x.thread l).rsd = 0 ∧ (x.thread l).ls = [])
    (near : splitLeaves i (a.o.valP x) ≠ [] → (splitTo i (a.o.valP x) target).toNat < 2 ^ 48)
    (ready : i.act ≠ 0 → ∀ k, k < 11 → live.getLsbD k = true → x.pending (k, 1) = false) :
    Leaves (.split h a disp live) 0x302 s i
      ((splitLeaves i (a.o.valP x)).foldl (fun u l => u.splitLane i x live (splitTo i (a.o.valP x) target) l) (s.at' i x)) .none
      (if (lanesOf i.act).any (fun l => !(splitLeaves i (a.o.valP x)).contains l && a.o.valP x l && addrOf target != i.ba + 12) then 3 else 1)
      (splitNext i (a.o.valP x) target) := by
  subst ht
  rw [← splitEff_taken (s.at' i x) i x _ _ live]
  refine leaves_of (e := splitEff (s.at' i x) i x (a.o.valP x) _ live) (exec_split h a disp live) g ?_ rfl rfl rfl
  have shallow : (lanesOf i.act).filter (fun l => !(x.thread l).rs.isEmpty || (x.thread l).rsd != 0 || !(x.thread l).ls.isEmpty) = [] :=
    filter_eq_nil_of fun l hl => by
      obtain ⟨rs, rsd, ls⟩ := flat l (act_of_mem hl)
      simp [rs, rsd, ls]
  have in_time : (List.range 11).find? (fun k => live.getLsbD k && !(lanesOf i.act).isEmpty && x.pending (k, 1)) = none := by
    rw [List.find?_eq_none]
    intro k hk
    by_cases inactive : i.act = 0
    · simp [inactive]
    · cases used : live.getLsbD k
      · simp
      · simp [ready inactive k (List.mem_range.mp hk) used]
  have inside : ¬ (!(splitLeaves i (a.o.valP x)).isEmpty &&
      decide (2 ^ 48 ≤ (splitTo i (a.o.valP x) (i.ba.setWidth 64 + 4 * disp.signExtend 64)).toNat)) = true := by
    rw [Bool.and_eq_true, Bool.not_eq_true', List.isEmpty_eq_false_iff, decide_eq_true_iff]
    rintro ⟨leaves, far⟩
    exact absurd far (Nat.not_le.mpr (near leaves))
  dsimp only
  rw [at'_wave, shallow, if_neg (by decide), if_neg inside, in_time]
  rfl

/-- Settles O29: the records that are sent, and where the lanes that stay go on. -/
theorem threadsThatAreMade : Obligations.ThreadsThatAreMade := by
  unfold Obligations.ThreadsThatAreMade
  refine ⟨?spawn, ?cont, ?split⟩
  case spawn =>
    intro h a b wsrc wid tgt nw prio idem s i x e g entries
    exact spawnOp_leaves (ends := false) (exec_spawn h a b wsrc wid tgt nw prio idem) g entries
  case cont =>
    intro h a b wsrc wid tgt nw prio idem s i x e g entries
    exact spawnOp_leaves (ends := true) (exec_cont h a b wsrc wid tgt nw prio idem) g entries
  case split => exact fun _ _ _ _ _ _ _ g flat near ready => split_leaves rfl g flat near ready

/-! ### The register pool (R205 to R207) -/

/-- The wave that has given its registers from `n` on (R206). -/
def Wave.give (x : Wave) (n : Nat) : Wave :=
  { x with alloc := n, pipe := x.pipe.map (·.upTo n), bad := x.bad.filter (·.2 < n) }

/-- The device when the wave of an issue has given its registers from `n` on (R206). -/
def Device.gave (d : Device) (i : Iss) (x : Wave) (b : Block) (n : Nat) : Device :=
  (d.setWave i.w (x.give n)).setBlock i.blk { b with pool := b.pool.upd 0 (x.widx % 4) (· + (x.alloc - n)) }

/-- An `RGIVE` without effect leaves the wave; one with no late result gives the registers to the pool. -/
theorem rgive_leaves {h : Ctl} {nb : BitVec 6} {s : State} {i : Iss} {x : Wave} (g : Goes h Req.none s i x) :
    if i.act = 0 ∨ x.alloc ≤ 8 * nb.toNat then LeavesWave (.rgive h nb) 0x303 s i x .none 1 (fun _ => none)
    else (∀ r, 8 * nb.toNat ≤ r → r < x.alloc → x.pending (r, 1) = false) →
      Leaves (.rgive h nb) 0x303 s i ((s.at' i x).withD fun d => d.gave i x (s.dev.block i.blk) (8 * nb.toNat)) .none 1 (fun _ => none) := by
  split
  · next idle => exact leavesSame_of (exec_rgive h nb) g (by dsimp only; rw [at'_wave, if_pos (by simpa using idle)]; rfl)
  · next gives =>
    intro ready
    have in_time : ((List.range (x.alloc - 8 * nb.toNat)).map (· + 8 * nb.toNat)).find? (fun r => x.pending (r, 1)) = none := by
      rw [List.find?_eq_none]
      intro r hr
      obtain ⟨k, hk, rfl⟩ := List.mem_map.mp hr
      rw [List.mem_range] at hk
      rw [ready _ (Nat.le_add_left ..) (by omega)]
      decide
    exact leavesNext_of (exec_rgive h nb) g (pub := false) (by dsimp only; rw [at'_wave, if_neg (by simpa using gives), in_time]; rfl)

/-- Enough registers of the pool are the wave's to claim: the other waves of its quarter keep eight each (R207). -/
def State.mayClaim (s : State) (i : Iss) (x : Wave) (n : Nat) : Prop :=
  n + 8 * ((s.at' i x).d.waves.filter (fun e => e.2.live && e.2.blk == i.blk && e.1 != i.w && e.2.widx % 4 == x.widx % 4)).length
    ≤ (s.dev.block i.blk).bq.get 0 (x.widx % 4)

section
variable {h : Ctl} {nb : BitVec 6} {s : State} {i : Iss} {x : Wave} (g : Goes h Req.none s i x)
include g

theorem rclaim_idle (idle : i.act = 0 ∨ 8 * nb.toNat ≤ x.alloc) : LeavesWave (.rclaim h nb) 0x304 s i x .none 1 (fun _ => none) :=
  leavesSame_of (exec_rclaim h nb) g (by dsimp only; rw [at'_wave, if_pos (by simpa using idle)]; rfl)

variable (claims : ¬(i.act = 0 ∨ 8 * nb.toNat ≤ x.alloc)) (may : s.mayClaim i x (8 * nb.toNat))
include claims may

/-- A claim that the pool serves at once. -/
theorem rclaim_served {d : Device} (taken : (s.at' i x).d.claim i.w (8 * nb.toNat) = some d)
    (first : (s.at' i x).d.claims i.blk (x.widx % 4) s.dev.turns = false) :
    Leaves (.rclaim h nb) 0x304 s i { s.at' i x with d := d } .none 1 (fun _ => none) := by
  have first' : (s.at' i x).d.claims i.blk (x.widx % 4) (s.at' i x).d.turns = false := first
  refine leavesNext_of (exec_rclaim h nb) g (pub := false) ?_
  dsimp only
  rw [at'_wave, if_neg (by simpa using claims), (at'_fields s i x).1, if_neg (Nat.not_lt.mpr may), first', taken]
  rfl

/-- A claim that an earlier one, or the pool, keeps waiting. -/
theorem rclaim_waits (late : (s.at' i x).d.claim i.w (8 * nb.toNat) = none ∨ (s.at' i x).d.claims i.blk (x.widx % 4) s.dev.turns = true) :
    LeavesWaiting (.rclaim h nb) 0x304 s i (s.at' i x) .none 1 (fun _ => none) (.rclaim (8 * nb.toNat) s.dev.turns) := by
  have left := leaves_of (exec_rclaim h nb) g (e := { Eff.plain (s.at' i x) with waits := some (.rclaim (8 * nb.toNat) s.dev.turns) }) ?_ rfl rfl rfl
  · rw [taken_plain i rfl] at left
    exact left
  · dsimp only
    rw [at'_wave, if_neg (by simpa using claims), (at'_fields s i x).1, if_neg (Nat.not_lt.mpr may)]
    split
    · rfl
    · next first =>
      rw [late.resolve_right first]
      rfl

end

/-- What `SEGQ` posts for the answer of the map: the answer in each active lane, or a read error (R208). -/
def segqOut (i : Iss) (d : Opnd) (va : W64) : Option Nat → Out
  | some v => .long (d.dest 1) (valsOf i.act (fun _ => v)) true none false
  | none => .long (d.dest 1) [] true (some (mkDetail 12 0x305 va)) false

theorem segq_leaves {h : Ctl} {d : Opnd} {a : Src} {s : State} {i : Iss} {x : Wave} (g : Goes h { Req.none with srcs := a.rng 2, dsts := d.rng 1 } s i x) :
    LeavesWave (.segq h d a) 0x305 s i x
      (segqOut i d (a.x x (lowest i.act)) (if i.act = 0 then some 0 else (s.at' i x).d.segWord i.core i.slot (a.x x (lowest i.act)).toNat)) 1
      (fun _ => none) := by
  refine leavesSame_of (exec_segq h d a) g ?_
  dsimp only
  rw [at'_wave]
  cases (if i.act = 0 then some 0 else (s.at' i x).d.segWord i.core i.slot (a.x x (lowest i.act)).toNat) <;> rfl

/-- Settles O30: what the pool is given, and serves or keeps waiting; what the map answers. -/
theorem registerPoolAndSegments : Obligations.RegisterPoolAndSegments := by
  unfold Obligations.RegisterPoolAndSegments
  refine ⟨?rgive, ?rclaim, ?waits, ?segq⟩
  case rgive => exact fun _ _ _ _ _ g => rgive_leaves g
  case rclaim =>
    intro h nb s i x g
    split
    · next idle => exact rclaim_idle g idle
    · next claims => exact fun may d taken first => rclaim_served g claims may taken first
  case waits =>
    intro h nb s i x g hh active more may late
    have left := rclaim_waits g (not_or.mpr ⟨active, Nat.not_le.mpr more⟩) may late
    obtain ⟨t, next, mem, agrees, waits, goesOn⟩ := left (by rwa [at'_wave])
    rw [at'_wave] at goesOn
    exact ⟨t, next, ⟨mem, agree_trans (agree_at' s i x) agrees, goesOn⟩, waits⟩
  case segq => exact fun _ _ _ _ _ _ g => segq_leaves g

/-! ### Launches (R209, R324, R326) -/

theorem launch_leaves {h : Ctl} {d : Opnd} {a : Src} {ofs : BitVec 16} {lq : BitVec 4} {s : State} {i : Iss} {x : Wave}
    (g : Goes h { Req.none with srcs := a.rng 2, dsts := d.rng 1 } s i x) (active : i.act ≠ 0) {ps : List (Nat × Place)} {u : St}
    (hc : (s.at' i x).checks i (lanesOf i.act) (fun _ => a.ea ofs x (lowest i.act)) 128 128 .read = .ok (ps, u)) :
    LeavesBound (.launch h d a ofs lq) 0x306 s i x 128 (fun _ => a.ea ofs x (lowest i.act)) ps u
      ((u.releaseOf i.core i.asid 4).withD fun e => { e with
        lreqs := e.lreqs ++ [⟨x.uid, i.opid, lq.toNat, i.core, i.asid, (ps.headD (0, .host 0)).2, x.wseq⟩] })
      (.long (d.dest 1) [] false none false) 1 (fun _ => none) := by
  refine boundNext_of (exec_launch h d a ofs lq) g (pub := true) ?_
  dsimp only
  rw [at'_wave, if_neg active, hc]

/-- The requests to enqueue, of the device and of the host. -/
def Device.requests (d : Device) : List LReq × List (Nat × Nat × W64) := (d.lreqs, d.lqrecs)

theorem requests_of_machine {d e : Device} (h : e.machine = d.machine) : e.requests = d.requests := by
  show e.machine.requests = d.machine.requests
  rw [h]

theorem requests_enqueue (s : St) (asid q : Nat) (rd : Option (BitVec 1024)) : (s.enqueue asid q rd).2.d.requests = s.d.requests := by
  unfold St.enqueue
  dsimp only
  split <;> rfl

/-- Reading a record and enqueueing it leaves the requests. -/
theorem requests_enqueueAt (s : St) (core asid q : Nat) (p : Place) : (s.enqueueAt core asid q p).2.d.requests = s.d.requests := by
  unfold St.enqueueAt
  split
  · exact requests_enqueue ..
  · have read := requests_of_machine (load_keeps s core p 128).2
    have enqueued := (requests_enqueue (s.load core p 128).2 asid q (some (BitVec.ofNat 1024 (s.load core p 128).1))).trans read
    dsimp only
    split
    · exact enqueued
    · exact enqueued

theorem requests_updOp (d : Device) (uid op : Nat) (f : Op → Op) : (d.updOp uid op f).requests = d.requests := by
  unfold Device.updOp Device.updWave
  split <;> rfl

/-- A launch that is carried out is requested no more. -/
theorem requests_launchNow (s : St) (r : LReq) : (s.launchNow r).d.requests =
    ((s.enqueueAt r.core r.asid r.queue r.place).2.d.lreqs.erase r, (s.enqueueAt r.core r.asid r.queue r.place).2.d.lqrecs) :=
  requests_updOp _ _ _ _

/-- A fold without an effect. -/
theorem foldl_still {α β : Type} {f : β → α → β} {ls : List α} {b : β} (still : ∀ c, f b c = b) : ls.foldl f b = b := by
  induction ls with
  | nil => rfl
  | cons c r ih => rw [List.foldl_cons, still, ih]

/-- A fold in which one element only has an effect. -/
theorem foldl_only {α β : Type} {f : β → α → β} {ls : List α} (distinct : ls.Nodup) {a : α} (ha : a ∈ ls) (others : ∀ b c, c ≠ a → f b c = b) (b : β) :
    ls.foldl f b = f b a := by
  have away : ∀ ks : List α, a ∉ ks → ∀ b, ks.foldl f b = b := fun ks absent b =>
    (foldl_congr_mem (fun b c hc => others b c (fun e => absent (e ▸ hc))) b).trans (foldl_still (fun _ => rfl))
  induction ls generalizing b with
  | nil => cases ha
  | cons c r ih =>
    obtain ⟨fresh, rest⟩ := List.nodup_cons.mp distinct
    rw [List.foldl_cons]
    by_cases e : c = a
    · subst e
      exact away r fresh _
    · rw [others b c e]
      exact ih rest ((List.mem_cons.mp ha).resolve_left (Ne.symm e)) b

/-- The only launch that is due in a cycle, with none of the host's, is carried out (R326). -/
theorem runLaunches_one {s : St} {r : LReq} (one : s.d.lreqs = [r]) (none_of_host : s.d.lqrecs = []) (due : s.d.launchDue r = true)
    (core : r.core < Config.cores) : s.runLaunches = s.launchNow r := by
  have host : (s.launchNow r).d.lqrecs = [] := by
    have kept := congrArg Prod.snd (requests_launchNow s r)
    have read := congrArg Prod.snd (requests_enqueueAt s r.core r.asid r.queue r.place)
    exact (kept.trans read).trans none_of_host
  unfold St.runLaunches
  dsimp only
  rw [one, List.filter_cons_of_pos due, List.filter_nil]
  rw [foldl_only List.nodup_range (List.mem_range.mpr core) (fun b c hc => by rw [List.filter_cons_of_neg (by simpa using Ne.symm hc)]; rfl)]
  rw [List.filter_cons_of_pos (by simp), List.filter_nil, List.foldl_cons, List.foldl_nil]
  exact foldl_still fun q => by rw [host]; rfl

/-- A launch as its record makes it when it takes a slot (R324, R326). -/
def Device.newLaunch (d : Device) (asid q : Nat) (rcd : BitVec 1024) : Launch :=
  { Launch.free with used := true, rcd := rcd, asid := asid, seq := d.lseq, prev := d.lqLast.get none q, queue := q }

/-- The device with a launch in slot `k`, at the tail of its queue (R326). -/
def Device.enqueued (d : Device) (q k : Nat) (l : Launch) : Device :=
  { d.setLaunch k l with lqs := d.lqs.put q (d.lqs.get [] q ++ [⟨k⟩]), lseq := d.lseq + 1, lqLast := d.lqLast.put q (some d.lseq) }

@[simp] theorem Device.launch_enqueued (d : Device) (q k : Nat) (l : Launch) : (d.enqueued q k l).launch k = l := Tab.get_put_self ..

@[simp] theorem Device.lqs_enqueued (d : Device) (q k : Nat) (l : Launch) : (d.enqueued q k l).lqs.get [] q = d.lqs.get [] q ++ [⟨k⟩] :=
  Tab.get_put_self ..

section
variable {s : St} {asid q : Nat} {rd : Option (BitVec 1024)}

theorem enqueue_refused (fails : s.launchCode asid q rd ≠ 0) : s.enqueue asid q rd = (2 ^ 31 + 2 ^ 24 * s.launchCode asid q rd, s) := if_pos fails

theorem enqueue_passed (passes : s.launchCode asid q rd = 0) :
    s.enqueue asid q rd = (s.d.freeSlot, s.withD fun d => d.enqueued q s.d.freeSlot (s.d.newLaunch asid q (rd.getD 0))) := by
  unfold St.enqueue
  rw [passes]
  rfl

end

/-- Settles O31: a record is refused with the CODE of the first check that it fails, or enqueued in the lowest free slot. -/
theorem launchEnqueues : Obligations.LaunchEnqueues := by
  unfold Obligations.LaunchEnqueues
  refine ⟨?issue, ?carried, ?outcome⟩
  case issue =>
    intro h d a ofs lq s i x g
    split
    · next inactive => exact leavesSame_of (exec_launch h d a ofs lq) g (by dsimp only; rw [if_pos inactive]; rfl)
    · next active => exact fun ps u hc => launch_leaves g active hc
  case carried =>
    exact fun s r one none_of_host due core => ⟨runLaunches_one one none_of_host due core, rfl, congrArg Prod.fst (requests_launchNow s r)⟩
  case outcome =>
    intro s asid q rd
    by_cases passes : s.launchCode asid q rd = 0
    · right
      rw [enqueue_passed passes]
      simp [passes, Device.newLaunch]
    · left
      rw [enqueue_refused passes]
      exact ⟨rfl, passes, rfl⟩

end Sys2Proof.Machine
end

section
/-! SUPPORT AND PROOF. The engines: byte-count barriers (O44), tiles (O45), copies (O46), matrix instructions (O47) and the collective instructions
(O48). Each instruction that passes its checks has one effect; what DEC leaves of an object is said field by field. -/

namespace Sys2Proof.Machine

/-! ### What DEC leaves of an object (R221, R223) -/

@[simp] theorem objDec_zero (o : Nat) : objDec o 0 = o := if_pos rfl

/-- An object with its error set where `n` bytes are more than are pending. -/
def objMarked (o n : Nat) : Nat := if objPend o < n then setField o 80 1 1 else o

section
variable (o n : Nat)

theorem field_objMarked {lo len : Nat} (apart : lo + len ≤ 80 ∨ 81 ≤ lo) : field (objMarked o n) lo len = field o lo len := by
  unfold objMarked
  split
  · exact field_setField_apart _ _ apart
  · rfl

@[simp] theorem objPend_objMarked : objPend (objMarked o n) = objPend o := field_objMarked o n (by omega)

@[simp] theorem objPhase_objMarked : objPhase (objMarked o n) = objPhase o := field_objMarked o n (by omega)

@[simp] theorem objInit_objMarked : objInit (objMarked o n) = objInit o := field_objMarked o n (by omega)

@[simp] theorem objErr_objMarked : objErr (objMarked o n) = (objErr o || decide (objPend o < n)) := by
  unfold objMarked
  split
  · next more => simp [objErr, field_setField_same, more]
  · next fits => simp [fits]

end

section
variable {o n : Nat} (moves : 0 < n)
include moves

/-- Fewer bytes than are pending leave the rest. -/
theorem objDec_less (less : n < objPend o) : objDec o n = setField o 0 32 (objPend o - n) := by
  unfold objDec
  dsimp only
  rw [if_neg (by omega), if_neg (Nat.not_lt.mpr less.le), Nat.min_eq_left less.le, if_neg (by omega)]

/-- At least as many bytes as are pending begin the next phase. -/
theorem objDec_passes (all : objPend o ≤ n) :
    objDec o n = setField (setField (objMarked o n) 0 32 (objInit o)) 64 16 (objPhase o + 1) := by
  unfold objDec
  dsimp only
  rw [if_neg (by omega), ← objMarked, objPend_objMarked, objPhase_objMarked, objInit_objMarked, Nat.min_eq_right all, Nat.sub_self, if_pos rfl]

end

/-- Setting one field of an object leaves the fields apart from it. -/
theorem obj_setField (o v : Nat) :
    objPend (setField o 0 32 v) = v % 2 ^ 32 ∧ objPhase (setField o 0 32 v) = objPhase o ∧ objErr (setField o 0 32 v) = objErr o ∧
      objInit (setField o 0 32 v) = objInit o ∧ objPend (setField o 64 16 v) = objPend o ∧ objPhase (setField o 64 16 v) = v % 2 ^ 16 ∧
      objErr (setField o 64 16 v) = objErr o ∧ objInit (setField o 64 16 v) = objInit o := by
  unfold objPend objPhase objErr objInit
  simp (disch := omega) [field_setField_same, field_setField_apart]

/-- The fields of an object after DEC, when bytes stay pending. -/
theorem objDec_less_fields {o n : Nat} (moves : 0 < n) (less : n < objPend o) :
    objPend (objDec o n) = objPend o - n ∧ objPhase (objDec o n) = objPhase o ∧ objErr (objDec o n) = objErr o ∧ objInit (objDec o n) = objInit o := by
  have width : objPend o < 2 ^ 32 := field_lt ..
  obtain ⟨pend, phase, err, init, -⟩ := obj_setField o (objPend o - n)
  rw [objDec_less moves less, pend, phase, err, init, Nat.mod_eq_of_lt (by omega)]
  exact ⟨rfl, rfl, rfl, rfl⟩

/-- The fields of an object after DEC, when its phase passes. -/
theorem objDec_passes_fields {o n : Nat} (moves : 0 < n) (all : objPend o ≤ n) :
    objPend (objDec o n) = objInit o ∧ objPhase (objDec o n) = (objPhase o + 1) % 2 ^ 16 ∧
      objErr (objDec o n) = (objErr o || decide (objPend o < n)) ∧ objInit (objDec o n) = objInit o := by
  have width : objInit o < 2 ^ 32 := field_lt ..
  obtain ⟨pend, -, err, init, -⟩ := obj_setField (objMarked o n) (objInit o)
  obtain ⟨-, -, -, -, pend', phase', err', init'⟩ := obj_setField (setField (objMarked o n) 0 32 (objInit o)) (objPhase o + 1)
  rw [objDec_passes moves all, pend', phase', err', init', pend, err, init, objErr_objMarked,
    objInit_objMarked, Nat.mod_eq_of_lt width]
  exact ⟨rfl, rfl, rfl, rfl⟩

/-! ### Byte-count barriers (R222, R223, R320) -/

/-- Landed results move no scratchpad. -/
@[simp] theorem key_at' (s : State) (i : Iss) (x : Wave) (p : Place) : p.key (s.at' i x).d = p.key s.dev := by
  cases p <;> rfl

section
variable {h : Ctl} {d : Opnd} {a b : Src} {ofs : BitVec 16} {s : State} {i : Iss} {x : Wave} (active : i.act ≠ 0) {p : Place}
include active

theorem binit_leaves (g : Goes h { Req.none with srcs := a.rng 2 ++ b.rng 1 } s i x)
    (found : (s.at' i x).barrierAt i (a.ea ofs x (lowest i.act)) .write = .ok p) (counts : b.w x (lowest i.act) ≠ 0) :
    LeavesBound (.binit h a b ofs) 0x640 s i x 16 (fun _ => a.ea ofs x (lowest i.act)) [(lowest i.act, p)] (s.at' i x)
      (((s.at' i x).meetAt i.core p).objUpd (p.key s.dev)
        (fun o => setField (setField (setField o 0 32 (b.w x (lowest i.act)).toNat) 80 1 0) 96 32 (b.w x (lowest i.act)).toNat))
      (.long .none [] true (((s.at' i x).objErr (p.key s.dev)).map (fun k => mkDetail k 0x640 (a.ea ofs x (lowest i.act)))) false) 1
      (fun _ => none) := by
  have positive : (b.w x (lowest i.act)).toNat ≠ 0 := fun zero => counts (BitVec.eq_of_toNat_eq zero)
  refine boundNext_of (exec_binit h a b ofs) g (pub := false) ?_
  dsimp only
  rw [at'_wave, if_neg active, waveEa, found]
  dsimp only
  rw [if_neg positive, key_at']
  rfl

section
variable (g : Goes h { Req.none with srcs := a.rng 2 ++ b.rng 1, dsts := d.rng 1 } s i x)
  (found : (s.at' i x).barrierAt i (a.ea ofs x (lowest i.act)) .read = .ok p)
include g found

theorem bwait_poisoned {k : BitVec 8} (bad : (s.at' i x).objErr (p.key s.dev) = some k) :
    LeavesBound (.bwait h d a b ofs) 0x642 s i x 16 (fun _ => a.ea ofs x (lowest i.act)) [(lowest i.act, p)] (s.at' i x) ((s.at' i x).meetAt i.core p)
      (.long (d.dest 1) [] true (some (mkDetail k 0x642 (a.ea ofs x (lowest i.act)))) false) 1 (fun _ => none) := by
  refine boundNext_of (exec_bwait h d a b ofs) g (pub := false) ?_
  dsimp only
  rw [at'_wave, if_neg active, waveEa, found]
  dsimp only
  rw [key_at', bad]
  rfl

variable (sound : (s.at' i x).objErr (p.key s.dev) = none)
include sound

/-- A wait for a phase that has passed is over at once; one for the present phase goes to the object's waits. -/
theorem bwait_leaves :
    if objPhase (objClean ((s.at' i x).rdN (p.key s.dev) 16)) = ((b.w x (lowest i.act)).setWidth 16 : BitVec 16).toNat then
      LeavesBound (.bwait h d a b ofs) 0x642 s i x 16 (fun _ => a.ea ofs x (lowest i.act)) [(lowest i.act, p)] (s.at' i x)
        ((s.at' i x).withD fun d => { d with
          bwaits := d.bwaits ++ [⟨p.key s.dev, (b.w x (lowest i.act)).setWidth 16, x.uid, i.opid, a.ea ofs x (lowest i.act)⟩] })
        (.long (d.dest 1) [] false none false) 1 (fun _ => none)
    else LeavesBound (.bwait h d a b ofs) 0x642 s i x 16 (fun _ => a.ea ofs x (lowest i.act)) [(lowest i.act, p)] (s.at' i x)
      ((s.at' i x).meetAt i.core p)
      (.long (d.dest 1) (forAll i (objWord (objClean ((s.at' i x).rdN (p.key s.dev) 16)))) true
        (if objErr (objClean ((s.at' i x).rdN (p.key s.dev) 16)) then some (mkDetail 11 0x642 (a.ea ofs x (lowest i.act))) else none) false) 1
      (fun _ => none) := by
  split
  · next present =>
    refine boundNext_of (exec_bwait h d a b ofs) g (pub := false) ?_
    dsimp only
    rw [at'_wave, if_neg active, waveEa, found]
    dsimp only
    rw [key_at', sound, if_neg (by decide), if_neg (not_not.mpr present)]
    rfl
  · next passed =>
    refine boundNext_of (exec_bwait h d a b ofs) g (pub := false) ?_
    dsimp only
    rw [at'_wave, if_neg active, waveEa, found]
    dsimp only
    rw [key_at', sound, if_neg (by decide), if_pos passed]
    rfl

end

theorem btst_leaves (g : Goes h { Req.none with srcs := a.rng 2, dsts := d.rng 2 } s i x)
    (found : (s.at' i x).barrierAt i (a.ea ofs x (lowest i.act)) .read = .ok p) :
    let o := objClean ((s.at' i x).rdN (p.key s.dev) 16)
    LeavesBound (.btst h d a ofs) 0x643 s i x 16 (fun _ => a.ea ofs x (lowest i.act)) [(lowest i.act, p)] (s.at' i x) ((s.at' i x).meetAt i.core p)
      (.long (d.dest 2) (forAll i (objPend o + 2 ^ 32 * objWord o)) true
        (((s.at' i x).objErr (p.key s.dev)).map (fun k => mkDetail k 0x643 (a.ea ofs x (lowest i.act)))) false) 1 (fun _ => none) := by
  refine boundNext_of (exec_btst h d a ofs) g (pub := false) ?_
  dsimp only
  rw [at'_wave, if_neg active, waveEa, found]
  dsimp only
  rw [key_at']
  rfl

end

theorem barr_accesses {h : Ctl} {a b : Src} {ofs : BitVec 16} {s : State} {i : Iss} {x : Wave} {ps : List (Nat × Place)}
    (g : Goes h { Req.none with srcs := a.rng 2 ++ b.rng 1 } s i x) (found : (s.at' i x).barrs i (a.ea ofs x) = .ok ps) :
    Accesses (.barr h a b ofs) 0x641 s i x 2 (reachOf i.core ps) 16 false true (a.ea ofs x) ps (some .none) (s.at' i x)
      (barrPerf b i x (a.ea ofs x) ps) := by
  refine accesses_of (exec_barr h a b ofs) g (pub := false) ?_
  dsimp only
  rw [at'_wave, found]

/-- Settles O44: a `BARR` is an access, the others wait for what would hold one; DEC by the fields that it sets. -/
theorem byteCountBarriers : Obligations.ByteCountBarriers := by
  unfold Obligations.ByteCountBarriers
  refine ⟨?binit, ?barr, ?bwait, ?btst, ?dec⟩
  case binit =>
    intro h a b ofs s i x g
    split
    · next inactive => exact leavesSame_of (exec_binit h a b ofs) g (by dsimp only; rw [if_pos inactive]; rfl)
    · next active => exact fun p found counts => binit_leaves active g found counts
  case barr => exact fun h a b ofs s i x ps g found => barr_accesses g found
  case bwait =>
    intro h d a b ofs s i x g
    split
    · next inactive => exact leavesSame_of (exec_bwait h d a b ofs) g (by dsimp only; rw [if_pos inactive]; rfl)
    · next active => exact fun p found => ⟨fun k bad => bwait_poisoned active g found bad, bwait_leaves active g found⟩
  case btst =>
    intro h d a ofs s i x g
    split
    · next inactive => exact leavesSame_of (exec_btst h d a ofs) g (by dsimp only; rw [if_pos inactive]; rfl)
    · next active => exact fun p found => btst_leaves active g found
  case dec => exact fun o n _ => ⟨objDec_zero o, objDec_less_fields, objDec_passes_fields⟩

/-! ### Tiles (R224 to R226) -/

theorem tileRange_granted {s : St} {i : Iss} {t : Nat} (granted : t < (s.d.block i.blk).tileN) : s.tileRange i t = none := if_pos granted

/-- A range that is empty, or lies beside every other tile, meets none. -/
theorem tiles_apart {ts : Tab Tile} {t base size : Nat}
    (apart : size = 0 ∨ ∀ e ∈ ts, e.1 = t ∨ e.2.size = 0 ∨ e.2.base + e.2.size ≤ base ∨ base + size ≤ e.2.base) :
    (decide (size ≠ 0) && ts.any (fun e => e.1 != t && e.2.size != 0 && decide (base < e.2.base + e.2.size) && decide (e.2.base < base + size))) = false := by
  rcases apart with empty | beside
  · simp [empty]
  · rw [Bool.and_eq_false_iff]
    right
    rw [List.any_eq_false]
    intro e he
    simp only [Bool.and_eq_true, bne_iff_ne, decide_eq_true_eq]
    have := beside e he
    omega

/-- The tile is granted, neither filling nor draining, and nothing reads it; the range is whole lines of the scratchpad and meets no other tile
(R226). -/
structure Declarable (k : Block) (t base size : Nat) : Prop where
  granted : t < k.tileN
  rests : (k.tile t).state = 0 ∨ (k.tile t).state = 2
  unread : (k.tile t).nrd = 0
  base_line : base % 64 = 0
  size_line : size % 64 = 0
  inside : base + size ≤ k.scrsz
  apart : size = 0 ∨ ∀ e ∈ k.tiles, e.1 = t ∨ e.2.size = 0 ∨ e.2.base + e.2.size ≤ base ∨ base + size ≤ e.2.base

theorem tdecl_leaves {h : Ctl} {a b : Src} {rdy : Bool} {tile : BitVec 6} {s : State} {i : Iss} {x : Wave}
    (g : Goes h { Req.none with srcs := a.rng 1 ++ b.rng 1 } s i x) (active : i.act ≠ 0)
    (able : Declarable (s.dev.block i.blk) tile.toNat (a.w x (lowest i.act)).toNat (b.w x (lowest i.act)).toNat) :
    Leaves (.tdecl h a b rdy tile) 0x644 s i
      ((s.at' i x).withD (·.updTile i.blk tile.toNat
        (fun _ => ⟨if rdy then 2 else 0, 0, 0, (b.w x (lowest i.act)).toNat, (a.w x (lowest i.act)).toNat⟩)))
      (.long .none [] true none false) 1 (fun _ => none) := by
  obtain ⟨granted, rests, unread, baseLine, sizeLine, inside, apart⟩ := able
  refine leavesNext_of (exec_tdecl h a b rdy tile) g (pub := false) ?_
  dsimp only
  rw [at'_wave, if_neg active, tileRange_granted granted, (at'_fields s i x).1]
  dsimp only
  rw [if_neg (by rcases rests with empty | ready <;> simp [*]), tiles_apart apart, if_neg (by simp [baseLine, sizeLine]), if_neg (Nat.not_lt.mpr inside)]
  rfl

theorem tstat_leaves {h : Ctl} {d : Opnd} {tile : BitVec 6} {s : State} {i : Iss} {x : Wave} (g : Goes h { Req.none with dsts := d.rng 2 } s i x)
    (granted : i.act ≠ 0 → tile.toNat < (s.dev.block i.blk).tileN) :
    LeavesWave (.tstat h d tile) 0x645 s i x (.long (d.dest 2) (forAll i ((s.dev.block i.blk).tile tile.toNat).word) true none false) 1
      (fun _ => none) := by
  have passes : (if i.act = 0 then none else (s.at' i x).tileRange i tile.toNat) = none := by
    split
    · rfl
    · next active => exact tileRange_granted (granted active)
  refine leavesSame_of (exec_tstat h d tile) g ?_
  dsimp only
  rw [passes]
  rfl

theorem trel_leaves {h : Ctl} {tile : BitVec 6} {s : State} {i : Iss} {x : Wave} (g : Goes h Req.none s i x) (active : i.act ≠ 0)
    (granted : tile.toNat < (s.dev.block i.blk).tileN) (ready : ((s.dev.block i.blk).tile tile.toNat).state = 2) :
    Leaves (.trel h tile) 0x646 s i ((s.at' i x).withD (·.updTile i.blk tile.toNat (fun x => { x with state := if x.nrd = 0 then 0 else 3 })))
      (.long .none [(0, tile.toNat)] (((s.dev.block i.blk).tile tile.toNat).nrd = 0) none false) 1 (fun _ => none) := by
  refine leavesNext_of (exec_trel h tile) g (pub := false) ?_
  dsimp only
  rw [if_neg active, tileRange_granted granted, (at'_fields s i x).1]
  dsimp only
  rw [if_neg (not_not.mpr ready)]
  rfl

/-- Settles O45: a tile that can be declared is, one that is granted is told of, and a READY one is released. -/
theorem tilesAreDeclared : Obligations.TilesAreDeclared := by
  unfold Obligations.TilesAreDeclared
  refine ⟨?tdecl, ?tstat, ?trel⟩
  case tdecl =>
    intro h a b rdy tile s i x g
    split
    · next inactive => exact leavesSame_of (exec_tdecl h a b rdy tile) g (by dsimp only; rw [if_pos inactive]; rfl)
    · next active =>
      exact fun granted rests unread baseLine sizeLine inside apart =>
        tdecl_leaves g active ⟨granted, rests, unread, baseLine, sizeLine, inside, apart⟩
  case tstat => exact fun h d tile s i x g granted => tstat_leaves g granted
  case trel =>
    intro h tile s i x g
    split
    · next inactive => exact leavesSame_of (exec_trel h tile) g (by dsimp only; rw [if_pos inactive]; rfl)
    · next active => exact fun granted ready => trel_leaves g active granted ready

/-! ### Copies (R212 to R220) -/

@[simp] theorem slotOf_at' (s : State) (i : Iss) (x : Wave) : (s.at' i x).d.slotOf = s.dev.slotOf := rfl

section
variable {ins : Instr} {opc : BitVec 12} {kind : Nat} {h : Ctl} {a : Src} {ofs : BitVec 16} (he : ∀ s, exec ins s = copyOp opc kind h a ofs s)
  {s : State} {i : Iss} {x : Wave} (g : Goes h { Req.none with srcs := a.rng 2 } s i x)
include he g

variable (active : i.act ≠ 0) (aligned : (a.ea ofs x (lowest i.act)).toNat % 64 = 0)
include active aligned

/-- A record at an address that no translation reaches (R143). -/
theorem copyOp_untranslated (high : 2 ^ 57 ≤ (a.ea ofs x (lowest i.act)).toNat) :
    Faults ins s i (s.at' i x) 9 (a.ea ofs x (lowest i.act)) (BitVec.ofNat 64 (i.act.toNat + 2 ^ 32 * 7 + 2 ^ 36 * Acc.read.code)) 0 0 := by
  refine (he s).trans (issue_trap g ?_)
  dsimp only
  rw [at'_wave, if_neg active, waveEa, if_neg (not_not.mpr aligned), if_pos high]
  rfl

variable (low : (a.ea ofs x (lowest i.act)).toNat < 2 ^ 57) {o : Nat} (own : s.dev.slotOf i.blk (a.ea ofs x (lowest i.act)).toNat = some (0, o))
  (inside : o + 64 ≤ (s.dev.block i.blk).scrsz)
include low own inside

/-- A record whose line is poisoned (R320). -/
theorem copyOp_poisoned {k : BitVec 8} (bad : (s.at' i x).readErr (.scratch i.blk o) = some k) :
    LeavesWave ins opc s i x (.long .none [] true (some (mkDetail k opc (a.ea ofs x (lowest i.act)))) false) 1 (fun _ => none) := by
  refine leavesSame_of (fun s => (he s).trans rfl) g ?_
  dsimp only
  rw [at'_wave, if_neg active, waveEa, if_neg (not_not.mpr aligned), if_neg (Nat.not_le.mpr low), slotOf_at', own]
  refine (if_neg (Nat.not_lt.mpr inside)).trans ?_
  rw [bad]
  rfl

/-- A record that passes the checks of R214, with a slot of the core free. -/
theorem copyOp_takes (sound : (s.at' i x).readErr (.scratch i.blk o) = none) (free : (s.dev.copies.filter (·.core == i.core)).length < 128)
    (passes : (s.at' i x).copyCheck i ((s.at' i x).copyOf i x kind o) (a.ea ofs x (lowest i.act)) = none) :
    Leaves ins opc s i ((s.at' i x).copyTake i ((s.at' i x).copyOf i x kind o)) (.long .none [] false none false) 1 (fun _ => none) := by
  have free : ((s.at' i x).d.copies.filter (·.core == i.core)).length < 128 := free
  refine leavesNext_of (fun s => (he s).trans rfl) g (pub := (s.at' i x).copyOut ((s.at' i x).copyOf i x kind o)) ?_
  dsimp only
  rw [at'_wave, if_neg active, waveEa, if_neg (not_not.mpr aligned), if_neg (Nat.not_le.mpr low), slotOf_at', own]
  refine (if_neg (Nat.not_lt.mpr inside)).trans ?_
  rw [sound, if_neg (by decide), if_neg (Nat.not_le.mpr free), passes]

end

/-- A copy with no active lane does nothing, and one whose record passes takes a slot. -/
theorem copyOp_leaves {ins : Instr} {opc : BitVec 12} {kind : Nat} {h : Ctl} {a : Src} {ofs : BitVec 16}
    (he : ∀ s, exec ins s = copyOp opc kind h a ofs s) {s : State} {i : Iss} {x : Wave} (g : Goes h { Req.none with srcs := a.rng 2 } s i x) :
    if i.act = 0 then LeavesWave ins opc s i x (.long .none [] true none false) 1 (fun _ => none)
    else ∀ o, (a.ea ofs x (lowest i.act)).toNat % 64 = 0 → (a.ea ofs x (lowest i.act)).toNat < 2 ^ 57 →
      s.dev.slotOf i.blk (a.ea ofs x (lowest i.act)).toNat = some (0, o) → o + 64 ≤ (s.dev.block i.blk).scrsz →
      (s.at' i x).readErr (.scratch i.blk o) = none → (s.dev.copies.filter (·.core == i.core)).length < 128 →
      (s.at' i x).copyCheck i ((s.at' i x).copyOf i x kind o) (a.ea ofs x (lowest i.act)) = none →
      Leaves ins opc s i ((s.at' i x).copyTake i ((s.at' i x).copyOf i x kind o)) (.long .none [] false none false) 1 (fun _ => none) := by
  split
  · next inactive => exact leavesSame_of (fun s => (he s).trans rfl) g (by dsimp only; rw [if_pos inactive]; rfl)
  · next active => exact fun o aligned low own inside => copyOp_takes he g active aligned low own inside

theorem cpyq_leaves {h : Ctl} {d : Opnd} {a : Src} {ofs : BitVec 16} {s : State} {i : Iss} {x : Wave}
    (g : Goes h { Req.none with srcs := a.rng 2, dsts := d.rng 4 } s i x) (active : i.act ≠ 0)
    (aligned : (a.ea ofs x (lowest i.act)).toNat % 64 = 0) (low : (a.ea ofs x (lowest i.act)).toNat < 2 ^ 57) {o : Nat}
    (own : s.dev.slotOf i.blk (a.ea ofs x (lowest i.act)).toNat = some (0, o)) (inside : o + 64 ≤ (s.dev.block i.blk).scrsz) :
    LeavesWave (.cpyq h d a ofs) 0x604 s i x (.long (d.dest 4) (forAll i (Report.words ((s.dev.block i.blk).reports.get none o))) true none false) 1
      (fun _ => none) := by
  refine leavesSame_of (exec_cpyq h d a ofs) g ?_
  dsimp only
  rw [at'_wave, if_neg active, waveEa, if_neg (not_not.mpr aligned), if_neg (Nat.not_le.mpr low), slotOf_at', own]
  exact if_neg (Nat.not_lt.mpr inside)

/-- Settles O46: the four copies are one family, told apart by the kind of the copy that they make of the record. -/
theorem copiesTakeASlot : Obligations.CopiesTakeASlot := by
  unfold Obligations.CopiesTakeASlot
  refine ⟨?cpy, ?cpyPoisoned, ?cpyHigh, ?gath, ?gathPoisoned, ?gathHigh, ?scat, ?scatPoisoned, ?scatHigh, ?mcast, ?mcastPoisoned, ?mcastHigh, ?cpyq⟩
  case cpy => exact fun h a ofs s i x g => copyOp_leaves (exec_cpy h a ofs) g
  case cpyPoisoned => exact fun h a ofs s i x o k g active aligned low own inside => copyOp_poisoned (exec_cpy h a ofs) g active aligned low own inside
  case cpyHigh => exact fun h a ofs s i x g active aligned => copyOp_untranslated (exec_cpy h a ofs) g active aligned
  case gath => exact fun h a ofs s i x g => copyOp_leaves (exec_gath h a ofs) g
  case gathPoisoned => exact fun h a ofs s i x o k g active aligned low own inside => copyOp_poisoned (exec_gath h a ofs) g active aligned low own inside
  case gathHigh => exact fun h a ofs s i x g active aligned => copyOp_untranslated (exec_gath h a ofs) g active aligned
  case scat => exact fun h a ofs s i x g => copyOp_leaves (exec_scat h a ofs) g
  case scatPoisoned => exact fun h a ofs s i x o k g active aligned low own inside => copyOp_poisoned (exec_scat h a ofs) g active aligned low own inside
  case scatHigh => exact fun h a ofs s i x g active aligned => copyOp_untranslated (exec_scat h a ofs) g active aligned
  case mcast => exact fun h a ofs s i x g => copyOp_leaves (exec_mcast h a ofs) g
  case mcastPoisoned => exact fun h a ofs s i x o k g active aligned low own inside => copyOp_poisoned (exec_mcast h a ofs) g active aligned low own inside
  case mcastHigh => exact fun h a ofs s i x g active aligned => copyOp_untranslated (exec_mcast h a ofs) g active aligned
  case cpyq =>
    intro h d a ofs s i x g
    split
    · next inactive => exact leavesSame_of (exec_cpyq h d a ofs) g (by dsimp only; rw [if_pos inactive]; rfl)
    · next active => exact fun o aligned low own inside => cpyq_leaves g active aligned low own inside

/-! ### Matrix instructions (R228 to R235) -/

/-- The operation that `MMA` and `MMAP` make of their operands (R231 to R233). -/
def mmaMat (u : St) (i : Iss) (x : Wave) (kind : Nat) (d : Opnd) (a b c : Src) (ty : BitVec 3) (be5 : Bool) (kq : BitVec 10) (za : Bool) : MatOp :=
  { matOp u i kind d.idx with
    tile2 := if ty.toNat = 5 then some ((u.d.block i.blk).accB + d.idx + 1) else none, ty := ty.toNat, be5 := be5, kq := kq.toNat, za := za
    xa := a.x x (lowest i.act), xb := b.x x (lowest i.act), c := c.w x (lowest i.act) }

theorem mmaOp_takes {ins : Instr} {opc : BitVec 12} {kind : Nat} {h : Ctl} {d : Opnd} {a b c : Src} {ty : BitVec 3} {be5 : Bool} {kq : BitVec 10}
    {za : Bool} (he : ∀ s, exec ins s = mmaOp opc kind h d a b c ty be5 kq za s) {s : State} {i : Iss} {x : Wave}
    (g : Goes h { Req.none with srcs := a.rng 2 ++ b.rng 2 ++ c.rng 1, tiles := mmaTiles d ty } s i x) :
    Takes ins opc s i x .none (mmaMat (s.at' i x) i x kind d a b c ty be5 kq za) :=
  takes_of he g (by rw [at'_wave]; rfl)

/-- The second tile of an `ACCSC`, if its source is another tile than its destination: tiles of one block are told apart by their index (R234). -/
theorem accsc_tile2 (n p q : Nat) : (if n + p = n + q then none else some (n + p)) = if p = q then none else some (n + p) := by
  simp only [Nat.add_left_cancel_iff]

/-- Settles O47: the frame of every matrix instruction, with the operation that each makes of its operands. -/
theorem matrixOperationsQueue : Obligations.MatrixOperationsQueue := by
  unfold Obligations.MatrixOperationsQueue
  refine ⟨?mma, ?mmap, ?accsc, ?accz, ?accrd, ?accwr, ?accld, ?accst⟩
  case mma => exact fun h d a b c ty be5 kq za s i x g => mmaOp_takes (exec_mma h d a b c ty be5 kq za) g
  case mmap => exact fun h d a b c ty be5 kq za s i x g => mmaOp_takes (exec_mmap h d a b c ty be5 kq za) g
  case accsc =>
    intro h d a b c s i x g
    refine takes_of (exec_accsc h d a b c) g ?_
    dsimp only
    rw [at'_wave, matOp, accsc_tile2]
    rfl
  case accz => exact fun h d s i x g => takes_of (exec_accz h d) g rfl
  case accrd => exact fun h d a b s i x g => takes_of (exec_accrd h d a b) g (by rw [at'_wave])
  case accwr => exact fun h d a b s i x g => takes_of (exec_accwr h d a b) g (by rw [at'_wave])
  case accld => exact fun h d a str s i x g => takes_of (exec_accld h d a str) g (by rw [at'_wave])
  case accst => exact fun h a b str s i x g => takes_of (exec_accst h a b str) g (by rw [at'_wave])

/-! ### Collective instructions (R237 to R241) -/

@[simp] theorem bidOf_at' (s : State) (i : Iss) (x : Wave) : (s.at' i x).d.bidOf = s.dev.bidOf := rfl

section
variable {h : Ctl} {d : Opnd} {s : State} {i : Iss} {x : Wave} (active : i.act ≠ 0) {k : Nat} {y : Binding} (bound : s.dev.bidOf i.slot = some (k, y))
include active bound

/-- `COLL` on a chunk of the binding: outside the view it completes with error 9, and in the view it leaves its contribution (R238, R408). -/
theorem coll_leaves {a b : Src} {ofs : BitVec 16} (g : Goes h { Req.none with srcs := a.rng 2 ++ b.rng 1, dsts := d.rng 2 } s i x)
    (chunk : (b.w x (lowest i.act)).toNat < y.nch) :
    if y.st = .isolated ∨ y.st = .candidate then
      Leaves (.coll h d a b ofs) 0x700 s i (s.at' i x) (.long (d.dest 2) [] true (some (mkDetail 9 0x700 (a.ea ofs x (lowest i.act)))) true) 1
        (fun _ => none)
    else Leaves (.coll h d a b ofs) 0x700 s i
      (((s.at' i x).releaseOf i.core i.asid 4).withD fun e => e.setBinding k { y with
        colls := y.colls ++ [⟨x.uid, i.opid, (b.w x (lowest i.act)).toNat, a.ea ofs x (lowest i.act), x.wseq, false, e.clkVec (dieOf i.core)⟩] })
      (.long (d.dest 2) [] false none true) 1 (fun _ => none) := by
  split
  · next outside =>
    refine leavesNext_of (exec_coll h d a b ofs) g (pub := true) ?_
    dsimp only
    rw [at'_wave, if_neg active, bidOf_at', bound]
    dsimp only
    rw [if_neg (Nat.not_le.mpr chunk), if_pos (by simpa using outside)]
  · next inView =>
    refine leavesNext_of (exec_coll h d a b ofs) g (pub := true) ?_
    dsimp only
    rw [at'_wave, if_neg active, bidOf_at', bound]
    dsimp only
    rw [if_neg (Nat.not_le.mpr chunk), if_neg (by simpa using inView)]

theorem viewq_leaves {b : Src} {sl : Bool} (g : Goes h { Req.none with srcs := b.rng 1, dsts := d.rng 2 } s i x) :
    LeavesWave (.viewq h d b sl) 0x701 s i x (.long (d.dest 2) (valsOf i.act (fun _ =>
      if sl then (y.view.filter (fun r => r / 64 == (b.w x (lowest i.act)).toNat)).foldl (fun m r => m ||| 2 ^ (r % 64)) 0
      else y.tag.toNat + 2 ^ 32 * y.view.length)) true none false) 1 (fun _ => none) := by
  refine leavesSame_of (exec_viewq h d b sl) g ?_
  dsimp only
  rw [at'_wave, if_neg active, bidOf_at', bound]
  rfl

section
variable {blk : Bool} (g : Goes h { Req.none with dsts := d.rng 1 } s i x)
include g

theorem arrq_arrived {e : W32} {es : List W32} (arrived : y.queue = e :: es) :
    Leaves (.arrq h d blk) 0x703 s i ((s.at' i x).withD (·.setBinding k { y with queue := es }))
      (.long (d.dest 1) (valsOf i.act (fun _ => e.toNat)) true none blk) 1 (fun _ => none) := by
  refine leavesNext_of (exec_arrq h d blk) g (pub := false) ?_
  dsimp only
  rw [if_neg active, bidOf_at', bound]
  dsimp only
  rw [arrived]
  rfl

/-- With no arrival, `ARRQ` waits for one or answers 0x8000_0000. -/
theorem arrq_empty (empty : y.queue = []) :
    if blk then Leaves (.arrq h d blk) 0x703 s i ((s.at' i x).withD (·.setBinding k { y with arrq := y.arrq ++ [(x.uid, i.opid)] }))
      (.long (d.dest 1) [] false none true) 1 (fun _ => none)
    else LeavesWave (.arrq h d blk) 0x703 s i x (.long (d.dest 1) (valsOf i.act (fun _ => 2 ^ 31)) true none false) 1 (fun _ => none) := by
  cases blk with
  | true =>
    refine leavesNext_of (exec_arrq h d true) g (pub := false) ?_
    dsimp only
    rw [at'_wave, if_neg active, bidOf_at', bound]
    dsimp only
    rw [empty]
    rfl
  | false =>
    refine leavesSame_of (exec_arrq h d false) g ?_
    dsimp only
    rw [if_neg active, bidOf_at', bound]
    dsimp only
    rw [empty]
    rfl

end

end

/-- The device without the memory system's records, scope-local copies and fault buffers. -/
def Device.unbuffered (d : Device) : Device := { d.machine with locals := [], fbuf := [] }

theorem unbuffered_pushBytes (s : St) (die line : Nat) (data : Tab Byte) : (s.pushBytes die line data).d.unbuffered = s.d.unbuffered :=
  congrArg (fun d : Device => { d with locals := [], fbuf := [] }) (machine_wrLine s die line _)

/-- A copy that is pushed goes home, or to a fault buffer, or stays. -/
theorem unbuffered_pushLocal (s : St) (l : Local) (evicted : Bool) : (s.pushLocal l evicted).d.unbuffered = s.d.unbuffered := by
  unfold St.pushLocal
  dsimp only
  split
  · rfl
  · split
    · exact unbuffered_pushBytes ..
    · split <;> rfl

/-- A held line that is retried goes home, or stays held. -/
theorem unbuffered_retryHeld (s : St) (cl asid : Nat) : (s.retryHeld cl asid).d.unbuffered = s.d.unbuffered := by
  refine List.foldlRecOn (motive := fun t : St => t.d.unbuffered = s.d.unbuffered) _ _ rfl fun t same f _ => ?_
  split
  · exact (unbuffered_pushBytes ..).trans same
  · exact same

/-- A release moves bytes outward, and changes nothing else (R161, R361). -/
theorem unbuffered_releaseOf (s : St) (core asid scope : Nat) : (s.releaseOf core asid scope).d.unbuffered = s.d.unbuffered := by
  unfold St.releaseOf
  split
  · rfl
  · exact List.foldlRecOn (motive := fun t : St => t.d.unbuffered = s.d.unbuffered) _ _ (unbuffered_retryHeld ..)
      fun t same l _ => (unbuffered_pushLocal t l false).trans same

theorem partOf_releaseOf (s : St) (core asid scope : Nat) : (s.releaseOf core asid scope).d.partOf = s.d.partOf := by
  show (s.releaseOf core asid scope).d.unbuffered.partOf = s.d.unbuffered.partOf
  rw [unbuffered_releaseOf]

theorem firstBad_none {α : Type} (cause : α → Nat) : firstBad [] cause = none := rfl

/-- `AMSEND`, where no lane's operands are illegal. -/
theorem amsend_leaves {h : Ctl} {a : Src} {b : Option Src} {c : Src} {nw : BitVec 4} {s : State} {i : Iss} {x : Wave}
    (g : Goes h { Req.none with srcs := a.rng 2 ++ srcRng b nw.toNat ++ c.rng 1 } s i x) (legal : amBad a c i x = []) :
    let u := if i.act = 0 then s.at' i x else (s.at' i x).releaseOf i.core i.asid 4
    Leaves (.amsend h a b c nw) 0x702 s i
      (u.withD fun d => { d with transit := d.transit ++ ((s.at' i x).amGood i x c).map (amTransit ((s.dev.partOf i.asid).getD 0) i x a b c nw.toNat) })
      (.long .none [] ((s.at' i x).amGood i x c).isEmpty
        (((lanesOf i.act).find? (fun l => !((s.at' i x).amGood i x c).contains l)).map (fun l => mkDetail 10 0x702 (BitVec.ofNat 64 (amRank c x l)))) false)
      1 (fun _ => none) := by
  have part : (if i.act = 0 then s.at' i x else (s.at' i x).releaseOf i.core i.asid 4).d.partOf = s.dev.partOf := by
    split
    · rfl
    · exact partOf_releaseOf ..
  rw [← part]
  refine leavesNext_of (exec_amsend h a b c nw) g (pub := i.act != 0) ?_
  dsimp only
  rw [at'_wave, legal, firstBad_none]
  rfl

/-- Settles O48: what each does with the launch's binding, and the records that `AMSEND` sends. -/
theorem collectiveInstructions : Obligations.CollectiveInstructions := by
  unfold Obligations.CollectiveInstructions
  refine ⟨?coll, ?viewq, ?amsend, ?arrq⟩
  case coll =>
    intro h d a b ofs s i x g
    split
    · next inactive => exact leavesSame_of (exec_coll h d a b ofs) g (by dsimp only; rw [if_pos inactive]; rfl)
    · next active => exact fun k y bound chunk => coll_leaves active bound g chunk
  case viewq =>
    intro h d b sl s i x g
    split
    · next inactive => exact leavesSame_of (exec_viewq h d b sl) g (by dsimp only; rw [if_pos inactive]; rfl)
    · next active => exact fun k y bound => viewq_leaves active bound g
  case amsend => exact fun h a b c nw s i x g legal => amsend_leaves g legal
  case arrq =>
    intro h d blk s i x g
    split
    · next inactive => exact leavesSame_of (exec_arrq h d blk) g (by dsimp only; rw [if_pos inactive]; rfl)
    · next active => exact fun k y bound => ⟨fun e es arrived => arrq_arrived active bound g arrived, arrq_empty active bound g⟩

end Sys2Proof.Machine
end

section
/-! SUPPORT AND PROOF. The memory system: a core reads what it has stored (O40). Clocks and messages that pass between the dies park no line and
make no byte of a die older; only a publication makes one older, and that of another die. -/

namespace Sys2Proof.Machine

/-! ### What passes between the dies leaves a die's bytes current (R270, R276) -/

/-- From `d` to `e` the parks stay, and die `die` comes to hold no older copy of a byte. -/
structure Device.StaysCurrent (die : Nat) (d e : Device) : Prop where
  parks : e.parks = d.parks
  current : ∀ k, k / 2 ^ 52 = die → d.stale.lookup k = none → e.stale.lookup k = none

namespace Device.StaysCurrent

variable {die : Nat} {d e f : Device}

theorem of_eq (parks : e.parks = d.parks) (stale : e.stale = d.stale) : StaysCurrent die d e := ⟨parks, fun _ _ h => stale ▸ h⟩

theorem refl (d : Device) : StaysCurrent die d d := of_eq rfl rfl

theorem trans (first : StaysCurrent die d e) (next : StaysCurrent die e f) : StaysCurrent die d f :=
  ⟨next.parks.trans first.parks, fun k at_die unheld => next.current k at_die (first.current k at_die unheld)⟩

theorem foldl {α : Type} {g : Device → α → Device} (step : ∀ d a, StaysCurrent die d (g d a)) (ls : List α) (d : Device) :
    StaysCurrent die d (ls.foldl g d) := by
  induction ls generalizing d with
  | nil => exact refl d
  | cons a r ih => exact (step d a).trans (ih (g d a))

/-- What is current stays so when the parks and older bytes are left as they come. -/
theorem congr (h : StaysCurrent die d e) (parks : f.parks = e.parks) (stale : f.stale = e.stale) : StaysCurrent die d f :=
  h.trans (of_eq parks stale)

end Device.StaysCurrent

open Device (StaysCurrent)

theorem lookup_filter_eq_none {α : Type} {t : Tab α} {k : Nat} (h : t.lookup k = none) (p : Nat × α → Bool) : (t.filter p).lookup k = none :=
  List.lookup_eq_none_iff.mpr fun c hc => List.lookup_eq_none_iff.mp h c (List.mem_of_mem_filter hc)

section
variable (die : Nat) (d : Device)

/-- A message that is applied replaces or drops older bytes that its die holds. -/
theorem staysCurrent_applyMsg (m : Msg) (rest : List Msg) : StaysCurrent die d (d.applyMsg m rest) := by
  refine ⟨rfl, fun k _ unheld => ?_⟩
  show List.lookup k (List.foldl _ d.stale m.cells) = _
  refine List.foldlRecOn (motive := fun t : Tab Byte => t.lookup k = none) m.cells _ unheld fun t ht c _ => ?_
  dsimp only
  split
  · exact ht
  · next b older =>
    split
    · rw [Tab.lookup_put, if_neg (by rintro rfl; rw [ht] at older; cases older)]
      exact ht
    · exact lookup_filter_eq_none ht _

theorem staysCurrent_takeClk (e : Nat) (vc : Tab Nat) : StaysCurrent die d (d.takeClk e vc) :=
  (StaysCurrent.foldl (fun d m => staysCurrent_applyMsg die d m (d.msgs.erase m)) _ d).congr rfl rfl

theorem staysCurrent_send (o e : Nat) : StaysCurrent die d (d.send o e) :=
  StaysCurrent.trans (e := { d with clk := d.clk.put (4 * o + o) (d.clkOf o o + 1) }) (.of_eq rfl rfl) (staysCurrent_takeClk die _ e _)

theorem staysCurrent_leaveClk (e ln : Nat) : StaysCurrent die d (d.leaveClk e ln) := by
  unfold Device.leaveClk
  split <;> exact .of_eq rfl rfl

theorem staysCurrent_meetLine (e ln : Nat) : StaysCurrent die d (d.meetLine e ln) := by
  unfold Device.meetLine
  split
  · exact .refl d
  · exact (staysCurrent_leaveClk die d e ln).trans (staysCurrent_takeClk die _ _ _)

theorem staysCurrent_fromOwner (e ln : Nat) : StaysCurrent die d (d.fromOwner e ln) := by
  unfold Device.fromOwner
  dsimp only
  split
  · exact .refl d
  · split
    · exact staysCurrent_send die d _ _
    · exact staysCurrent_takeClk die d _ _

theorem staysCurrent_obtain (e ln : Nat) : StaysCurrent die d (d.obtain e ln) := by
  unfold Device.obtain
  split
  · exact .refl d
  · exact (staysCurrent_fromOwner die d e ln).congr rfl rfl

/-- A die that becomes a line's owner holds no older byte of it, and all else as it obtained it. -/
theorem staysCurrent_own (e ln : Nat) : StaysCurrent die d (d.own e ln) := by
  have obtained := staysCurrent_fromOwner die d e ln
  unfold Device.own
  dsimp only
  split
  · exact .refl d
  · split <;> exact ⟨obtained.parks, fun k at_die unheld => lookup_filter_eq_none (obtained.current k at_die unheld) _⟩

theorem staysCurrent_meetPark (e ln : Nat) (p : Park) (wr : Bool) : StaysCurrent die d (d.meetPark e ln p wr) := by
  have back : ∀ (b : Device) (k : Nat), StaysCurrent die b (if b.clk.isEmpty then b else b.send k e) := fun b k => by
    split
    · exact .refl b
    · exact staysCurrent_send die b k e
  unfold Device.meetPark
  split
  · next k _ =>
    split
    · exact .refl d
    · cases wr with
      | false => exact back d k
      | true => exact (staysCurrent_send die d e k).trans (back _ k)
  · exact staysCurrent_meetLine die d e ln

end

/-- Bytes sent to the other dies make none of the sender's own older. -/
theorem staysCurrent_publish (s : St) (die ln : Nat) {cells : List Host.Cell} (inside : ∀ c ∈ cells, c.1 < 2 ^ 52) :
    StaysCurrent die s.d (s.publish die ln cells).d := by
  unfold St.publish
  dsimp only
  refine List.foldlRecOn (motive := fun t : St => StaysCurrent die s.d t.d) _ _ (.refl s.d) fun t ht o ho =>
    ht.trans ⟨rfl, fun k at_die unheld => ?_⟩
  have other : o ≠ die := by
    obtain ⟨r, hr, rfl⟩ := List.mem_map.mp ho
    simpa using (Bool.and_eq_true_iff.mp (List.mem_filter.mp hr).2).2
  show List.lookup k (List.foldl _ t.d.stale cells) = _
  refine List.foldlRecOn (motive := fun u : Tab Byte => u.lookup k = none) cells _ unheld fun u hu c hc => ?_
  split
  · exact hu
  · rw [Tab.lookup_put, if_neg (by have := inside c hc; omega)]
    exact hu

/-! ### Bytes of a store and of a load (R3, R271) -/

theorem St.rdN_congr {s t : St} (m0 : t.m0 = s.m0) (log : t.log = s.log) (a n : Nat) : t.rdN a n = s.rdN a n := by
  induction n generalizing a with
  | zero => rfl
  | succ n ih =>
    have byte : t.rd a = s.rd a := by rw [St.rd, St.rd, m0, log]
    rw [St.rdN, St.rdN, ih, byte]

theorem rdN_wrN_pow (s : St) (a n v : Nat) : (s.wrN a n v).rdN a n = v % 256 ^ n := by
  rw [St.rdN_wrN, Nat.pow_mul]

theorem foldl_wr_cellsOf (s : St) (a n v : Nat) : (cellsOf a n v).foldl (fun s c => s.wr c.1 c.2) s = s.wrN a n v := by
  induction n generalizing s a v with
  | zero => rfl
  | succ n ih => exact ih _ _ _

theorem lt_of_mem_cellsOf {a n v : Nat} {c : Host.Cell} (h : c ∈ cellsOf a n v) : c.1 < a + n := by
  induction n generalizing a v with
  | zero => cases h
  | succ n ih =>
    rcases List.mem_cons.mp h with rfl | h
    · exact Nat.lt_add_of_pos_right n.succ_pos
    · have := ih h
      omega

/-- A die that holds no older copy of some bytes reads them as they are. -/
theorem rdDieN_eq_rdN {s : St} {die a n : Nat} (current : ∀ k, k < n → s.d.stale.lookup (die * 2 ^ 52 + a + k) = none) :
    s.rdDieN die a n = s.rdN a n := by
  induction n generalizing a with
  | zero => rfl
  | succ n ih =>
    have byte : s.rdDie die a = s.rd a := by
      rw [St.rdDie, show s.d.stale.lookup (die * 2 ^ 52 + a) = none by simpa using current 0 n.succ_pos]
    rw [St.rdDieN, St.rdN, byte, ih fun k hk => ?_]
    rw [show die * 2 ^ 52 + (a + 1) + k = die * 2 ^ 52 + a + (k + 1) by omega]
    exact current (k + 1) (Nat.succ_lt_succ hk)

/-- The key of a place depends on no record of the memory system. -/
theorem key_of_machine {d e : Device} (h : e.machine = d.machine) (p : Place) : p.key e = p.key d := by
  have blocks : e.blocks = d.blocks := congrArg (·.blocks) h
  cases p with
  | scratch b o => rw [Place.key, Place.key, Device.block, Device.block, blocks]
  | dev pa pte => rfl
  | host pa => rfl

section
variable {s : St} {core pa n : Nat} {pte : W64}

theorem store_parked {p : Park} (parked : s.d.parks.get none (lineOf pa) = some p) (v : Nat) :
    s.store core (.dev pa pte) n v = (s.withD (·.meetPark (dieOf core) (lineOf pa) p true)).wrN pa n v := by
  simp only [St.store, St.wrLine, parked, foldl_wr_cellsOf]

theorem store_unparked (home : s.d.parks.get none (lineOf pa) = none) (v : Nat) :
    s.store core (.dev pa pte) n v =
      ((s.withD (·.own (dieOf core) (lineOf pa))).publish (dieOf core) (lineOf pa) (cellsOf pa n v)).wrN pa n v := by
  simp only [St.store, St.wrLine, home, foldl_wr_cellsOf]

theorem load_parked {p : Park} (parked : s.d.parks.get none (lineOf pa) = some p) : (s.load core (.dev pa pte) n).1 = s.rdN pa n := by
  simp only [St.load, parked]

/-- A line that is at home is read as the core's die obtains it: as it is, where the die holds no older copy. -/
theorem load_unparked (home : s.d.parks.get none (lineOf pa) = none) (below : pa + n ≤ 2 ^ 52)
    (current : ∀ k, k < n → s.d.stale.lookup (dieOf core * 2 ^ 52 + pa + k) = none) : (s.load core (.dev pa pte) n).1 = s.rdN pa n := by
  simp only [St.load, home]
  rw [rdDieN_eq_rdN fun k hk => (staysCurrent_obtain (dieOf core) s.d _ _).current _ (by omega) (current k hk)]
  exact St.rdN_congr (s := s) (t := s.withD _) rfl rfl pa n

end

/-! ### A core reads what it has stored -/

section
variable (s : St) (core n v : Nat)

/-- A place that is no line of device memory is read where it was written: the clocks that meet there move no place. -/
theorem load_store_away {p : Place} (away : p.isDev = false) : ((s.store core p n v).load core p n).1 = v % 256 ^ n := by
  have key := key_of_machine (machine_store s core p n v) p
  cases p with
  | dev pa pte => cases away
  | scratch b o => exact (congrArg (fun a => St.rdN _ a n) key).trans (rdN_wrN_pow ..)
  | host pa => exact rdN_wrN_pow ..

variable {pa : Nat} (pte : W64)

/-- A parked line stays parked under a store, and both reach its location. -/
theorem load_store_parked {p : Park} (parked : s.d.parks.get none (lineOf pa) = some p) :
    ((s.store core (.dev pa pte) n v).load core (.dev pa pte) n).1 = v % 256 ^ n := by
  rw [store_parked parked, load_parked (p := p), rdN_wrN_pow]
  rw [St.wrN_d]
  exact (congrArg (·.get none (lineOf pa)) (staysCurrent_meetPark (dieOf core) s.d _ _ p true).parks).trans parked

/-- A store on a line at home makes no byte of its own die older (R271). -/
theorem load_store_unparked (home : s.d.parks.get none (lineOf pa) = none) (below : pa + n ≤ 2 ^ 52)
    (current : ∀ k, k < n → s.d.stale.lookup (dieOf core * 2 ^ 52 + pa + k) = none) :
    ((s.store core (.dev pa pte) n v).load core (.dev pa pte) n).1 = v % 256 ^ n := by
  have kept : StaysCurrent (dieOf core) s.d (s.store core (.dev pa pte) n v).d := by
    rw [store_unparked home, St.wrN_d]
    have owned : StaysCurrent (dieOf core) s.d (s.withD (·.own (dieOf core) (lineOf pa))).d := staysCurrent_own ..
    exact owned.trans (staysCurrent_publish _ _ _ fun c hc => Nat.lt_of_lt_of_le (lt_of_mem_cellsOf hc) below)
  rw [load_unparked (by rw [kept.parks, home]) below fun k hk => kept.current _ (by omega) (current k hk), store_unparked home, rdN_wrN_pow]

end

/-- Settles O40: by place, and on a line of device memory by whether it is parked. -/
theorem storedValuesReadBack : Obligations.StoredValuesReadBack := by
  unfold Obligations.StoredValuesReadBack
  intro s core p n v _ device
  cases p with
  | scratch b o => exact load_store_away s core n v rfl
  | host pa => exact load_store_away s core n v rfl
  | dev pa pte =>
    obtain ⟨in_line, low, current⟩ := device pa pte rfl
    cases park : s.d.parks.get none (lineOf pa) with
    | some p => exact load_store_parked s core n v pte park
    | none => exact load_store_unparked s core n v pte park (by omega) current

end Sys2Proof.Machine
end

section
/-! SUPPORT AND PROOF. The memory system's events and the contexts (O51): what an acknowledgement completes, what a change of translations keeps in
the caches and sends home, and that each event is enabled under its premises. -/

namespace Sys2Proof.Machine

/-! ### An acknowledgement (R274) -/

section
variable (x : Wave) (o : OutW)

/-- A write that is acknowledged leaves the count; tokens and pending registers stay until an operation retires. -/
theorem ackWrite_counts :
    (x.ackWrite o).outw = x.outw.filter (fun p => p.seq ≠ o.seq) ∧ (x.ackWrite o).toks = x.toks ∧ (x.ackWrite o).pend = x.pend := by
  have rest : x.outw.filter (·.seq != o.seq) = x.outw.filter (fun p => p.seq ≠ o.seq) :=
    List.filter_congr fun p _ => by rw [bne, decide_not, beq_eq_decide]
  rw [← rest]
  unfold Wave.ackWrite
  dsimp only
  split
  · exact ⟨rfl, rfl, rfl⟩
  · split <;> exact ⟨rfl, rfl, rfl⟩

/-- With the last of its writes an operation is done. -/
theorem ackWrite_completes {p : Op} (posted : p ∈ x.ops) (of_op : o.op = some p.id) (last : ∀ q ∈ x.outw, q.seq ≠ o.seq → q.op ≠ o.op) :
    { p with done := true } ∈ (x.ackWrite o).ops := by
  have none_left : (x.outw.filter (·.seq != o.seq)).any (·.op == some p.id) = false := by
    rw [List.any_eq_false]
    intro q hq
    obtain ⟨out, other⟩ := List.mem_filter.mp hq
    simpa [of_op] using last q out (by simpa using other)
  simp only [Wave.ackWrite, of_op, none_left]
  exact List.mem_map.mpr ⟨p, posted, by simp⟩

end

/-- A live wave's oldest performed write is the one acknowledged (log 18). -/
theorem ackOldest_live {d : Device} {w : Nat} {host : Bool} {o : OutW} (key : w < 2 ^ 20) (live : (d.wave w).live = true)
    (oldest : oldestWrite host (d.wave w).outw = some o) : d.ackOldest w host = some (d.setWave w ((d.wave w).ackWrite o)) := by
  simp only [Device.ackOldest, if_pos key, if_pos live, oldest, Option.map_some]

/-! ### Parks that go home (R307, R311) -/

@[simp] theorem machine_leavePark (d : Device) (ln : Nat) : (d.leavePark ln).machine = d.machine := by
  unfold Device.leavePark
  split
  · exact machine_leaveClk ..
  · rfl

@[simp] theorem machine_goHome (d : Device) (ln : Nat) : (d.goHome ln).machine = d.machine := machine_leavePark d ln

theorem parks_goHome (d : Device) (ln : Nat) : (d.goHome ln).parks = d.parks.put ln none := by
  have left : (d.leavePark ln).parks = d.parks := by
    unfold Device.leavePark
    split
    · next die _ => exact (staysCurrent_leaveClk die d die ln).parks
    · rfl
  exact congrArg (·.put ln none) left

/-- A line that goes home, or was there, is at home after all have gone. -/
theorem atHome_foldl_goHome {lines : List Nat} {d : Device} {ln : Nat} (h : ln ∈ lines ∨ d.parks.get none ln = none) :
    (lines.foldl Device.goHome d).parks.get none ln = none := by
  induction lines generalizing d with
  | nil => exact h.resolve_left List.not_mem_nil
  | cons a r ih =>
    refine ih ?_
    rw [parks_goHome, Tab.get_put]
    by_cases same : a = ln
    · exact .inr (if_pos same)
    · rw [if_neg same]
      exact h.imp_left fun m => (List.mem_cons.mp m).resolve_left (Ne.symm same)

theorem tlb_foldl_goHome (lines : List Nat) (d : Device) : (lines.foldl Device.goHome d).tlb = d.tlb :=
  congrArg (·.tlb) (foldl_machine Device.goHome machine_goHome lines d)

/-- What a table gives at a key, if not its default, stands in it. -/
theorem Tab.mem_of_get {α : Type} {t : Tab α} {dflt v : α} {a : Nat} (h : t.get dflt a = v) (ne : v ≠ dflt) : (a, v) ∈ t := by
  induction t with
  | nil => exact absurd h.symm ne
  | cons e r ih =>
    obtain ⟨k, x⟩ := e
    rw [Tab.get] at h
    split at h
    · next same => rw [same, h]; exact List.mem_cons_self
    · exact List.mem_cons_of_mem _ (ih h)

section
variable (s : St) (asid va size : Nat)

/-- A change of translations keeps in the caches what does not meet its range. -/
theorem tlb_changed : (s.changed asid va size).d.tlb = s.d.tlb.filter (fun t => !t.meets asid va size) :=
  congrArg (·.filter (fun t => !t.meets asid va size)) (tlb_foldl_goHome _ s.d)

/-- A line that the context parked through an address of the range, and to which that address leads no longer, goes home. -/
theorem changed_goesHome {ln : Nat} {p : Park} (parked : s.d.parks.get none ln = some p) (own : p.asid = asid) (before : va < 128 * (p.vline + 1))
    (after : 128 * p.vline < va + size) (moved : s.mapsTo asid (128 * p.vline) ln = false) :
    (s.changed asid va size).d.parks.get none ln = none := by
  refine atHome_foldl_goHome (d := s.d) (.inl (List.mem_filterMap.mpr ⟨(ln, some p), Tab.mem_of_get parked (Option.some_ne_none p), if_pos ?_⟩))
  rw [List.any_eq_true]
  exact ⟨128 * p.vline, List.mem_append_left _ (by simp [own, before, after]), by simp [moved]⟩

end

/-- An event that is not enabled changes nothing. -/
theorem becomes_of_disabled {ins : Instr} {s : State} {f : St → Option St} (he : exec ins s = event s f) (disabled : f (St.of s) = none) :
    Becomes ins s s.dev := by
  rw [Becomes, he, event, run, disabled]
  rfl

/-! ### The events -/

/-- Settles O51: under its premises each event is enabled, and what its meaning then comes to is what the statement says; an acknowledgement and a
change of translations are also said field by field. -/
theorem memoryEventsHappen : Obligations.MemoryEventsHappen := by
  unfold Obligations.MemoryEventsHappen
  refine ⟨?acknowledged, ?confirmed, ?linkDown, ackWrite_counts, fun x o p => ackWrite_completes x o, ?received, ?beacon, ?evicted, ?discarded,
    ?changes, ?uncached, ?cached, fun s asid va size ln p => changed_goesHome s asid va size, ?created, ?tornDown, ?collected⟩
  case acknowledged =>
    intro w s o key live oldest
    refine becomes_of_event (exec_writeAcknowledge w s) ?_
    rw [St.of_d, ackOldest_live key live oldest]
    rfl
  case confirmed =>
    intro w s o up key live oldest
    refine becomes_of_event (exec_hostWriteConfirm w s) ?_
    rw [St.of_d, if_neg up, ackOldest_live key live oldest]
    rfl
  case linkDown =>
    intro w s down
    exact becomes_of_disabled (exec_hostWriteConfirm w s) (if_pos down)
  case received =>
    intro n s m ready
    refine becomes_of_event (exec_vectorClockReceive n s) ?_
    rw [St.of_d, ready]
    rfl
  case beacon =>
    intro die s within
    exact becomes_of_event (exec_beacon die s) (if_neg (Nat.not_le.mpr within))
  case evicted =>
    intro cl line s l copy
    refine writes_of_event (exec_scopeLocalCopyEviction cl line s) ?_
    rw [St.of_d, copy]
    rfl
  case discarded =>
    intro cl n s h held
    refine becomes_of_event (exec_faultBufferDiscard cl n s) ?_
    rw [St.of_d, held]
    rfl
  case changes =>
    intro asid va size s live
    exact becomes_of_event (exec_translationChange asid va size s) (if_pos live)
  case uncached =>
    intro s asid va size t cached
    rw [tlb_changed] at cached
    simpa using (List.mem_filter.mp cached).2
  case cached =>
    intro s asid va size t cached apart
    rw [tlb_changed]
    exact List.mem_filter.mpr ⟨cached, by simp [apart]⟩
  case created =>
    intro asid root win q1 q2 q3 s unused aligned below fits1 fits2 fits3
    refine becomes_of_event (exec_contextCreate asid root win q1 q2 q3 s) (if_neg ?_)
    simp only [St.of_d, unused, Bool.or_eq_true, decide_eq_true_eq, Bool.false_eq_true, false_or]
    omega
  case tornDown =>
    intro asid s live no_launch
    have unlaunched : s.dev.launches.any (fun e => e.2.used && e.2.asid == asid.toNat) = false := by simpa using no_launch
    refine writes_of_event (exec_contextTeardown asid s) ?_
    simp only [St.of_d, live, unlaunched]
    rfl
  case collected =>
    intro asid s live
    exact becomes_of_event (exec_contextErrorCollection asid s) (if_pos live)

end Sys2Proof.Machine
end

section
/-! SUPPORT AND PROOF. How blocks come and go (O53): what an OFFER entry binds, which writes of an entry take effect, what an ended launch leaves,
and that each event is enabled under its premises. -/

namespace Sys2Proof.Machine

/-! ### A binding that can be made (R334, R372, R430) -/

section
variable {s : State} {core entry : Nat} {r : BindRec} {l : Launch} (holds : s.dev.bind core entry = r) (serves : s.dev.launch r.slot = l)
  (offered : r.state = 1) (is_open : l.open = true) (runs : s.dev.stopped = false) (full : s.dev.power = 0) (on_core : core < 288)
  (in_table : entry < 64) (first : s.dev.boundNow core = false)
include holds serves offered is_open runs full on_core in_table first

/-- A formed wave that the entry can take goes first. -/
theorem bindEntry_form {k : Nat} {f : Form} (formed : (s.dev.takeClk (dieOf core) l.vc).formFor core entry = some (k, f)) :
    (St.of s).bindEntry core entry = some ((St.of s).withD fun d => (d.takeClk (dieOf core) l.vc).bindForm core entry k f) := by
  have within : ¬ Config.cores ≤ core ∧ ¬ 64 ≤ entry := ⟨Nat.not_le.mpr on_core, Nat.not_le.mpr in_table⟩
  simp only [St.bindEntry, St.of_d, holds, serves, offered, is_open, runs, full, first, within, formed, St.withD]
  rfl

/-- With no formed wave to take, the entry takes the block handed to it, once its INQ data has come, when it fits. -/
theorem bindEntry_block {b : Nat} (none_formed : (s.dev.takeClk (dieOf core) l.vc).formFor core entry = none)
    (handed : l.handed.get none (64 * core + entry) = some b) (has_data : l.inqA = 0 ∨ (l.inq.get none (64 * core + entry)).isSome = true)
    (fits : (s.dev.takeClk (dieOf core) l.vc).fits core r l (l.demand b) = true) :
    (St.of s).bindEntry core entry = some (((St.of s).withD (·.takeClk (dieOf core) l.vc)).bindLaunch core entry b) := by
  have within : ¬ Config.cores ≤ core ∧ ¬ 64 ≤ entry := ⟨Nat.not_le.mpr on_core, Nat.not_le.mpr in_table⟩
  have none_missing : (decide (l.inqA ≠ 0) && (l.inq.get none (64 * core + entry)).isNone) = false := by
    rcases has_data with unnamed | come
    · simp [unnamed]
    · rw [Option.isNone_eq_false_iff.mpr come, Bool.and_false]
  simp only [St.bindEntry, St.of_d, holds, serves, offered, is_open, runs, full, first, within, none_formed, handed, fits, St.withD, none_missing]
  rfl

end

/-- A binding that is made, with no write of the entry due after it (R344), is all that `BLOCK_BIND` comes to. -/
theorem blockBind_bound {s : State} {core entry : Nat} {t : St} (none_due : ∀ e ∈ s.dev.bindDue, ¬ (e.1 = core ∧ e.2.1 = entry))
    (bound : (St.of s).bindEntry core entry = some t) : Writes (.blockBind core entry) s t := by
  have no_write : s.dev.bindDue.any (fun e => e.1 == core && e.2.1 == entry) = false := by simpa using none_due
  refine writes_of_event (exec_blockBind core entry s) ?_
  simp only [St.of_d, bound, no_write, Bool.false_eq_true, if_false]

/-! ### Foxglove's write of an entry (R333) -/

section
variable (d : Device) (core entry : Nat) (expect : BitVec 2) (rec : BitVec 128)

/-- A record takes effect in an entry of the core that holds the expected STATE and is not BOUND, when its ranges lie within the core and meet
those of no other entry in use. -/
theorem bindWritable_iff : d.bindWritable core entry expect rec = true ↔
    core < 288 ∧ entry < 64 ∧ (d.bind core entry).state = expect.toNat ∧ (d.bind core entry).state ≠ 3 ∧ BindRec.state rec ≠ 3 ∧
      BindRec.within rec = true ∧
      ∀ e ∈ d.binds, e.1 / 64 = core → e.1 ≠ 64 * core + entry → BindRec.state e.2 ≠ 0 →
        ((BindRec.ranges e.2).zip (BindRec.ranges rec)).any (fun p => rangesMeet p.1 p.2) = false := by
  simp only [Device.bindWritable, Bool.and_eq_true, decide_eq_true_eq, beq_iff_eq, bne_iff_ne, Bool.not_eq_true', List.any_eq_false,
    List.mem_filter, and_imp, Bool.not_eq_true, and_assoc]
  tauto

variable {d core entry expect rec}

/-- A record that takes effect stands in the entry, reserved bits cleared, and the outcome says so. -/
theorem writeBind_unoffered (writable : d.bindWritable core entry expect rec = true) (unoffered : (d.bind core entry).state ≠ 1) :
    d.writeBind core entry expect rec = { d.setBind core entry (BindRec.clean rec) with bindOut := some true } := by
  rw [Device.writeBind, if_pos writable, if_neg unoffered]

/-- One that replaces an OFFER first gives back what was handed to the entry. -/
theorem writeBind_offered (writable : d.bindWritable core entry expect rec = true) (offered : (d.bind core entry).state = 1) :
    d.writeBind core entry expect rec = { (d.handBack core entry).setBind core entry (BindRec.clean rec) with bindOut := some true } := by
  rw [Device.writeBind, if_pos writable, if_pos offered]

/-- One that does not take effect leaves only the outcome. -/
theorem writeBind_refused (unwritable : d.bindWritable core entry expect rec = false) :
    d.writeBind core entry expect rec = { d with bindOut := some false } := by
  rw [Device.writeBind, if_neg (Bool.eq_false_iff.mp unwritable)]

end

/-- Foxglove's write of an entry that this cycle does not still bind is made at once (R344). -/
theorem bindRecordWrite_now {s : State} {core entry : Nat} {expect : BitVec 2} {rec : BitVec 128} (allowed : s.dev.offerOk core rec = true)
    (not_awaited : s.dev.agenda.contains (.blockBind core entry) = false) :
    Becomes (.bindRecordWrite core entry expect rec) s (s.dev.writeBind core entry expect rec) := by
  refine becomes_of_event (exec_bindRecordWrite core entry expect rec s) ?_
  simp only [St.of_d, allowed, not_awaited]
  rfl

/-! ### The end of a launch (R327, R333) -/

/-- What a map that keeps the keys does to every value, and to the default, it does to what is read. -/
theorem Tab.get_map_of_keys {α : Type} {g : Nat × α → Nat × α} {R : α → α → Prop} {dflt : α} (keys : ∀ e, (g e).1 = e.1)
    (values : ∀ e, R e.2 (g e).2) (unset : R dflt dflt) (t : Tab α) (a : Nat) : R (t.get dflt a) (Tab.get dflt (t.map g) a) := by
  induction t with
  | nil => exact unset
  | cons e r ih =>
    have value := values e
    obtain ⟨k, v⟩ := e
    have image : g (k, v) = (k, (g (k, v)).2) := Prod.ext (keys (k, v)) rfl
    rw [List.map_cons, image, Tab.get, Tab.get]
    by_cases here : k = a
    · rw [if_pos here, if_pos here]; exact value
    · rw [if_neg here, if_neg here]; exact ih

/-- A launch that is over frees its slot and tells the host; entries keep what they hold or go idle, and no partition is registered for it. -/
theorem launchEnd_over {slot : Nat} {s : State} (ended : (St.of s).launchOver slot = true) :
    ∃ d, Becomes (.launchEnd slot) s d ∧ d.launch slot = Launch.free ∧ (d.hreg.get 0 0x38).getLsbD 0 = true ∧
      (∀ k e, d.bind k e = s.dev.bind k e ∨ d.bind k e = BindRec.idle (s.dev.bind k e)) ∧ ∀ p ∈ d.partitions, p.2.am ≠ some slot := by
  refine ⟨_, becomes_of_event (exec_launchEnd slot s) (if_neg (by simp [ended])), ?slot, ?host, ?entries, ?partitions⟩
  case slot => exact Tab.get_put_self ..
  case host => simp
  case entries =>
    intro k e
    refine Tab.get_map_of_keys (R := fun v w => w = v ∨ w = BindRec.idle v) ?_ ?_ (.inl rfl) s.dev.binds (64 * k + e)
    · intro e; split <;> rfl
    · intro e; split
      · exact .inr rfl
      · exact .inl rfl
  case partitions =>
    intro p hp
    obtain ⟨e, -, rfl⟩ := List.mem_map.mp hp
    dsimp only
    split
    · simp
    · next other => simpa using other

/-! ### The events -/

/-- Settles O53: under its premises each event is enabled, and what its meaning then comes to is what the statement says. -/
theorem blocksComeAndGo : Obligations.BlocksComeAndGo := by
  unfold Obligations.BlocksComeAndGo
  refine ⟨?handsOut, ?steals, ?asksInq, ?takesSpare, ?bindsForm, ?bindsBlock, ?written, ?rewritten, ?writtenLater, ?refused, bindWritable_iff,
    ?revoked, ?contributes, ?awaitsPush, ?entersOutq, ?freed, ?awaitsRelease, fun slot s => launchEnd_over, ?admitted, ?travels⟩
  case handsOut =>
    intro core entry s b offered is_open unhanded may_serve runs next foremost
    refine becomes_of_event (exec_blockHandout core entry s) ?_
    simp only [St.of_d, offered, is_open, unhanded, may_serve, runs, next, foremost]
    rfl
  case steals =>
    intro core entry s v b offered is_open unhanded may_serve runs exhausted victim
    refine becomes_of_event (exec_steal core entry s) ?_
    simp only [St.of_d, offered, is_open, unhanded, may_serve, runs, exhausted, victim]
    rfl
  case asksInq =>
    intro core entry s hp offered is_open named handed no_data unasked no_spare placed
    have handed' := Option.isNone_eq_false_iff.mpr handed
    refine writes_of_event (exec_inqDequeue core entry s) ?_
    simp only [St.of_d, offered, is_open, named, handed', no_data, unasked, no_spare, placed]
    rfl
  case takesSpare =>
    intro core entry s e offered is_open named handed no_data unasked spare
    have handed' := Option.isNone_eq_false_iff.mpr handed
    refine becomes_of_event (exec_inqDequeue core entry s) ?_
    simp only [St.of_d, offered, is_open, named, handed', no_data, unasked, spare]
    rfl
  case bindsForm =>
    intro core entry s k f offered is_open runs full none_due on_core in_table first formed
    exact blockBind_bound none_due (bindEntry_form rfl rfl offered is_open runs full on_core in_table first formed)
  case bindsBlock =>
    intro core entry s d b offered is_open runs full none_due on_core in_table first clocked none_formed handed has_data fits
    subst clocked
    exact blockBind_bound none_due
      (bindEntry_block rfl rfl offered is_open runs full on_core in_table first none_formed handed has_data fits)
  case written =>
    intro core entry expect rec s allowed not_awaited writable unoffered
    rw [← writeBind_unoffered writable unoffered]
    exact bindRecordWrite_now allowed not_awaited
  case rewritten =>
    intro core entry expect rec s allowed not_awaited writable offered
    rw [← writeBind_offered writable offered]
    exact bindRecordWrite_now allowed not_awaited
  case writtenLater =>
    intro core entry expect rec s allowed awaited
    refine becomes_of_event (exec_bindRecordWrite core entry expect rec s) ?_
    simp only [St.of_d, allowed, awaited]
    rfl
  case refused =>
    intro core entry expect rec s allowed not_awaited unwritable
    rw [← writeBind_refused unwritable]
    exact bindRecordWrite_now allowed not_awaited
  case revoked =>
    intro blk s live leaving idle
    refine becomes_of_event (exec_gleaveTakesEffect blk s) ?_
    simp only [St.of_d, live, leaving, idle]
    rfl
  case contributes =>
    intro blk s k c x u live auto released pushed acked binding normal chunk within
    subst released chunk
    have bound : (((St.of s).releaseOf (blk / 64) (s.dev.block blk).asid 4).withD (·.setBlock blk { s.dev.block blk with auto := false })).d.bidOf
      (s.dev.block blk).slot = some (k, x) := binding
    refine writes_of_event (exec_autoContribution blk s) ?_
    refine (if_neg (by simp [live, auto])).trans ((if_neg (by simp [pushed, acked])).trans ?_)
    simp only [St.of_d, bound, if_neg (Nat.not_le.mpr within), normal]
    rfl
  case awaitsPush =>
    intro blk s b u of_blk live owes no_auto unasked released not_ready
    subst of_blk released
    have waits : (!((St.of s).releaseOf (blk / 64) (s.dev.block blk).asid 4).d.pushed (blk / 64) (s.dev.block blk).asid ||
      !((St.of s).releaseOf (blk / 64) (s.dev.block blk).asid 4).d.blockAcked (s.dev.block blk)) = true := by simpa using not_ready
    refine writes_of_event (exec_outqEnqueue blk s) ?_
    simp only [St.of_d, live, owes, no_auto, unasked, waits]
    rfl
  case entersOutq =>
    intro blk s b u hp of_blk live owes no_auto unasked released pushed acked placed
    subst of_blk released
    refine writes_of_event (exec_outqEnqueue blk s) ?_
    simp only [St.of_d, live, owes, no_auto, unasked, pushed, acked, placed]
    rfl
  case freed =>
    intro blk s b t of_blk live no_wave no_outq no_auto leaves may_free reduced
    subst of_blk leaves
    have out_ready : ((s.dev.block blk).reduces.isEmpty || ((St.of s).leaveFirst blk).d.blockAcked (s.dev.block blk)) = true := by
      simpa using reduced
    refine writes_of_event (exec_blockLeavePush blk s) ?_
    simp only [St.of_d, live, no_wave, no_outq, no_auto, may_free, out_ready]
    rfl
  case awaitsRelease =>
    intro blk s b t of_blk live no_wave no_outq no_auto leaves not_yet
    subst of_blk leaves
    refine writes_of_event (exec_blockLeavePush blk s) ?_
    simp only [St.of_d, live, no_wave, no_outq, no_auto, not_yet]
    rfl
  case admitted =>
    intro q ovb pins s e rest l head of_slot after_ok named aligned pins_ok full runs stays
    subst of_slot
    refine writes_of_event (exec_launchAdmit q ovb pins s) ?_
    simp only [St.of_d, head, after_ok, named, aligned, pins_ok, full, runs, stays]
    rfl
  case travels =>
    intro q ovb pins s e rest l u head of_slot after_ok named aligned pins_ok full runs travels announced
    subst of_slot
    rw [announced]
    refine writes_of_event (exec_launchAdmit q ovb pins s) ?_
    simp only [St.of_d, head, after_ok, named, aligned, pins_ok, full, runs, travels]
    rfl

end Sys2Proof.Machine
end

section
/-! SUPPORT AND PROOF. Parked waves and the debugger (O50): what Foxglove, the host runtime and the debugger do to a wave that is parked. -/

namespace Sys2Proof.Machine

/-- An event that changes the device and writes no memory leaves the changed device. -/
theorem becomes_of_change {ins : Instr} {s : State} {f : St → Option St} (he : exec ins s = event s f) (g : Device → Device)
    (enabled : f (St.of s) = some ((St.of s).withD g)) : Becomes ins s (g s.dev) :=
  writes_of_event he enabled

/-! ### Foxglove at a parked wave (R351) -/

section
variable {w : Nat} {s : State} (live : (s.dev.wave w).live = true) (parked : (s.dev.wave w).parked = true)
include live parked

/-- Foxglove may resume a wave that has called no service; a system call's lanes are first told that there is none (R426). -/
theorem parkedWaveResume_becomes {cause code : Nat} (latched : (s.dev.wave w).latched = (cause, code))
    (no_service : ¬ (cause = 34 ∧ 1 ≤ code ∧ code ≤ 4)) :
    Becomes (.parkedWaveResume w) s (s.dev.setWave w (if cause = 34 then
      (lanesOf (((s.dev.wave w).latch.map (·.active)).getD 0)).foldl (fun x l => x.setReg l 0 0x80000001) (s.dev.wave w)
      else s.dev.wave w).resume) := by
  refine becomes_of_event (exec_parkedWaveResume w s) ?_
  simp only [St.of_d, latched, decide_eq_true_eq]
  refine (if_neg (by simpa [live, parked, and_assoc] using no_service)).trans ?_
  cases (s.dev.wave w).latch <;> rfl

/-- A fault is delivered to a handler that has a place for the record and has not been entered (R348). -/
theorem deliverParked_some {r : Record} (latched : (s.dev.wave w).latch = some r) (handler : (s.dev.wave w).handler ≠ 0)
    (place : (s.dev.wave w).fault ≠ 0) (outside : (s.dev.wave w).frame = none) :
    (St.of s).deliverParked w = some ((St.of s).deliver w { r with failed := false }
      (maskLanes (fun l => ((s.dev.wave w).thread l).st == .run && ((s.dev.wave w).thread l).pc == r.pc))) := by
  have enabled : ¬ ((!(s.dev.wave w).live || !(s.dev.wave w).parked || decide ((s.dev.wave w).handler = 0) || decide ((s.dev.wave w).fault = 0) ||
      (s.dev.wave w).frame.isSome) = true) := by
    simp only [live, parked, handler, place, outside]
    decide
  simp only [St.deliverParked, St.of_d, latched]
  exact if_neg enabled

end

/-! ### The debugger's operations (R362) -/

section
variable {ins : Instr} {w : Nat} {s : State} {f : St → St} (op : exec ins s = debugOp w f s)
include op

/-- An operation on a parked wave does what it is for. -/
theorem writes_of_debugOp (live : (s.dev.wave w).live = true) (parked : (s.dev.wave w).parked = true) : Writes ins s (f (St.of s)) :=
  writes_of_event op (by simp [live, parked])

/-- One that writes no memory leaves the device that it makes. -/
theorem becomes_of_debugOp (live : (s.dev.wave w).live = true) (parked : (s.dev.wave w).parked = true) {g : Device → Device}
    (device : f (St.of s) = (St.of s).withD g) : Becomes ins s (g s.dev) :=
  becomes_of_change op g ((if_pos (by simp [live, parked])).trans (congrArg some device))

/-- On a wave that is not parked it answers NOTSTOPPED. -/
theorem notStopped_of_debugOp (running : (s.dev.wave w).live = false ∨ (s.dev.wave w).parked = false) : Becomes ins s (s.dev.dbgSay 0 2) :=
  becomes_of_change op (·.dbgSay 0 2) (if_neg (by simpa [imp_iff_not_or] using running))

end

/-! ### The events -/

/-- Settles O50: under its premises each event is enabled, and what its meaning then comes to is what the statement says. -/
theorem parkedAndDebugged : Obligations.ParkedAndDebugged := by
  unfold Obligations.ParkedAndDebugged
  refine ⟨?resolved, ?resumed, ?refused, ?delivered, ?killed, ?aborted, ?read, ?written, ?forced, ?stepped, ?debugResumed, ?debugKilled,
    fun w item s => notStopped_of_debugOp (exec_debugRead w item s)⟩
  case resolved =>
    intro w ok s live parked route resolved
    refine becomes_of_event (exec_faultResolve w ok s) ((if_neg ?_).trans (if_pos resolved))
    simp [live, parked, route]
  case resumed =>
    intro w s live parked other
    have resumes := parkedWaveResume_becomes live parked (Prod.mk.eta (p := (s.dev.wave w).latched)).symm (fun service => other service.1)
    rwa [if_neg other] at resumes
  case refused =>
    intro w s r live parked latched sysc no_service
    have call : (s.dev.wave w).latched = (34, r.v0.toNat % 65536) := by simp [Wave.latched, latched, sysc]
    have resumes := parkedWaveResume_becomes live parked call (by omega)
    rwa [if_pos rfl, latched] at resumes
  case delivered =>
    intro w s r live parked latched handler place outside
    exact writes_of_event (exec_parkedWaveDeliver w s) (deliverParked_some live parked latched handler place outside)
  case killed =>
    intro w s live parked
    exact becomes_of_change (exec_parkedWaveKill w s) (·.killWave w) (if_pos (by simp [live, parked]))
  case aborted =>
    intro slot s used running
    exact writes_of_event (exec_launchAbort slot s) (if_pos (by simp [used, running]))
  case read =>
    intro w item s live parked exists_item
    exact becomes_of_debugOp (exec_debugRead w item s) live parked (if_pos exists_item)
  case written =>
    intro w item v s live parked exists_item free
    have writes := writes_of_debugOp (exec_debugWrite w item v s) live parked
    rwa [if_neg (by simp [exists_item]), if_neg (by simp [free])] at writes
  case forced =>
    intro w item v s live parked exists_item
    have writes := writes_of_debugOp (exec_debugWriteForce w item v s) live parked
    rwa [if_neg (by simp [exists_item])] at writes
  case stepped => exact fun w s live parked => becomes_of_debugOp (exec_debugStep w s) live parked rfl
  case debugResumed => exact fun w s live parked => becomes_of_debugOp (exec_debugResume w s) live parked rfl
  case debugKilled => exact fun w s live parked => becomes_of_debugOp (exec_debugKill w s) live parked rfl

end Sys2Proof.Machine
end

section
/-! SUPPORT AND PROOF. Taking an exception (O8): how a record is delivered or parked, what a handler begins with, and where the record's fields lie. -/

namespace Sys2Proof.Machine

/-! ### Entering a handler (R348) -/

/-- A change of threads leaves the rest of the wave. -/
theorem Wave.updLanes_eq (x : Wave) (m : Lanes) (f : Thread → Thread) : x.updLanes m f = { x with thr := (x.updLanes m f).thr } :=
  congrArg (fun y : Wave => { y with thr := (x.updLanes m f).thr })
    (Wave.foldl_keeps (fun y : Wave => { y with thr := [] }) (fun y l => y.updThread l f) (fun _ _ => rfl) (lanesOf m) x)

section
variable (x : Wave) (active grp : Lanes)

/-- The handler lanes: the active lanes of the stop instruction, or its whole path group when none is active. -/
def handlerLanes : Lanes := if active = 0 then grp else active

/-- The wave at the handler's first position, its threads as they stood. -/
def Wave.putAside : Wave :=
  { x with
    frame := some ⟨x.pos, x.rc, x.fav, (List.range 32).map (fun l => (l, (x.thread l).age)), x.pipe, handlerLanes active grp⟩
    pos := 0, rc := 0, fav := 0, pipe := [], wait := x.wait.kept, spill := none, parked := false, latch := none }

/-- The same with every thread but the handler lanes' frozen. -/
def Wave.frozenAside : Wave := (x.putAside active grp).updLanes (~~~handlerLanes active grp) (fun t => { t with frozen := true, age := 0 })

/-- Then the handler lanes go to the handler's address. -/
theorem enterHandler_steps : x.enterHandler active grp = (x.frozenAside active grp).updLanes (handlerLanes active grp)
    (fun t => { t with pc := (x.frozenAside active grp).handler.setWidth 57, age := 0, seq := false }) := rfl

/-- A handler begins with the counter, the pipe and the rotation state put aside; then only threads change. -/
theorem enterHandler_eq : x.enterHandler active grp = { x.putAside active grp with thr := (x.enterHandler active grp).thr } :=
  (Wave.updLanes_eq (x.frozenAside active grp) (handlerLanes active grp) _).trans
    (congrArg (fun y : Wave => { y with thr := (x.enterHandler active grp).thr }) (Wave.updLanes_eq (x.putAside active grp) (~~~handlerLanes active grp) _))

/-- A handler lane goes to the handler's address, every other thread is frozen where it stands. -/
theorem thread_enterHandler {l : Nat} (lane : l < 32) : (x.enterHandler active grp).thread l =
    if (handlerLanes active grp).getLsbD l then { x.thread l with pc := x.handler.setWidth 57, age := 0, seq := false }
    else { x.thread l with frozen := true, age := 0 } := by
  have address : (x.frozenAside active grp).handler = x.handler := congrArg (·.handler) (Wave.updLanes_eq ..)
  have stood : (x.putAside active grp).thread l = x.thread l := rfl
  have others : (~~~handlerLanes active grp).getLsbD l = !(handlerLanes active grp).getLsbD l := by simp [lane]
  rw [enterHandler_steps, address, Wave.thread_updLanes, Wave.frozenAside, Wave.thread_updLanes, stood, others]
  cases (handlerLanes active grp).getLsbD l <;> rfl

end

/-! ### Delivery and parking (R346, R348, R351) -/

section
variable {u : St} {w : Nat}

/-- With a handler, and a place that takes the record, the record is stored there and the handler begins. -/
theorem deliver_stored {r : Record} {grp : Lanes} {p q : Place} (handler : (u.d.wave w).handler ≠ 0) (place : (u.d.wave w).fault ≠ 0)
    (outside : (u.d.wave w).frame = none) (located : u.locate (u.d.wave w).blk (u.d.wave w).fault .write = .ok p)
    (at_tile : u.tileCheck p = .ok q) (written : u.writeErr q = none) :
    u.deliver w r grp = ((u.store (w / 64) q 64 r.nat).countWrites w [((u.d.wave w).fault.toNat, q)]).withD
      (fun d => d.setWave w ((d.wave w).enterHandler r.active grp).settle) := by
  simp only [St.deliver, handler, place, outside, located, at_tile, written]
  rfl

/-- A place that cannot be reached parks the wave, and the record says so. -/
theorem deliver_failed {r : Record} {grp : Lanes} {e : MErr} (handler : (u.d.wave w).handler ≠ 0) (place : (u.d.wave w).fault ≠ 0)
    (outside : (u.d.wave w).frame = none) (failed : u.locate (u.d.wave w).blk (u.d.wave w).fault .write = .error e) :
    u.deliver w r grp = u.park w { r with failed := true } := by
  simp only [St.deliver, handler, place, outside, failed]
  rfl

/-- Without a handler or a place, or in handler mode, the wave parks. -/
theorem deliver_parks {r : Record} {grp : Lanes} (none_ready : (u.d.wave w).handler = 0 ∨ (u.d.wave w).fault = 0 ∨ (u.d.wave w).frame ≠ none) :
    u.deliver w r grp = u.park w r :=
  if_pos (by simpa [or_assoc, Option.isSome_iff_ne_none] using none_ready)

/-- A parked wave holds the record, and its registers and threads are those it had. -/
theorem wave_park (r : Record) : (u.park w r).d.wave w =
    { u.d.wave w with parked := true, latch := some r, parkAt := u.d.clock, wait := (u.d.wave w).wait.kept, spill := none, stepping := false } := by
  rw [St.park, (St.withD_fields _ _).1, Device.wave_setWave, if_pos rfl]

end

section
variable (u : St) (w : Nat) (t : Trap)

/-- The record of an exception (R350). -/
def St.recordOf : Record := ⟨BitVec.ofNat 7 t.cause, t.resume.setWidth 64, t.pc, t.active, u.d.iword, t.v0, t.v1, t.v2, t.v3, false⟩

/-- The state when an exception has been counted (R342), before it is delivered. -/
def St.trapCounted : St :=
  let v := u.withD fun d => { d with free := d.free + 1 }
  let asid := (u.d.block (u.d.wave w).blk).asid
  if t.cause = 13 then v.withD (·.pmc asid (w / 64) 9 1) else if t.cause = 2 then v.withD (·.pmc asid (w / 64) 14 1) else v

/-- An exception is counted, then delivered by route H and parked by the others (R346). -/
theorem takeTrap_eq : u.takeTrap w t =
    if routeOf t.cause = 0 then (u.trapCounted w t).deliver w (u.recordOf t) t.grp else (u.trapCounted w t).park w (u.recordOf t) := rfl

/-- Counting changes no wave. -/
theorem wave_trapCounted (k : Nat) : (u.trapCounted w t).d.wave k = u.d.wave k := by
  unfold St.trapCounted
  dsimp only
  split
  · rfl
  · split <;> rfl

variable {u w t}

/-- By routes F and F→H, and by route H without a handler, a place or outside handler mode, the wave parks (R346, R348). -/
theorem takeTrap_parks (parks : routeOf t.cause ≠ 0 ∨ (u.d.wave w).handler = 0 ∨ (u.d.wave w).fault = 0 ∨ (u.d.wave w).frame ≠ none) :
    u.takeTrap w t = (u.trapCounted w t).park w (u.recordOf t) := by
  rw [takeTrap_eq]
  split
  · next route =>
    rw [← wave_trapCounted u w t w] at parks
    exact deliver_parks (parks.resolve_left (not_not_intro route))
  · rfl

end

/-! ### The record's fields (R350) -/

/-- Each word of the record stands in its field. -/
theorem field_record (r : Record) :
    field r.nat 0 96 = r.iword.toNat ∧ field r.nat 96 32 = r.active.toNat ∧ field r.nat 128 7 = r.cause.toNat ∧ field r.nat 135 57 = r.pc.toNat ∧
      field r.nat 192 64 = r.resume.toNat ∧ field r.nat 256 64 = r.v0.toNat ∧ field r.nat 320 64 = r.v1.toNat ∧ field r.nat 384 64 = r.v2.toNat ∧
      field r.nat 448 64 = r.v3.toNat := by
  have iword := r.iword.isLt
  have active := r.active.isLt
  have cause := r.cause.isLt
  have pc := r.pc.isLt
  have resume := r.resume.isLt
  have v0 := r.v0.isLt
  have v1 := r.v1.isLt
  have v2 := r.v2.isLt
  have v3 := r.v3.isLt
  unfold field Record.nat
  omega

/-! ### Taking an exception -/

/-- Settles O8: a record that can be stored is, and its handler begins; else the wave parks with it. -/
theorem trapEntry : Obligations.TrapEntry := by
  unfold Obligations.TrapEntry
  refine ⟨?stored, ?failed, ?entered, ?parked, field_record, ?routes⟩
  case stored =>
    intro u w t p q x b v0 v r route handler place outside located at_tile written z
    have same := wave_trapCounted u w t w
    rw [takeTrap_eq, if_pos route]
    have stored := deliver_stored (u := u.trapCounted w t) (w := w) (r := u.recordOf t) (grp := t.grp) (p := p) (q := q)
    rw [same] at stored
    exact stored handler place outside located at_tile written
  case failed => exact fun u w r grp e handler place outside => deliver_failed handler place outside
  case entered =>
    intro x active grp l lane lanes y
    have aside : y = { x.putAside active grp with thr := y.thr } := enterHandler_eq x active grp
    have thread : y.thread l = _ := thread_enterHandler x active grp lane
    rw [thread, aside]
    refine ⟨rfl, rfl, rfl, rfl, rfl, ?_⟩
    have same : handlerLanes active grp = lanes := rfl
    rw [same]
    cases lanes.getLsbD l <;> exact ⟨rfl, rfl, rfl, rfl, rfl, rfl, rfl, rfl, rfl, rfl, rfl, rfl, rfl⟩
  case parked =>
    intro u w t parks y
    have stands : y = _ := (congrArg (fun v : St => v.d.wave w) (takeTrap_parks parks)).trans (wave_park _)
    rw [stands, wave_trapCounted]
    exact ⟨rfl, rfl, rfl, fun _ => rfl⟩
  case routes =>
    intro c
    unfold routeOf
    split <;> simp_all

end Sys2Proof.Machine
end

section
/-! SUPPORT AND PROOF. The host's register window (O58): what an access comes to in each state of the link, and what each register takes. -/

namespace Sys2Proof.Machine

/-! ### An access and the link's state (R421, R423) -/

section
variable {ins : Instr} {s : State} {a : Bool × Nat × W64}

/-- While the link is ACTIVE an access acts; one that only changes the device leaves the changed device. -/
theorem becomes_of_hostAccess (access : exec ins s = hostAccess a s) (up : s.dev.linkUp = true) (g : Device → Device)
    (device : (St.of s).hostDo a = (St.of s).withD g) : Becomes ins s (g s.dev) :=
  becomes_of_change access g ((if_pos up).trans (congrArg some device))

/-- A link that retrains holds the access. -/
theorem held_of_hostAccess (access : exec ins s = hostAccess a s) (retrains : s.dev.link = .retrain) :
    Becomes ins s { s.dev with hostHeld := s.dev.hostHeld ++ [a] } :=
  becomes_of_change access (fun d => { d with hostHeld := d.hostHeld ++ [a] })
    ((if_neg (by simp [Device.linkUp, retrains])).trans (if_pos retrains))

/-- In any other state nothing reaches the device; nor does an access to what is no register. -/
theorem unreached_of_hostAccess (access : exec ins s = hostAccess a s ∨ exec ins s = event s fun _ => none) (down : s.dev.linkUp = false)
    (settled : s.dev.link ≠ .retrain) : Becomes ins s s.dev := by
  rcases access with acts | none_such
  · exact becomes_of_disabled acts ((if_neg (Bool.eq_false_iff.mp down)).trans (if_neg settled))
  · exact becomes_of_disabled none_such rfl

end

/-! ### What a register takes -/

section
variable (u : St) (v : W64)

/-- LQASID of a queue keeps 16 bits (R424). -/
theorem hostDo_lqasid {ofs : Nat} (low : 0x108 ≤ ofs) (high : ofs < 0x200) (place : ofs % 16 = 8) :
    u.hostDo (true, ofs, v) = u.withD (·.setReg ofs (v &&& 0xFFFF)) := by
  unfold St.hostDo
  dsimp only
  rw [if_neg (by decide)]
  split
  iterate 10 · omega
  · rw [if_neg (by simp; omega), if_pos (by simp; omega)]

/-- LQREC of a queue notes the record (R424). -/
theorem hostDo_lqrec {q : Nat} (queue : q < 16) : u.hostDo (true, 0x100 + 16 * q, v) = u.withD (·.lqrec q v) := by
  unfold St.hostDo
  dsimp only
  rw [if_neg (by decide)]
  split
  iterate 10 · omega
  · rw [if_pos (by simp; omega), Nat.add_sub_cancel_left, Nat.mul_div_cancel_left q (by decide)]

/-- A descriptor with a reserved bit is faulty, and no torus stands (R422). -/
theorem platd_reserved (reserved : field (u.rdN (hostAddr v) 64) 64 448 ≠ 0) :
    u.platd v = u.withD (fun d => { d.setReg 0x10 v with fabricUp := false, torus := [], coords := [], linkFerr := true }) := by
  simp [St.platd, reserved]

/-- PLATD stands in its register, no fabric link is up, and no wave changes. -/
theorem platd_fields : (u.platd v).d.fabricUp = false ∧ (u.platd v).d.hreg.get 0 0x10 = v ∧ (u.platd v).d.waves = u.d.waves := by
  unfold St.platd
  dsimp only [St.withD]
  split <;> exact ⟨rfl, Tab.get_put_self .., rfl⟩

end

section
variable {d : Device} {v : W64}

/-- A partition that has no entry is given to the context, with no registration (R418). -/
theorem partset_new (partition : field v.toNat 16 12 ≠ 0) (valid : v.getLsbD 63 = true) (free : d.partitions.lookup (field v.toNat 16 12) = none) :
    d.partset v = { d with partitions := d.partitions.put (field v.toNat 16 12) ⟨true, v.toNat % 65536, none⟩ } := by
  simp only [Device.partset, valid, partition, free]
  rfl

/-- A slot that holds no launch is refused, and bit 63 reads back clear (R418). -/
theorem amreg_unused (valid : v.getLsbD 63 = true) (unused : (d.launch (field v.toNat 16 12)).used = false) :
    d.amreg v = d.setReg 0x48 (v &&& ~~~(1#64 <<< 63)) := by
  simp only [Device.amreg, valid, unused]
  rfl

/-- An admitted launch of the context is registered for the context's partitions (R418). -/
theorem amreg_registers (valid : v.getLsbD 63 = true) (used : (d.launch (field v.toNat 16 12)).used = true)
    (admitted : (d.launch (field v.toNat 16 12)).admitted = true) (running : (d.launch (field v.toNat 16 12)).aborted = false)
    (own : (d.launch (field v.toNat 16 12)).asid = v.toNat % 65536) (member : (d.partOf (v.toNat % 65536)).isSome = true) :
    d.amreg v = ({ d with partitions := d.partitions.map (fun e =>
      if e.2.valid && e.2.asid == v.toNat % 65536 then (e.1, { e.2 with am := some (field v.toNat 16 12) }) else e) } : Device).setReg 0x48 v := by
  simp only [Device.amreg, valid, used, admitted, running, own, member, beq_self_eq_true]
  rfl

/-- A write with bit 63 clear ends the registrations (R418). -/
theorem amreg_ends (ends : v.getLsbD 63 = false) :
    d.amreg v = ({ d with partitions := d.partitions.map (fun e =>
      if e.2.valid && e.2.asid == v.toNat % 65536 then (e.1, { e.2 with am := none }) else e) } : Device).setReg 0x48 v := by
  simp only [Device.amreg, ends]
  rfl

end

/-! ### The instructions that are accesses -/

section
variable {v : W64} {s : State}

theorem exec_partsetAssign_valid (valid : v.getLsbD 63 = true) : exec (.partsetAssign v) s = hostAccess (true, 0x40, v) s :=
  (exec_partsetAssign v s).trans (if_pos valid)

theorem exec_partsetRemove_invalid (invalid : v.getLsbD 63 = false) : exec (.partsetRemove v) s = hostAccess (true, 0x40, v) s :=
  (exec_partsetRemove v s).trans (if_neg (Bool.eq_false_iff.mp invalid))

theorem exec_lqrec_queue {q : Nat} (queue : q < 16) : exec (.lqrec q v) s = hostAccess (true, 0x100 + 16 * q, v) s :=
  (exec_lqrec q v s).trans (if_pos queue)

theorem exec_registerWrite_plain {ofs : Nat} (plain : ofs = 0x28 ∨ ofs = 0x30 ∨ ofs = 0x50 ∨ (0x108 ≤ ofs ∧ ofs < 0x200 ∧ ofs % 16 = 8)) :
    exec (.registerWrite ofs v) s = hostAccess (true, ofs, v) s :=
  (exec_registerWrite ofs v s).trans (if_pos (by simpa [or_assoc, and_assoc] using plain))

end

/-! ### The registers -/

/-- Settles O58: an access acts, is held or is lost as the link stands, and a register takes what it is written. -/
theorem hostRegisters : Obligations.HostRegisters := by
  unfold Obligations.HostRegisters
  refine ⟨?platd, ?ltol, ?evt, ?assigned, ?removed, ?refused, ?registered, ?ended, ?ntfbase, ?ntflog, ?ntfhead, ?lqrec, ?dump, ?narrow, ?down,
    ?retrains⟩
  case platd =>
    intro v s up
    obtain ⟨no_fabric, stands, waves⟩ := platd_fields (St.of s) v
    refine ⟨((St.of s).platd v).d, becomes_of_hostAccess (exec_platd v s) up (fun _ => ((St.of s).platd v).d) rfl, no_fabric, stands, waves, ?_⟩
    intro reserved
    rw [platd_reserved _ _ reserved]
    exact ⟨rfl, rfl⟩
  case ltol => exact fun v s up => becomes_of_hostAccess (exec_ltol v s) up (·.setReg 0x18 v) rfl
  case evt => exact fun s up => becomes_of_hostAccess (exec_evt s) up (·.setReg 0x38 0) rfl
  case assigned =>
    intro v s up partition valid free
    rw [← partset_new partition valid free]
    exact becomes_of_hostAccess (exec_partsetAssign_valid valid) up (·.partset v) rfl
  case removed =>
    intro v s up invalid
    have removes : s.dev.partset v = { s.dev with partitions := s.dev.partitions.filter (fun e => e.1 != field v.toNat 16 12 || e.2.asid != v.toNat % 65536) } :=
      if_pos (by rw [invalid]; rfl)
    rw [← removes]
    exact becomes_of_hostAccess (exec_partsetRemove_invalid invalid) up (·.partset v) rfl
  case refused =>
    intro v s up valid unused
    rw [← amreg_unused valid unused]
    exact becomes_of_hostAccess (exec_amreg v s) up (·.amreg v) rfl
  case registered =>
    intro v s l up valid of_slot used admitted running own member
    subst of_slot
    rw [own] at member
    rw [← amreg_registers valid used admitted running own member]
    exact becomes_of_hostAccess (exec_amreg v s) up (·.amreg v) rfl
  case ended =>
    intro v s up ends
    rw [← amreg_ends ends]
    exact becomes_of_hostAccess (exec_amreg v s) up (·.amreg v) rfl
  case ntfbase =>
    exact fun v s up => becomes_of_hostAccess (exec_ntfbase v s) up (·.setRing (fun c => { c with ntfBase := v, ntfHead := 0, ntfTail := 0 })) rfl
  case ntflog =>
    intro v s up fits
    have takes : s.dev.ntflog v = s.dev.setRing (fun c => { c with ntfLog := v.toNat % 32, ntfHead := 0, ntfTail := 0 }) :=
      if_neg (Nat.not_lt.mpr fits)
    rw [← takes]
    exact becomes_of_hostAccess (exec_ntflog v s) up (·.ntflog v) rfl
  case ntfhead => exact fun v s up => becomes_of_hostAccess (exec_ntfhead v s) up (·.ntfhead v) rfl
  case lqrec => exact fun q v s up queue => becomes_of_hostAccess (exec_lqrec_queue queue) up (·.lqrec q v) (hostDo_lqrec _ v queue)
  case dump =>
    intro ofs v s up plain
    rcases plain with rfl | rfl
    · exact becomes_of_hostAccess (exec_registerWrite_plain (by decide)) up (·.setReg 0x28 v) rfl
    · exact becomes_of_hostAccess (exec_registerWrite_plain (by decide)) up (·.setReg 0x30 v) rfl
  case narrow =>
    intro ofs v s up plain
    rcases plain with rfl | ⟨low, high, place⟩
    · exact becomes_of_hostAccess (exec_registerWrite_plain (by decide)) up (·.setReg 0x50 (v &&& 0xFFFF)) rfl
    · have below : ofs < 0x200 := by omega
      exact becomes_of_hostAccess (exec_registerWrite_plain (by omega)) up (·.setReg ofs (v &&& 0xFFFF)) (hostDo_lqasid _ v low below place)
  case down =>
    intro v s down settled q ofs i listed
    have acts {ins : Instr} {a : Bool × Nat × W64} (access : exec ins s = hostAccess a s) : Becomes ins s s.dev :=
      unreached_of_hostAccess (.inl access) down settled
    simp only [List.mem_cons, List.not_mem_nil, or_false] at listed
    rcases listed with rfl | rfl | rfl | rfl | rfl | rfl | rfl | rfl | rfl | rfl | rfl
    · exact acts (exec_ltol v s)
    · exact acts (exec_evt s)
    · exact acts (exec_platd v s)
    · exact unreached_of_hostAccess (ite_eq_or_eq _ _ _) down settled
    · exact unreached_of_hostAccess (ite_eq_or_eq _ _ _).symm down settled
    · exact acts (exec_amreg v s)
    · exact acts (exec_ntfbase v s)
    · exact acts (exec_ntflog v s)
    · exact acts (exec_ntfhead v s)
    · exact unreached_of_hostAccess (ite_eq_or_eq _ _ _) down settled
    · exact unreached_of_hostAccess (ite_eq_or_eq _ _ _) down settled
  case retrains =>
    intro v s q ofs retrains queue plain e listed
    have holds {ins : Instr} {a : Bool × Nat × W64} (access : exec ins s = hostAccess a s) := held_of_hostAccess access retrains
    simp only [List.mem_cons, List.not_mem_nil, or_false] at listed
    rcases listed with rfl | rfl | rfl | rfl | rfl | rfl | rfl | rfl | rfl | rfl
    · exact holds (exec_ltol v s)
    · exact holds (exec_evt s)
    · exact holds (exec_platd v s)
    · exact holds (exec_amreg v s)
    · exact holds (exec_ntfbase v s)
    · exact holds (exec_ntflog v s)
    · exact holds (exec_ntfhead v s)
    · exact holds (exec_lqrec_queue queue)
    · exact holds (exec_registerWrite_plain (by omega))
    · cases bit : v.getLsbD 63
      · exact holds (exec_partsetRemove_invalid bit)
      · exact holds (exec_partsetAssign_valid bit)

end Sys2Proof.Machine
end

section
/-! SUPPORT AND PROOF. System-call services and modules (O59): what a service leaves in the lanes that called, how the wave resumes, and the two
events of a load and of an unload. -/

namespace Sys2Proof.Machine

/-! ### A wave that resumes -/

/-- Holds and releases change threads and masks, and nothing else of the wave. -/
theorem settle_keeps {β : Type} (p : Wave → β) (apart : ∀ x t m, p { x with thr := t, masks := m } = p x) (x : Wave) : p x.settle = p x := by
  have thread : ∀ (y : Wave) l t, p (y.setThread l t) = p y := fun y l t => apart y (y.thr.put l t) y.masks
  have held : ∀ y : Wave, p y.holdAt = p y := fun y =>
    Wave.foldl_keeps p _ (fun z l => by dsimp only; split <;> (try split) <;> simp only [thread]) _ _
  have released : ∀ y : Wave, p y.syncRelease = p y := fun y =>
    Wave.foldl_keeps p _ (fun z l => by split <;> simp only [thread]) _ _
  have all : ∀ n (y : Wave), p (Wave.settleN n y) = p y := by
    intro n
    induction n with
    | zero => exact fun _ => rfl
    | succ n ih =>
      intro y
      simp only [Wave.settleN]
      split
      · rw [held, released, held]
      · rw [ih, Wave.foldl_keeps p (fun (z : Wave) i => z.setMask i ⟨0, 0⟩) (fun z i => apart z z.thr _), held, released, held]
  exact all 13 x

/-- A wave that resumes is not parked, its latch is empty, and its registers are those it had. -/
theorem resume_fields (x : Wave) : x.resume.parked = false ∧ x.resume.latch = none ∧ x.resume.regs = x.regs :=
  ⟨settle_keeps Wave.parked (fun _ _ _ => rfl) _, settle_keeps Wave.latch (fun _ _ _ => rfl) _, settle_keeps Wave.regs (fun _ _ _ => rfl) _⟩

theorem reg_resume (x : Wave) (l r : Nat) : x.resume.reg l r = x.reg l r :=
  congrArg (fun t : Tab W32 => t.get 0 (256 * l + r)) (resume_fields x).2.2

/-! ### Lane by lane -/

/-- What each lane needs stands until its turn and what it gets stands after it, so in the end every lane has it. -/
theorem foldl_lanes {serve : Nat → St → St} {needs gets : Nat → St → Prop} (served : ∀ l u, needs l u → gets l (serve l u))
    (needs_kept : ∀ l k u, k ≠ l → needs k u → needs k (serve l u)) (gets_kept : ∀ l k u, k ≠ l → gets k u → gets k (serve l u))
    {ls : List Nat} (once : ls.Nodup) {u : St} (ready : ∀ l ∈ ls, needs l u) : ∀ l ∈ ls, gets l (ls.foldl (fun u l => serve l u) u) := by
  induction ls generalizing u with
  | nil => exact fun l hl => absurd hl List.not_mem_nil
  | cons a rest ih =>
    obtain ⟨fresh, once⟩ := List.nodup_cons.mp once
    have other {k : Nat} (hk : k ∈ rest) : k ≠ a := fun same => fresh (same ▸ hk)
    intro l hl
    rcases List.mem_cons.mp hl with rfl | later
    · have stays (v : St) (h : gets l v) : gets l (rest.foldl (fun u l => serve l u) v) :=
        List.foldlRecOn rest _ h (fun v hv k hk => gets_kept k l v (other hk).symm hv)
      exact stays _ (served l u (ready l List.mem_cons_self))
    · exact ih once (fun k hk => needs_kept a k u (other hk) (ready k (List.mem_cons_of_mem _ hk))) l later

/-- What every turn keeps stands in the end. -/
theorem foldl_keeps_of_mem {serve : Nat → St → St} {P : St → Prop} {ls : List Nat} (kept : ∀ l ∈ ls, ∀ u, P u → P (serve l u)) {u : St} (start : P u) :
    P (ls.foldl (fun u l => serve l u) u) :=
  List.foldlRecOn ls _ start (fun v hv l hl => kept l hl v hv)

section
variable {w code : Nat} {serve : Nat → St → St} {ins : Instr} {s : State} {x : Wave} {act : Lanes}

/-- The wave that calls is the one that is parked. -/
theorem caller_wave (called : s.dev.caller w code = some (x, act)) : s.dev.wave w = x := by
  unfold Device.caller at called
  dsimp only at called
  split at called
  · split at called
    · exact congrArg Prod.fst (Option.some.inj called)
    · cases called
  · cases called

/-- A service serves the lanes that called, in ascending order, and the wave resumes (R425). -/
theorem writes_of_service (he : exec ins s = service w code serve s) (called : s.dev.caller w code = some (x, act)) :
    Writes ins s (((lanesOf act).foldl (fun u l => serve l u) (St.of s)).withD fun d => d.setWave w (d.wave w).resume) := by
  refine writes_of_event he ?_
  simp only [St.of_d, called]

/-- What the lanes' turns have come to stands when the wave has resumed. -/
theorem resumed_of_service (he : exec ins s = service w code serve s) (called : s.dev.caller w code = some (x, act)) :
    ∃ t, exec ins s = .next t ∧ t.mem = s.mem.writeAll ((lanesOf act).foldl (fun u l => serve l u) (St.of s)).log ∧
      (t.dev.wave w).parked = false ∧ (t.dev.wave w).latch = none ∧
      ∀ l r, (t.dev.wave w).reg l r = (((lanesOf act).foldl (fun u l => serve l u) (St.of s)).d.wave w).reg l r := by
  refine ⟨_, writes_of_service he called, rfl, ?_⟩
  simp only [State.after, St.withD, Device.wave_setWave, if_true]
  obtain ⟨running, unlatched, -⟩ := resume_fields (((lanesOf act).foldl (fun u l => serve l u) (St.of s)).d.wave w)
  exact ⟨running, unlatched, reg_resume _⟩

end

/-! ### An answer (R425) -/

section
variable (u : St) (w l : Nat) (w0 : W32) (w1 : Option W32)

/-- An answer leaves the context that the wave runs for. -/
theorem ctx_answer : (u.answer w l w0 w1).d.ctx ((u.answer w l w0 w1).d.block ((u.answer w l w0 w1).d.wave w).blk).asid =
    u.d.ctx (u.d.block (u.d.wave w).blk).asid := by
  have blk : ((u.answer w l w0 w1).d.wave w).blk = (u.d.wave w).blk := by
    simp only [St.answer, St.withD, Device.wave_setWave, if_true]
    cases w1 <;> rfl
  rw [blk]
  rfl

/-- The first result stands in `w0` of the lane. -/
theorem reg_answer : ((u.answer w l w0 w1).d.wave w).reg l 0 = w0 := by
  simp only [St.answer, St.withD, Device.wave_setWave, if_true]
  cases w1 with
  | none => rw [Wave.reg_setReg _ _ _ _ _ _ (by decide) (by decide), if_pos ⟨rfl, rfl⟩]
  | some v =>
    rw [Wave.reg_setReg _ _ _ _ _ _ (by decide) (by decide), if_neg (by simp), Wave.reg_setReg _ _ _ _ _ _ (by decide) (by decide),
      if_pos ⟨rfl, rfl⟩]

/-- An answer to one lane leaves the registers of every other. -/
theorem reg_answer_other {k r : Nat} (other : k ≠ l) (inside : r < 256) :
    ((u.answer w l w0 w1).d.wave w).reg k r = (u.d.wave w).reg k r := by
  have apart (y : Wave) (q : Nat) (v : W32) (hq : q < 256) : (y.setReg l q v).reg k r = y.reg k r := by
    rw [Wave.reg_setReg _ _ _ _ _ _ hq inside, if_neg fun same => other same.1.symm]
  simp only [St.answer, St.withD, Device.wave_setWave, if_true]
  cases w1 with
  | none => exact apart _ 0 w0 (by decide)
  | some v => exact (apart _ 1 v (by decide)).trans (apart _ 0 w0 (by decide))

end

/-- Turns that end in answers write no byte. -/
theorem log_answers {w : Nat} {serve : Nat → St → St} (answers : ∀ l u, ∃ w0 w1, serve l u = u.answer w l w0 w1) (ls : List Nat) (u : St) :
    (ls.foldl (fun u l => serve l u) u).log = u.log :=
  foldl_keeps_of_mem (P := fun v => v.log = u.log) (fun l _ v h => by
    obtain ⟨w0, w1, turn⟩ := answers l v
    rw [turn]
    exact h) rfl

/-! ### The services (R426, R437) -/

section
variable (w l : Nat) (u : St)

/-- A lane's turn in NOTIFY (R437): with no room it is told so, else its entry is written and the host is told. -/
def notifyLane : St :=
  let asid := (u.d.block (u.d.wave w).blk).asid
  let c := u.d.ctx asid
  if c.ntfLog = 0 ∨ 2 ^ c.ntfLog ≤ c.ntfTail - c.ntfHead then u.answer w l 0x80000005 none
  else
    let msg := (u.d.wave w).group l 0 11 + 2 ^ 352 * (u.d.block (u.d.wave w).blk).slot + 2 ^ 368 * l +
      2 ^ 384 * ((u.d.wave w).thread l).workid.toNat + 2 ^ 448 * (u.d.wave w).parkAt.toNat
    ((u.wrN (hostAddr c.ntfBase + 64 * (c.ntfTail % 2 ^ c.ntfLog)) 64 msg).withD fun d =>
      (d.setCtx asid { c with ntfTail := c.ntfTail + 1 }).raise 1).answer w l 0 none

/-- A lane's turn in LOOKUP (R426). -/
def lookupLane : St :=
  match u.nameAt w 256 ((u.d.wave w).pair l 0) with
  | none => u.answer w l 0x80000003 none
  | some none => u.answer w l 0x80000004 none
  | some (some name) => match u.d.moduleGlobal (u.d.block (u.d.wave w).blk).asid name with
    | some a => u.answer w l (a.setWidth 32) (some (BitVec.ofNat 32 (a.toNat / 2 ^ 32)))
    | none => u.answer w l 0x80000002 none

/-- A lane's turn in MODSTAT (R426). -/
def modstatLane : St :=
  if 256 ≤ ((u.d.wave w).reg l 0).toNat then u.answer w l 0x80000004 none
  else
    let m := ((u.d.ctx (u.d.block (u.d.wave w).blk).asid).modules.get Module.free ((u.d.wave w).reg l 0).toNat).word
    u.answer w l (BitVec.ofNat 32 m) (some (BitVec.ofNat 32 (m / 2 ^ 32)))

/-- A ring without room is none at all or a full one (R437). -/
theorem not_ringRoom_iff (d : Device) (asid : Nat) : (!d.ringRoom asid) = true ↔
    (d.ctx asid).ntfLog = 0 ∨ 2 ^ (d.ctx asid).ntfLog ≤ (d.ctx asid).ntfTail - (d.ctx asid).ntfHead := by
  simp [Device.ringRoom]

variable {w} {s : State}

/-- A NOTIFY that writes an entry needs the link; one that writes none does not. -/
theorem exec_notify_service (ready : s.dev.link = .active ∨ s.dev.ringRoom (s.dev.block (s.dev.wave w).blk).asid = false) :
    exec (.notify w) s = service w 1 (notifyLane w) s := by
  refine (exec_notify w s).trans ((if_neg ?_).trans (congrArg (service w 1 · s) (funext fun l => funext fun u => ?_)))
  · simpa [imp_iff_not_or] using ready
  · exact if_congr (not_ringRoom_iff ..) rfl rfl

theorem exec_lookup_service : exec (.lookup w) s = service w 2 (lookupLane w) s := exec_lookup w s

theorem exec_modstat_service : exec (.modstat w) s = service w 4 (modstatLane w) s := exec_modstat w s


/-- A lane that notifies gets 0 or is told that there is no room; the others' registers stay. -/
theorem reg_notifyLane : ((notifyLane w l u).d.wave w).reg l 0 = 0 ∨ ((notifyLane w l u).d.wave w).reg l 0 = 0x80000005 := by
  unfold notifyLane
  dsimp only
  split
  · exact .inr (reg_answer ..)
  · exact .inl (reg_answer ..)

theorem reg_notifyLane_other {k r : Nat} (other : k ≠ l) (inside : r < 256) :
    ((notifyLane w l u).d.wave w).reg k r = (u.d.wave w).reg k r := by
  unfold notifyLane
  dsimp only
  split
  · exact reg_answer_other _ _ _ _ _ other inside
  · rw [reg_answer_other _ _ _ _ _ other inside, St.withD, St.wrN_d]
    rfl

/-- A look-up ends in an answer. -/
theorem lookupLane_eq : ∃ w0 w1, lookupLane w l u = u.answer w l w0 w1 := by
  unfold lookupLane
  split
  · exact ⟨_, _, rfl⟩
  · exact ⟨_, _, rfl⟩
  · split <;> exact ⟨_, _, rfl⟩

/-- What MODSTAT answers to an index in a context. -/
def modstatWord (c : Context) (i : W32) : W32 :=
  if 256 ≤ i.toNat then 0x80000004 else BitVec.ofNat 32 (c.modules.get Module.free i.toNat).word

theorem modstatLane_eq : ∃ w1, modstatLane w l u =
    u.answer w l (modstatWord (u.d.ctx (u.d.block (u.d.wave w).blk).asid) ((u.d.wave w).reg l 0)) w1 := by
  unfold modstatLane modstatWord
  split <;> exact ⟨_, rfl⟩

end

/-! ### Modules (R428, R429) -/

section
variable {asid : BitVec 16} {idx : Nat} {s : State}

/-- With no admitted launch of the context no module is busy. -/
theorem moduleBusy_of_no_launch (m : Module) (none_runs : ∀ e ∈ s.dev.launches, e.2.used = true → e.2.admitted = true → e.2.asid ≠ asid.toNat) :
    s.dev.moduleBusy asid.toNat m = false := by
  simp only [Device.moduleBusy, List.any_eq_false, Bool.and_eq_true, beq_iff_eq]
  exact fun e he h => none_runs e he h.1.1.1 h.1.1.2 h.1.2

end

/-! ### The events -/

/-- Settles O59: a service serves lane by lane, and a load or an unload that is allowed makes its two steps. -/
theorem servicesAndModules : Obligations.ServicesAndModules := by
  unfold Obligations.ServicesAndModules
  refine ⟨?notifies, ?notified, ?looksUp, ?lookedUp, ?aborts, ?modstat, ?loading, ?loaded, ?refused, ?unloading, ?unloaded⟩
  case notifies =>
    intro w s x act ready called
    rw [← caller_wave called] at ready
    exact writes_of_service (exec_notify_service ready) called
  case notified =>
    intro w s x act up called
    obtain ⟨t, runs, -, running, unlatched, regs⟩ := resumed_of_service (exec_notify_service (.inl up)) called
    refine ⟨t, runs, running, unlatched, fun l active => ?_⟩
    rw [regs]
    exact foldl_lanes (needs := fun _ _ => True) (gets := fun l u => (u.d.wave w).reg l 0 = 0 ∨ (u.d.wave w).reg l 0 = 0x80000005)
      (fun l u _ => reg_notifyLane l u) (fun _ _ _ _ h => h)
      (fun l k u other h => by rwa [reg_notifyLane_other l u other (by decide)]) (lanesOf_nodup act) (fun _ _ => trivial) l (mem_of_act active)
  case looksUp => exact fun w s x act called => writes_of_service exec_lookup_service called
  case lookedUp =>
    intro w s x act called
    obtain ⟨t, runs, mem, running, unlatched, regs⟩ := resumed_of_service (exec_lookup_service (w := w) (s := s)) called
    rw [log_answers (lookupLane_eq (w := w))] at mem
    refine ⟨t, runs, mem, running, unlatched, fun l inactive _ r inside => ?_⟩
    rw [regs, ← caller_wave called]
    refine foldl_keeps_of_mem (P := fun u => (u.d.wave w).reg l r = (s.dev.wave w).reg l r) (fun k called u h => ?_) rfl
    obtain ⟨w0, w1, turn⟩ := lookupLane_eq k u (w := w)
    have other : l ≠ k := fun same => by rw [same, act_of_mem called] at inactive; cases inactive
    rw [turn, reg_answer_other _ _ _ _ _ other inside, h]
  case aborts =>
    intro w s x act called
    refine writes_of_event (exec_abort w s) ?_
    simp only [St.of_d, called]
  case modstat =>
    intro w s x act called
    obtain ⟨t, runs, mem, running, unlatched, regs⟩ := resumed_of_service (exec_modstat_service (w := w) (s := s)) called
    rw [log_answers fun l u => ⟨_, modstatLane_eq (w := w) l u⟩] at mem
    refine ⟨t, runs, mem, running, unlatched, fun l active => ?_⟩
    rw [regs, ← caller_wave called]
    let c := s.dev.ctx (s.dev.block (s.dev.wave w).blk).asid
    refine foldl_lanes (needs := fun l u => (u.d.wave w).reg l 0 = (s.dev.wave w).reg l 0 ∧ u.d.ctx (u.d.block (u.d.wave w).blk).asid = c)
      (gets := fun l u => (u.d.wave w).reg l 0 = modstatWord c ((s.dev.wave w).reg l 0)) ?_ ?_ ?_ (lanesOf_nodup act) (fun _ _ => ⟨rfl, rfl⟩) l
      (mem_of_act active)
    · intro l u ⟨named, context⟩
      obtain ⟨w1, turn⟩ := modstatLane_eq l u (w := w)
      rw [turn, reg_answer, named, context]
    · intro l k u other ⟨named, context⟩
      obtain ⟨w1, turn⟩ := modstatLane_eq l u (w := w)
      rw [turn]
      exact ⟨(reg_answer_other _ _ _ _ _ other (by decide)).trans named, (ctx_answer ..).trans context⟩
    · intro l k u other got
      obtain ⟨w1, turn⟩ := modstatLane_eq l u (w := w)
      rw [turn]
      exact (reg_answer_other _ _ _ _ _ other (by decide)).trans got
  case loading =>
    intro asid idx base file len s c r of_asid live within unused loads mapped
    subst of_asid
    refine becomes_of_change (exec_moduleLoad asid idx base file len s) (fun d => d.setCtx asid.toNat { d.ctx asid.toNat with
      modules := (s.dev.ctx asid.toNat).modules.put idx
        ⟨1, ((s.dev.ctx asid.toNat).modules.get Module.free idx).gen + 1, base, r.1.length, r.2, r.1⟩ })
      ((if_neg (by simp [live, within])).trans ((if_neg (by simp [unused])).trans ((if_neg (by simp [unused])).trans ?_)))
    simp only [St.of_d, loads, Option.bind_some, mapped]
    rfl
  case loaded =>
    intro asid idx base file len s m live within of_entry loading same
    subst of_entry
    exact writes_of_event (exec_moduleLoad asid idx base file len s)
      ((if_neg (by simp [live, within])).trans (if_pos (by simp [loading, same])))
  case refused =>
    intro asid idx base file len s unused fails
    refine becomes_of_disabled (exec_moduleLoad asid idx base file len s) ?_
    refine ite_eq_left_iff.mpr fun _ => (if_neg (by simp [unused])).trans ((if_neg (by simp [unused])).trans ?_)
    refine Option.bind_eq_none_iff.mpr fun r loads => if_pos ?_
    rw [St.of_d] at loads
    rw [fails r loads]
    rfl
  case unloading =>
    intro asid idx s c of_asid live ready none_runs
    subst of_asid
    have idle := moduleBusy_of_no_launch ((s.dev.ctx asid.toNat).modules.get Module.free idx) none_runs
    exact becomes_of_change (exec_moduleUnload asid idx s) (fun d => d.setCtx asid.toNat { d.ctx asid.toNat with
      modules := (s.dev.ctx asid.toNat).modules.put idx { (s.dev.ctx asid.toNat).modules.get Module.free idx with state := 3 } })
      ((if_neg (by simp [live, ready, idle])).trans (if_pos ready))
  case unloaded =>
    intro asid idx s c of_asid live leaving
    subst of_asid
    exact writes_of_event (exec_moduleUnload asid idx s) ((if_neg (by simp [live, leaving])).trans (if_neg (by simp [leaving])))

end Sys2Proof.Machine
end

section
/-! SUPPORT AND PROOF. The Dunvia Link, power, the dump, firmware and reset (O57): the states that each event leads to and from, what a link that goes
down completes with an error, what a fatal error leaves, and that power-on leaves no byte written. -/

namespace Sys2Proof.Machine

/-! ### The link's states (R421) -/

section
variable {s : State}

/-- Width and rate are agreed while the link negotiates, or retrains and is not lost; the accesses that it held then act. -/
theorem linkTrain_agrees {width rate : Nat} (agrees : s.dev.link = .negotiate ∨ (s.dev.link = .retrain ∧ s.dev.retrainLost = false))
    (wide : 4 ≤ width) (known : rate ≤ 2) :
    Writes (.linkTrain width rate) s (((St.of s).withD (·.agreeLink width rate)).releaseHeld) := by
  refine writes_of_event (exec_linkTrain width rate s) ((if_neg ?_).trans (if_pos ?_))
  · rcases agrees with negotiates | ⟨retrains, -⟩
    · simp [negotiates]
    · simp [retrains]
  · rcases agrees with negotiates | ⟨retrains, stands⟩
    · simp [negotiates, wide, known]
    · simp [retrains, stands, wide, known]

/-- A write that stays when the link is lost has left the device or goes to its own memory. -/
theorem mem_outw_linkLost (x : Wave) (o : OutW) : o ∈ x.linkLost.outw ↔ o ∈ x.outw ∧ (o.host = false ∨ o.late = true) := by
  simp [Wave.linkLost]

/-- After the third failure within a second the link goes down: registers stay, and of the outstanding writes those that have not gone to the host. -/
theorem linkDown_becomes (retrains : s.dev.link = .retrain) (lost : s.dev.retrainLost = true) :
    ∃ d, Becomes .linkDown s d ∧ d.link = .down ∧ ∀ k, (d.wave k).regs = (s.dev.wave k).regs ∧
      ∀ o, o ∈ (d.wave k).outw ↔ o ∈ (s.dev.wave k).outw ∧ (o.host = false ∨ o.late = true) := by
  refine ⟨_, becomes_of_event (exec_linkDown s) (if_neg (by simp [retrains, lost])), rfl, fun k => ?_⟩
  exact Tab.get_map_of_keys
    (R := fun x y : Wave => y.regs = x.regs ∧ ∀ o, o ∈ y.outw ↔ o ∈ x.outw ∧ (o.host = false ∨ o.late = true))
    (g := fun e => (e.1, e.2.linkLost)) (fun _ => rfl) (fun e => ⟨rfl, mem_outw_linkLost e.2⟩) (dflt := Wave.empty) ⟨rfl, fun o => by simp [Wave.empty]⟩ s.dev.waves k

end

/-! ### Power (R430) -/

/-- A record in a launch queue keeps the device from being idle. -/
theorem not_idle_of_record {s : State} (record : ∃ e ∈ s.dev.lqs, e.2 ≠ []) : (St.of s).idle = false := by
  obtain ⟨e, queue, nonempty⟩ := record
  have waiting : s.dev.lqs.all (fun e => e.2.isEmpty) = false :=
    List.all_eq_false.mpr ⟨e, queue, by simpa using nonempty⟩
  simp [St.idle, Device.idle, waiting]

/-! ### A fatal error (R319, R431, R435) -/

/-- A fatal error of a die's structure stops the device and is counted; with the link up, bytes are written and EVT bit 3 is set. -/
theorem fatalErrorDump_writes {s : State} {struct die : BitVec 8} (runs : s.dev.stopped = false) (of_die : die.toNat ≤ 4) (of_struct : struct.toNat ≤ 8) :
    ∃ (a n v k : Nat), Writes (.fatalErrorDump struct die) s
      (let t := (St.of s).withD fun d => { d.countError (16 * die.toNat + struct.toNat) true with stopped := true, free := k }
      if s.dev.linkUp = true then (t.wrN a n v).withD (·.raise 3) else t) :=
  ⟨_, _, _, _, writes_of_event (exec_fatalErrorDump struct die s) (if_neg (by simp [runs]; omega))⟩

/-! ### Power-on (R435) -/

/-- What every listed byte is cleared to is what an unlisted one reads as. -/
theorem lookup_cleared (m : Memory) (a : Nat) : ((m.map (fun c => (c.1, (0 : Byte)))).lookup a).getD (m.read a) = 0 := by
  induction m with
  | nil => rfl
  | cons e r ih =>
    obtain ⟨k, x⟩ := e
    by_cases here : a = k
    · subst here; simp
    · have apart : (a == k) = false := beq_false_of_ne here
      rw [List.map_cons, List.lookup_cons, apart]
      simpa [Memory.read, Tab.get, Ne.symm here] using ih

/-- A memory in its canonical form that reads as 0 everywhere lists no byte. -/
theorem eq_nil_of_reads_zero {m : Memory} (wf : m.wf = true) (zero : ∀ a, m.read a = 0) : m = [] := by
  cases m with
  | nil => rfl
  | cons e r =>
    obtain ⟨k, x⟩ := e
    simp only [Memory.wf, Memory.wfFrom, Bool.and_eq_true, bne_iff_ne] at wf
    have listed : Memory.read ((k, x) :: r) k = x := by simp [Memory.read, Tab.get]
    exact absurd (listed.symm.trans (zero k)) wf.1.2

/-- Clearing every listed byte leaves none. -/
theorem writeAll_cleared {m : Memory} (wf : m.wf = true) : m.writeAll (m.map (fun c => (c.1, 0))) = [] :=
  eq_nil_of_reads_zero (Memory.wf_writeAll wf _) fun a => by rw [Memory.read_writeAll wf, lookup_cleared]

/-! ### The events -/

/-- Settles O57: each event leads from the states that the rules name to the one that they give. -/
theorem linkPowerAndReset : Obligations.LinkPowerAndReset := by
  unfold Obligations.LinkPowerAndReset
  refine ⟨?detected, ?back, ?trained, ?agreed, ?replayed, ?retrained, ?failed, fun s => linkDown_becomes, ?sleeps, ?sleepsDeep, ?wakes, ?dumped,
    ?checked, ?signed, ?reset, ?poweredOn⟩
  case detected =>
    intro lanes s detects few many
    exact becomes_of_change (exec_linkDetect lanes s) (fun d => { d with link := .train, linkWidth := widthOf lanes })
      ((if_neg (by simp [detects])).trans (if_pos (by simp [detects, few, many])))
  case back =>
    intro lanes s down
    exact becomes_of_change (exec_linkDetect lanes s) (fun d => { d with link := .detect }) (if_pos down)
  case trained =>
    intro width rate s trains
    exact becomes_of_change (exec_linkTrain width rate s) (fun d => { d with link := .negotiate }) (if_pos trains)
  case agreed => exact fun width rate s agrees wide known => linkTrain_agrees agrees wide known
  case replayed =>
    intro s active
    exact becomes_of_change (exec_flitReplay s)
      (fun d => if d.retries = 15 then { d with link := .retrain, retries := 0 } else { d with retries := d.retries + 1 })
      (if_neg (not_not.mpr active))
  case retrained =>
    intro ok s retrains stands succeeds
    exact writes_of_event (exec_linkRetrain ok s) ((if_neg (by simp [retrains, stands])).trans (if_pos succeeds))
  case failed =>
    intro ok s retrains stands fails
    exact becomes_of_change (exec_linkRetrain ok s) (fun d => { d with retrainFails := d.retrainFails ++ [d.clock.toNat] })
      ((if_neg (by simp [retrains, stands])).trans (if_neg (by simp [fails])))
  case sleeps =>
    intro s idle deeper shallow
    have other : s.dev.deepest ≠ 3 := Nat.ne_of_lt shallow
    refine becomes_of_change (exec_powerStateEntry s) (fun d => { d with power := s.dev.deepest })
      ((if_neg (by simp [idle, deeper])).trans ?_)
    simp only [St.of_d, other]
    rfl
  case sleepsDeep =>
    intro s idle deeper deepest
    refine writes_of_event (exec_powerStateEntry s) ((if_neg (by simp [idle, deeper, deepest])).trans ?_)
    simp only [St.of_d, deepest]
    rfl
  case wakes =>
    intro s asleep record
    exact becomes_of_change (exec_powerWake s) (fun d => { d with power := 0 })
      ((if_neg asleep).trans (if_pos (by simp [not_idle_of_record record])))
  case dumped =>
    intro struct die s runs of_die of_struct d
    obtain ⟨a, n, v, k, dumps⟩ := fatalErrorDump_writes runs of_die of_struct
    refine ⟨_, dumps, ?_⟩
    cases up : s.dev.linkUp
    · exact ⟨rfl, rfl, rfl, nofun, fun _ => ⟨rfl, rfl⟩⟩
    · simp only [State.after, if_true, St.withD, St.wrN_d]
      exact ⟨rfl, rfl, rfl, fun _ => rfl, nofun⟩
  case checked =>
    intro hdr payload s
    cases ok : firmwareOk hdr payload
    · exact becomes_of_disabled (exec_firmwareImageCheck hdr payload s) (if_neg (by simp [ok]))
    · exact becomes_of_change (exec_firmwareImageCheck hdr payload s)
        (fun d => { d with fwImages := d.fwImages.put (ofBytes ((hdr.drop 4).take 4)) payload }) (if_pos ok)
  case signed =>
    intro nonce s full
    exact becomes_of_change (exec_attestation nonce s)
      (fun d => { d with report := s.dev.reportBytes nonce ++ deviceSign (sha512 (s.dev.reportBytes nonce)) }) (if_neg (not_not.mpr full))
  case reset =>
    intro s
    exact becomes_of_change (exec_packageReset s) (fun d => { Device.reset with
      serc := d.serc, fwImages := d.fwImages, link := d.link, linkWidth := d.linkWidth, linkRate := d.linkRate, free := d.free }) rfl
  case poweredOn =>
    intro s canonical
    have on : Writes .powerOn s ⟨s.mem, s.mem.map (fun c => (c.1, 0)), { Device.reset with free := s.dev.free }⟩ :=
      writes_of_event (exec_powerOn s) rfl
    rw [Writes, State.after, writeAll_cleared canonical] at on
    exact on

end Sys2Proof.Machine
end

section
/-! SUPPORT AND PROOF. Membership views (O55): what an event at a binding and the arrival of a packet come to, and each event of the agreement. -/

namespace Sys2Proof.Machine

/-! ### Events at a binding, and packets (R406, R418) -/

/-- Changes that agree on the device are one. -/
theorem St.withD_congr {u : St} {f g : Device → Device} (h : f u.d = g u.d) : u.withD f = u.withD g := by rw [St.withD, St.withD, h]

section
variable {ins : Instr} {s : State} {bid : Nat} {x : Binding} {f : Binding → St → Option St} (stands : s.dev.binding bid = some x)
include stands

/-- An event at a binding that stands comes to what its meaning says. -/
theorem writes_of_onBinding (he : exec ins s = onBinding bid f s) {u : St} (meaning : f x (St.of s) = some u) : Writes ins s u :=
  writes_of_event he (by simp only [St.of_d, stands, meaning])

theorem becomes_of_onBinding (he : exec ins s = onBinding bid f s) (g : Device → Device) (meaning : f x (St.of s) = some ((St.of s).withD g)) :
    Becomes ins s (g s.dev) :=
  writes_of_onBinding stands he meaning

variable (valid : s.dev.partValid bid = true)
include valid

/-- A packet of a VALID partition reaches the binding that stands. -/
theorem packet_of_valid : (St.of s).packet bid f = f x (St.of s) := by
  simp only [St.packet, St.of_d, valid, stands, if_true]

theorem writes_of_onPacket (he : exec ins s = onPacket bid f s) {u : St} (meaning : f x (St.of s) = some u) : Writes ins s u :=
  writes_of_event he ((packet_of_valid stands valid).trans meaning)

theorem becomes_of_onPacket (he : exec ins s = onPacket bid f s) (g : Device → Device) (meaning : f x (St.of s) = some ((St.of s).withD g)) :
    Becomes ins s (g s.dev) :=
  writes_of_onPacket stands valid he meaning

/-- A packet of data of a partition that is not being purged reaches its binding (R400). -/
theorem writes_of_onData (he : exec ins s = onData bid f s) (passes : s.dev.purges (bid / 65536) = false) {u : St} (meaning : f x (St.of s) = some u) :
    Writes ins s u :=
  writes_of_event he ((if_neg (Bool.eq_false_iff.mp passes)).trans ((packet_of_valid stands valid).trans meaning))

variable {tag : W32} (he : exec ins s = onTagged bid tag f s)
include he

/-- A packet of agreement under the current tag or a later one comes to what its meaning says. -/
theorem writes_of_onTagged (current : x.tag.toNat ≤ tag.toNat) {u : St} (meaning : f x (St.of s) = some u) : Writes ins s u :=
  writes_of_onPacket stands valid he ((if_neg (Nat.not_lt.mpr current)).trans meaning)

theorem becomes_of_onTagged (current : x.tag.toNat ≤ tag.toNat) (g : Device → Device) (meaning : f x (St.of s) = some ((St.of s).withD g)) :
    Becomes ins s (g s.dev) :=
  writes_of_onTagged stands valid he current meaning

/-- One under an earlier tag is discarded and counted. -/
theorem dropped_of_onTagged (past : tag.toNat < x.tag.toNat) : Becomes ins s (s.dev.setBinding bid x.drop) :=
  becomes_of_onPacket stands valid he (·.setBinding bid x.drop) (if_pos past)

end

/-! ### The events -/

/-- Settles O55: under its premises each event is enabled at the binding, and what its meaning then comes to is what the statement says. -/
theorem membershipViews : Obligations.MembershipViews := by
  unfold Obligations.MembershipViews
  refine ⟨?sends, ?beats, ?silent, ?suspected, ?gathered, ?acknowledges, ?refuses, ?acked, ?nacked, ?unacked, ?leftOut, ?installs,
    fun bid tag opseq mask held s x valid stands => dropped_of_onTagged stands valid (exec_commit bid tag opseq mask held s), ?uncommitted, ?alone, ?joins⟩
  case sends =>
    intro bid s x stands due up
    refine becomes_of_onBinding stands (exec_heartbeatSend bid s) (·.setBinding bid _) (if_neg ?_)
    simp only [St.of_d, up]
    cases last : x.beat with
    | none => simp
    | some t => simp [due t last]
  case beats =>
    intro bid rank s x valid stands
    exact becomes_of_onPacket stands valid (exec_heartbeat bid rank s) (·.setBinding bid _) rfl
  case silent =>
    intro bid rank s x y stands takes_part suspect neighbour silent
    subst suspect
    exact becomes_of_onBinding stands (exec_heartbeatTimeout bid rank s) (·.setBinding bid _) (if_neg (by
      simp only [St.of_d, neighbour, silent]
      rcases takes_part with st | st <;> rw [st] <;> decide))
  case suspected =>
    intro bid rank s x valid stands takes_part member other
    exact becomes_of_onPacket stands valid (exec_suspect bid rank s) (·.setBinding bid _) (if_neg (by
      rw [member, beq_false_of_ne other]
      rcases takes_part with st | st <;> rw [st] <;> decide))
  case gathered =>
    intro bid s x stands takes_part gathers leads elapsed
    refine writes_of_onBinding stands (exec_gatherTimeout bid s) ((if_pos ?_).trans
      (congrArg (fun v : St => some (v.tryCommit bid)) (St.withD_congr rfl)))
    have long : beatCycles ≤ s.dev.since x.gatherAt := elapsed
    rcases takes_part with st | ⟨st, unproposed⟩
    · simp [Device.gathered, st, gathers, leads, long]
    · simp [Device.gathered, st, unproposed, gathers, leads, long]
  case acknowledges =>
    intro bid src tag mask s x valid stands takes_part higher
    refine becomes_of_onPacket stands valid (exec_propose bid src tag mask s) (·.setBinding bid _) ((if_neg ?_).trans
      (congrArg (fun y : Binding => some ((St.of s).withD (·.setBinding bid y))) ((if_pos higher).trans ?_)))
    · rcases takes_part with st | st <;> rw [st] <;> decide
    · rcases takes_part with st | st <;> rw [st] <;> rfl
  case refuses =>
    intro bid src tag mask s x valid stands not_isolated lower
    refine becomes_of_onPacket stands valid (exec_propose bid src tag mask s) (·.setBinding bid _) ((if_neg (by simpa using not_isolated)).trans ?_)
    exact congrArg (fun y : Binding => some ((St.of s).withD (·.setBinding bid y))) (if_neg (Nat.not_lt.mpr lower))
  case acked =>
    intro bid src tag opseq chunks s x mask valid stands current proposed agrees member first
    refine writes_of_onTagged stands valid (exec_ack bid src tag opseq chunks s) current ?_
    have unacked : x.acks.any (·.1 == src) = false := by simpa using first
    simp only [proposed]
    exact if_neg (by simp [agrees, unacked, List.contains_iff_mem.mp member])
  case nacked =>
    intro bid src tag s x p valid stands current proposed agrees member
    refine becomes_of_onTagged stands valid (exec_nack bid src tag s) current (·.setBinding bid _) ?_
    simp only [proposed]
    exact if_neg (by simp [agrees, List.contains_iff_mem.mp member])
  case unacked =>
    intro bid s x t mask stands proposed agrees elapsed
    refine writes_of_onBinding stands (exec_ackTimeout bid s) ?_
    have long : ¬ s.dev.since x.agreeAt < ackCycles := Nat.not_lt.mpr elapsed
    simp only [St.ackOver, proposed]
    refine (if_neg (by simp [agrees, long])).trans (congrArg (fun v : St => some (v.tryCommit bid)) (St.withD_congr rfl))
  case leftOut =>
    intro bid tag opseq mask held s x valid stands current left_out agrees latest
    exact becomes_of_onTagged stands valid (exec_commit bid tag opseq mask held s) current (·.isolate bid)
      ((if_pos (by rw [left_out]; rfl)).trans (if_pos (by simp [agrees, latest])))
  case installs =>
    intro bid tag opseq mask held s x valid stands current takes_part acknowledged unproposed member
    refine writes_of_onTagged stands valid (exec_commit bid tag opseq mask held s) current ((if_neg (by rw [member]; decide)).trans (if_neg ?_))
    rcases takes_part with st | st <;> simp [st, acknowledged, unproposed]
  case uncommitted =>
    intro bid s x stands agrees unproposed elapsed
    have long : ¬ s.dev.since x.agreeAt < commitCycles := Nat.not_lt.mpr elapsed
    exact becomes_of_onBinding stands (exec_commitTimeout bid s) (·.isolate bid) (if_neg (by simp [agrees, unproposed, long]))
  case alone =>
    intro bid s x stands normal silent
    exact becomes_of_onBinding stands (exec_isolation bid s) (·.isolate bid) (if_neg (by simpa [normal] using silent))
  case joins =>
    intro bid rank s x valid stands takes_part member other leads
    refine becomes_of_onPacket stands valid (exec_join bid rank s) (·.setBinding bid _) ((if_neg ?_).trans (if_neg (by rw [leads]; decide)))
    have inside : ¬ x.f 364 20 ≤ rank := Nat.not_le.mpr member
    rcases takes_part with st | st <;> simp [st, inside, other]

end Sys2Proof.Machine
end

section
/-! SUPPORT AND PROOF. The running operation, active messages and the fabric (O56): each event is enabled under its premises. -/

namespace Sys2Proof.Machine

/-! ### The running operation (R409 to R416) -/

section
variable {s : State} {bid chunk : Nat} {x : Binding}

/-- The first contribution to a chunk, read whole, is staged, and the step may follow (R409). -/
theorem collStage_writes {c : CollOp} {bs : List Byte} {u : St} (stands : s.dev.binding bid = some x)
    (next : x.colls.find? (fun c => c.chunk == chunk && !c.staged) = some c) (leaves : s.dev.leaves c.uid c.need c.op = true)
    (here : s.dev.collHere c = true) (untaken : x.inTaken chunk = false) (takes_part : x.st = .normal ∨ x.st = .agree)
    (unflushed : (x.chunk chunk).flushed = false) (read : (St.of s).collRead x.asid c x.chsz = (bs, u, true)) :
    Writes (.collStage bid chunk) s (((u.areaWrite x.asid (x.inAt chunk) bs).withD (·.setBinding bid
      (({ x with colls := x.colls.map (fun o => if o == c then { c with staged := true } else o) } : Binding).setChunk chunk
        { x.chunk chunk with staged := true, vc := (u.areaWrite x.asid (x.inAt chunk) bs).d.collClk c }))).takeStep bid chunk) := by
  refine writes_of_onBinding stands (exec_collStage bid chunk s) ?_
  simp only [next]
  refine (if_neg ?_).trans ((if_neg (by rw [unflushed]; decide)).trans ?_)
  · simp only [St.of_d, leaves, here, untaken]
    rcases takes_part with st | st <;> rw [st] <;> decide
  · rw [read]
    rfl

/-- The OUT of a reduce block that has ended goes up with its mask (R411). -/
theorem reduceBlockEnd_writes {mask : List Nat} {bs : List Byte} {u : St} {ok : Bool} {r : Nat} (stands : s.dev.binding bid = some x)
    (reducing : (x.chunk chunk).reducing = true) (reduced : (x.chunk chunk).reduced = true) (normal : x.st = .normal)
    (contributors : mask = (x.chunk chunk).acc.getD [] ++ (if (x.chunk chunk).staged && !(x.chunk chunk).flushed then [x.rank] else []))
    (read : (St.of s).areaRead x.asid (x.outAt chunk) x.chsz = (bs, u, ok)) (above : x.above = some r) :
    Writes (.reduceBlockEnd bid chunk) s ((u.areaWrite x.asid (x.outMaskAt chunk) (maskList x.mb mask)).withD (·.setBinding bid
      ((x.setChunk chunk { x.chunk chunk with out := some mask, reducing := false, reduced := false }).send 1 r chunk mask bs))) := by
  subst contributors
  refine writes_of_onBinding stands (exec_reduceBlockEnd bid chunk s) ((if_neg (by simp [reducing, reduced, normal])).trans ?_)
  have up : (x.setChunk chunk { x.chunk chunk with
      out := some ((x.chunk chunk).acc.getD [] ++ (if (x.chunk chunk).staged && !(x.chunk chunk).flushed then [x.rank] else []))
      reducing := false, reduced := false }).above = some r := above
  simp only [read, up]

/-- In REWEIGHT mode a step whose timer has run out goes on without the contribution (R415). -/
theorem stepTimeout_writes (stands : s.dev.binding bid = some x)
    (elapsed : 1700 * x.f 448 16 ≤ s.dev.clock.toNat - (if x.below.isNone then x.began else (x.chunk chunk).landedAt)) (reweights : x.reweight = true)
    (normal : x.st = .normal) (within : chunk < x.nch) (unstaged : (x.chunk chunk).staged = false) (unflushed : (x.chunk chunk).flushed = false)
    (pending : (x.chunk chunk).out = none) (partial_here : x.below = none ∨ (x.chunk chunk).acc.isSome = true) :
    Writes (.stepTimeout bid chunk) s ((((St.of s).withD (·.setBinding bid (x.setChunk chunk { x.chunk chunk with flushed := true }))).takeStep
      bid chunk).followUp bid) := by
  have run_out : s.dev.stepOver x chunk = true := decide_eq_true elapsed
  have fed : (x.below.isNone || (x.chunk chunk).acc.isSome) = true := by simpa using partial_here
  exact writes_of_onBinding stands (exec_stepTimeout bid chunk s)
    (if_neg (by simp [reweights, normal, within, unstaged, unflushed, pending, fed, run_out]))

end

/-! ### Active messages (R417) -/

section
variable {s : State} {part : BitVec 12} {src : BitVec 20} {core : Nat} {rec : BitVec 512}

/-- A plain record for the launch that is registered is delivered with its SLOT, and answered. -/
theorem amsg_delivers {p : Partition} {k : Nat} (passes : s.dev.purges part.toNat = false) (entry : s.dev.partitions.lookup part.toNat = some p)
    (valid : p.valid = true) (registered : p.am = some k) (core_id : core < 512) (on_die : core / 4 % 32 < 18) (is_am : recKind rec = 5)
    (good : recBad rec = false) (plain : recTti rec = 0) :
    Writes (.amsg part src core rec) s
      (((St.of s).deliverRec (coreOfId core) (BitVec.ofNat 512 (setField (setField rec.toNat 0 48 (recAddr rec)) 128 12 k))).withD
        (·.answer part.toNat src.toNat true)) := by
  refine writes_of_event (exec_amsg part src core rec s) ((if_neg (Bool.eq_false_iff.mp passes)).trans ?_)
  simp only [St.of_d, entry, valid, registered, plain, if_true]
  exact if_neg (by simp [core_id, on_die, is_am, good])

/-- One for a partition without an entry is refused, counted and answered. -/
theorem amsg_refused (passes : s.dev.purges part.toNat = false) (unknown : s.dev.partitions.lookup part.toNat = none) :
    Becomes (.amsg part src core rec) s (({ s.dev with discards := s.dev.discards + 1 } : Device).answer part.toNat src.toNat false) := by
  refine becomes_of_change (exec_amsg part src core rec s) (fun d => ({ d with discards := d.discards + 1 } : Device).answer part.toNat src.toNat false)
    ((if_neg (Bool.eq_false_iff.mp passes)).trans ?_)
  rw [St.of_d, unknown]

end

/-! ### The events -/

/-- Settles O56: under its premises each event is enabled, and what its meaning then comes to is what the statement says. -/
theorem fabricAndCollectives : Obligations.FabricAndCollectives := by
  unfold Obligations.FabricAndCollectives
  refine ⟨?staged, ?partialLands, ?finalLands, ?completes, ?reduced, ?flushed, ?abandoned, ?delivered, ?purged, ?unknown, ?answered, ?answerPurged,
    ?edited, ?reset, ?expired, ?down, ?trained⟩
  case staged =>
    intro bid chunk s x c bs u v stands next leaves here untaken takes_part unflushed read written
    subst written
    exact collStage_writes stands next leaves here untaken takes_part unflushed read
  case partialLands =>
    intro bid tag opseq chunk mask data s x passes valid stands
    exact writes_of_onData stands valid (exec_partialLand bid tag opseq chunk mask data s) passes rfl
  case finalLands =>
    intro bid tag opseq chunk mask data s x passes valid stands
    exact writes_of_onData stands valid (exec_finalLand bid tag opseq chunk mask data s) passes rfl
  case completes =>
    intro bid tag opseq s x passes valid stands
    exact writes_of_onData stands valid (exec_complete bid tag opseq s) passes rfl
  case reduced =>
    intro bid chunk s x mask bs u ok r stands reducing reduced normal contributors read above
    exact reduceBlockEnd_writes stands reducing reduced normal contributors read above
  case flushed =>
    intro bid chunk s x stands elapsed reweights normal within unstaged unflushed pending partial_here
    exact stepTimeout_writes stands elapsed reweights normal within unstaged unflushed pending partial_here
  case abandoned => exact fun bid s x stands => writes_of_onBinding stands (exec_collectiveAbandon bid s) rfl
  case delivered =>
    intro part src core rec s p k passes entry valid registered core_id on_die is_am good plain
    exact amsg_delivers passes entry valid registered core_id on_die is_am good plain
  case purged =>
    intro part src core rec s purges
    exact becomes_of_change (exec_amsg part src core rec s) (fun d => { d with discards := d.discards + 1 }) (if_pos purges)
  case unknown => exact fun part src core rec s passes unknown => amsg_refused passes unknown
  case answered =>
    intro w op ok s t key found passes
    refine becomes_of_change (exec_amack w op ok s) (fun d => ({ d with transit := d.transit.erase t } : Device).updOp (s.dev.wave w).uid op
      (fun o => { o with
        done := !(d.transit.erase t).any (fun t => t.uid == (s.dev.wave w).uid && t.op == some op)
        err := if ok then o.err else o.err.or (some (mkDetail 10 o.opc (BitVec.ofNat 64 (t.rank.getD 0)))) })) ?_
    simp only [St.of_d, key, if_true, found, passes]
    rfl
  case answerPurged =>
    intro w op ok s t key found purges
    refine becomes_of_change (exec_amack w op ok s) (fun d => { d with discards := d.discards + 1 }) ?_
    simp only [St.of_d, key, if_true, found, purges]
    rfl
  case edited =>
    intro link table s well_formed
    exact becomes_of_change (exec_slotTableEdit link table s) (fun d => { d with slotTabs := d.slotTabs.put link table }) (if_pos well_formed)
  case reset =>
    exact fun part s => becomes_of_change (exec_partitionReset part s) (·.reslot part.toNat (· == 1) (BitVec.ofNat 16 (2 ^ 15 + part.toNat))) rfl
  case expired => exact fun part s => becomes_of_change (exec_purgeExpiry part s) (·.reslot part.toNat (· == 2) 0) rfl
  case down =>
    intro link s known up
    exact becomes_of_change (exec_fabricLinkDown link s) (fun d => { d with linksDown := d.linksDown ++ [link] }) (if_pos (by
      rw [St.of_d, up, decide_eq_true known]; rfl))
  case trained =>
    intro s described
    exact becomes_of_change (exec_fabricLinkTrained s) (fun d => { d with fabricUp := true, linkFerr := false, linksDown := [] })
      (if_neg (by simpa using described))

end Sys2Proof.Machine
end

section
/-! SUPPORT. The restore of a saved block (R358): which fields of the device its steps leave, so that the block, its entry and the saved blocks
stand as the restore has written them. -/

namespace Sys2Proof.Machine

/-! ### Bytes that move leave the device (R355) -/

theorem St.clear_d (s : St) (lo n : Nat) : (s.clear lo n).d = s.d :=
  List.foldlRecOn (motive := fun u : St => u.d = s.d) _ _ rfl (fun _ h _ _ => h)

theorem St.move_d (s : St) (src dst n : Nat) : (s.move src dst n).d = s.d :=
  List.foldlRecOn (motive := fun u : St => u.d = s.d) _ _ (St.clear_d s dst n) (fun _ h _ _ => h)

theorem St.moves_d {s : St} (ts : List Nat) (src dst : Nat → Nat) (n : Nat) : (ts.foldl (fun s t => s.move (src t) (dst t) n) s).d = s.d :=
  List.foldlRecOn (motive := fun u : St => u.d = s.d) _ _ rfl (fun u h _ _ => (St.move_d u ..).trans h)

/-- The poison that moves with a range is the memory system's. -/
theorem machine_moveAll (s : St) (src dst n : Nat) : (s.moveAll src dst n).d.machine = s.d.machine := by
  have moved : (s.moveAll src dst n).d.machine = (s.move src dst n).d.machine := rfl
  rw [moved, St.move_d]

/-! ### Steps that leave the saved blocks, the entries and the blocks -/

/-- The blocks that are saved, the entries of the bind tables and the blocks on cores. -/
def Device.places (d : Device) : List Saved × Tab BindRec × Tab Block := (d.saved, d.binds, d.blocks)

theorem places_of_machine {d e : Device} (h : e.machine = d.machine) : e.places = d.places :=
  (congrArg Device.places h : e.machine.places = d.machine.places)

@[simp] theorem places_replaceWaves (d : Device) (core qb : Nat) (xs : List Wave) : (d.replaceWaves core qb xs).places = d.places := by
  induction xs generalizing d with
  | nil => rfl
  | cons x xs ih =>
    rw [Device.replaceWaves]
    split
    · exact ih (d.setWave _ x)
    · exact ih d

theorem places_invalidate (d : Device) (ln : Nat) : (d.invalidate ln).places = d.places := by
  unfold Device.invalidate
  dsimp only
  split
  · exact places_of_machine (machine_leaveClk ..)
  · rfl

@[simp] theorem places_placeFrom (d : Device) (asid : Nat) (q : Nat × Nat × Nat) (ln vline fuel : Nat) (set : W64) (n : Nat) :
    (d.placeFrom asid q ln vline fuel set n).1.places = d.places := by
  induction fuel generalizing set n with
  | zero => exact places_of_machine (machine_goHome d ln)
  | succ fuel ih =>
    have left : ((d.leavePark ln).invalidate ln).places = d.places :=
      (places_invalidate ..).trans (places_of_machine (machine_leavePark d ln))
    unfold Device.placeFrom
    dsimp only
    split
    · exact places_of_machine (machine_goHome d ln)
    · split
      · split
        · split
          · exact left
          · next die _ _ =>
            have taken := (places_of_machine (machine_takeClk _ die (((d.leavePark ln).invalidate ln).lineClk ln))).trans left
            generalize Device.takeClk _ die _ = e at taken ⊢
            exact taken
        · exact left
      · split
        · exact places_of_machine (machine_goHome d ln)
        · exact ih ..

@[simp] theorem places_replaceOne (d : Device) (core : Nat) (e : Nat × Park) : (d.replaceOne core e).places = d.places := by
  have placed := places_placeFrom d e.2.asid e.2.quota e.1 e.2.vline 4 (widen e.2.set) 1
  unfold Device.replaceOne
  dsimp only
  split
  · rfl
  · split <;> exact placed

@[simp] theorem places_resizeL1 (d : Device) (core : Nat) : (d.resizeL1 core).places = d.places := by
  unfold Device.resizeL1
  dsimp only
  split
  · rfl
  · exact List.foldlRecOn (motive := fun e : Device => e.places = d.places) _ _ rfl
      (fun e h p _ => (places_replaceOne e core p).trans h)

/-! ### What a restore leaves (R358) -/

section
variable {s : State} {blk core entry : Nat} {v : Saved}

/-- A block that comes back to a core and an entry that can take it. -/
def Saved.placedAt (v : Saved) (d : Device) (core entry : Nat) : Block :=
  { v.block with
    qb := (d.bind core entry).qb, scrb := 65536 * (d.bind core entry).f 84 4, accB := (d.bind core entry).f 105 3
    gen := d.gens.get 0 core + 1, windows := [], since := d.clock.toNat }

/-- Written over a device that differs only in the memory system's records, they are the same. -/
theorem places_restored {d : Device} (met : d.machine = s.dev.machine) :
    (d.saved.eraseIdx blk, d.binds.put (64 * core + entry) ((s.dev.bind core entry).tgt 3 (s.dev.bind core entry).slot),
      d.blocks.put (64 * core + entry) { v.block with
        qb := (s.dev.bind core entry).qb, scrb := 65536 * (s.dev.bind core entry).f 84 4, accB := (s.dev.bind core entry).f 105 3
        gen := d.gens.get 0 core + 1, windows := [], since := d.clock.toNat }) =
    (s.dev.saved.eraseIdx blk, s.dev.binds.put (64 * core + entry) ((s.dev.bind core entry).tgt 3 (s.dev.bind core entry).slot),
      s.dev.blocks.put (64 * core + entry) (v.placedAt s.dev core entry)) := by
  have saved : d.saved = s.dev.saved := congrArg (·.saved) met
  have binds : d.binds = s.dev.binds := congrArg (·.binds) met
  have blocks : d.blocks = s.dev.blocks := congrArg (·.blocks) met
  have gens : d.gens = s.dev.gens := congrArg (·.gens) met
  have clock : d.clock = s.dev.clock := congrArg (·.clock) met
  rw [saved, binds, blocks, gens, clock]
  rfl

/-- A block that can be restored stands at its entry, which is BOUND, and is saved no longer. -/
theorem blockRestore_places (saved : s.dev.saved[blk]? = some v) (fits : s.dev.restorable v core entry = true) (on_core : core < 288)
    (in_table : entry < 64) (runs : s.dev.stopped = false) (full : s.dev.power = 0) :
    ∃ u, Writes (.blockRestore blk core entry) s u ∧ u.d.places = (s.dev.saved.eraseIdx blk,
      s.dev.binds.put (64 * core + entry) ((s.dev.bind core entry).tgt 3 (s.dev.bind core entry).slot),
      s.dev.blocks.put (64 * core + entry) (v.placedAt s.dev core entry)) := by
  have enabled : ¬ ((decide (s.dev.power ≠ 0) || !s.dev.restorable v core entry || decide (Config.cores ≤ core) || decide (64 ≤ entry) ||
      s.dev.stopped) = true) := by
    have within : ¬ Config.cores ≤ core := Nat.not_le.mpr on_core
    simp [full, fits, within, in_table, runs]
  refine ⟨_, writes_of_event (exec_blockRestore blk core entry s) (by simp only [St.of_d, saved]; exact if_neg enabled), ?_⟩
  refine (places_resizeL1 _ core).trans ((places_replaceWaves ..).trans ?_)
  refine places_restored ?_
  split
  · rw [machine_meetDie, machine_moveAll, St.moves_d]
    rfl
  · rw [machine_takeClk, machine_meetDie, machine_moveAll, St.moves_d]
    rfl

end

end Sys2Proof.Machine
end

section
/-! SUPPORT AND PROOF. Saving, restoring, and records on their way (O54): the order in which records arrive, and each event under its premises. -/

namespace Sys2Proof.Machine

/-! ### The order of arrivals (R393) -/

theorem mem_insert {t u : Transit} {ts : List Transit} : u ∈ t.insert ts ↔ u = t ∨ u ∈ ts := by
  induction ts with
  | nil => simp [Transit.insert]
  | cons v vs ih =>
    rw [Transit.insert]
    split
    · exact List.mem_cons
    · rw [List.mem_cons, ih, List.mem_cons]
      tauto

/-- A record goes after those of its sending core and of lower ones. -/
theorem sorted_insert {t : Transit} {ts : List Transit} (sorted : ts.Pairwise (fun t u => t.src ≤ u.src)) :
    (t.insert ts).Pairwise (fun t u => t.src ≤ u.src) := by
  induction ts with
  | nil => exact List.pairwise_singleton ..
  | cons v vs ih =>
    obtain ⟨least, rest⟩ := List.pairwise_cons.mp sorted
    rw [Transit.insert]
    split
    · next below =>
      refine List.pairwise_cons.mpr ⟨fun u hu => ?_, sorted⟩
      rcases List.mem_cons.mp hu with rfl | later
      · exact Nat.le_of_lt below
      · exact Nat.le_trans (Nat.le_of_lt below) (least u later)
    · next above =>
      refine List.pairwise_cons.mpr ⟨fun u hu => ?_, ih rest⟩
      rcases mem_insert.mp hu with rfl | later
      · exact Nat.le_of_not_lt above
      · exact least u later

theorem insertAll {rs ts : List Transit} (sorted : ts.Pairwise (fun t u => t.src ≤ u.src)) :
    (∀ t, t ∈ rs.foldl (fun ts t => t.insert ts) ts ↔ t ∈ rs ∨ t ∈ ts) ∧
      (rs.foldl (fun ts t => t.insert ts) ts).Pairwise (fun t u => t.src ≤ u.src) := by
  induction rs generalizing ts with
  | nil => exact ⟨fun t => by simp, sorted⟩
  | cons r rs ih =>
    obtain ⟨members, sorted'⟩ := ih (sorted_insert (t := r) sorted)
    refine ⟨fun t => (members t).trans ?_, sorted'⟩
    rw [mem_insert, List.mem_cons]
    tauto

/-- The records that may arrive are those for this device that are due, by their sending core. -/
theorem arrivals_spec (d : Device) : (∀ t, t ∈ d.arrivals ↔ t ∈ d.transit ∧ t.rank = none ∧ d.transitDue t = true) ∧
    d.arrivals.Pairwise (fun t u => t.src ≤ u.src) := by
  obtain ⟨members, sorted⟩ := insertAll (rs := d.transit.filter (fun t => t.rank.isNone && d.transitDue t)) List.Pairwise.nil
  exact ⟨fun t => (members t).trans (by simp), sorted⟩

/-! ### Saves (R354, R356, R391) -/

section
variable {s : State} {blk area : Nat}

/-- At its deadline a block that may leave its core is taken off; one that may not goes on getting ready. -/
theorem forcedSave_writes (savable : s.dev.savable blk = true) (requested : (s.dev.block blk).preq = true)
    (due : (s.dev.block blk).deadline.toNat ≤ s.dev.clock.toNat) (fits : areaFits area ((s.dev.savedOf blk area 0).size s.dev) = true) :
    Writes (.forcedSave blk area) s (let t := (St.of s).comeOff blk
      if t.d.offReady blk (t.d.goes blk true) then t.takeOff blk area 0 true else t) := by
  have now : ¬ s.dev.clock.toNat < (s.dev.block blk).deadline.toNat := Nat.not_lt.mpr due
  exact writes_of_event (exec_forcedSave blk area s) (if_neg (by simp [savable, requested, now, fits]))

end

section
variable {s : State} {asid : BitVec 16} {core area : Nat} {discard : List Nat} {plan : List (Nat × Nat)} (live : (s.dev.ctx asid.toNat).live = true)
  (fits : areaFits area 4096 = true) (planned : s.dev.planAreas 1 (area + 4096) (s.dev.blocksOn asid.toNat core) = some plan)
include live fits planned

/-- A context whose blocks may all leave the core is switched out: its counters and its blocks go to their areas (R356). -/
theorem switchOut_ends (ready : ∀ k ∈ s.dev.blocksOn asid.toNat core, ((s.dev.blocksOn asid.toNat core).foldl St.comeOff (St.of s)).d.offReady k
      (((s.dev.blocksOn asid.toNat core).foldl St.comeOff (St.of s)).d.goes k (discard.contains k)) = true) :
    Writes (.contextSwitchOut asid core area discard) s (let u := (s.dev.blocksOn asid.toNat core).foldl St.comeOff (St.of s)
      (((List.range 16).foldl (fun v i => v.wrN (area + 8 * i) 8 ((u.d.ctx asid.toNat).pmc.get 0 (16 * core + i)).toNat) u).saveAll 1 discard plan).withD
        fun d => { d with outs := d.outs.filter (fun o => !(o.1 == asid.toNat && o.2.1 == core)) }) := by
  refine writes_of_event (exec_contextSwitchOut asid core area discard s) ((if_neg (by simp [live, fits])).trans ?_)
  simp only [St.of_d, planned]
  exact if_neg (by simpa using ready)

/-- One of which a block may not leave yet begins to be switched out. -/
theorem switchOut_begins {k : Nat} (there : k ∈ s.dev.blocksOn asid.toNat core)
    (stays : ((s.dev.blocksOn asid.toNat core).foldl St.comeOff (St.of s)).d.offReady k
      (((s.dev.blocksOn asid.toNat core).foldl St.comeOff (St.of s)).d.goes k (discard.contains k)) = false)
    (new : ((s.dev.blocksOn asid.toNat core).foldl St.comeOff (St.of s)).d.outs.contains (asid.toNat, core, area, discard) = false) :
    Writes (.contextSwitchOut asid core area discard) s (((s.dev.blocksOn asid.toNat core).foldl St.comeOff (St.of s)).withD
      fun d => { d with outs := d.outs ++ [(asid.toNat, core, area, discard)] }) := by
  refine writes_of_event (exec_contextSwitchOut asid core area discard s) ((if_neg (by simp [live, fits])).trans ?_)
  simp only [St.of_d, planned]
  refine (if_pos ?_).trans (congrArg some (St.withD_congr ?_))
  · simpa using ⟨k, there, by simpa using stays⟩
  · simp only [new]
    rfl

end

/-- A launch whose records have overflowed is suspended: the blocks that may leave are saved, the others are to be (R391). -/
theorem launchSuspend_writes {s : State} {slot area : Nat} {ks : List Nat} {u : St} {plan : List (Nat × Nat)} (used : (s.dev.launch slot).used = true)
    (admitted : (s.dev.launch slot).admitted = true) (due : ∃ e ∈ s.dev.overflowDue, e.1 = slot)
    (blocks : ks = (s.dev.blocks.filter (fun e => e.2.slot == slot && s.dev.savable e.1)).map (·.1))
    (ready : u = ks.foldl St.comeOff ((St.of s).withD (·.setLaunch slot { s.dev.launch slot with suspended := true })))
    (planned : u.d.planAreas 2 area (ks.filter (fun k => u.d.offReady k false)) = some plan) :
    Writes (.launchSuspend slot area) s ((u.withD fun d => (ks.filter (fun k => !u.d.offReady k false)).foldl
      (fun d k => d.setBlock k { d.block k with preq := true, deadline := d.clock }) d).saveAll 2 [] plan) := by
  have overflow : s.dev.overflowDue.any (·.1 == slot) = true := by simpa using due
  subst ready blocks
  refine writes_of_event (exec_launchSuspend slot area s) ((if_neg (by simp [used, admitted, overflow])).trans ?_)
  simp only [List.partition_eq_filter_filter, St.of_d, planned]
  rfl

/-! ### Records on their way (R390, R391) -/

/-- A record that is due reaches its core: a hop counts there, and the record is delivered (R390). -/
theorem recArrive_delivers {s : State} {n : Nat} {t : Transit} {u : St} (next : s.dev.arrivals[n]? = some t)
    (left : u = (St.of s).withD (fun d => ({ d with transit := d.transit.erase t }).takeClk (dieOf t.core) (d.sentClk t)))
    (used : (s.dev.launch (recSlot t.rcd)).used = true) (running : (s.dev.launch (recSlot t.rcd)).aborted = false) (warm : t.cold = false)
    (to_core : t.toRing = false) (pinned : u.d.strays t = false) :
    (St.of s).recArrive n = some ((if recKind t.rcd = 4 then u.withD (·.hopIn (recSlot t.rcd) t.core) else u).deliverRec t.core t.rcd) := by
  subst left
  have launches : ((({ s.dev with transit := s.dev.transit.erase t } : Device).takeClk (dieOf t.core) (s.dev.sentClk t)).launch (recSlot t.rcd)) =
      s.dev.launch (recSlot t.rcd) := congrArg (·.launch (recSlot t.rcd)) (machine_takeClk { s.dev with transit := s.dev.transit.erase t } _ _)
  simp only [St.recArrive, St.of_d, next]
  refine (if_neg ?_).trans ((if_neg ?_).trans ((if_neg ?_).trans (if_neg ?_)))
  · simp only [St.withD, St.of_d, launches, used, running]
    decide
  · simp [warm]
  · simp [to_core]
  · exact Bool.eq_false_iff.mp pinned

/-- A ring that has overflowed is built anew and larger, and with the last spilled record in it the launch is offered again (R391). -/
theorem overflowExtend_writes {s : State} {slot core log2n : Nat} {base : W64} {rs : List (BitVec 512)} {h : Nat} {u v : St}
    (due : (slot, core) ∈ s.dev.overflowDue) (placed : ringOk core base.toNat log2n = true) (within : log2n ≤ 24)
    (larger : hdrRing ((St.of s).ringHdr slot core) = 0 ∨ hdrN ((St.of s).ringHdr slot core) < 2 ^ log2n)
    (records : rs = (St.of s).ringAll slot core ((St.of s).ringOcc slot core))
    (header : h = rs.length + 2 ^ 128 * log2n + 2 ^ 134 * (base.toNat / 64) + 2 ^ 192 * 3)
    (moved : u = ((St.of s).ringFill h 0 rs).homeWrite ((St.of s).ringHead slot core) 64 h) (drained : v = u.unspill slot core u.d.spill)
    (empty : v.d.spill = []) :
    Writes (.overflowExtend slot core base log2n) s (v.withD (fun d =>
      ({ d with overflowDue := d.overflowDue.filter (· != (slot, core)) } : Device).setLaunch slot { d.launch slot with suspended := false })) := by
  subst records header moved drained
  refine writes_of_event (exec_overflowExtend slot core base log2n s) ((if_neg ?_).trans (congrArg some (St.withD_congr ?_)))
  · have fits : ¬ 24 < log2n := Nat.not_lt.mpr within
    have grows : ¬ (hdrRing ((St.of s).ringHdr slot core) ≠ 0 ∧ 2 ^ log2n ≤ hdrN ((St.of s).ringHdr slot core)) := by omega
    simpa [due, placed, fits] using grows
  · simp only [empty, List.any_nil]
    rfl

/-! ### The events -/

/-- Settles O54: under its premises each event is enabled, and what its meaning then comes to is what the statement says. -/
theorem savingAndThePosy : Obligations.SavingAndThePosy := by
  unfold Obligations.SavingAndThePosy
  refine ⟨?requested, ?saved, ?waits, ?switched, ?begins, ?restored, ?period, ?suspended, ?arrives, arrivals_spec, ?released, ?taskType, ?drains,
    ?extended, ?reports⟩
  case requested =>
    intro blk deadline s live waves
    exact becomes_of_change (exec_preemptionRequest blk deadline s)
      (fun d => d.setBlock blk { s.dev.block blk with preq := true, deadline := deadline }) (if_pos (by simpa [live] using waves))
  case saved =>
    intro blk area s t savable requested due fits coming ready
    subst coming
    have saves := forcedSave_writes savable requested due fits
    rwa [if_pos ready] at saves
  case waits =>
    intro blk area s t savable requested due fits coming unready
    subst coming
    have waits := forcedSave_writes savable requested due fits
    rwa [if_neg (Bool.eq_false_iff.mp unready)] at waits
  case switched =>
    intro asid core area discard s ks plan u live fits blocks planned coming ready
    subst coming blocks
    exact switchOut_ends live fits planned ready
  case begins =>
    intro asid core area discard s ks plan u k live fits blocks planned coming there stays new
    subst coming blocks
    exact switchOut_begins live fits planned there stays new
  case restored =>
    intro blk core entry s v saved fits on_core in_table runs full
    obtain ⟨u, restores, places⟩ := blockRestore_places saved fits on_core in_table runs full
    have binds : u.d.binds = _ := congrArg (·.2.1) places
    have blocks : u.d.blocks = _ := congrArg (·.2.2) places
    refine ⟨_, restores, congrArg (·.1) places, ?_, ?_⟩
    · exact (congrArg (·.get 0 (64 * core + entry)) binds).trans (Tab.get_put_self ..)
    · exact (congrArg (·.get Block.empty (64 * core + entry)) blocks).trans (Tab.get_put_self ..)
  case period =>
    intro deadline pins s u victims
    subst victims
    exact writes_of_event (exec_schedulingPeriod deadline pins s) rfl
  case suspended =>
    intro slot area s l ks u plan of_slot used admitted due blocks ready planned
    subst of_slot
    exact launchSuspend_writes used admitted due blocks ready planned
  case arrives =>
    intro n s t u next left used running warm to_core pinned
    exact writes_of_event (exec_posyRecordArrival n s) (recArrive_delivers next left used running warm to_core pinned)
  case released =>
    intro core n s k f form unreleased elapsed
    have due : ¬ 10 * (s.dev.clock.toNat - f.since) < 17 * (s.dev.launch (recSlot (f.recs.headD 0))).ftime := Nat.not_lt.mpr elapsed
    refine becomes_of_event (exec_formTimeout core n s) ?_
    simp only [St.of_d, form]
    exact if_neg (by simpa [unreleased] using due)
  case taskType =>
    intro core n resolved s k v f l form of_slot typed in_table unread sound read
    subst of_slot
    refine becomes_of_event (exec_taskTypeRead core n resolved s) ?_
    have inside : ¬ (s.dev.launch (recSlot (f.recs.headD 0))).ttn ≤ recTti (f.recs.headD 0) := Nat.not_le.mpr in_table
    simp only [St.of_d, form]
    refine (if_neg (by simpa [unread] using typed)).trans ((if_neg (by simpa [sound] using inside)).trans ?_)
    simp only [read]
    rfl
  case drains =>
    intro core slot s r t head on_core good room
    refine writes_of_event (exec_overflowRingDrain core slot s) ?_
    simp only [head]
    exact (if_neg (Nat.not_le.mpr on_core)).trans ((if_neg (by simp [good])).trans (if_pos room))
  case extended =>
    intro slot core base log2n s rs h u v due placed within larger records header moved drained empty
    exact overflowExtend_writes due placed within larger records header moved drained empty
  case reports =>
    intro core slot s used
    exact becomes_of_event (exec_occupancyReport core slot s) (if_pos used)

end Sys2Proof.Machine
end

section
/-! SUPPORT AND PROOF. Copies and matrix operations go on (O52): each event of the two engines is enabled under its premises. -/

namespace Sys2Proof.Machine

/-! ### The copy request engine (R367 to R373) -/

section
variable {s : State} {core cp ws : Nat} {c : Copy} {y : Window}

/-- The oldest waiting copy of a core becomes active while fewer than 16 are (R368). -/
theorem copyActivate_becomes (running : s.dev.stopped = false)
    (room : ((s.dev.copies.filter (·.core == core)).filter (·.active)).length < 16)
    (oldest : (s.dev.copies.filter (·.core == core)).find? (fun c => !c.active && !c.landed) = some c)
    (acknowledged : s.dev.acked c.uid c.need = true) (bound : s.dev.bound c.uid c.op = true) :
    Becomes (.copyActivate core) s (s.dev.setCopy { c with active := true, sentAt := s.dev.clock.toNat }) := by
  refine becomes_of_change (exec_copyActivate core s) (fun d => d.setCopy { c with active := true, sentAt := d.clock.toNat }) ?_
  have mine : (St.of s).d.copies.filter (fun c => c.core == core && !(St.of s).d.stopped) = s.dev.copies.filter (·.core == core) := by
    simp only [St.of_d, running, Bool.not_false, Bool.and_true]
  simp only [St.copyActivate, mine]
  refine (if_neg (Nat.not_le.mpr room)).trans ?_
  simp only [oldest]
  exact if_pos (by simp only [St.of_d, acknowledged, bound, Bool.and_self])

/-- The next segment of an active copy is carried out, when none of its deliveries is on its way and its index can be read (R368, R369). -/
theorem segmentLanded_writes {x : Copy} {sr ds : Nat} (stands : s.dev.copy cp = some c) (active : c.active = true) (unwalked : c.walk = none)
    (running : s.dev.stopped = false) (more : c.row < c.rows) (settled : ∀ e ∈ c.deliveries, ∀ w, e.2 ≠ .sent w)
    (index : (St.of s).idxStops c = none)
    (indexed : x = { c with idxv := if c.kind = 1 ∨ c.kind = 2 then (St.of s).copyIdx c c.row else none })
    (source : (St.of s).copySrc x c.row = some sr) (dest : (St.of s).copyDst x c.row = some ds) :
    Writes (.segmentLanded cp) s ((St.of s).segmentDo x sr ds) := by
  have none_sent : c.deliveries.any (fun e => match e.2 with
      | .sent _ => true
      | _ => false) = false := by
    refine List.any_eq_false.mpr fun e he => ?_
    cases h : e.2 with
    | sent w => exact absurd h (settled e he w)
    | accepted k => exact Bool.false_ne_true
    | missed => exact Bool.false_ne_true
  have index_read : x = { c with idxv := if (c.kind = 1 || c.kind = 2) = true then (St.of s).copyIdx c c.row else none } := by
    simp only [indexed, Bool.or_eq_true, decide_eq_true_eq]
  refine writes_of_event (exec_segmentLanded cp s) ?_
  simp only [St.segmentLanded, St.of_d, stands]
  refine (if_neg ?_).trans ?_
  · rw [Bool.not_eq_true]
    exact Bool.or_eq_false_iff.mpr ⟨by simp [active, unwalked, running, more], none_sent⟩
  · simp only [index, ← index_read, source, dest]

/-- The segment of a `CPY` whose source can be read touches the source and lands at the destination (R215, R369). -/
theorem segmentDo_cpy {u : St} {sr ds v : Nat} (cpy : c.kind = 0)
    (read : u.srcBytes c ((sr + c.seg) % 2 ^ 64) (segLen ds c.rowlen c.seg) = .ok v) :
    u.segmentDo c sr ds = (u.srcTouch c ((sr + c.seg) % 2 ^ 64) (segLen ds c.rowlen c.seg)).segmentAt c ds ((ds + c.seg) % 2 ^ 64)
      (segLen ds c.rowlen c.seg) v := by
  have uncounted : u.rowSource c sr = .ok none := if_pos (by simp [cpy])
  simp only [St.segmentDo, uncounted, read, St.countRow]
  simp [cpy]

/-- A segment whose destination is a page of device memory lands there, is counted on the barrier and ends the step (R369 to R371). -/
theorem segmentAt_dev {u : St} {ds dva n v pa : Nat} {pte : W64} {t : Option (Nat × Nat)}
    (located : u.locate c.blk (BitVec.ofNat 64 dva) .write = .ok (.dev pa pte)) (writable : u.writeErr (.dev pa pte) = none)
    (tile : u.rowTile c ds = .ok t) :
    let z := t.toList.foldl (fun z e => z.withD (·.nfillUp e.1 e.2)) u
    let r := (z.cacheTlb (sliceOf c.core) (u.d.block c.blk).asid dva).landAt { c with fills := c.fills ++ t.toList } dva (.dev pa pte) n v
    let q := r.2.copyCount r.1 n
    u.segmentAt c ds dva n v = q.2.copyStep (q.1.next n) := by
  simp only [St.segmentAt, located, writable, tile]
  rfl

/-- Foxglove has resolved a failed walk, and the copy goes on (R370). -/
theorem engineWalkFailure_resolved (stands : s.dev.copy cp = some c) (walks : c.walk.isSome = true) :
    Becomes (.engineWalkFailure cp true) s (s.dev.setCopy { c with walk := none }) := by
  obtain ⟨va, walk⟩ := Option.isSome_iff_exists.mp walks
  refine becomes_of_change (exec_engineWalkFailure cp true s) (·.setCopy { c with walk := none }) ?_
  simp only [St.walkDone, St.of_d, stands, walk, if_true]

/-- Foxglove could not resolve a failed walk, which fails the copy (R219, R370). -/
theorem engineWalkFailure_fails {va : W64} (stands : s.dev.copy cp = some c) (walk : c.walk = some va) :
    Writes (.engineWalkFailure cp false) s ((St.of s).copyFail c (c.detail 5 va.toNat)) := by
  refine writes_of_event (exec_engineWalkFailure cp false s) ?_
  simp only [St.walkDone, St.of_d, stands, walk]
  exact congrArg some (if_neg Bool.false_ne_true)

section
variable (stands : s.dev.copy cp = some c) (active : c.active = true) (sent : c.deliveries.lookup ws = some (.sent y))
include stands active sent

/-- A delivery that is on its way is settled by the answer of the member's scratchpad: as accepted. -/
theorem mcastDelivery_accepted {k : Nat} {t : Option Nat} (timely : s.dev.clock.toNat - c.sentAt ≤ 13600)
    (accepts : (St.of s).mcastAccept c y (ws == 0) = some (k, t)) (counted : Bool)
    (is_counted : t.all (fun t => c.fills.contains (k, t)) = counted) :
    (St.of s).mcastDelivery cp ws = some ((St.of s).withD fun d => (if counted then d else d.nfillUp k (t.getD 0)).setCopy { c with
      deliveries := c.deliveries.put ws (.accepted k)
      fills := if counted then c.fills else c.fills ++ [(k, t.getD 0)] }) := by
  subst is_counted
  have in_time : (St.of s).late c = false := decide_eq_false (Nat.not_lt.mpr timely)
  simp only [St.mcastDelivery, St.of_d, stands, active, sent, in_time, Bool.false_eq_true, if_false, accepts]
  cases t with
  | none => rfl
  | some t => rfl

/-- One that is late, or that the scratchpad refuses, has missed (R217, R372). -/
theorem mcastDelivery_missed (refused : (St.of s).mcastAccept c y (ws == 0) = none ∨ 13600 < s.dev.clock.toNat - c.sentAt) :
    (St.of s).mcastDelivery cp ws = some ((St.of s).withD (·.setCopy { c with deliveries := c.deliveries.put ws .missed })) := by
  have unanswered : (if (St.of s).late c then none else (St.of s).mcastAccept c y (ws == 0)) = none := by
    rcases refused with refuses | late
    · rw [refuses, ite_self]
    · exact if_pos (decide_eq_true late)
  simp only [St.mcastDelivery, St.of_d, stands, active, sent, unanswered]

end

/-- A copy that has landed everywhere without an error completes with its report (R219, R220). -/
theorem copyComplete_becomes (stands : s.dev.copy cp = some c) (landed : c.landed = true) (unchained : c.chained = false)
    (incomplete : s.dev.opDone c.uid c.op = false) (no_error : c.err = none) (none_missed : ∀ e ∈ c.deliveries, e.2 ≠ .missed) :
    Becomes (.copyComplete cp) s (((s.dev.setCopy c).reportCopy c true).updOp c.uid c.op (fun o => { o with done := true, err := none })) := by
  have reached : c.deliveries.filter (fun e => e.2 == .missed) = [] :=
    List.filter_eq_nil_iff.mpr fun e he => by simpa using none_missed e he
  have unchanged : ({ c with err := none } : Copy) = c := by rw [← no_error]
  refine becomes_of_change (exec_copyComplete cp s)
    (fun d => ((d.setCopy c).reportCopy c true).updOp c.uid c.op (fun o => { o with done := true, err := none })) ?_
  simp only [St.copyComplete, St.of_d, stands]
  refine (if_neg (by simp [landed, unchained, incomplete])).trans ?_
  simp only [reached, List.foldl_nil, ne_eq, not_true_eq_false, decide_false, Bool.false_and, Bool.false_eq_true, if_false, no_error, unchanged]

end

/-! ### The matrix unit (R373 to R378) -/

section
variable {s : State} {core tile : Nat} {m : MatOp}

/-- A chained command starts at the head of its tiles when its copy has landed and every tile is ready; the tiles are read by it (R218, R373). -/
theorem chainedCommandStart_becomes {c : Copy} {ts : List (Nat × Nat × Nat)}
    (next : s.dev.mats.find? (fun m => m.core == core && m.on tile && !m.ended) = some m) (chain : m.chain.bind s.dev.copy = some c)
    (waits : m.go = false) (landed : c.landed = true) (head : s.dev.atHead m = true) (running : s.dev.stopped = false)
    (tiles : (St.of s).matTiles m = some ts) (ready : ∀ t ∈ ts, t.2.2 = 2) :
    Becomes (.chainedCommandStart core tile) s ((ts.foldl (fun d t => d.updTile t.1 t.2.1 (fun x => { x with nrd := x.nrd + 1 })) s.dev).setMat
      { m with go := true, reads := ts.map (fun t => (t.1, t.2.1)) }) := by
  have usable : ts.any (fun t => t.2.2 == 0 || t.2.2 == 3) = false := List.any_eq_false.mpr fun t ht => by simp [ready t ht]
  have filled : ts.any (fun t => t.2.2 == 1) = false := List.any_eq_false.mpr fun t ht => by simp [ready t ht]
  refine becomes_of_change (exec_chainedCommandStart core tile s) (fun d =>
    (ts.foldl (fun d t => d.updTile t.1 t.2.1 (fun x => { x with nrd := x.nrd + 1 })) d).setMat
      { m with go := true, reads := ts.map (fun t => (t.1, t.2.1)) }) ?_
  simp only [St.chainedStart, St.of_d, next, chain]
  refine (if_neg (by simp [waits, landed, head, running])).trans ?_
  simp only [tiles, usable, filled, Bool.false_eq_true, if_false]

/-- The unit starts its oldest operation that can start when the array is free for it (R374, R376). -/
theorem matrixOpStart_becomes (running : s.dev.stopped = false)
    (free : ∀ m ∈ s.dev.mats, m.core = core → m.started = true → m.ended = true ∨ m.start + m.kc ≤ s.dev.clock.toNat)
    (unstalled : (St.of s).arrayStalled core = false)
    (oldest : (s.dev.mats.filter (·.core == core)).find? (fun m => !m.started && !m.ended && m.go && s.dev.atHead m &&
      (m.selfFed || (s.dev.acked m.uid m.need && s.dev.bound m.uid m.op))) = some m) :
    Becomes (.matrixOpStart core) s (s.dev.setMat { m with started := true, start := s.dev.clock.toNat, r0 := m.row }) := by
  have idle : (s.dev.mats.filter (·.core == core)).any (fun m => m.started && !m.ended && s.dev.clock.toNat < m.start + m.kc) = false := by
    refine List.any_eq_false.mpr fun n hn => ?_
    obtain ⟨mem, on_core⟩ := List.mem_filter.mp hn
    have past : n.started = true → n.ended = false → n.start + n.kc ≤ s.dev.clock.toNat := fun started going =>
      (free n mem (beq_iff_eq.mp on_core) started).resolve_left (by simp [going])
    simpa using past
  refine becomes_of_change (exec_matrixOpStart core s) (·.setMat { m with started := true, start := s.dev.clock.toNat, r0 := m.row }) ?_
  refine (if_neg ?_).trans ?_
  · rw [Bool.not_eq_true]
    exact Bool.or_eq_false_iff.mpr ⟨Bool.or_eq_false_iff.mpr ⟨running, idle⟩, unstalled⟩
  · simp only [St.of_d, oldest]

section
variable (next : s.dev.mats.find? (fun m => m.core == core && m.on tile && m.started && !m.ended) = some m)
  (due : m.due s.dev.clock.toNat = true) (running : s.dev.stopped = false) (sound : s.dev.rowBad m = false)
  (unstalled : (St.of s).arrayStalled core = false)
include next due running sound unstalled

/-- The next row of an operation that changes its tile commits (R231 to R235, R377). -/
theorem rowCommit_row {es : List (Nat × Nat × Nat)} (not_accrd : m.kind ≠ 4) (not_accst : m.kind ≠ 7)
    (row : (St.of s).rowNew m m.row = .ok es) :
    Writes (.rowCommit core tile) s (let u := (es.foldl (fun u e => u.wrN e.1 e.2.1 e.2.2) (St.of s)).withD fun d => { d with
        badAcc := d.badAcc.filter (fun a => !es.any (fun e => e.1 ≤ a && a < e.1 + e.2.1)) }
      let u := u.unitsTouch m (if m.kind = 6 then rowPipe m.row else 0) (m.aRow m.row)
      (if m.kind ≤ 1 && m.row = m.r0 then ((List.range m.k).map m.bRow).foldl (fun u r => u.unitsTouch m 1 r) u else u).rowDone m) := by
  refine writes_of_event (exec_rowCommit core tile s) ?_
  simp only [St.rowCommit, St.of_d, next]
  refine (if_neg (by simp [due, running, sound, unstalled])).trans ((if_neg not_accst).trans ((if_neg not_accrd).trans ?_))
  simp only [row]

/-- The row of an `ACCRD` goes to the results of its operation (R235). -/
theorem rowCommit_accrd (accrd : m.kind = 4) :
    Writes (.rowCommit core tile) s (((St.of s).withD (·.updOp m.uid m.op (fun o => { o with vals := (St.of s).readOut m }))).rowDone m) := by
  refine writes_of_event (exec_rowCommit core tile s) ?_
  simp only [St.rowCommit, St.of_d, next]
  exact (if_neg (by simp [due, running, sound, unstalled])).trans ((if_neg (by simp [accrd])).trans (if_pos accrd))

/-- The row of an `ACCST` is stored (R235, R375). -/
theorem rowCommit_accst {ws : List (Place × Nat × Nat)} (accst : m.kind = 7) (stores : (St.of s).rowStores m m.row = .ok ws) :
    Writes (.rowCommit core tile) s (let u := ((St.of s).storeAll core ws).withD (·.updWave m.uid (·.landWrite m.op (some false)))
      let u := (linesIn (m.stRow m.row) 512).foldl (fun u va => match u.unitAt m (rowPipe m.row) (va % 2 ^ 64) .write with
        | .ok p => u.keepPipe m (rowPipe m.row) (va % 2 ^ 64) p
        | .error _ => u) u
      let t := ws.foldl (fun (t : Tab Nat × St) w => t.2.markWrote t.1 (w.1.key t.2.d) 16) (m.wrote, u)
      t.2.rowDone { m with wrote := t.1 }) := by
  refine writes_of_event (exec_rowCommit core tile s) ?_
  simp only [St.rowCommit, St.of_d, next]
  refine (if_neg (by simp [due, running, sound, unstalled])).trans ((if_pos accst).trans ?_)
  simp only [stores] <;> rfl

end

/-- A line or a page that the next row meets ends an operation of no copy with the row's error (R236, R378). -/
theorem matrixLoadError_becomes {kind : BitVec 8} {e : RowErr}
    (next : s.dev.mats.find? (fun m => m.core == core && m.on tile && m.started && !m.ended) = some m) (unchained : m.chain = none)
    (meets : (St.of s).rowErr m = some e) (of_kind : e.kind = kind.toNat) :
    Becomes (.matrixLoadError core tile kind) s (s.dev.matEnd m (some { mkDetail kind (BitVec.ofNat 12 (0x680 + m.kind)) (BitVec.ofNat 64 e.va) with
      v3 := BitVec.ofNat 64 (m.tile - (s.dev.block m.blk).accB + 2 ^ 8 * m.row) })) := by
  refine becomes_of_change (exec_matrixLoadError core tile kind s) (·.matEnd m (some
    { mkDetail kind (BitVec.ofNat 12 (0x680 + m.kind)) (BitVec.ofNat 64 e.va) with
      v3 := BitVec.ofNat 64 (m.tile - (s.dev.block m.blk).accB + 2 ^ 8 * m.row) })) ?_
  simp only [St.matError, St.of_d, next, meets]
  refine (if_neg (not_not.mpr of_kind)).trans ?_
  simp only [unchained, Option.bind_none, BitVec.ofNat_toNat, BitVec.setWidth_eq]

end

/-! ### The events -/

/-- Settles O52: under its premises each event of the engines is enabled, and what its meaning then comes to is what the statement says. -/
theorem engineEventsHappen : Obligations.EngineEventsHappen := by
  unfold Obligations.EngineEventsHappen
  refine ⟨?activates, ?lands, ?cpy, ?dev, ?resolved, ?unresolved, ?acceptedCounted, ?acceptedTile, ?missed, ?timedOut, ?completes, ?chained, ?starts,
    ?row, ?accrd, ?accst, ?rowDone, ?loadError⟩
  case activates => exact fun core s c running room oldest acknowledged bound => copyActivate_becomes running room oldest acknowledged bound
  case lands =>
    intro cp s c x sr ds stands active unwalked running more settled index indexed source dest
    exact segmentLanded_writes stands active unwalked running more settled index indexed source dest
  case cpy => exact fun u c sr ds v cpy read => segmentDo_cpy cpy read
  case dev => exact fun u c ds dva n v pa pte t located writable tile => segmentAt_dev located writable tile
  case resolved =>
    intro cp ok s c stands walks resolved
    subst resolved
    exact engineWalkFailure_resolved stands walks
  case unresolved =>
    intro cp ok s c va stands walk failed
    subst failed
    exact engineWalkFailure_fails stands walk
  case acceptedCounted =>
    intro cp ws s c y k stands active sent timely accepts
    exact becomes_of_change (exec_mcastDelivery cp ws s) (·.setCopy { c with deliveries := c.deliveries.put ws (.accepted k) })
      (mcastDelivery_accepted stands active sent timely accepts true rfl)
  case acceptedTile =>
    intro cp ws s c y k t stands active sent timely accepts uncounted
    exact becomes_of_change (exec_mcastDelivery cp ws s)
      (fun d => (d.nfillUp k t).setCopy { c with deliveries := c.deliveries.put ws (.accepted k), fills := c.fills ++ [(k, t)] })
      (mcastDelivery_accepted stands active sent timely accepts false uncounted)
  case missed =>
    intro cp ws s c y stands active sent refused
    exact becomes_of_change (exec_mcastDelivery cp ws s) _ (mcastDelivery_missed stands active sent refused)
  case timedOut =>
    intro cp ws s c y stands active sent late
    have is_late : ((St.of s).d.copy cp).any (St.of s).late = true := by
      rw [St.of_d, stands]
      exact decide_eq_true late
    exact becomes_of_change (exec_mcastDeliveryTimeout cp ws s) _
      ((if_pos is_late).trans (mcastDelivery_missed stands active sent (.inr late)))
  case completes =>
    intro cp s c stands landed unchained incomplete no_error none_missed
    exact copyComplete_becomes stands landed unchained incomplete no_error none_missed
  case chained =>
    intro core tile s m c ts next chain waits landed head running tiles ready
    exact chainedCommandStart_becomes next chain waits landed head running tiles ready
  case starts => exact fun core s m running free unstalled oldest => matrixOpStart_becomes running free unstalled oldest
  case row =>
    intro core tile s m es next due running sound unstalled not_accrd not_accst row
    exact rowCommit_row next due running sound unstalled not_accrd not_accst row
  case accrd => exact fun core tile s m next due running sound unstalled accrd => rowCommit_accrd next due running sound unstalled accrd
  case accst =>
    intro core tile s m ws next due running sound unstalled accst stores
    exact rowCommit_accst next due running sound unstalled accst stores
  case rowDone => exact fun u m => rfl
  case loadError => exact fun core tile kind s m e next unchained meets of_kind => matrixLoadError_becomes next unchained meets of_kind

end Sys2Proof.Machine
end
